-- ==== Sys2Proof/Word.lean ====
section
/-!
DEFINITION. Word.lean: the word types of the machine (spec 00 R1, 01 R2: 64-bit scalar words, 32-bit lanes, bytes).
Only the types and their plainest readings stand here; every bit-field helper a test could show wrong is in
Sys2Proof/Machine/Bits.lean, where a repair may mend it.
-/
namespace Sys2Proof

/-- A scalar register, an address or a special register: 64 bits. -/
abbrev Word := BitVec 64

/-- A vector lane, a bundle word or a format-table entry: 32 bits. -/
abbrev W32 := BitVec 32

/-- One byte of memory. -/
abbrev Byte := BitVec 8

end Sys2Proof
end

