-- ==== Sys2Proof/Machine/Bits.lean ====
section
/-!
DEFINITION. Machine/Bits.lean: bit fields, sign extension and byte order (00 R2: little-endian, bit 0 least significant).
-/
namespace Sys2Proof.Machine

/-- Bits `hi` to `lo` of a number. -/
def nbits (x hi lo : Nat) : Nat := x / 2 ^ lo % 2 ^ (hi + 1 - lo)

/-- Bits `hi` to `lo` of a vector of bits, as a number. -/
def fld {w : Nat} (x : BitVec w) (hi lo : Nat) : Nat := nbits x.toNat hi lo

/-- Bit `i`. -/
def bitAt {w : Nat} (x : BitVec w) (i : Nat) : Bool := x.getLsbD i

/-- The low `k` bits of a number read as a signed integer. -/
def sgn (k x : Nat) : Int := if x % 2 ^ k < 2 ^ (k - 1) then (x % 2 ^ k : Int) else (x % 2 ^ k : Int) - 2 ^ k

/-- The word with bits `hi` to `lo` replaced by the low bits of `v`. -/
def setFld {w : Nat} (x : BitVec w) (hi lo v : Nat) : BitVec w :=
  let k := hi + 1 - lo
  BitVec.ofNat w (x.toNat - nbits x.toNat hi lo * 2 ^ lo + v % 2 ^ k * 2 ^ lo)

/-- A number from its bytes, lowest address first. -/
def leNat : List Byte → Nat
  | [] => 0
  | b :: r => b.toNat + 256 * leNat r

/-- The low `n` bytes of a number, lowest address first. -/
def leBytes : Nat → Nat → List Byte
  | 0, _ => []
  | n + 1, x => BitVec.ofNat 8 x :: leBytes n (x / 256)

/-- A number of `k` bytes at an offset. -/
def leAt (b : List Byte) (o k : Nat) : Nat := leNat ((b.drop o).take k)

/-- Sign extension of the low `k` bits to a word. -/
def sextW (k x : Nat) : Word := BitVec.ofInt 64 (sgn k x)

/-- A number as a word. -/
def wd (x : Nat) : Word := BitVec.ofNat 64 x

/-- One or zero. -/
def b2n (b : Bool) : Nat := if b then 1 else 0

/-- Quotient rounded up. -/
def cdiv (a b : Nat) : Nat := (a + b - 1) / b

/-- Number of one bits of the low `k` bits. -/
def popN : Nat → Nat → Nat
  | 0, _ => 0
  | k + 1, x => x % 2 + popN k (x / 2)

/-- Zero bits below the lowest one bit of the low `k` bits (`k` when there is none). -/
def ctzN : Nat → Nat → Nat
  | 0, _ => 0
  | k + 1, x => if x % 2 = 1 then 0 else 1 + ctzN k (x / 2)

/-- Zero bits above the highest one bit of the low `k` bits (`k` when there is none). -/
def clzN (k x : Nat) : Nat := if x % 2 ^ k = 0 then k else k - 1 - Nat.log2 (x % 2 ^ k)

/-- The low `k` bits in the opposite order. -/
def brevN : Nat → Nat → Nat
  | 0, _ => 0
  | k + 1, x => x % 2 * 2 ^ k + brevN k (x / 2)

/-- The element at an index of a list, or a default. -/
def nth {α : Type} (d : α) : List α → Nat → α
  | [], _ => d
  | x :: _, 0 => x
  | _ :: r, k + 1 => nth d r k

/-- The list with the element at an index replaced. -/
def setNth {α : Type} : List α → Nat → α → List α
  | [], _, _ => []
  | _ :: r, 0, w => w :: r
  | x :: r, k + 1, w => x :: setNth r k w

/-- The first number below `n` that satisfies `p`, counting up from 0. -/
def firstBelow (n : Nat) (p : Nat → Bool) : Option Nat := (List.range n).find? p

/-- The number of the form `f 0 + f 1 + … + f (n − 1)`. -/
def sumTo (n : Nat) (f : Nat → Nat) : Nat := (List.range n).foldl (fun a i => a + f i) 0

/-- Bits of a predicate on positions, position 0 lowest. -/
def maskOf (n : Nat) (f : Nat → Bool) : Nat := sumTo n (fun i => if f i then 2 ^ i else 0)

end Sys2Proof.Machine
end

