-- ==== Sys2Proof/Machine/Numbers.lean ====
section
/-!
DEFINITION. Machine/Numbers.lean: formats, exact values, rounding, flags and generators (spec 02).

A value is exact: a sign, a magnitude `m × 2^e`, and a mark that says the true magnitude lies strictly between
`m × 2^e` and `(m + 1) × 2^e` (a quotient, a root or a transcendental carried to more bits than any rounding reads).
-/
namespace Sys2Proof.Machine

/-- The generator step (02 R27). -/
def xorshift32 (x : W32) : W32 :=
  let x := x ^^^ (x <<< 13)
  let x := x ^^^ (x >>> 17)
  x ^^^ (x <<< 5)

/-- The seeding finaliser (02 R27). -/
def fmix32 (h : W32) : W32 :=
  let h := (h ^^^ (h >>> 16)) * 0x85EBCA6B#32
  let h := (h ^^^ (h >>> 13)) * 0xC2B2AE35#32
  h ^^^ (h >>> 16)

/-- The state a generator is seeded with (02 R27). -/
def seedState (s : Word) (l : Nat) : W32 :=
  let h := fmix32 (s.setWidth 32 + BitVec.ofNat 32 l * 0x9E3779B9#32)
  if h = 0 then 1 else h

/-- A format-table entry, read (02 Table 2-1). -/
structure Fmt where
  ew : Nat
  mw : Nat
  bias : Nat
  spec : Nat
  subn : Bool
  sgnd : Bool
  scale : Bool
  resv : Nat
  deriving DecidableEq, Repr

/-- The fields of an entry (02 Table 2-1). -/
def fmtOf (w : W32) : Fmt :=
  { ew := fld w 3 0, mw := fld w 9 4, bias := fld w 21 10, spec := fld w 23 22, subn := bitAt w 24,
    sgnd := bitAt w 25, scale := bitAt w 26, resv := fld w 31 27 }

/-- The FP32 word (02 Table 2-3). -/
def fp32Word : W32 := 0x0301FD78#32
/-- The FP64 word (02 Table 2-3). -/
def fp64Word : W32 := 0x030FFF4B#32
/-- FP32. -/
def fp32 : Fmt := fmtOf fp32Word
/-- FP64. -/
def fp64 : Fmt := fmtOf fp64Word

/-- The reset word of entry `i` (02 R18, Table 2-3). -/
def ftabReset (i : Nat) : W32 :=
  match i with
  | 1 => 0x0301FC78#32 | 2 => 0x03003CA5#32 | 3 => 0x03401C34#32 | 4 => 0x03003C25#32
  | 5 => 0x03800C23#32 | 6 => 0x03800432#32 | 7 => 0x03800412#32 | 8 => 0x02C00070#32
  | 9 => 0x02C00030#32 | 10 => 0x030FFF4B#32 | 11 => 0x0441FC08#32 | _ => fp32Word

/-- Legality of an entry (02 R16, Table 2-2). -/
def fmtLegal (f : Fmt) : Bool :=
  decide (f.resv = 0) && decide (f.ew ≤ 11) && decide (f.mw ≤ 52) &&
  (if f.spec = 3 then
    decide (f.ew = 0) && decide (f.bias = 0) && !f.subn && !f.scale && decide (1 ≤ f.mw)
  else
    decide (1 ≤ f.ew) && decide (b2n f.sgnd + f.ew + f.mw ≤ 64) && decide (f.bias ≤ 2 ^ f.ew - 1)) &&
  (f.spec != 0 || (decide (2 ≤ f.ew) && decide (1 ≤ f.mw) && !f.scale)) &&
  (f.spec != 1 || f.scale || decide (1 ≤ f.mw)) &&
  (!f.scale || ((f.spec == 1 || f.spec == 2) && decide (f.mw = 0) && !f.sgnd && !f.subn))

/-- Legal where a number is read or written (02 R16). -/
def elemLegal (f : Fmt) : Bool := fmtLegal f && !f.scale
/-- Legal as a scale format (02 R16). -/
def scaleLegal (f : Fmt) : Bool := fmtLegal f && f.scale

/-- Element width in bits (02 R19). -/
def Fmt.width (f : Fmt) : Nat := b2n f.sgnd + f.ew + f.mw
/-- Container width in bits (02 R19). -/
def Fmt.cont (f : Fmt) : Nat :=
  let w := f.width
  if w ≤ 4 then 4 else if w ≤ 6 then 6 else if w ≤ 8 then 8 else if w ≤ 16 then 16 else if w ≤ 32 then 32 else 64
/-- Least normal exponent (02 R20). -/
def Fmt.emin (f : Fmt) : Int := 1 - (f.bias : Int)
/-- Largest exponent (02 Table 2-4; 02 Table 2-9 gives 0 for an MX integer format). -/
def Fmt.emax (f : Fmt) : Int :=
  if f.spec = 3 then 0
  else if f.spec = 0 ∨ (f.spec = 1 ∧ f.scale) then 2 ^ f.ew - 2 - (f.bias : Int)
  else 2 ^ f.ew - 1 - (f.bias : Int)

/-- A number as the device computes with it. -/
inductive Num where
  | nan
  | inf (neg : Bool)
  | fin (neg : Bool) (m : Nat) (e : Int) (st : Bool)
  deriving DecidableEq, Repr

/-- Exact zero of a sign. -/
def Num.zero (neg : Bool) : Num := .fin neg 0 0 false
/-- Exact integer. -/
def Num.ofInt (i : Int) : Num := .fin (decide (i < 0)) i.natAbs 0 false
/-- A finite zero. -/
def Num.isZero : Num → Bool
  | .fin _ m _ st => decide (m = 0) && !st
  | _ => false
/-- The sign. -/
def Num.neg? : Num → Bool
  | .nan => false | .inf n => n | .fin n _ _ _ => n
/-- The value with the sign inverted. -/
def Num.negate : Num → Num
  | .nan => .nan | .inf n => .inf (!n) | .fin n m e st => .fin (!n) m e st
/-- The magnitude. -/
def Num.abs : Num → Num
  | .nan => .nan | .inf _ => .inf false | .fin _ m e st => .fin false m e st

/-- Value of an encoding (02 R20, R21). -/
def decodeF (f : Fmt) (x : Nat) : Num :=
  let x := x % 2 ^ f.width
  if f.spec = 3 then
    if f.sgnd then .ofInt (sgn f.width x) else .fin false x 0 false
  else
    let s := f.sgnd && decide (2 ^ (f.width - 1) ≤ x)
    let ee := x / 2 ^ f.mw % 2 ^ f.ew
    let mm := x % 2 ^ f.mw
    let top := decide (ee = 2 ^ f.ew - 1)
    if f.scale then
      if f.spec = 1 ∧ top then .nan else .fin false 1 (ee - f.bias) false
    else if f.spec = 0 ∧ top then (if mm = 0 then .inf s else .nan)
    else if f.spec = 1 ∧ top ∧ mm = 2 ^ f.mw - 1 then .nan
    else if ee = 0 then (if f.subn then .fin s mm (f.emin - f.mw) false else .zero s)
    else .fin s (2 ^ f.mw + mm) (ee - f.bias - f.mw) false

/-- The flags, IV DZ OF UF NX from the high bit down (02 R30). -/
abbrev Flags5 := BitVec 5
def flNone : Flags5 := 0#5
def flNX : Flags5 := 1#5
def flUF : Flags5 := 2#5
def flOF : Flags5 := 4#5
def flDZ : Flags5 := 8#5
def flIV : Flags5 := 16#5

/-- Encoding of the canonical NaN (02 Table 2-4). -/
def nanBits (f : Fmt) : Nat :=
  if f.spec = 0 then (2 ^ f.ew - 1) * 2 ^ f.mw + 2 ^ (f.mw - 1) else 2 ^ (f.ew + f.mw) - 1
/-- Encoding of an infinity of an IEEE format. -/
def infBits (f : Fmt) (neg : Bool) : Nat := b2n neg * 2 ^ (f.ew + f.mw) + (2 ^ f.ew - 1) * 2 ^ f.mw
/-- Encoding of the largest finite magnitude of a float format (02 Table 2-4). -/
def maxBits (f : Fmt) (neg : Bool) : Nat :=
  b2n neg * 2 ^ (f.ew + f.mw) +
  (if f.spec = 0 then (2 ^ f.ew - 1) * 2 ^ f.mw - 1 else if f.spec = 1 then 2 ^ (f.ew + f.mw) - 2
   else 2 ^ (f.ew + f.mw) - 1)
/-- Largest and least integer of an INT format (02 Table 2-4). -/
def intMax (f : Fmt) : Int := if f.sgnd then 2 ^ (f.width - 1) - 1 else 2 ^ f.width - 1
def intMin (f : Fmt) : Int := if f.sgnd then -(2 ^ (f.width - 1)) else 0

/-- A magnitude `m × 2^e` split on the grid `2^q`: grid count below, the 64 bits below the grid, whether anything is
left below those. -/
def splitAt (m : Nat) (e q : Int) (st : Bool) : Nat × Nat × Bool :=
  if q ≤ e then (m * 2 ^ (e - q).toNat, 0, st)
  else
    let k := (q - e).toNat
    let d := m / 2 ^ k
    let r := m % 2 ^ k
    let y := r * 2 ^ 64
    (d, y / 2 ^ k, decide (y % 2 ^ k ≠ 0) || st)

/-- Is the upper neighbour chosen (02 R24, R26)? `d` the count below, `fr` and `rest` the fraction, `tieDown` the two
cases of R24 where a tie goes to the smaller magnitude, `g` the stepped generator. -/
def pickUp (mode : Nat) (neg : Bool) (d fr : Nat) (rest tieDown : Bool) (g : W32) : Bool :=
  let inexact := decide (fr ≠ 0) || rest
  match mode with
  | 0 => decide (2 ^ 63 < fr) || (decide (fr = 2 ^ 63) && (rest || (!tieDown && decide (d % 2 = 1))))
  | 1 => false
  | 2 => inexact && !neg
  | 3 => inexact && neg
  | _ => decide (g.toNat < fr / 2 ^ 32)

/-- A finite magnitude rounded to a format's grid (02 R24): grid count, grid exponent, inexact, tiny. -/
def roundGrid (f : Fmt) (neg : Bool) (m : Nat) (e : Int) (st : Bool) (mode : Nat) (g : W32) :
    Nat × Int × Bool × Bool :=
  let lg : Int := (Nat.log2 m : Int) + e
  let tiny := decide (m ≠ 0 ∧ lg < f.emin) && decide (f.spec ≠ 3)
  if f.spec = 3 then
    let (d, fr, rest) := splitAt m e 0 st
    (if pickUp mode neg d fr rest false g then d + 1 else d, 0, decide (fr ≠ 0) || rest, false)
  else if tiny && !f.subn then
    let (d, fr, rest) := splitAt m e f.emin st
    (if pickUp mode neg d fr rest true g then 2 ^ f.mw else 0, f.emin - f.mw, decide (fr ≠ 0) || rest, true)
  else
    let q := (if lg < f.emin then f.emin else lg) - f.mw
    let (d, fr, rest) := splitAt m e q st
    (if pickUp mode neg d fr rest (decide (f.mw = 0)) g then d + 1 else d, q, decide (fr ≠ 0) || rest, tiny)

/-- Encoding of grid count `n` at exponent `q` in a float format, once it is known not to exceed the largest. -/
def packBits (f : Fmt) (neg : Bool) (n : Nat) (q : Int) : Nat :=
  let s := b2n (neg && f.sgnd) * 2 ^ (f.ew + f.mw)
  if n = 0 then s
  else
    let (n, q) := if 2 ^ (f.mw + 1) ≤ n then (n / 2, q + 1) else (n, q)
    if n < 2 ^ f.mw then s + n
    else s + (q + f.mw + f.bias).toNat * 2 ^ f.mw + (n - 2 ^ f.mw)

/-- Does `n × 2^q` exceed the largest finite magnitude of a float format (02 R25)? -/
def exceeds (f : Fmt) (n : Nat) (q : Int) : Bool :=
  let mm := if f.scale then 1 else if f.spec = 1 then 2 ^ (f.mw + 1) - 2 else 2 ^ (f.mw + 1) - 1
  let me : Int := if f.scale then f.emax else f.emax - f.mw
  let b := if q < me then q else me
  decide (mm * 2 ^ (me - b).toNat < n * 2 ^ (q - b).toNat)

/-- Encoding of an exact value in a format with its flags and the generator after it (02 R24–R26, R29). -/
def encodeF (f : Fmt) (x : Num) (mode : Nat) (g : W32) : Nat × Flags5 × W32 :=
  let g := if mode = 4 then xorshift32 g else g
  match x with
  | .nan => if f.spec = 3 then (0, flIV, g) else if f.spec = 2 then (maxBits f false, flIV, g)
            else (nanBits f, flNone, g)
  | .inf n =>
    if f.spec = 3 then ((if n then intMin f else intMax f).toNat % 2 ^ f.width +
        (if n && f.sgnd then 2 ^ (f.width - 1) else 0), flIV, g)
    else if n && !f.sgnd then (0, flIV, g)
    else if f.spec = 0 then (infBits f n, flNone, g)
    else (maxBits f n, flOF, g)
  | .fin n m e st =>
    if m = 0 ∧ st = false then
      (if f.spec = 3 then 0 else packBits f n 0 0, flNone, g)
    else
      let (k, q, inx, tiny) := roundGrid f n m e st mode g
      if f.spec = 3 then
        let v : Int := if n then -(k : Int) else k
        if intMax f < v then ((intMax f).toNat, flIV, g)
        else if v < intMin f then ((if f.sgnd then 2 ^ (f.width - 1) else 0), flIV, g)
        else ((if v < 0 then 2 ^ f.width - k else k), if inx then flNX else flNone, g)
      else if n && !f.sgnd then
        if k ≠ 0 then (0, flIV, g)
        else (0, (if inx && tiny then flUF else flNone) ||| (if inx then flNX else flNone), g)
      else if exceeds f k q then
        let toInf := decide (f.spec = 0) && (match mode with | 1 => false | 2 => !n | 3 => n | _ => true)
        (if toInf then infBits f n else maxBits f n, flOF ||| flNX, g)
      else
        (packBits f n k q, (if inx && tiny then flUF else flNone) ||| (if inx then flNX else flNone), g)

/-- Round to nearest even, no generator. -/
def rneF (f : Fmt) (x : Num) : Nat × Flags5 :=
  let r := encodeF f x 0 0
  (r.1, r.2.1)

/-- Signed integer of a finite exact value at exponent `b` (`b` at most its own). -/
def fixAt (n : Bool) (m : Nat) (e b : Int) : Int :=
  let v : Int := m * 2 ^ (e - b).toNat
  if n then -v else v

/-- Exact sum; `rdn` is true when rounding is toward −∞, which gives an exact zero of opposite signs the sign −. -/
def addN (x y : Num) (rdn : Bool) : Num × Flags5 :=
  match x, y with
  | .nan, _ => (.nan, flNone)
  | _, .nan => (.nan, flNone)
  | .inf a, .inf b => if a = b then (.inf a, flNone) else (.nan, flIV)
  | .inf a, _ => (.inf a, flNone)
  | _, .inf b => (.inf b, flNone)
  | .fin a m e _, .fin b k h _ =>
    if m = 0 ∧ k = 0 then (.zero (if a = b then a else rdn), flNone)
    else
      let c := if e < h then e else h
      let v := fixAt a m e c + fixAt b k h c
      if v = 0 then (.zero rdn, flNone) else (.fin (decide (v < 0)) v.natAbs c false, flNone)

/-- Exact product. -/
def mulN (x y : Num) : Num × Flags5 :=
  match x, y with
  | .nan, _ => (.nan, flNone)
  | _, .nan => (.nan, flNone)
  | .inf a, y => if y.isZero then (.nan, flIV) else (.inf (a != y.neg?), flNone)
  | x, .inf b => if x.isZero then (.nan, flIV) else (.inf (x.neg? != b), flNone)
  | .fin a m e _, .fin b k h _ => (.fin (a != b) (m * k) (if m * k = 0 then 0 else e + h) false, flNone)

/-- Quotient, carried far enough for every rounding. -/
def divN (x y : Num) : Num × Flags5 :=
  match x, y with
  | .nan, _ => (.nan, flNone)
  | _, .nan => (.nan, flNone)
  | .inf _, .inf _ => (.nan, flIV)
  | .inf a, y => (.inf (a != y.neg?), flNone)
  | x, .inf b => (.zero (x.neg? != b), flNone)
  | .fin a m e _, .fin b k h _ =>
    if k = 0 then (if m = 0 then (.nan, flIV) else (.inf (a != b), flDZ))
    else if m = 0 then (.zero (a != b), flNone)
    else
      let sh := Nat.log2 k + 200
      let q := m * 2 ^ sh / k
      (.fin (a != b) q (e - h - sh) (decide (m * 2 ^ sh % k ≠ 0)), flNone)

/-- Integer square root by bits from `2^k` down. -/
def isqrtBits : Nat → Nat → Nat → Nat
  | 0, _, r => r
  | k + 1, x, r => isqrtBits k x (if (r + 2 ^ k) * (r + 2 ^ k) ≤ x then r + 2 ^ k else r)

/-- Integer square root. -/
def isqrt (x : Nat) : Nat := isqrtBits (Nat.log2 x / 2 + 1) x 0

/-- Square root, carried far enough for every rounding (02 R24, 05 R97). -/
def sqrtN (x : Num) : Num × Flags5 :=
  match x with
  | .nan => (.nan, flNone)
  | .inf n => if n then (.nan, flIV) else (.inf false, flNone)
  | .fin n m e _ =>
    if m = 0 then (.zero n, flNone)
    else if n then (.nan, flIV)
    else
      let m1 := if e % 2 = 0 then m else m * 2
      let e1 := if e % 2 = 0 then e else e - 1
      let y := m1 * 2 ^ 400
      let r := isqrt y
      (.fin false r (e1 / 2 - 200) (decide (r * r ≠ y)), flNone)

/-- Reciprocal square root: the root of the reciprocal, carried far enough (05 R97). -/
def rsqrtN (x : Num) : Num × Flags5 :=
  match x with
  | .nan => (.nan, flNone)
  | .inf n => if n then (.nan, flIV) else (.zero false, flNone)
  | .fin n m e _ =>
    if m = 0 then (.inf n, flDZ)
    else if n then (.nan, flIV)
    else
      let m1 := if e % 2 = 0 then m else m * 2
      let e1 := if e % 2 = 0 then e else e - 1
      -- 1/√m1 = √(2^(2k) / m1) / 2^k
      let k := Nat.log2 m1 + 200
      let y := 2 ^ (2 * k) / m1
      let r := isqrt y
      (.fin false r (-(e1 / 2) - k) (decide (r * r * m1 ≠ 2 ^ (2 * k))), flNone)

/-- Comparison of two values that are not NaN: −1, 0 or 1, with −0 equal to +0. -/
def cmpN (x y : Num) : Int :=
  match x, y with
  | .inf a, .inf b => if a = b then 0 else if a then -1 else 1
  | .inf a, _ => if a then -1 else 1
  | _, .inf b => if b then 1 else -1
  | .fin a m e _, .fin b k h _ =>
    let c := if e < h then e else h
    let u := fixAt a m e c
    let v := fixAt b k h c
    if u < v then -1 else if v < u then 1 else 0
  | _, _ => 0

/-- The value times a power of two. -/
def scaleN (x : Num) (k : Int) : Num :=
  match x with
  | .fin n m e st => .fin n m (if m = 0 then e else e + k) st
  | y => y

/-- floor(log2 |x|) of a finite non-zero value. -/
def log2N (x : Num) : Int :=
  match x with
  | .fin _ m e _ => (Nat.log2 m : Int) + e
  | _ => 0

end Sys2Proof.Machine
end

