-- ==== Sys2Proof/Machine/SMap.lean ====
section
/-!
DEFINITION. Machine/SMap.lean: finite maps from a number to a value as a list of pairs in one canonical form: keys
strictly rising and no pair equal to what an unlisted key reads as. Register files, memories and tables are such maps.
-/
namespace Sys2Proof.Machine

/-- A map from numbers: pairs with strictly rising keys. -/
abbrev SMap (α : Type) := List (Nat × α)

/-- The value at key `k`; `d` is what an unlisted key reads as. -/
def mget {α : Type} (d : α) : SMap α → Nat → α
  | [], _ => d
  | (j, v) :: r, k => if j = k then v else mget d r k

/-- The pair at key `k`, if listed. -/
def mfind? {α : Type} : SMap α → Nat → Option α
  | [], _ => none
  | (j, v) :: r, k => if j = k then some v else mfind? r k

/-- The map without key `k`. -/
def mdel {α : Type} : SMap α → Nat → SMap α
  | [], _ => []
  | (j, v) :: r, k => if j = k then mdel r k else (j, v) :: mdel r k

/-- The map with a pair put before the first larger key. -/
def mins {α : Type} : SMap α → Nat → α → SMap α
  | [], k, w => [(k, w)]
  | (j, v) :: r, k, w => if k < j then (k, w) :: (j, v) :: r else (j, v) :: mins r k w

/-- The map with key `k` at `w`, listed whatever `w` is. -/
def mput {α : Type} (m : SMap α) (k : Nat) (w : α) : SMap α := mins (mdel m k) k w

/-- The map with key `k` at `w`, where an unlisted `k` reads as `d`: the canonical form is kept. -/
def mset {α : Type} [DecidableEq α] (d : α) (m : SMap α) (k : Nat) (w : α) : SMap α :=
  if w = d then mdel m k else mput m k w

/-- Keys strictly rising. -/
def msorted {α : Type} : SMap α → Bool
  | [] => true
  | [_] => true
  | (j, _) :: (k, w) :: r => decide (j < k) && msorted ((k, w) :: r)

/-- The canonical form of a map whose unlisted keys read as `d`. -/
def mcanon {α : Type} [DecidableEq α] (d : α) (m : SMap α) : Bool :=
  msorted m && m.all (fun p => decide (p.2 ≠ d))

end Sys2Proof.Machine
end

