-- ==== Sys2Proof/Machine/Tiles.lean ====
section
/-!
DEFINITION. Machine/Tiles.lean: tile descriptors (09 R170–R172, 10 R187), the row-major and Z-order address generator,
elements at bit offsets, byte ranges.
-/
namespace Sys2Proof.Machine

/-- A tile descriptor, read (09 Table 9-2, 10 Table 10-1); `rows` and `cols` are counts. -/
structure TD where
  base : Nat
  rows : Nat
  cols : Nat
  pitch : Nat
  ord : Nat
  swap : Bool
  mx : Bool
  sfmt : Nat
  fmt : Nat
  sbase : Nat
  ssh : Nat
  virt : Bool
  row0 : Nat
  col0 : Nat
  resv : Nat
  deriving DecidableEq, Repr

def tdOf (d : BitVec 256) : TD :=
  { base := fld d 63 0, rows := fld d 79 64 + 1, cols := fld d 95 80 + 1, pitch := fld d 115 96, ord := fld d 117 116,
    swap := bitAt d 118, mx := bitAt d 119, sfmt := fld d 123 120, fmt := fld d 127 124, sbase := fld d 191 128,
    ssh := fld d 195 192, virt := bitAt d 223, row0 := fld d 239 224, col0 := fld d 255 240, resv := fld d 222 196 }

/-- A power of two of at least 4. -/
def isPow2From4 (n : Nat) : Bool := decide (4 ≤ n) && decide (2 ^ Nat.log2 n = n)

/-- Stored rows and columns (09 R171): exchanged by SWAP. -/
def TD.srows (t : TD) : Nat := if t.swap then t.cols else t.rows
def TD.scols (t : TD) : Nat := if t.swap then t.rows else t.cols

/-- Order and pitch rules (09 R171) for a container of `cs` bits. -/
def TD.shapeOk (t : TD) (cs : Nat) : Bool :=
  if t.ord = 0 then
    !t.swap && decide (cdiv (t.cols * cs) 8 ≤ t.pitch) && (decide (cs < 8) || decide (t.pitch % (cs / 8) = 0))
  else if t.ord = 1 then isPow2From4 t.rows && isPow2From4 t.cols
  else false

/-- Scale rules (09 R172): SFMT's entry is `w`. -/
def TD.scaleOk (t : TD) (w : W32) : Bool :=
  !t.mx || (scaleLegal (fmtOf w) && decide (cdiv t.scols 16 ≤ 2 ^ t.ssh))

/-- Bits interleaved from bit 0 up, `x` first; `a` bits of x and `b` of y remain, the rest of the longer one follows. -/
def interleave : Nat → Nat → Nat → Nat → Nat → Nat
  | 0, _, _, _, _ => 0
  | k + 1, a, b, x, y =>
    if a = 0 then y
    else if b = 0 then x
    else x % 2 + 2 * (y % 2) + 4 * interleave k (a - 1) (b - 1) (x / 2) (y / 2)

/-- Position of stored element (y, x) of a Z-order tile (09 R171). -/
def zIndex (srows scols y x : Nat) : Nat :=
  16 * interleave 16 (Nat.log2 scols - 2) (Nat.log2 srows - 2) (x / 4) (y / 4) + 4 * (y % 4) + x % 4

/-- Bit offset of presented element (i, j) from the byte at BASE (09 R171). -/
def TD.bitOff (t : TD) (cs i j : Nat) : Nat :=
  if t.ord = 0 then 8 * (i * t.pitch) + cs * j
  else if t.swap then cs * zIndex t.srows t.scols j i else cs * zIndex t.srows t.scols i j

/-- Offset of the scale byte of presented block (bi, bj) from SBASE (09 R172, 02 R36). -/
def TD.scaleOff (t : TD) (bi bj : Nat) : Nat :=
  if t.swap then bj * 2 ^ t.ssh + bi else bi * 2 ^ t.ssh + bj

/-- Bytes from BASE that the tile's elements lie in. -/
def TD.bytes (t : TD) (cs : Nat) : Nat :=
  if t.ord = 0 then (t.rows - 1) * t.pitch + cdiv (t.cols * cs) 8 else cdiv (t.rows * t.cols * cs) 8

/-- Bytes from SBASE that the scales lie in. -/
def TD.sbytes (t : TD) : Nat := (cdiv t.srows 16 - 1) * 2 ^ t.ssh + cdiv t.scols 16

/-- The byte runs of the elements: (offset from BASE, bytes). -/
def TD.runs (t : TD) (cs : Nat) : List (Nat × Nat) :=
  if t.ord = 0 then (List.range t.rows).map (fun i => (i * t.pitch, cdiv (t.cols * cs) 8))
  else [(0, cdiv (t.rows * t.cols * cs) 8)]

/-- The byte runs of the scales. -/
def TD.sruns (t : TD) : List (Nat × Nat) :=
  (List.range (cdiv t.srows 16)).map (fun i => (i * 2 ^ t.ssh, cdiv t.scols 16))

/-- `cs` bits at a bit offset, read through a reader of bytes. -/
def bitsAt (rd : Nat → Byte) (off cs : Nat) : Nat :=
  leNat ((List.range (cdiv (off % 8 + cs) 8)).map (fun k => rd (off / 8 + k))) / 2 ^ (off % 8) % 2 ^ cs

/-- Value of an element of an MX tensor before its scale (02 R34): an integer stands for integer × 2^−(MW−1). -/
def mxVal (f : Fmt) (x : Nat) : Num := if f.spec = 3 then scaleN (decodeF f x) (1 - (f.mw : Int)) else decodeF f x

/-- An element times its block's scale byte (02 R34). -/
def mxScaled (f : Fmt) (sc x : Nat) : Num := if sc = 255 then .nan else scaleN (mxVal f x) ((sc : Int) - 127)

/-- Exact value of presented element (i, j): plain, or scaled when MX = 1. `rd` and `rs` read bytes from BASE and
SBASE. -/
def TD.value (t : TD) (f : Fmt) (rd rs : Nat → Byte) (i j : Nat) : Num :=
  let x := bitsAt rd (t.bitOff f.cont i j) f.cont
  if t.mx then mxScaled f (rs (t.scaleOff (i / 16) (j / 16))).toNat x else decodeF f x

/-! ### Quantisation (02 R35) -/

/-- Largest exponent of an element format as R35 uses it (02 Table 2-9). -/
def mxEmax (f : Fmt) : Int := f.emax

/-- Scale byte of a block, and the flags of the choice. -/
def mxScale (f : Fmt) (xs : List Num) : Nat × Flags5 :=
  if xs.any (fun x => x = .nan) then (255, flIV)
  else if xs.any (fun x => match x with | .inf _ => true | _ => false) then (254, flNone)
  else
    let ys := xs.filter (fun x => !x.isZero)
    match ys with
    | [] => (0, flNone)
    | y :: r =>
      let e := r.foldl (fun m x => if m < log2N x then log2N x else m) (log2N y) - mxEmax f
      let e := if e < -127 then -127 else if 127 < e then 127 else e
      ((e + 127).toNat, flNone)

/-- Largest element magnitude of an INT element (02 R35): both signs alike. -/
def mxIntClamp (f : Fmt) (x : Nat) (fl : Flags5) : Nat × Flags5 :=
  if f.sgnd && decide (x = 2 ^ (f.width - 1)) then (2 ^ (f.width - 1) + 1, flOF ||| flNX) else (x, fl)

/-- One element of a block quantised: x × 2^−se rounded, saturating with OF (02 R35). `sc` is the scale byte. -/
def mxElem (f : Fmt) (sc : Nat) (x : Num) (mode : Nat) (g : W32) : Nat × Flags5 × W32 :=
  if sc = 255 then (0, flNone, if mode = 4 then xorshift32 g else g)
  else
    let y := scaleN x (127 - (sc : Int))
    if f.spec = 3 then
      let z := scaleN y ((f.mw : Int) - 1)
      let (b, fl, g) := encodeF f z mode g
      match z with
      | .fin n _ _ _ =>
        let fl := if fl &&& flIV ≠ 0 ∧ (f.sgnd || !n) = true then flOF ||| flNX else fl
        let (b, fl) := mxIntClamp f b fl
        (b, fl, g)
      | .inf n => if n && !f.sgnd then (b, fl, g) else ((mxIntClamp f b fl).1, flOF, g)
      | .nan => (b, fl, g)
    else
      let (b, fl, g) := encodeF f y mode g
      match y with
      | .fin n _ _ _ => if fl &&& flOF ≠ 0 then (maxBits f n, fl, g) else (b, fl, g)
      | _ => (b, fl, g)

/-! ### Bits to be written, gathered by 64-byte line -/

/-- Bits put at a bit offset, into lines: (line number, mask, value). -/
def putBits (off cs v : Nat) (m : SMap (Nat × Nat)) : SMap (Nat × Nat) :=
  let l := off / 512
  let r := off % 512
  let k := if r + cs ≤ 512 then cs else 512 - r
  let one := fun (m : SMap (Nat × Nat)) (l r k v : Nat) =>
    let o := mget (0, 0) m l
    let w := (2 ^ k - 1) * 2 ^ r
    let keep := o.2 - (o.2 &&& w)
    mput m l (o.1 ||| w, keep + v % 2 ^ k * 2 ^ r)
  let m := one m l r k v
  if k < cs then one m (l + 1) 0 (cs - k) (v / 2 ^ k) else m

end Sys2Proof.Machine
end

