-- ==== Sys2Proof/Machine/Accum.lean ====
section
/-!
DEFINITION. Machine/Accum.lean: exact accumulation of the weight array (02 R37, R38; 09 Table 9-1).
-/
namespace Sys2Proof.Machine

/-- A dyadic number: integer and exponent of two. -/
abbrev Dy := Int × Int

def dyAdd (x y : Dy) : Dy :=
  if x.1 = 0 then y
  else if y.1 = 0 then x
  else
    let c := if x.2 < y.2 then x.2 else y.2
    (x.1 * 2 ^ (x.2 - c).toNat + y.1 * 2 ^ (y.2 - c).toNat, c)

def dyOf : Num → Dy
  | .fin n m e _ => (if n then -(m : Int) else (m : Int), e)
  | _ => (0, 0)

/-- Accumulation class of two containers: the window, none for exact combination, and the accumulator format. -/
def accWindow (ca cb : Nat) : Option Nat :=
  let c := if ca < cb then cb else ca
  if c ≤ 8 then none else if c = 16 then some 64 else if c = 32 then some 96 else some 176
def accFmt (ca cb : Nat) : Fmt := if (if ca < cb then cb else ca) = 64 then fp64 else fp32
def accWord (ca cb : Nat) : W32 := if (if ca < cb then cb else ca) = 64 then fp64Word else fp32Word
/-- Class of a container. -/
def contClass (c : Nat) : Nat := if c ≤ 8 then 8 else c

/-- Sums of the 16-k sub-segments. -/
def subSums (ps : List Num) : List Dy :=
  (List.range (cdiv ps.length 16)).map (fun j => ((ps.drop (16 * j)).take 16).foldl (fun a p => dyAdd a (dyOf p)) (0, 0))

/-- The largest exponent of non-zero sums. -/
def topExp (ss : List Dy) : Option Int :=
  ss.foldl (fun (m : Option Int) (s : Dy) =>
    if s.1 = 0 then m
    else
      let e := (Nat.log2 s.1.natAbs : Int) + s.2
      match m with | none => some e | some x => some (if x < e then e else x)) none

/-- A term cut to the unit 2^u, toward −∞. -/
def cutTerm (u : Int) (s : Dy) : Int := if u ≤ s.2 then s.1 * 2 ^ (s.2 - u).toNat else s.1 / 2 ^ (u - s.2).toNat

/-- The segment sum (02 R37 items 1 to 3). -/
def segSum (win : Option Nat) (ps : List Num) : Dy :=
  let ss := subSums ps
  match win with
  | none => ss.foldl dyAdd (0, 0)
  | some w =>
    match topExp ss with
    | none => (0, 0)
    | some e =>
      let u := e - (w : Int) + 1
      (ss.foldl (fun a s => a + cutTerm u s) 0, u)

/-- One segment added to the accumulator (02 R37 item 4, R38): the new accumulator's bits and flags. -/
def accStep (acc : Fmt) (win : Option Nat) (c : Num) (pairs : List (Num × Num)) : Nat × Flags5 :=
  let pr := pairs.map (fun p => mulN p.1 p.2)
  let ps := pr.map Prod.fst
  let all := c :: ps
  let pos := all.any (fun x => decide (x = .inf false))
  let neg := all.any (fun x => decide (x = .inf true))
  if pr.any (fun p => decide (p.2 ≠ flNone)) || (pos && neg) then (nanBits acc, flIV)
  else if all.any (fun x => decide (x = .nan)) then (nanBits acc, flNone)
  else if pos || neg then rneF acc (.inf neg)
  else
    let t := dyAdd (segSum win ps) (dyOf c)
    if t.1 = 0 then rneF acc (.zero (c.isZero && c.neg? && ps.all (fun p => p.isZero && p.neg?)))
    else rneF acc (.fin (decide (t.1 < 0)) t.1.natAbs t.2 false)

/-- Segments in ascending k: the final bits and all flags. -/
def accSegs (acc : Fmt) (win : Option Nat) : List (List (Num × Num)) → Nat → Flags5 → Nat × Flags5
  | [], b, fl => (b, fl)
  | p :: r, b, fl =>
    let (b, f) := accStep acc win (decodeF acc b) p
    accSegs acc win r b (fl ||| f)

end Sys2Proof.Machine
end

