-- ==== Sys2Proof/Machine/Hash.lean ====
section
/-!
DEFINITION. Machine/Hash.lean: the finaliser and the line hash of 23 R372, and the CRC of 21 R343.
-/
namespace Sys2Proof.Machine

/-- The 64-bit finaliser (23 R372). -/
def fmix64 (h : Word) : Word :=
  let h := h ^^^ (h >>> 33)
  let h := h * 0xFF51AFD7ED558CCD#64
  let h := h ^^^ (h >>> 33)
  let h := h * 0xC4CEB9FE1A85EC53#64
  h ^^^ (h >>> 33)

/-- Words `i` and up of a line taken into the hash. -/
def hashWords : Nat → Nat → List Byte → Word → Word
  | 0, _, _, h => h
  | k + 1, i, bs, h => hashWords k (i + 1) (bs.drop 8) (fmix64 ((h ^^^ wd (leNat (bs.take 8))) + wd i))

/-- The hash of a line: its address and its 64 bytes (23 R372). -/
def lineHash (a : Nat) (v : List Byte) : Word := hashWords 8 0 v (fmix64 (wd a))

/-- One bit of CRC-32C, reflected. -/
def crcBit (c : Nat) : Nat := if c % 2 = 1 then (c / 2) ^^^ 0x82F63B78 else c / 2

/-- CRC-32C of bytes (21 R343). -/
def crc32c (bs : List Byte) : Nat :=
  (bs.foldl (fun c b => crcBit (crcBit (crcBit (crcBit (crcBit (crcBit (crcBit (crcBit (c ^^^ b.toNat)))))))))
    0xFFFFFFFF) ^^^ 0xFFFFFFFF

end Sys2Proof.Machine
end

