-- ==== Sys2Proof/Config.lean ====
section
/-!
DEFINITION. Config.lean: the values the spec leaves free, as constants without a body, and the figures the model takes
where the spec leaves a duration open. A free value is drawn with the counter of the state that counts draws, or with
the place it belongs to; nothing can be proved of it.
-/
namespace Sys2Proof.Config

/-- A choice the spec leaves open, by draw: a stale or a new code line (03 R59), a read-cache line kept or dropped
(13 R231), one of two orders. -/
opaque freeBool : Nat → Bool

/-- Is a line read new rather than old, by draw and line: one read may find each line it touches either way (07 R134, 09
R175). -/
opaque freeLine : Nat → Nat → Bool

/-- A number the spec leaves open, by draw. -/
opaque freeNat : Nat → Nat

/-- A word the spec leaves open, by draw. -/
opaque freeWord : Nat → Word

/-- A scratchpad byte after a dispatch that left the contents unspecified (16 R277): core, count of such dispatches,
buffer code, offset. -/
opaque freeSpad : Nat → Nat → Nat → Nat → Byte

/-- A byte of device memory whose contents the spec leaves open: draw and address. -/
opaque freeMem : Nat → Nat → Byte

/-- Flits a packet takes, by its destination and ESEQ (21 R343, R347 lay out no packet). -/
opaque pktFlits : Nat → Nat → Nat

/-- A byte of a packet: the packages it goes from and to, its number, the flit, the place in the payload (the same). -/
opaque pktByte : Nat → Nat → Nat → Nat → Nat → Byte

/-- Source and destination of a marker flit, by its payload, which no file lays out (21 R343, 13 R253). -/
opaque markRef : List Byte → Nat × Nat

/-- Bytes the part alone holds or draws: the fused owner hash, the seeds of its identity, its certificate and serial (25 R394, R400). -/
opaque secretBytes : Nat → List Byte → List Byte

/-- Teams and continuation records, beyond one for each compute core, for which a reserved part of so many MiB on every stack
has room (25 R398). -/
opaque rsvRoom : Nat → Nat

/-- Nominal time of a device-memory load on a compute core and on a control core (06 Table 6-1, 25 R392). -/
def devLat : Nat := 24
def devLatCtl : Nat := 48

end Sys2Proof.Config
end

