-- ==== Sys2Proof/Syntax.lean ====
section
/-!
DEFINITION. Syntax.lean: the instructions of the CBX-FT9. Slot words carry their encoded fields (03 R44, R48: `g` guard,
`n` its inversion, `h` and `x` the hold bits of positions a and b, other letters as the opcode table names them) as
numbers; 03 R47's long immediate is selected when the instruction runs. The 68 rows without bits are the indivisible
steps of the part's agents (95_what_each_step_holds.md).
-/
namespace Sys2Proof

/-- Who pushes a notice to a queue of another package and waits for the answer: the copy engine of a core (08 R166), the
distributor (16 R280), the collective engine for a command (21 R358). -/
inductive PushBy where
  | copy (core : Nat)
  | dist
  | coll (id : Nat)
  deriving DecidableEq, Repr

/-- What a packet on the torus carries (21 R347, R348). `store`: a core's posted store, with the class of its leaf, its bundle
and its virtual address; `line`: bits of one line an engine writes (13 R243), with the engine's key; `ask`: an access a core
waits for, with its kind, address and operands; `tell`: a message of a kind that nobody waits for with a register; `push`: a
notice; `grad`: the final packet of a shard for a Sorrel region (21 R356); `offer`: a member's command, as the matching
compares it (21 R353); `mail`: the data of a SEND, with its number on its channel (21 R357); `coll`: a part of a collective's
data; `other`: anything else. -/
inductive PktReq where
  | store (core cls addr : Nat) (bytes : List Byte) (by_ : Option (Word × Word))
  | line (eng cls : Nat) (va : Word) (addr mask val : Nat)
  | ask (core cls kind addr : Nat) (data : List Byte)
  | tell (core kind addr : Nat) (data : List Byte)
  | push (by_ : PushBy) (handle : Nat) (data : List Byte)
  | grad (rec_ blk0 nblk seq src : Nat) (data : List Byte)
  | offer (id : Nat) (sig : List Nat)
  | mail (id chan num : Nat) (data : List Byte)
  | coll (id : Nat)
  | other
  deriving DecidableEq, Repr

/-- What an engine's step serves: the item's place in its queue, and what other packages sent of its data. -/
structure Turn where
  index : Nat
  remote : List Byte
  deriving DecidableEq, Repr

/-- Where a packet lies: its link, and its `n` flit payloads from `pos` on of those the link has accepted. -/
structure PktAt where
  link : Nat
  pos : Nat
  n : Nat
  deriving DecidableEq, Repr

/-- A packet's sender, destination and end-to-end sequence number (21 R347). -/
structure PktHead where
  src : Nat
  dst : Nat
  eseq : Nat
  deriving DecidableEq, Repr

/-- The verdicts on the two signatures of a request: Ed25519, ML-DSA-65 (01 R12). A step with other verdicts than its request's
signatures have is none. -/
structure Sigs where
  ed : Bool
  ml : Bool
  deriving DecidableEq, Repr

/-- One constructor per row of the opcode table: slot words by slot class (fields under the table's own letters),
then the steps of the agents (arguments: the inputs of the step). -/
inductive Instr where
  /-- ISSUE_BUNDLE (R60): The core fetches one bundle header and its slot words, then checks and executes the present slots in slot order. -/
  | issueBundle
  /-- WATCHDOG_EXPIRY (R285): The WDOGR count reaches 0 after falling once per running cycle, and WDOG becomes pending. -/
  | watchdogExpiry
  /-- FORCED_BOUNDARY (R286): After 65,536 user cycles with an item pending and no STOP boundary, the core lands every result and takes the item. -/
  | forcedBoundary
  /-- RESULT_LANDS (R117): A register result and its flags land at the end of the instruction's latency. -/
  | resultLands
  /-- PREEMPTION (R328): A pending pre-emption request is taken at a STOP boundary; the core stops issue, enters SAVE and waits for its commands. -/
  | preemption
  /-- SAVE_COMPLETE (R328): Once its commands have drained, the core writes its context, sends away notices, queues the record and becomes IDLE. -/
  | saveComplete
  /-- COPY_LINE_LANDS (R160): One 64-byte destination line of an accepted copy command lands in one cycle. -/
  | copyLineLands (index : Nat) (remote : List Byte)
  /-- COPY_COMMAND_COMPLETION (R160): A copy-engine command completes: it stores its digest, writes CPYF, sets the remaining bits and posts its event record. -/
  | copyCommandCompletion
  /-- COPY_LATE_FAULT (R162): The copy engine finds a translation, protection or memory fault on a device address and holds the command. -/
  | copyLateFault
  /-- COPY_REQUEST_POP (R166): After a CPYQ is accepted, the queue's home pops one request packet, or reports EMPTY. -/
  | copyRequestPop (reply : List Byte)
  /-- NOTICE_PUSH_RETRY (R280): A notice push that answered FULL is retried until it succeeds. -/
  | noticePushRetry (which : Nat)
  /-- S12_LANDING (R174): An S12 command lands its tile, plane or drain results and its MATF flags at the end of its latency. -/
  | s12Landing
  /-- TEASEL_BLOCK_COMPUTED (R201): Teasel completes one demanded 16 x 16 block and sets its computed bit and any completion bit. -/
  | teaselBlockComputed (remote : List Byte)
  /-- TEASEL_REQUEST_COMPLETION (R204): A force or store request completes and posts its KIND 2 or KIND 3 record. -/
  | teaselRequestCompletion
  /-- TEASEL_LATE_FAULT (R206): Teasel finds a fault or ARENA at a block and holds the work until the core takes it. -/
  | teaselLateFault
  /-- WAITER_DELIVERY (R258): A pushed entry handed to a QPOP.B waiter is written to its line, and a KIND 5 record is posted. -/
  | waiterDelivery (queue : Nat)
  /-- ARRIVAL (R264): A Sorrel engine performs one gradient arrival for a region, in the order arrivals reach the home. -/
  | arrival (at_ : Turn)
  /-- IN_DRAM_COMPLETION (R270): A DZERO or DCOPY writes its destination, drops cached copies, publishes unbound lines and posts its record. -/
  | inDramCompletion (index : Nat)
  /-- PICK (R288): When a core is free, the distributor picks a priority level and a team, with aging. -/
  | pick
  /-- DISPATCH (R277): A core loads a continuation, restoring its context or setting its initial registers, re-homes its holdings and issues its first bundle. -/
  | dispatch (core : Nat)
  /-- FREE_CORE_REPORT (R289): A die reports its changed count of free cores to XD within 64 cycles. -/
  | freeCoreReport (die : Nat)
  /-- UNTAKEN_TASKS_RETURN (R289): Tasks of a chunk that no core has taken within 4,096 cycles go back to the team's undealt tasks. -/
  | untakenTasksReturn
  /-- COLLECTIVE_START (R353): Once every ring member has issued a matching command, the collective runs, or ends with MISMATCH. -/
  | collectiveStart (id : Nat) (join : Bool)
  /-- COLLECTIVE_COMPLETION (R359): A collective command completes, publishes its writes, pushes its notices and posts its KIND 8 record. -/
  | collectiveCompletion (id : Nat) (remote : List Byte)
  /-- FLIT_DATA (R344): A DATA flit is received and acknowledged in LSEQ order, or answered with NAK on a CRC failure or a gap. -/
  | flitData (link : Nat) (flit : List Byte)
  /-- FLIT_MARKER (R253): A MARKER flit of recovery routing is received and acknowledged. -/
  | flitMarker (link : Nat) (flit : List Byte)
  /-- FLIT_ACK (R344): An ACK flit retires the sender's unacknowledged flits. -/
  | flitAck (link : Nat) (flit : List Byte)
  /-- FLIT_NAK (R344): A NAK makes the sender resend the flit and every later unacknowledged flit, once. -/
  | flitNak (link : Nat) (flit : List Byte)
  /-- PACKET_ARRIVAL (R347): A packet reaches its destination, is acknowledged end to end, and duplicates are discarded. -/
  | packetArrival (at_ : PktAt) (head : PktHead) (req : PktReq)
  /-- END_TO_END_ACK (R347): The end-to-end acknowledgement of a packet reaches its source. -/
  | endToEndAck (dst : Nat) (eseq : Nat) (refused : Nat) (reply : Nat)
  /-- RETRANSMISSION (R347): A packet with no acknowledgement after 16,384 cycles is sent again with the same ESEQ. -/
  | retransmission (index : Nat)
  /-- PACKET_DECLARED_FAILED (R348): A packet still unacknowledged after 131,072 cycles is declared failed and reported to its requester. -/
  | packetDeclaredFailed (index : Nat)
  /-- POWER_WINDOW (R403): Every 1,000 cycles the controller estimates core-rail power and sets the throttle level T. -/
  | powerWindow (matrix : Nat) (vector : Nat) (links : Nat) (control : Nat)
  /-- THERMAL_LIMIT (R404): A junction at 105 degrees C or more forces T = 63. -/
  | thermalLimit (temp : Nat)
  /-- THERMAL_RECOVERY (R404): A junction falling below 100 degrees C ends the forced throttle. -/
  | thermalRecovery (temp : Nat)
  /-- THERMAL_TRIP (R404): At 115 degrees C the package halts every core, sets TRIP and sends EVENT. -/
  | thermalTrip (temp : Nat)
  /-- RESET_SEQUENCE (R399): Reset brings every core to IDLE, runs the ROM, trains memory and links, and enters state LOAD. -/
  | resetSequence
  /-- FRAME_RECEIVED (R402): A front-end frame is written to the buffer of the next receive descriptor, or dropped and counted. -/
  | frameReceived (port : Nat) (frame : List Byte) (desc : List Byte)
  /-- FRAME_TRANSMIT (R402): A front-end port sends the frame that a transmit descriptor names. -/
  | frameTransmit (port : Nat) (desc : List Byte)
  /-- GETID (R394): The management command returns PKGID, the identity keys and their certificate. -/
  | getid (req : List Byte)
  /-- ATTEST (R400): The management command returns the signed attestation report. -/
  | attest (req : List Byte)
  /-- LOADOS (R400): The management command writes an OS image to memory and extends MREG[i]. -/
  | loados (req : List Byte) (more : List Byte) (len : Nat) (ed : Bool) (ml : Bool)
  /-- START (R394): The management command starts the control cores at the loaded entry, and the package enters RUN. -/
  | start (req : List Byte) (sig : Sigs)
  /-- RESET (R399): The signed management command starts the reset sequence. -/
  | reset (req : List Byte) (sig : Sigs)
  /-- PODSET (R346): The management command writes PODCFG, and a change of RECOV follows the drain rule. -/
  | podset (req : List Byte) (sig : Sigs)
  /-- LINKTRAIN (R344): The management command retrains the links of a 12-bit mask. -/
  | linktrain (req : List Byte) (sig : Sigs)
  /-- PCAPSET (R403): The management command writes the package power cap. -/
  | pcapset (req : List Byte) (sig : Sigs)
  /-- RETIRE (R401): The management command places a 64 KiB unit on the retirement list. -/
  | retire (req : List Byte) (sig : Sigs)
  /-- MGMT_LAUNCH (R279): The management command LAUNCHes a job card in ASID 0 at supervisor level. -/
  | mgmtLaunch (req : List Byte) (far : List Byte) (sig : Sigs)
  /-- MGMT_ROLLBACK (R336): The management command rolls back the team named in its body. -/
  | mgmtRollback (req : List Byte) (sig : Sigs)
  /-- QCREATE (R396): The control command creates an empty queue and returns its handle. -/
  | qcreate
  /-- QDESTROY (R396): The control command destroys a queue, and its waiters receive STALE. -/
  | qdestroy
  /-- POOLSET (R396): The control command sets the context pool. -/
  | poolset
  /-- SUPSET (R397): The control command sets an ASID's supervisor block. -/
  | supset
  /-- CAPSET (R396): The control command gives an ASID a capture area on a stack. -/
  | capset
  /-- MEASSET (R396): The control command gives an ASID a measurement area on a stack. -/
  | measset
  /-- LOGSET (R375): The control command gives a team its log block. -/
  | logset
  /-- REPGRP (R374): The control command joins a team to a replica group. -/
  | repgrp
  /-- ROLLBACK (R336): The control command rolls a team back. -/
  | rollback
  /-- CREQ (R319): The control command sends a request word to one compute core. -/
  | creq
  /-- L2QUOTA_WRITE (R224): A write of L2QUOTA reallots ways per class, and is ignored when the reservations exceed 16. -/
  | l2quotaWrite (die : Nat) (v : Word)
  /-- PCAP_WRITE (R403): A write of PCAP sets the power cap from the next window; values outside 600-1,800 are ignored. -/
  | pcapWrite (v : Word)
  /-- PODCFG_WRITE (R346): A write of PODCFG sets the pod extents and the routing mode. -/
  | podcfgWrite (v : Word)
  /-- PACKAGE_REGISTER_WRITE (R393): A write to any other package register stores the value or is ignored as the register table says. -/
  | packageRegisterWrite (off : Nat) (v : Word)
  /-- ADD (R72): s[d] := s[a] + s[b]. -/
  | add (g n d a b : Nat)
  /-- SUB (R72): s[d] := s[a] - s[b]. -/
  | sub (g n d a b : Nat)
  /-- AND (R72): Bitwise and. -/
  | and (g n d a b : Nat)
  /-- OR (R72): Bitwise or. -/
  | or (g n d a b : Nat)
  /-- XOR (R72): Bitwise xor. -/
  | xor (g n d a b : Nat)
  /-- ANDN (R72): s[a] and not s[b]. -/
  | andn (g n d a b : Nat)
  /-- SHL (R72): Logical left shift. -/
  | shl (g n d a b : Nat)
  /-- SHR (R72): Logical right shift. -/
  | shr (g n d a b : Nat)
  /-- SAR (R72): Arithmetic right shift. -/
  | sar (g n d a b : Nat)
  /-- ROL (R72): Left rotate. -/
  | rol (g n d a b : Nat)
  /-- ROR (R72): Right rotate. -/
  | ror (g n d a b : Nat)
  /-- MIN (R72): Signed minimum. -/
  | min (g n d a b : Nat)
  /-- MAX (R72): Signed maximum. -/
  | max (g n d a b : Nat)
  /-- MINU (R72): Unsigned minimum. -/
  | minu (g n d a b : Nat)
  /-- MAXU (R72): Unsigned maximum. -/
  | maxu (g n d a b : Nat)
  /-- MUL (R74): Low 64 bits of the signed product. -/
  | mul (g n d a b : Nat)
  /-- MULH (R74): High half of the signed product. -/
  | mulh (g n d a b : Nat)
  /-- MULHU (R74): High half of the unsigned product. -/
  | mulhu (g n d a b : Nat)
  /-- MULHSU (R74): High half of the signed-by-unsigned product. -/
  | mulhsu (g n d a b : Nat)
  /-- DIV (R74): Signed quotient toward zero; all ones on division by zero. -/
  | div (g n d a b : Nat)
  /-- DIVU (R74): Unsigned quotient. -/
  | divu (g n d a b : Nat)
  /-- REM (R74): Signed remainder. -/
  | rem (g n d a b : Nat)
  /-- REMU (R74): Unsigned remainder. -/
  | remu (g n d a b : Nat)
  /-- CLZ (R75): Counts leading zeros. -/
  | clz (g n d a : Nat)
  /-- CTZ (R75): Counts trailing zeros. -/
  | ctz (g n d a : Nat)
  /-- POPC (R75): Counts one bits. -/
  | popc (g n d a : Nat)
  /-- BREV (R75): Reverses the bits. -/
  | brev (g n d a : Nat)
  /-- BSWAP (R75): Reverses the bytes. -/
  | bswap (g n d a : Nat)
  /-- CMPEQ (R76): p[d] := s[a] = s[b]. -/
  | cmpeq (g n d a b : Nat)
  /-- CMPNE (R76): p[d] := s[a] is not s[b]. -/
  | cmpne (g n d a b : Nat)
  /-- CMPLT (R76): Signed less-than compare. -/
  | cmplt (g n d a b : Nat)
  /-- CMPLE (R76): Signed less-or-equal compare. -/
  | cmple (g n d a b : Nat)
  /-- CMPLTU (R76): Unsigned less-than compare. -/
  | cmpltu (g n d a b : Nat)
  /-- CMPLEU (R76): Unsigned less-or-equal compare. -/
  | cmpleu (g n d a b : Nat)
  /-- SEL (R77): s[d] := p[k] ? s[a] : s[b]. -/
  | sel (g n d a b k : Nat)
  /-- PAND (R78): Predicate and. -/
  | pand (g n d a b : Nat)
  /-- POR (R78): Predicate or. -/
  | por (g n d a b : Nat)
  /-- PXOR (R78): Predicate xor. -/
  | pxor (g n d a b : Nat)
  /-- PANDN (R78): Predicate and-not. -/
  | pandn (g n d a b : Nat)
  /-- PNOT (R78): Predicate not. -/
  | pnot (g n d a : Nat)
  /-- PRD (R78): Reads p0-p7 into a scalar register. -/
  | prd (g n d : Nat)
  /-- PWR (R78): Writes p1-p7 from a scalar register. -/
  | pwr (g n a : Nat)
  /-- BEXT (R79): Extracts a bit field, sign-extended. -/
  | bext (g n d a b : Nat)
  /-- BEXTU (R79): Extracts a bit field, zero-extended. -/
  | bextu (g n d a b : Nat)
  /-- BINS (R79): Inserts a bit field into s[d]. -/
  | bins (g n d a b : Nat)
  /-- ADDI (R73): Adds an immediate. -/
  | addi (g n d a i : Nat)
  /-- ANDI (R73): And with an immediate. -/
  | andi (g n d a i : Nat)
  /-- ORI (R73): Or with an immediate. -/
  | ori (g n d a i : Nat)
  /-- XORI (R73): Xor with an immediate. -/
  | xori (g n d a i : Nat)
  /-- SHLI (R73): Left shift by an immediate. -/
  | shli (g n d a i : Nat)
  /-- SHRI (R73): Logical right shift by an immediate. -/
  | shri (g n d a i : Nat)
  /-- SARI (R73): Arithmetic right shift by an immediate. -/
  | sari (g n d a i : Nat)
  /-- RORI (R73): Right rotate by an immediate. -/
  | rori (g n d a i : Nat)
  /-- MULI (R73): Multiplies by an immediate. -/
  | muli (g n d a i : Nat)
  /-- MINI (R73): Signed minimum with an immediate. -/
  | mini (g n d a i : Nat)
  /-- MAXI (R73): Signed maximum with an immediate. -/
  | maxi (g n d a i : Nat)
  /-- CMPEQI (R76): Equal compare with an immediate. -/
  | cmpeqi (g n d a i : Nat)
  /-- CMPNEI (R76): Not-equal compare with an immediate. -/
  | cmpnei (g n d a i : Nat)
  /-- CMPLTI (R76): Signed less-than compare with an immediate. -/
  | cmplti (g n d a i : Nat)
  /-- CMPLEI (R76): Signed less-or-equal compare with an immediate. -/
  | cmplei (g n d a i : Nat)
  /-- CMPGTI (R76): Signed greater-than compare with an immediate. -/
  | cmpgti (g n d a i : Nat)
  /-- CMPGEI (R76): Signed greater-or-equal compare with an immediate. -/
  | cmpgei (g n d a i : Nat)
  /-- CMPLTUI (R76): Unsigned less-than compare with an immediate. -/
  | cmpltui (g n d a i : Nat)
  /-- CMPGTUI (R76): Unsigned greater-than compare with an immediate. -/
  | cmpgtui (g n d a i : Nat)
  /-- MOVI (R80): s[d] := sext(imm16). -/
  | movi (g n d i : Nat)
  /-- MOVIZ (R80): s[d] := zext(imm16). -/
  | moviz (g n d i : Nat)
  /-- MOVK0 (R80): Replaces bits [15:0] of s[d]. -/
  | movk0 (g n d i : Nat)
  /-- MOVK1 (R80): Replaces bits [31:16] of s[d]. -/
  | movk1 (g n d i : Nat)
  /-- MOVK2 (R80): Replaces bits [47:32] of s[d]. -/
  | movk2 (g n d i : Nat)
  /-- MOVK3 (R80): Replaces bits [63:48] of s[d]. -/
  | movk3 (g n d i : Nat)
  /-- ADDA (R81): a[d] := a[a] + s[b]. -/
  | adda (g n d a b : Nat)
  /-- ADDA2 (R81): a[d] := a[a] + (s[b] << 1). -/
  | adda2 (g n d a b : Nat)
  /-- ADDA4 (R81): a[d] := a[a] + (s[b] << 2). -/
  | adda4 (g n d a b : Nat)
  /-- ADDA8 (R81): a[d] := a[a] + (s[b] << 3). -/
  | adda8 (g n d a b : Nat)
  /-- DIFA (R81): s[d] := a[a] - a[b]. -/
  | difa (g n d a b : Nat)
  /-- MOVAS (R81): a[d] := s[a]. -/
  | movas (g n d a : Nat)
  /-- MOVSA (R81): s[d] := a[a]. -/
  | movsa (g n d a : Nat)
  /-- ADDAI (R81): a[d] := a[a] + imm. -/
  | addai (g n d a i : Nat)
  /-- MOVAI (R81): a[d] := sext(imm16). -/
  | movai (g n d i : Nat)
  /-- ANDAI (R81): a[d] := a[a] and imm. -/
  | andai (g n d a i : Nat)
  /-- BR (R83): Branches to the bundle address + disp22 x 4. -/
  | br (g n s : Nat)
  /-- CALL (R83): Branches and writes the return address to a14. -/
  | call (g n s : Nat)
  /-- JMP (R83): Jumps to a[a]. -/
  | jmp (g n a : Nat)
  /-- CALLR (R83): Calls through a[a]. -/
  | callr (g n a : Nat)
  /-- RET (R83): Returns to a14. -/
  | ret (g n : Nat)
  /-- LOOP (R84): Starts a zero-overhead loop over the next n bundles, or skips the body when the count is 0. -/
  | loop (g n d a i : Nat)
  /-- MTLC (R88): lc[d] := s[a]. -/
  | mtlc (g n d a : Nat)
  /-- MFLC (R88): s[d] := lc[a]. -/
  | mflc (g n d a : Nat)
  /-- LMODE (R89): Switches the timing mode from the next bundle. -/
  | lmode (g n m : Nat)
  /-- LMODE_L (R89): Arms a mode switch for the next LOOP with a non-zero count. -/
  | lmodeL (g n m : Nat)
  /-- VFADD (R97): FP32 add per lane. -/
  | vfadd (g h d a b x : Nat)
  /-- VFSUB (R97): FP32 subtract per lane. -/
  | vfsub (g h d a b x : Nat)
  /-- VFMUL (R97): FP32 multiply per lane. -/
  | vfmul (g h d a b x : Nat)
  /-- VFMIN (R98): FP32 minimum; a NaN operand gives NaN. -/
  | vfmin (g h d a b x : Nat)
  /-- VFMAX (R98): FP32 maximum; a NaN operand gives NaN. -/
  | vfmax (g h d a b x : Nat)
  /-- VFMINN (R98): FP32 minimum that ignores a single NaN. -/
  | vfminn (g h d a b x : Nat)
  /-- VFMAXN (R98): FP32 maximum that ignores a single NaN. -/
  | vfmaxn (g h d a b x : Nat)
  /-- VFMA (R99): Fused va x vb + vd. -/
  | vfma (g h d a b x : Nat)
  /-- VFMS (R99): Fused va x vb - vd. -/
  | vfms (g h d a b x : Nat)
  /-- VFNMA (R99): Fused -(va x vb) + vd. -/
  | vfnma (g h d a b x : Nat)
  /-- VFNMS (R99): Fused -(va x vb) - vd. -/
  | vfnms (g h d a b x : Nat)
  /-- VFABS (R98): Clears the sign bit. -/
  | vfabs (g h d a : Nat)
  /-- VFNEG (R98): Inverts the sign bit. -/
  | vfneg (g h d a : Nat)
  /-- VFSQRT (R97): Correctly rounded square root. -/
  | vfsqrt (g h d a : Nat)
  /-- VFRCP (R97): Correctly rounded reciprocal. -/
  | vfrcp (g h d a : Nat)
  /-- VFRSQ (R97): Correctly rounded reciprocal square root. -/
  | vfrsq (g h d a : Nat)
  /-- VFDIV (R97): FP32 divide. -/
  | vfdiv (g h d a b x : Nat)
  /-- VEXP2 (R100): 2^x, rounded RNE. -/
  | vexp2 (g h d a : Nat)
  /-- VLOG2 (R100): log2 x, rounded RNE. -/
  | vlog2 (g h d a : Nat)
  /-- VEXP (R100): e^x, rounded RNE. -/
  | vexp (g h d a : Nat)
  /-- VLN (R100): ln x, rounded RNE. -/
  | vln (g h d a : Nat)
  /-- VTANH (R100): tanh x, rounded RNE. -/
  | vtanh (g h d a : Nat)
  /-- VSIGM (R100): Logistic function, rounded RNE. -/
  | vsigm (g h d a : Nat)
  /-- VFCEQ (R101): FP equal compare into a mask. -/
  | vfceq (g h d a b x : Nat)
  /-- VFCNE (R101): FP not-equal compare into a mask. -/
  | vfcne (g h d a b x : Nat)
  /-- VFCLT (R101): FP less-than compare into a mask. -/
  | vfclt (g h d a b x : Nat)
  /-- VFCLE (R101): FP less-or-equal compare into a mask. -/
  | vfcle (g h d a b x : Nat)
  /-- VFCUN (R101): FP unordered compare into a mask. -/
  | vfcun (g h d a b x : Nat)
  /-- VFRSUM (R102): Pairwise-tree FP32 sum of the active lanes. -/
  | vfrsum (g h d a : Nat)
  /-- VFRMAX (R102): Pairwise-tree FP32 maximum of the active lanes. -/
  | vfrmax (g h d a : Nat)
  /-- VFRMIN (R102): Pairwise-tree FP32 minimum of the active lanes. -/
  | vfrmin (g h d a : Nat)
  /-- VADD (R104): 32-bit lane add. -/
  | vadd (g h d a b x : Nat)
  /-- VSUB (R104): 32-bit lane subtract. -/
  | vsub (g h d a b x : Nat)
  /-- VMUL (R104): 32-bit lane multiply, low half. -/
  | vmul (g h d a b x : Nat)
  /-- VMULH (R104): Signed multiply, high half. -/
  | vmulh (g h d a b x : Nat)
  /-- VMULHU (R104): Unsigned multiply, high half. -/
  | vmulhu (g h d a b x : Nat)
  /-- VADDS (R104): Signed saturating add. -/
  | vadds (g h d a b x : Nat)
  /-- VSUBS (R104): Signed saturating subtract. -/
  | vsubs (g h d a b x : Nat)
  /-- VADDSU (R104): Unsigned saturating add. -/
  | vaddsu (g h d a b x : Nat)
  /-- VAND (R104): Lane and. -/
  | vand (g h d a b x : Nat)
  /-- VOR (R104): Lane or. -/
  | vor (g h d a b x : Nat)
  /-- VXOR (R104): Lane xor. -/
  | vxor (g h d a b x : Nat)
  /-- VANDN (R104): Lane and-not. -/
  | vandn (g h d a b x : Nat)
  /-- VSHL (R104): Lane left shift. -/
  | vshl (g h d a b x : Nat)
  /-- VSHR (R104): Lane logical right shift. -/
  | vshr (g h d a b x : Nat)
  /-- VSAR (R104): Lane arithmetic right shift. -/
  | vsar (g h d a b x : Nat)
  /-- VROR (R104): Lane right rotate. -/
  | vror (g h d a b x : Nat)
  /-- VMIN (R104): Signed lane minimum. -/
  | vmin (g h d a b x : Nat)
  /-- VMAX (R104): Signed lane maximum. -/
  | vmax (g h d a b x : Nat)
  /-- VMINU (R104): Unsigned lane minimum. -/
  | vminu (g h d a b x : Nat)
  /-- VMAXU (R104): Unsigned lane maximum. -/
  | vmaxu (g h d a b x : Nat)
  /-- VCLZ (R104): Counts leading zeros per lane. -/
  | vclz (g h d a : Nat)
  /-- VPOPC (R104): Counts one bits per lane. -/
  | vpopc (g h d a : Nat)
  /-- VABS (R104): Integer absolute value per lane. -/
  | vabs (g h d a : Nat)
  /-- VCEQ (R106): Integer equal compare into a mask. -/
  | vceq (g h d a b x : Nat)
  /-- VCNE (R106): Integer not-equal compare into a mask. -/
  | vcne (g h d a b x : Nat)
  /-- VCLT (R106): Signed less-than compare into a mask. -/
  | vclt (g h d a b x : Nat)
  /-- VCLE (R106): Signed less-or-equal compare into a mask. -/
  | vcle (g h d a b x : Nat)
  /-- VCLTU (R106): Unsigned less-than compare into a mask. -/
  | vcltu (g h d a b x : Nat)
  /-- VCLEU (R106): Unsigned less-or-equal compare into a mask. -/
  | vcleu (g h d a b x : Nat)
  /-- VADDI (R105): Lane add of an immediate. -/
  | vaddi (g h d a i : Nat)
  /-- VANDI (R105): Lane and with an immediate. -/
  | vandi (g h d a i : Nat)
  /-- VORI (R105): Lane or with an immediate. -/
  | vori (g h d a i : Nat)
  /-- VXORI (R105): Lane xor with an immediate. -/
  | vxori (g h d a i : Nat)
  /-- VSHLI (R105): Lane left shift by an immediate. -/
  | vshli (g h d a i : Nat)
  /-- VSHRI (R105): Lane logical right shift by an immediate. -/
  | vshri (g h d a i : Nat)
  /-- VSARI (R105): Lane arithmetic right shift by an immediate. -/
  | vsari (g h d a i : Nat)
  /-- MAND (R107): Mask and. -/
  | mand (g d a b : Nat)
  /-- MOR (R107): Mask or. -/
  | mor (g d a b : Nat)
  /-- MXOR (R107): Mask xor. -/
  | mxor (g d a b : Nat)
  /-- MANDN (R107): Mask and-not. -/
  | mandn (g d a b : Nat)
  /-- MNOT (R107): Mask not. -/
  | mnot (g d a : Nat)
  /-- VMOVI (R105): Writes an immediate to every active lane. -/
  | vmovi (g d i : Nat)
  /-- VIRSUM (R103): Integer sum of the active lanes. -/
  | virsum (g h d a : Nat)
  /-- VIRMAX (R103): Signed maximum of the active lanes. -/
  | virmax (g h d a : Nat)
  /-- VIRMIN (R103): Signed minimum of the active lanes. -/
  | virmin (g h d a : Nat)
  /-- VIRMAXU (R103): Unsigned maximum of the active lanes. -/
  | virmaxu (g h d a : Nat)
  /-- VIRMINU (R103): Unsigned minimum of the active lanes. -/
  | virminu (g h d a : Nat)
  /-- VCVT_RNE (R108): Converts between table formats with RNE. -/
  | vcvtRne (g h d a i : Nat)
  /-- VCVT_RTZ (R108): Converts between table formats with RTZ. -/
  | vcvtRtz (g h d a i : Nat)
  /-- VCVT_SR (R108): Converts between table formats with SR. -/
  | vcvtSr (g h d a i : Nat)
  /-- VCVT_DYN (R108): Converts between table formats with FPSTAT.RM. -/
  | vcvtDyn (g h d a i : Nat)
  /-- VQSC (R109): Computes an MX scale byte. -/
  | vqsc (g h d a i : Nat)
  /-- VQEL (R110): Rounds one MX element with RNE. -/
  | vqel (g h d a b x i : Nat)
  /-- VQEL_SR (R110): Rounds one MX element with SR. -/
  | vqelSr (g h d a b x i : Nat)
  /-- VSEED (R111): Seeds the active lane generators. -/
  | vseed (g a : Nat)
  /-- VGRD (R111): Reads the generator states. -/
  | vgrd (g d : Nat)
  /-- VGWR (R111): Writes the generator states. -/
  | vgwr (g h a : Nat)
  /-- VSHUF (R112): Shuffles lanes by a pattern entry. -/
  | vshuf (g h d a i : Nat)
  /-- XCOPY (R114): Copies a register from the cluster k places round the ring. -/
  | xcopy (g h d a i : Nat)
  /-- VBCS (R115): Broadcasts a scalar to the active lanes. -/
  | vbcs (g d a : Nat)
  /-- VEXT (R115): Extracts one lane to a scalar. -/
  | vext (g h d a l : Nat)
  /-- VINS (R115): Inserts a scalar into one lane. -/
  | vins (g d a l : Nat)
  /-- VM2S (R115): Moves a mask to a scalar. -/
  | vm2s (g d a : Nat)
  /-- VS2M (R115): Moves a scalar to a mask. -/
  | vs2m (g d a : Nat)
  /-- VIOTA (R115): Writes the generator number 16c + l to each active lane. -/
  | viota (g d : Nat)
  /-- VPLD (R112): Loads a shuffle-pattern entry. -/
  | vpld (g h a i : Nat)
  /-- LDB (R137): Device-memory byte load, sign-extended. -/
  | ldb (g n d r o : Nat)
  /-- LDBU (R137): Device-memory byte load, zero-extended. -/
  | ldbu (g n d r o : Nat)
  /-- LDH (R137): Device-memory half load, sign-extended. -/
  | ldh (g n d r o : Nat)
  /-- LDHU (R137): Device-memory half load, zero-extended. -/
  | ldhu (g n d r o : Nat)
  /-- LDW (R137): Device-memory word load, sign-extended. -/
  | ldw (g n d r o : Nat)
  /-- LDWU (R137): Device-memory word load, zero-extended. -/
  | ldwu (g n d r o : Nat)
  /-- LDD (R137): Device-memory doubleword load. -/
  | ldd (g n d r o : Nat)
  /-- LDA (R137): Device-memory load into an address register. -/
  | lda (g n d r o : Nat)
  /-- STB (R137): Device-memory byte store. -/
  | stb (g n d r o : Nat)
  /-- STH (R137): Device-memory half store. -/
  | sth (g n d r o : Nat)
  /-- STW (R137): Device-memory word store. -/
  | stw (g n d r o : Nat)
  /-- STD (R137): Device-memory doubleword store. -/
  | std (g n d r o : Nat)
  /-- STA (R137): Device-memory store of an address register. -/
  | sta (g n d r o : Nat)
  /-- SLDB (R137): Scratchpad byte load, sign-extended. -/
  | sldb (g n d r o : Nat)
  /-- SLDBU (R137): Scratchpad byte load, zero-extended. -/
  | sldbu (g n d r o : Nat)
  /-- SLDH (R137): Scratchpad half load, sign-extended. -/
  | sldh (g n d r o : Nat)
  /-- SLDHU (R137): Scratchpad half load, zero-extended. -/
  | sldhu (g n d r o : Nat)
  /-- SLDW (R137): Scratchpad word load, sign-extended. -/
  | sldw (g n d r o : Nat)
  /-- SLDWU (R137): Scratchpad word load, zero-extended. -/
  | sldwu (g n d r o : Nat)
  /-- SLDD (R137): Scratchpad doubleword load. -/
  | sldd (g n d r o : Nat)
  /-- SLDA (R137): Scratchpad load into an address register. -/
  | slda (g n d r o : Nat)
  /-- SSTB (R137): Scratchpad byte store. -/
  | sstb (g n d r o : Nat)
  /-- SSTH (R137): Scratchpad half store. -/
  | ssth (g n d r o : Nat)
  /-- SSTW (R137): Scratchpad word store. -/
  | sstw (g n d r o : Nat)
  /-- SSTD (R137): Scratchpad doubleword store. -/
  | sstd (g n d r o : Nat)
  /-- SSTA (R137): Scratchpad store of an address register. -/
  | ssta (g n d r o : Nat)
  /-- VLD (R140): Loads 64 contiguous bytes per cluster. -/
  | vld (g d r o : Nat)
  /-- VST (R140): Stores 64 contiguous bytes per cluster. -/
  | vst (g h d r o : Nat)
  /-- VGATH (R141): Gathers 4-byte values by lane address. -/
  | vgath (g h d a : Nat)
  /-- VGATHH (R141): Gathers 2-byte values by lane address. -/
  | vgathh (g h d a : Nat)
  /-- VGATHB (R141): Gathers bytes by lane address. -/
  | vgathb (g h d a : Nat)
  /-- VSCAT (R141): Scatters 4-byte values by lane address. -/
  | vscat (g h a b x : Nat)
  /-- VSCATH (R141): Scatters 2-byte values by lane address. -/
  | vscath (g h a b x : Nat)
  /-- VSCATB (R141): Scatters bytes by lane address. -/
  | vscatb (g h a b x : Nat)
  /-- SBCFG (R144): Configures a hosted stream-buffer entry and resets its counters. -/
  | sbcfg (g n d a : Nat)
  /-- SBATT (R144): Attaches a handle to an entry in the quad. -/
  | sbatt (g n d a : Nat)
  /-- SBADRP (R144): Returns the address of the producer slot. -/
  | sbadrp (g n d a : Nat)
  /-- SBADRC (R144): Returns the address of the consumer slot. -/
  | sbadrc (g n d a : Nat)
  /-- SBRD (R144): Reads the counters P and C. -/
  | sbrd (g n d a : Nat)
  /-- SBWAITF (R145): Waits until filled >= n. -/
  | sbwaitf (g n d i : Nat)
  /-- SBWAITE (R145): Waits until free >= n. -/
  | sbwaite (g n d i : Nat)
  /-- SBADVP (R146): Advances the producer counter. -/
  | sbadvp (g n d i : Nat)
  /-- SBADVC (R146): Advances the consumer counter. -/
  | sbadvc (g n d i : Nat)
  /-- CPY (R157): Issues a copy command from a descriptor and reports acceptance. -/
  | cpy (g n p r c t : Nat)
  /-- CPYA (R158): Issues a copy that adds into C-buffer FP32 elements. -/
  | cpya (g n p r c t : Nat)
  /-- CPYM (R159): Issues a copy multicast to the quad positions in TGT. -/
  | cpym (g n p r c t k : Nat)
  /-- CPYQ (R166): Asks the engine to serve one copy request from a queue. -/
  | cpyq (g n p s t : Nat)
  /-- CBTEST (R164): Tests masked bits of a bitmap window. -/
  | cbtest (g n d k w s : Nat)
  /-- CBWAIT (R164): Holds until masked bits are set. -/
  | cbwait (g n k w s : Nat)
  /-- CBCLR (R164): Clears masked bits. -/
  | cbclr (g n k w s : Nat)
  /-- CBRD (R164): Reads a bitmap window. -/
  | cbrd (g n d k w : Nat)
  /-- EVPOP (R165): Pops the oldest event record. -/
  | evpop (g n d p : Nat)
  /-- WLOAD (R177): Loads a weight plane from a W-buffer tile. -/
  | wload (g n t p : Nat)
  /-- WSEL (R177): Selects the active plane. -/
  | wsel (g n p : Nat)
  /-- MMA_R (R179): Accumulates X.W into C. -/
  | mmaR (g n a w c : Nat)
  /-- MMA_C (R179): Accumulates X.W-transpose into C. -/
  | mmaC (g n a w c : Nat)
  /-- MMAZ_R (R179): Computes X.W from a zero accumulator. -/
  | mmazR (g n a w c : Nat)
  /-- MMAZ_C (R179): Computes X.W-transpose from a zero accumulator. -/
  | mmazC (g n a w c : Nat)
  /-- MDRAIN (R180): Drains a C tile to a format, optionally quantising, counting and clearing. -/
  | mdrain (g n t s r f : Nat)
  /-- MSCALE (R181): Sets DSCL and HBASE. -/
  | mscale (g n a : Nat)
  /-- MHIST (R182): Reads and clears one histogram bin. -/
  | mhist (g n d a : Nat)
  /-- TCFG (R190): Sets the thunk arena. -/
  | tcfg (g n a b : Nat)
  /-- THOME (R207): Gives a tile value a home. -/
  | thome (g n d b : Nat)
  /-- TSEED (R191): Sets the thunk seed. -/
  | tseed (g n a : Nat)
  /-- THOMEX (R207): Removes a value's home. -/
  | thomex (g n d : Nat)
  /-- TDCFG (R188): Loads a tile descriptor from the A-buffer. -/
  | tdcfg (g n t r : Nat)
  /-- TDSAV (R188): Stores a tile descriptor to the A-buffer. -/
  | tdsav (g n t r : Nat)
  /-- TMM (R195): Records a lazy matrix product. -/
  | tmm (g n d a b o : Nat)
  /-- TADD (R196): Records a lazy elementwise add. -/
  | tadd (g n d a b m : Nat)
  /-- TMUL (R196): Records a lazy elementwise multiply. -/
  | tmul (g n d a b m : Nat)
  /-- TACT (R196): Records a lazy activation. -/
  | tact (g n d a f : Nat)
  /-- TCVT (R197): Records a lazy conversion. -/
  | tcvt (g n d a f r : Nat)
  /-- TQNT (R197): Records a lazy MX quantisation. -/
  | tqnt (g n d a f r : Nat)
  /-- TRED (R196): Records a lazy reduction. -/
  | tred (g n d a x o : Nat)
  /-- TTOPK (R198): Records a lazy top-k. -/
  | ttopk (g n d a k x : Nat)
  /-- TSOFT (R196): Records a lazy softmax. -/
  | tsoft (g n d a : Nat)
  /-- TMAP (R194): Records a lazy affine remap. -/
  | tmap (g n d a m : Nat)
  /-- TFORCE (R202): Requests computation of a window of a tile value. -/
  | tforce (g n p v t c k : Nat)
  /-- TSTORE (R203): Requests a window of a value to be stored into a region. -/
  | tstore (g n p v t c k : Nat)
  /-- TSTORE_H (R203): Requests the whole value to be stored into its home. -/
  | tstoreH (g n p v c k : Nat)
  /-- TDROP (R207): Makes a tile value UNDEF with no home. -/
  | tdrop (g n d : Nat)
  /-- TSTAT (R208): Reads thunk-table state. -/
  | tstat (g n d v : Nat)
  /-- PREF (R226): Prefetches a range of lines into the L2 in a class. -/
  | pref (g n p s b c k : Nat)
  /-- BIND (R236): Binds a range to a synchronisation object. -/
  | bind (g n d a b s : Nat)
  /-- UNBIND (R237): Removes every range of a free object. -/
  | unbind (g n d a : Nat)
  /-- ACQS (R238): Acquires an object shared, waiting. -/
  | acqs (g n d a s : Nat)
  /-- ACQS_T (R238): Tries to acquire an object shared. -/
  | acqsT (g n d a s : Nat)
  /-- ACQX (R238): Acquires an object exclusive, waiting. -/
  | acqx (g n d a s : Nat)
  /-- ACQX_T (R238): Tries to acquire an object exclusive. -/
  | acqxT (g n d a s : Nat)
  /-- REL (R239): Releases an object after publishing the holder's writes. -/
  | rel (g n d a s : Nat)
  /-- FENCE (R246): Orders the core's accesses at a scope and returns the failure status. -/
  | fence (g n d s : Nat)
  /-- AADD (R248): Atomic add at the home. -/
  | aadd (g n d a b o s : Nat)
  /-- AAND (R248): Atomic and. -/
  | aand (g n d a b o s : Nat)
  /-- AOR (R248): Atomic or. -/
  | aor (g n d a b o s : Nat)
  /-- AXOR (R248): Atomic xor. -/
  | axor (g n d a b o s : Nat)
  /-- AMIN (R248): Atomic signed minimum. -/
  | amin (g n d a b o s : Nat)
  /-- AMAX (R248): Atomic signed maximum. -/
  | amax (g n d a b o s : Nat)
  /-- AMINU (R248): Atomic unsigned minimum. -/
  | aminu (g n d a b o s : Nat)
  /-- AMAXU (R248): Atomic unsigned maximum. -/
  | amaxu (g n d a b o s : Nat)
  /-- ASWAP (R248): Atomic swap. -/
  | aswap (g n d a b o s : Nat)
  /-- ACAS (R248): Atomic compare and swap. -/
  | acas (g n d a b o s : Nat)
  /-- AADD_F32 (R250): Atomic FP32 add, exactly accumulated in deterministic mode. -/
  | aaddF32 (g n d a b o s : Nat)
  /-- ARD (R367): Folds the home's accumulator into the word and returns it. -/
  | ard (g n d a o s : Nat)
  /-- ALD (R248): Atomic load at the home. -/
  | ald (g n d a o s : Nat)
  /-- AST (R248): Atomic store at the home. -/
  | ast (g n a b o s : Nat)
  /-- QPUSH (R257): Appends a line to a memory-side queue, or hands it to a waiter. -/
  | qpush (g n d q r : Nat)
  /-- QPOP (R257): Removes the oldest entry of a queue. -/
  | qpop (g n d q r : Nat)
  /-- QPOP_B (R258): Pops an entry, or registers as a waiter on an empty queue. -/
  | qpopB (g n d q r t : Nat)
  /-- OPTREG (R261): Registers a Sorrel region record. -/
  | optreg (g n d a : Nat)
  /-- OPTGRAD (R263): Sends a gradient arrival to a region. -/
  | optgrad (g n p s r t : Nat)
  /-- DEREG (R262): Deregisters a region after its received arrivals finish. -/
  | dereg (g n d a : Nat)
  /-- SETHP (R262): Replaces a region's hyperparameters. -/
  | sethp (g n d a r : Nat)
  /-- CLRF (R262): Clears a region's counters and flags. -/
  | clrf (g n d a r : Nat)
  /-- DZERO (R269): Zero-fills a 64 KiB unit in DRAM. -/
  | dzero (g n p s t : Nat)
  /-- DCOPY (R269): Copies a 64 KiB unit within a stack. -/
  | dcopy (g n p s b t : Nat)
  /-- LAUNCH (R279): Hands a job card to the distributor and returns a team handle. -/
  | launch (g n d a : Nat)
  /-- TRIGGER (R281): Releases at .pkg and marks the task as triggered. -/
  | trigger (g n : Nat)
  /-- SPAWN (R282): Adds a fresh continuation to the team. -/
  | spawn (g n d a b : Nat)
  /-- RESUME (R282): Places a suspended continuation record in its ready queue. -/
  | resume (g n d a : Nat)
  /-- SUSP (R283): Suspends the continuation into a queue, keeping only its arguments. -/
  | susp (g n d b : Nat)
  /-- SUSP_K (R283): Suspends the continuation into a queue with its full context. -/
  | suspK (g n d b : Nat)
  /-- YIELD (R283): Yields the core, keeping only the arguments. -/
  | yield (g n : Nat)
  /-- YIELD_K (R283): Yields the core with the full context. -/
  | yieldK (g n : Nat)
  /-- END (R283): Ends the continuation and releases its holdings. -/
  | endTask (g n : Nat)
  /-- WFE (R284): Holds until the event queue is not empty. -/
  | wfe (g n : Nat)
  /-- MTCFG (R298): Creates a meeting from a descriptor. -/
  | mtcfg (g n d r : Nat)
  /-- MTARR (R303): Makes a member's arrival in a meeting. -/
  | mtarr (g n d h r m : Nat)
  /-- MTWAIT (R304): Waits for a round and returns the latest result. -/
  | mtwait (g n d h r t : Nat)
  /-- MTWAIT_T (R304): Tries for a round's result without holding. -/
  | mtwaitT (g n d h r t : Nat)
  /-- MTTAG (R305): Reads a member's next tag and the open tag. -/
  | mttag (g n d h m : Nat)
  /-- MTDEL (R305): Destroys a meeting and releases its waiters with STALE. -/
  | mtdel (g n d h : Nat)
  /-- BAR (R296): Arrives at a barrier of a scope and holds until the episode completes. -/
  | bar (g n d b s : Nat)
  /-- BAR_T (R297): Tries a barrier without holding. -/
  | barT (g n d b s : Nat)
  /-- TRAP (R324): Raises SYSCALL. -/
  | trap (g n i : Nat)
  /-- BRK (R324): Raises BREAK. -/
  | brk (g n i : Nat)
  /-- TACK (R320): Acknowledges handler entry so that later faults re-enter normally. -/
  | tack (g n : Nat)
  /-- XRET (R321): Returns from the handler and re-issues per XSLOT. -/
  | xret (g n : Nat)
  /-- PREQ (R327): Marks the interrupted task for pre-emption. -/
  | preq (g n : Nat)
  /-- ICINV (R325): Discards the instruction path after earlier writes. -/
  | icinv (g n : Nat)
  /-- TINV_ALL (R326): Invalidates every translation in the package. -/
  | tinvAll (g n : Nat)
  /-- TINV_ASID (R326): Invalidates the translations of one ASID. -/
  | tinvAsid (g n b : Nat)
  /-- TINV_PAGE (R326): Invalidates one page's translations. -/
  | tinvPage (g n a b : Nat)
  /-- CKPT (R333): Records the team's checkpoint and opens a new capture window. -/
  | ckpt (g n d : Nat)
  /-- MFS (R315): Reads a special register by an immediate number. -/
  | mfs (g n d i : Nat)
  /-- MTS (R316): Writes a special register by an immediate number. -/
  | mts (g n d i : Nat)
  /-- MFSR (R315): Reads a special register named by s[a]. -/
  | mfsr (g n d a : Nat)
  /-- MTSR (R316): Writes a special register named by s[a]. -/
  | mtsr (g n a b : Nat)
  /-- PMEN (R385): Sets the counter enables. -/
  | pmen (g n a : Nat)
  /-- PMZ (R385): Zeroes the selected counters. -/
  | pmz (g n a : Nat)
  /-- MBEGIN (R387): Opens a measurement pass with capture. -/
  | mbegin (g n d a : Nat)
  /-- MEND (R388): Closes a pass, compares the path hash and restores memory. -/
  | mend (g n d : Nat)
  /-- MPH (R386): Reads the path hash. -/
  | mph (g n d : Nat)
  /-- RSCAT (R354): Issues a reduce-scatter over a ring. -/
  | rscat (g n p r t : Nat)
  /-- AGATH (R355): Issues an all-gather. -/
  | agath (g n p r t : Nat)
  /-- ARED (R355): Issues an all-reduce. -/
  | ared (g n p r t : Nat)
  /-- SEND (R357): Sends bytes to a peer package. -/
  | send (g n p r t : Nat)
  /-- RECV (R357): Receives bytes from a peer package. -/
  | recv (g n p r t : Nat)
  /-- LNKST (R360): Reads a link status word. -/
  | lnkst (g n d a : Nat)
  /-- PHASE (R370): Declares the scratchpad sets of the next phase. -/
  | phase (g n d r : Nat)
  /-- PHASE_END (R370): Releases the phase's ranges. -/
  | phaseEnd (g n : Nat)
  /-- DIGEST (R373): Returns the team's kernel digest. -/
  | digest (g n d e : Nat)
  /-- RCMP (R374): Submits a digest to the replica group and holds for the outcome. -/
  | rcmp (g n d a b : Nat)
  /-- CORE_RESET (R310): The control complex resets a single compute core in DHALT, which leaves DHALT for IDLE. -/
  | coreReset (core : Nat)
  /-- LINK_TRAINED (R344): Retraining of a link ends and its state goes from TRAINING to UP. -/
  | linkTrained (link : Nat)
  /-- STACK_LOGIC_DIE_RESET (R267): A stack logic die is reset, stopping its engines in mid-update and leaving the lines already written. -/
  | stackLogicDieReset (stack : Nat) (index : Nat) (lines : Nat) (remote : List Byte)
  /-- MALFORMED_CONTROL_COMMAND (R395): A control command block whose CODE is not listed, or whose reserved fields are non-zero, completes with STATUS MALFORMED. -/
  | malformedControlCommand
  deriving DecidableEq, Repr

end Sys2Proof
end

