-- ==== Sys2Proof/Machine/State.lean ====
section
/-!
DEFINITION. Machine/State.lean: the state of one package as plain data: the core in focus, the other cores, device
memory, the engines, the distributor, the control complex; and the schedule, which says whose step comes next.
-/
namespace Sys2Proof.Machine

/-! ### Scalar side (spec 04) -/

/-- An entry of the loop stack (04 R68): counter, first and last bundle of the body, their number; `code` holds the 64-byte lines
of the body already fetched, by virtual line (04 R87), `starts` the addresses of its bundles in order. -/
structure LoopEnt where
  k : Nat
  first : Word
  last : Word
  len : Nat
  code : SMap (List Byte)
  starts : List Word
  deriving DecidableEq, Repr

/-- Scalar-side registers (04 R67–R69): unlisted s, a and lc registers hold 0; `p` bit i is p_i; loops innermost first;
`frozen` is the interrupted program's loop stack while a handler runs. -/
structure ScalarSt where
  s : SMap Word
  a : SMap Word
  p : BitVec 8
  lc : SMap Word
  loops : List LoopEnt
  frozen : Option (List LoopEnt)
  deriving DecidableEq, Repr

/-! ### Vector side (spec 05) -/

/-- An operand latch (03 R46). -/
structure Latch where
  reg : Nat
  val : List W32
  valid : Bool
  deriving DecidableEq, Repr

/-- Vector-side state (05 R91). Lane l of v_r of cluster c has key (48c + r)·16 + l; m_r of cluster c key 8c + r;
latch of position 0 (a) or 1 (b) of cluster c key 2c + position; generator 16c + l; pattern entry e, lane l key 16e + l. -/
structure VecSt where
  v : SMap W32
  m : SMap (BitVec 16)
  latch : SMap Latch
  gen : SMap W32
  pat : SMap (BitVec 5)
  deriving DecidableEq, Repr

/-! ### Results in flight (spec 03 R57, 06 R117) -/

/-- What lands: a register, lanes of a vector register, bits of a mask or of the predicates, a special register,
TACK's and PREQ's bit, the flags of a cluster, or bytes stored to an own scratchpad buffer: by a plain address, with the cycle of
service the store got (07 R132, R134), or through the core's own window (07 R135). -/
inductive Land where
  | s (r : Nat) (x : Word)
  | a (r : Nat) (x : Word)
  | p (which x : BitVec 8)
  | v (c r : Nat) (which : BitVec 16) (x : List W32)
  | m (c r : Nat) (which x : BitVec 16)
  | sr (n : Nat) (x : Word)
  | mode (x : BitVec 8)
  | ack
  | pp
  | fl (c : Nat) (f : BitVec 5)
  | st (b off q : Nat) (x : List Byte)
  | stw (b off : Nat) (x : List Byte)
  deriving DecidableEq, Repr

/-- A result issued and not yet landed: landing cycle, issue cycle, bundle and slot that issued it. -/
structure Pend where
  due : Nat
  born : Nat
  pc : Word
  slot : Nat
  eff : Land
  deriving DecidableEq, Repr

/-! ### Issue (spec 03 R60) -/

/-- What a core's scratchpad ports did in one cycle (07 R131, R134): the cycle, the bytes taken of each port, and the bits
written: rank of the writer (0 scheduled, 1 core, 2 a window request, 3 Teasel, 4 the copy engine), the core it acts for, buffer,
line offset, mask. -/
structure SpCycle where
  at_ : Nat
  used : SMap Nat
  wr : List (Nat × Nat × Nat × Nat × Nat)
  deriving DecidableEq, Repr

/-- Bytes of the W-, A- and C-buffer; `epoch` counts the dispatches that left their contents unspecified; `cyc` is the last
cycle in which a port was used. -/
structure SpadSt where
  w : SMap Byte
  a : SMap Byte
  c : SMap Byte
  epoch : Nat
  cyc : SpCycle
  deriving DecidableEq, Repr

/-- A store of a bundle that waits for its ports: cycle of service, buffer, offset, bytes. -/
structure StRec where
  q : Nat
  buf : Nat
  off : Nat
  x : List Byte
  deriving DecidableEq, Repr

/-- What a bundle that waited for its ports knows of its accesses (07 R132): the cycles of service still to be used, in the
order the accesses ask, the stores, the buffers as they stood in the first cycle, and the last cycle of service. -/
structure Served where
  qs : List Nat
  sts : List StRec
  sp : SpadSt
  last : Nat
  deriving DecidableEq, Repr

/-- A bundle whose lower slots have committed and whose slot `slot` waits (17 R296): its address and level, where the core goes on
after it, whether a slot-0 transfer was taken, what its slots count, and the register results of the lower slots, which land as
those of the bundle when it issues: no slot sees another's (03 R54, R57). -/
structure Part where
  pc : Word
  pl : Bool
  slot : Nat
  npc : Word
  taken : Bool
  cnt : SMap Nat
  res : List Pend
  deriving DecidableEq, Repr

/-- A lasting memory error that the access in a slot of the core's next bundle with that slot meets, 14 for the header (19 R332):
the slot, DETAIL, virtual and physical address, the quad mate whose scratchpad has the error. -/
structure MemHit where
  slot : Nat
  detail : Nat
  va : Word
  pa : Nat
  mate : Option Nat
  deriving DecidableEq, Repr

/-- The bundle in progress. `npc` is where the core continues and `from_` the slot it starts there with; `slot` the slot
executing; `seq` the next bundle in sequence; `busy` that slots of it are yet to run; `trapped` that a handler was
entered; `held` that the bundle waits, with the event of 24 Table 24-2 the wait counts under; `wait` how the bundle at
`npc` has waited already (0 not, 1 a wait no group item ends, 2 one that may be left at a STOP boundary, 16 R284, 3 a
suspension under way, 16 R283); `taken` that a slot-0 transfer was taken; `cnt` what the counters may select; `roll` that
the team must be rolled back (19 R322, R332), and whether it is LOST. `got` holds the code lines fetched for the bundle, each
wholly old or wholly new (03 R59). `qs` collects the cycles in which the ports serve the bundle's accesses, counted from the
first; once the bundle has waited for them, `early` holds what was found (07 R132). `split`: the slot that waits, waits for what lower
slots of its own bundle did; then they commit, and `parts` names the bundle, one at most for a level. `err` is a lasting error that
an access of the core is about to meet. `pm0` are the counters as they stood before the bundle, which its MFS reads (24 R382). -/
structure Iss where
  pc : Word
  hdr : W32
  words : List (Nat × W32)
  npc : Word
  seq : Word
  slot : Nat
  from_ : Nat
  busy : Bool
  trapped : Bool
  held : Option Nat
  taken : Bool
  cnt : SMap Nat
  wait : Nat
  roll : Option Bool
  got : SMap (List Byte)
  qs : List Nat
  early : Option Served
  split : Bool
  parts : List Part
  err : Option MemHit
  pm0 : Option (SMap Word)
  deriving DecidableEq, Repr

/-- The instruction path (03 R59): code lines fetched since the last ICINV, by physical line. -/
structure IPath where
  lines : SMap (List Byte)
  deriving DecidableEq, Repr

/-! ### Special registers (spec 19 R312–R314, 06 R125, 02 R30) -/

/-- Exception and control registers. -/
structure XRegs where
  pl : Bool
  ppl : Bool
  ack : Bool
  dh : Bool
  pp : Bool
  cause : Word
  cause2 : Word
  fa : Word
  fa2 : Word
  xpc : Word
  xfpc : Word
  xnpc : Word
  xslot : Word
  xmode : Word
  xsp : Word
  xbase : Word
  mode : BitVec 8
  fpstat : Word
  ttb : Word
  wdogr : Word
  ftab : SMap W32
  deriving DecidableEq, Repr

/-- A late fault found and not taken (08 R162, 10 R206, 13 R241). `who`: 0 a core access refused at its home, 1 the copy
engine's head command, 2 Teasel's work. -/
structure LateF where
  cause : Nat
  detail : Nat
  fa : Word
  pc : Word
  slot : Nat
  fpc : Word
  who : Nat
  deriving DecidableEq, Repr

/-- Items that wait for a boundary (19 R318); for how many cycles at user level without a STOP boundary the watchdog's expiry, the
request and the pre-emption have waited (16 R286); whether the last bundle set STOP; the last window of
1,000 cycles, counted from 1, in which the core had matrix or vector work (25 R403). -/
structure EventSt where
  fpx : Option (Word × Nat)
  late : List LateF
  wdog : Bool
  ccreq : Option Word
  wdogAge : Nat
  reqAge : Nat
  ppAge : Nat
  stopped : Bool
  work : Nat
  deriving DecidableEq, Repr

/-! ### Scratchpads and stream buffers (spec 07) -/

/-- A stream-buffer entry's configuration and counters (07 R142, R143). -/
structure SbCfg where
  v : Bool
  base : Nat
  cnt : Nat
  sz : Nat
  cons : Nat
  prod : Nat
  buf : Nat
  pp : BitVec 32
  cc : BitVec 32
  deriving DecidableEq, Repr

/-- A change to an entry and when it is seen (07 R146): issued in cycle `t` by the core at position `by_`. -/
inductive SbChg where
  | advP (t by_ n : Nat)
  | advC (t by_ n : Nat)
  | cfg (t by_ : Nat) (c : SbCfg)
  deriving DecidableEq, Repr

/-- An entry: what every core of the quad sees, and the changes some do not see yet, oldest first. -/
structure SbEnt where
  base : SbCfg
  chg : List SbChg
  deriving DecidableEq, Repr

/-- Entries hosted and handles held (position, entry) (07 R142). -/
structure SbSt where
  ent : SMap SbEnt
  hnd : SMap (Nat × Nat)
  deriving DecidableEq, Repr

/-! ### Copy engine and completion (spec 08) -/

/-- What one destination line of a command will receive: space (0 device memory, 1 the core's own scratchpad address, 2
a quad mate's), line address, which bits, their values; for CPYA the values to add per 4-byte element, in loop order;
`own` holds those bits that are of the destination itself and not of its scale tensor. -/
structure OutLine where
  sp : Nat
  addr : Word
  mask : Nat
  val : Nat
  adds : List (Nat × Num)
  own : Nat
  deriving DecidableEq, Repr

/-- The instruction that gave a command. -/
inductive CopyKind where
  | cpy | cpya | cpym | cpyq | pref
  deriving DecidableEq, Repr

/-- A command the engine accepted (08 R157): the captured descriptor bytes, format words and rounding, and how far it
has come; the address space and level it acts in; the pages a copy request captured (12 R219); the chunks of its span in which no line of it lies; lines and, at `stage` 1, the
digest sent to another package and not yet answered, and the packages at which lines wait to be published (at `stage` 2 they
have been told to). -/
structure CopyCmd where
  kind : CopyKind
  pc : Word
  desc : List Byte
  fs : W32
  fd : W32
  rm : Nat
  tag : Nat
  cb : Nat
  tgt : Nat
  arg : Word
  arg2 : Word
  ttb : Word
  sup : Bool
  pages : SMap Nat
  started : Bool
  out : List OutLine
  total : Nat
  flags : BitVec 5
  digest : Word
  held : Bool
  status : Nat
  bytes : Nat
  notice : Option (Word × List Byte)
  gap : BitVec 256
  sent : List OutLine
  stage : Nat
  far : List Nat
  deriving DecidableEq, Repr

/-- The copy engine, the bitmaps and the event queue; `resv` counts entries reserved and not posted. -/
structure CopySt where
  cmds : List CopyCmd
  cb : SMap (BitVec 256)
  evq : List Word
  evNew : List (Nat × Word)
  resv : Nat
  deriving DecidableEq, Repr

/-! ### Matrix unit (spec 09) -/

/-- A weight plane (09 R167): cell (row, col) has key 128·row + col and holds the element's encoding in the captured
format; scale of block (bi, bj) key 8·bi + bj, 0x7F where unlisted; rows and columns of the tile it was loaded from, beyond which
cells hold zero (09 R179); whether the elements are those of an MX tensor. -/
structure Plane where
  cells : SMap Nat
  scales : SMap Byte
  rows : Nat
  cols : Nat
  fmt : W32
  mx : Bool
  loaded : Bool
  deriving DecidableEq, Repr

/-- Bits of one 64-byte scratchpad line to be written: buffer, line offset, mask and values. -/
structure SpWrite where
  buf : Nat
  off : Nat
  mask : Nat
  val : Nat
  deriving DecidableEq, Repr

/-- An S12 command in flight (09 R174): what it holds until when, the ranges it reads and writes, what lands at the end
of cycle `land`. Ranges are (buffer, first byte, byte after the last); ports are (port, first cycle, cycle after). -/
structure S12Cmd where
  land : Nat
  arrayTill : Nat
  drainTill : Nat
  planeTill : List (Nat × Nat)
  reads : List (Nat × Nat × Nat)
  writes : List (Nat × Nat × Nat)
  ports : List (Nat × Nat × Nat)
  out : List SpWrite
  plane : List (Nat × Plane)
  hist : List Nat
  isH : Bool
  flags : BitVec 5
  deriving DecidableEq, Repr

/-- The matrix unit's state (09 R167, R181–R183, 02 R28). -/
structure MatSt where
  p0 : Plane
  p1 : Plane
  act : Nat
  dscl : BitVec 8
  hbase : BitVec 8
  hist : SMap (BitVec 32)
  gcol : SMap W32
  flight : List S12Cmd
  td : SMap (BitVec 256)
  deriving DecidableEq, Repr

/-! ### Thunk table (spec 10) -/

/-- A source of a node: another node by its sequence number, or a captured descriptor with its format words; a released
leaf keeps neither. -/
inductive TSrc where
  | node (seq : Nat)
  | leaf (d : BitVec 256) (fmt : W32)
  deriving DecidableEq, Repr

/-- A computed 16 × 16 block: element encodings row by row, and the scale byte of an MX value. -/
structure TBlk where
  els : List Nat
  scale : Nat
  deriving DecidableEq, Repr

/-- A node of the table (10 R193): recorded word and bundle, sequence number, sources, TMAP's map words, result shape,
format word and MX mark, rounding mode, seed, computed blocks (block (bi, bj) key 65536·bi + bj), and whether its leaf
ranges were released and its blocks made permanent (10 R205). -/
structure TNode where
  seq : Nat
  word : W32
  pc : Word
  srcs : List TSrc
  map0 : Word
  map1 : Word
  rows : Nat
  cols : Nat
  fmt : W32
  mx : Bool
  mode : Nat
  seed : W32
  blks : SMap TBlk
  perm : Bool
  deriving DecidableEq, Repr

/-- State of a tile value (10 R186). -/
inductive TvSt where
  | undef | pend (seq : Nat) | homed
  deriving DecidableEq, Repr

/-- A tile value: its state, and its home with the home's format word. -/
structure TVal where
  st : TvSt
  home : Option (BitVec 256 × W32)
  deriving DecidableEq, Repr

/-- A leaf source staged for a block that is to be computed (10 R201): the node, the block's key, which source, and the 64-byte
lines read, by address. -/
structure Staged where
  node : Nat
  blk : Nat
  src : Nat
  lines : SMap (List Byte)
  deriving DecidableEq, Repr

/-- Work Teasel has to do (10 R202–R205). `kind`: 0 TFORCE, 1 TSTORE, 2 eviction, 3 hazard force. `src` is the value's
node or home at acceptance; the window; the region written; nodes to be forced whole first (looked up once `preSet`);
blocks of the window still to do and how many there were; whether the region's lines are worked out, those left, the chunks of its span without one, those sent to
another package and not yet answered, the packages at which lines wait to be published, and whether they were told to; leaf
sources staged, and the window's blocks as they were computed, which the arena need not keep; blocks computed; the address space it acts in; whether it is held by a late fault, and holds the matrix unit. -/
structure TReq where
  kind : Nat
  pc : Word
  fpc : Word
  tag : Nat
  cb : Nat
  src : TSrc
  r0 : Nat
  c0 : Nat
  rows : Nat
  cols : Nat
  region : Option (BitVec 256 × W32)
  tv : Nat
  pre : List Nat
  preSet : Bool
  todo : List (Nat × Nat)
  total : Nat
  planned : Bool
  out : List OutLine
  gap : BitVec 256
  sent : List OutLine
  far : List Nat
  told : Bool
  stg : List Staged
  kept : SMap TBlk
  flags : BitVec 5
  blocks : Nat
  ttb : Word
  sup : Bool
  held : Bool
  busy : Bool
  deriving DecidableEq, Repr

/-- The thunk table. `arena` holds the TCFG words; a phase's sets share the region checker. -/
structure ThunkSt where
  tv : SMap TVal
  nodes : List TNode
  nextSeq : Nat
  seed : W32
  arenaA : Word
  arenaB : Word
  reqs : List TReq
  deriving DecidableEq, Repr

/-! ### The continuation a core runs (spec 16) -/

/-- A continuation record (16 Table 16-2) with what dealing knows of it: its logical index, its FIXED slot, whether it
waits for its first dispatch, and whether it has been pre-empted (16 R290). -/
structure Cont where
  pc : Word
  keep : Bool
  task : Nat
  team : Nat
  prio : Nat
  det : Bool
  ctx : Nat
  args : List Word
  idx : Nat
  slot : Option Nat
  fresh : Bool
  pre : Bool
  deriving DecidableEq, Repr

/-- The continuation a core runs, and the held instructions' bookkeeping: team, task, priority, mark DET, pool slot,
footprint in KiB; logical index and FIXED slot; whether it runs at the privilege a management LAUNCH gives. -/
structure TaskSt where
  cont : Option Cont
  fw : Nat
  fa : Nat
  fc : Nat
  deriving DecidableEq, Repr

/-- Translation kept by a cache (12 R217): ASID, first virtual address, size in bits, leaf entry, table entries read. -/
structure TlbE where
  asid : Nat
  va : Nat
  bits : Nat
  leaf : Word
  path : List Nat
  deriving DecidableEq, Repr

/-- A next-level entry of a walk cache (12 R217): ASID, virtual prefix from bit `bits` up, next table, entries read. -/
structure WalkE where
  asid : Nat
  va : Nat
  bits : Nat
  tab : Nat
  path : List Nat
  deriving DecidableEq, Repr

/-- The core's side of device memory: read cache (13 R231), translation cache (most recent first), FENCE record (13
R246), memory-side and collective commands outstanding (14 R255, 21 R352), object lines held, the BARP arrival (17 R297), the
remote access the core waits for: sent, answered with a reply, failed (21 R348); registrations at queues of other packages
(package, tag) (14 R258), and packages reached since the last flush marker (13 R253); entries that homes of other packages have
still to deliver before the first bundle (19 R331); statuses of OPTCTL the home has not answered yet: register and issue cycle (14
R255). -/
structure CMem where
  rc : SMap (List Byte)
  tlb : List TlbE
  fCount : Nat
  fRefused : Bool
  fDead : Bool
  msOut : Nat
  colOut : Nat
  held : List Nat
  barp : Option (Nat × Nat × Nat)
  rem : Option (Option (Option Nat))
  regs : List (Nat × Nat)
  reach : List Nat
  due : Int
  ans : List (Nat × Nat)
  deriving DecidableEq, Repr

/-- Performance counters and the measurement state of the task (spec 24): pmc and PMSEL by number, the path hash, an open
pass (its REF bit, whether a home found it BROKEN), the reference hash. -/
structure PmSt where
  pmc : SMap Word
  sel : SMap Word
  cph : Word
  open_ : Bool
  refp : Bool
  ref_ : Option Word
  deriving DecidableEq, Repr

/-- A declared phase range (23 R370): buffer, first byte, byte after the last, agent, write set. -/
structure PhaseR where
  buf : Nat
  lo : Nat
  hi : Nat
  agent : Nat
  wr : Bool
  deriving DecidableEq, Repr

/-- The states of a core (19 R310). -/
inductive CoreSt where
  | idle | run | handler | save | dhalt
  deriving DecidableEq, Repr

/-- One core. `num` is the global core number, or the control-core number when `ctl`; `now` is its cycle clock and
`born` the clock at its reset. -/
structure Core where
  num : Nat
  ctl : Bool
  st : CoreSt
  now : Nat
  born : Nat
  sc : ScalarSt
  vec : VecSt
  pend : List Pend
  iss : Iss
  path : IPath
  x : XRegs
  ev : EventSt
  sp : SpadSt
  sb : SbSt
  cp : CopySt
  mx : MatSt
  th : ThunkSt
  task : TaskSt
  cm : CMem
  pm : PmSt
  phase : List PhaseR
  deriving DecidableEq, Repr

/-! ### Homes: objects, accumulators, shadows, captures (spec 12, 13, 23) -/

/-- Who holds an object or waits for it: team, pool slot, and the core that runs the continuation, while one does
(13 R240, 19 R331). -/
structure Agent where
  team : Nat
  slot : Nat
  core : Option Nat
  deriving DecidableEq, Repr

/-- A bound range: the virtual address and length it was bound by, and its physical lines as pieces (first byte, bytes). -/
structure BRange where
  va : Word
  len : Nat
  pcs : List (Nat × Nat)
  deriving DecidableEq, Repr

/-- How an object is held (13 R234). -/
inductive Holding where
  | free
  | shared (hs : List Agent)
  | excl (h : Agent)
  | engine (n : Nat)
  deriving DecidableEq, Repr

/-- An object-table entry (13 R234): object line, scope, instance, ranges, holding, waiters in arrival order with their
wish for exclusive holding, release count, the team and rollback window that created it. -/
structure Obj where
  line : Nat
  scope : Nat
  inst : Nat
  ranges : List BRange
  hold : Holding
  wait : List (Agent × Bool)
  rel : BitVec 32
  maker : Nat
  inWin : Bool
  deriving DecidableEq, Repr

/-- An exact accumulator (23 R366). -/
structure Acc where
  sum : BitVec 280
  nan : Bool
  pinf : Bool
  ninf : Bool
  deriving DecidableEq, Repr

/-- A shadow of one line (13 R243): the line, which bits, their values, who writes (the core's number, or 2048 and up for
an engine of the package), the team it acts for, the class of the leaf, whether the line is bound, and whether an in-DRAM copy
wrote it, whose lines no L2 takes (13 R244). -/
structure Shadow where
  line : Nat
  mask : Nat
  val : Nat
  owner : Nat
  team : Nat
  cls : Nat
  bound : Bool
  dram : Bool
  deriving DecidableEq, Repr

/-- A capture area (12 R228, 25 R396): physical base and slot count. -/
structure CapArea where
  base : Nat
  n : Nat
  deriving DecidableEq, Repr

/-- A team's open window on one stack (12 R228, R229, 23 R373): captured granules with the slot each took, BROKEN, lines
written with the value that counts in the digest, this home's share of the kernel digest, accumulators as they stood (23 R366);
bytes that log records took in the window, as they were before (23 R377). -/
structure Win where
  caps : List (Nat × Nat)
  broken : Bool
  lines : SMap (List Byte)
  digest : Word
  accs : List (Nat × Option Acc)
  logs : SMap Byte
  deriving DecidableEq, Repr

/-- A line held by a die's L2 (12 R223): line number, way, class, dirty, teams whose open pass marked it (24 R388). The
lines of a set stand most recently used first. -/
structure L2Line where
  line : Nat
  way : Nat
  cls : Nat
  dirty : Bool
  mark : List Nat
  deriving DecidableEq, Repr

/-! ### Memory-side engines (spec 14) -/

/-- A waiter of a queue (14 R258): who, the A-buffer offset to write, the tag, an entry held for it while it is away. -/
structure QWait where
  who : Agent
  off : Nat
  tag : Nat
  due : Option (List Byte)
  deriving DecidableEq, Repr

/-- A queue (14 R256): whether it exists, capacity, storage, admitted ASID, generation, entries oldest first, waiters
oldest first. -/
structure Queue where
  live : Bool
  cap : Nat
  base : Nat
  asid : Nat
  hgen : Nat
  ents : List (List Byte)
  waits : List QWait
  deriving DecidableEq, Repr

/-- A registered Sorrel region (14 R260, R261): physical address of its record and the class of its leaf, the 64 KiB pages captured
(virtual page to 8 × physical page + 4 × REM + class of the leaf), the registering team and level. -/
structure Region where
  rec_ : Nat
  rcls : Nat
  pages : SMap Nat
  team : Nat
  sup : Bool
  deriving DecidableEq, Repr

/-- How far an accepted arrival is (14 R264): blocks updated, gradients used, the lane generators, the flags raised. -/
structure ArrRun where
  done : Nat
  pos : Nat
  gens : List W32
  fl : BitVec 5
  deriving DecidableEq, Repr

/-- An OPTCTL of a core in its place among a region's arrivals (14 R262): the core, what it does, the register its status goes to and
its issue cycle; `late` where the core goes on meanwhile, otherwise its bundle waits. -/
structure CtlOp where
  core : Nat
  func : Nat
  d : Nat
  born : Nat
  late : Bool
  deriving DecidableEq, Repr

/-- An arrival at a region (14 R263): the region's record (none when it was not registered), the sending core and its
record's tag, or the collective; the gradient data's address and the pages captured for it, or the bytes a collective
staged; whether the data cannot be read; block range, SEQ, SRC; how far it is, once accepted. With `ctl` it is no arrival but an
OPTCTL, in its place among them, with SETHP's line as data. -/
structure Arr where
  rec_ : Option Nat
  core : Option (Nat × Nat)
  coll : Option Nat
  grad : Nat
  pages : SMap Nat
  data : Option (List Byte)
  bad : Bool
  blk0 : Nat
  nblk : Nat
  seq : Nat
  src : Nat
  run : Option ArrRun
  ctl : Option CtlOp
  deriving DecidableEq, Repr

/-- An in-DRAM command in flight (14 R269, R270): core, tag, destination and source unit, team, virtual destination, the
bundle that gave it, whether the destination is written. -/
structure DramCmd where
  core : Nat
  tag : Nat
  dst : Nat
  src : Option Nat
  team : Nat
  va : Word
  pc : Word
  cls : Nat
  written : Bool
  deriving DecidableEq, Repr

/-! ### Distributor (spec 16) -/

/-- A copied job card with its argument table (16 R274, R275). -/
structure Card where
  entry : Word
  narg : Nat
  n : Nat
  det : Bool
  gang : Bool
  prio : Nat
  deal : Nat
  fw : Nat
  fa : Nat
  fc : Nat
  size : Nat
  e0 : Nat
  e1 : Nat
  e2 : Nat
  perm : Nat
  after : Option Nat
  doneq : Word
  args : List (Word × Nat)
  deriving DecidableEq, Repr

/-- State of a context-pool slot (16 R276, R282, R283). -/
inductive SlotKind where
  | free | running | ready | suspended
  deriving DecidableEq, Repr

/-- A context-pool slot: its state, its team, the saved context with the late faults of held commands (with KEEP = 1),
the continuation that has it, the register written after its restore with the value, the object lines of its control
block and its registrations at queues of other packages (package, tag) (19 R331), the records posted for it while no saved
context can take them (14 R258). -/
structure PSlot where
  st : SlotKind
  team : Nat
  ctx : Option Core
  cont : Option Cont
  ret : Option (Nat × Word)
  held : List Nat
  regs : List (Nat × Nat)
  posts : List Word
  deriving DecidableEq, Repr

/-- A team's checkpoint (19 R333, R334): unended continuations, undealt work, live counts, pool slots with what they held,
ended members of running gangs, slots dealt in part. Meetings and objects are kept with the networks. -/
structure TeamCk where
  ready : List Cont
  back : List Nat
  nextIdx : Nat
  live : Nat
  conts : Nat
  slots : List (Nat × PSlot)
  gangEnd : List (Nat × Option Nat × Nat)
  part : SMap (Nat × Nat)
  deriving DecidableEq, Repr

/-- A team (16 R279–R281): generation of its number, card, ASID; live count and continuations not ended; undealt units
given back and the next unit never dealt (tasks or gangs under GUIDED, slots under FIXED); triggered or ended tasks, and
whether the trigger point was reached; ready continuations, oldest first; members of running gangs of FIXED slots that
have ended, with the core and the pool slot each keeps (16 R290, R291); rollback count; the physical address of its log block,
records reserved in its scheduler log for picks and for deals, cores with a pre-emption asked whose two records are reserved (23
R378); first logical index left of a slot that is to be dealt again (16 R290); checkpoint, the core whose CKPT is in progress, and
whether dealing is stopped for it (19 R333). -/
structure Team where
  gen : Nat
  card : Card
  asid : Nat
  live : Nat
  conts : Nat
  back : List Nat
  nextIdx : Nat
  trig : List Nat
  trigd : Bool
  ready : List Cont
  gangEnd : List (Nat × Option Nat × Nat)
  rolls : Nat
  log : Option Nat
  logRes : Nat
  dealRes : Nat
  pre : List Nat
  part : SMap (Nat × Nat)
  ck : TeamCk
  ckBusy : Option Nat
  ckStop : Bool
  deriving DecidableEq, Repr

/-- A dealt task that waits in a quad for a free core (16 R289): its continuation, the cycle it was dealt. -/
structure QTask where
  quad : Nat
  cont : Cont
  since : Nat
  deriving DecidableEq, Repr

/-- A notice of the distributor (16 R280): its queue, bytes, the address space it is pushed for, the team whose number is freed
with it, whether it is on its way to another package. -/
structure Notice where
  h : Word
  bs : List Byte
  asid : Nat
  team : Option Nat
  sent : Bool
  deriving DecidableEq, Repr

/-- The distributor (16 R288, R289). -/
structure DistSt where
  teams : SMap Team
  gens : SMap Nat
  nextTeam : Nat
  pool : Option (Nat × Nat)
  slots : SMap PSlot
  age : SMap Nat
  rr : SMap Nat
  freeRep : SMap Nat
  quadq : List QTask
  toDo : List (Nat × Cont)
  notices : List Notice
  deriving DecidableEq, Repr

/-! ### Networks: barriers, meetings, replicas, collectives, links (spec 17, 21, 23) -/

/-- The barrier state of a key (17 R296): scope (0 .quad to 3 .pod), team, instance; episode number, its count, arrivals so
far (an episode is open while there is one). -/
structure BarSt where
  scope : Nat
  team : Nat
  inst : Nat
  epi : Nat
  n : Nat
  got : Nat
  deriving DecidableEq, Repr

/-- A contribution to a round: member, tag it was made for, its words, or the pieces of its tile (first byte, bytes, class of the
leaf). -/
structure Contrib where
  mem : Nat
  tag : Int
  x : List W32
  tile : List (Nat × Nat × Nat)
  deriving DecidableEq, Repr

/-- A tile result (17 R298): elements, pieces of the destination (first byte, bytes, class of the leaf). -/
structure TileOut where
  n : Nat
  pcs : List (Nat × Nat × Nat)
  deriving DecidableEq, Repr

/-- A round closed whose result is not out (17 R300, R301): T, A_m and contributions as they stood, the team's rollback count, whether
the task that closed it has a pass open, the pieces of its tiles read so far (first byte, length, bytes). -/
structure MeetClose where
  t : Int
  as_ : List Int
  ontime : List Contrib
  fold : List Contrib
  epoch : Nat
  meas : Bool
  got : List (Nat × Nat × List Byte)
  deriving DecidableEq, Repr

/-- A meeting (17 R298–R301): team, scope (0 .quad to 3 .pod), instance, number, generation; n, k, L, WGT, OP, CW, the tile
result; T, r_m and A_m by member; the open round's contributions; rounds closed whose result waits for tiles of other packages, oldest first;
the latest result with its counts and flags. -/
structure Meet where
  team : Nat
  scope : Nat
  inst : Nat
  mnum : Nat
  hgen : Nat
  n : Nat
  k : Nat
  lag : Nat
  wgt : Nat
  op : Nat
  cw : Nat
  tile : Option TileOut
  t : Int
  rs : List Int
  as_ : List Int
  ontime : List Contrib
  fold : List Contrib
  pend : List MeetClose
  res : List W32
  resCnt : Nat
  resDrop : Nat
  resFl : BitVec 5
  deriving DecidableEq, Repr

/-- A replica group (23 R374) of a team of the own package: number, members (package, handle), submissions (package, step,
digest) as they came, steps rolled back for, steps with an outcome. -/
structure Group where
  num : Nat
  mems : List (Nat × Nat)
  subs : List (Nat × Nat × Word)
  again : List Nat
  done : List (Nat × Nat)
  deriving DecidableEq, Repr

/-- A collective command held by the engine (21 R352–R359): its number, issuing core, team and pool slot, level; kind 0
RSCAT, 1 AGATH, 2 ARED, 3 SEND, 4 RECV; tag, descriptor, captured pages (virtual page to 8 × physical page + 4 × REM + class), ring; how
far it is: 0 accepted, 4 offered to the other members, 1 running, 2 its shard delivered to a region, 3 over; status, flags and bytes of its record; notices
still to push; the message a RECV was given. -/
structure Coll where
  id : Nat
  core : Nat
  team : Nat
  slot : Nat
  sup : Bool
  kind : Nat
  tag : Nat
  desc : List Byte
  pages : SMap Nat
  ring : List Nat
  at_ : Nat
  status : Nat
  flags : BitVec 5
  bytes : Nat
  notes : List (List Byte)
  data : Option (List Byte)
  deriving DecidableEq, Repr

/-- What a flit belongs to: a packet, or the end-to-end acknowledgement of one, from a package to another, by ESEQ. -/
structure PRef where
  frm : Nat
  to_ : Nat
  eseq : Nat
  ack : Bool
  deriving DecidableEq, Repr

/-- A flit sent on a link and not yet acknowledged there (21 R343, R344): LSEQ, what it belongs to, its 64 bytes, whether it
has been sent twice. -/
structure Flit where
  seq : Nat
  ref : PRef
  bytes : List Byte
  again : Bool
  deriving DecidableEq, Repr

/-- A torus link (21 R344, R360): state, next LSEQ to send and to accept, the LSEQ of the flit that comes next if none is sent again,
whether a NAK of the flit to accept is out, flits sent and not acknowledged, RETRY, EFAIL, the ACK and NAK flits sent, the payloads
accepted in order. -/
structure Link where
  st : Nat
  tx : Nat
  rx : Nat
  pos : Nat
  nak : Bool
  unack : List Flit
  retry : Nat
  efail : Nat
  replies : List (List Byte)
  inb : List (List Byte)
  deriving DecidableEq, Repr

/-- A packet not yet acknowledged end to end (21 R347): destination, ESEQ, cycle first sent and last sent, times sent
again, the link it left by, the request it carries. -/
structure Pkt where
  dst : Nat
  eseq : Nat
  first : Nat
  last : Nat
  again : Nat
  via : Option Nat
  req : PktReq
  deriving DecidableEq, Repr

/-- The packets of a source performed here (21 R347, 13 R253): every ESEQ before `low`, and those of `more`; packets that wait for
older ones or are held, with the cycle they came and 1 + the line they name; the collective engine's window of its last 4,096, newest first. -/
structure Seen where
  low : Nat
  more : List Nat
  wait : List (Nat × Nat × Nat)
  eng : List Nat
  deriving DecidableEq, Repr

/-- Torus state: links, packets in flight, next ESEQ per destination; packets performed here, by source; end-to-end
acknowledgements sent (source, ESEQ, refusal, reply); markers gathered, by source; collectives; commands
other members offered and no command of this package has met (package, what the matching compares); the number of the next SEND
to a package on a channel, and of the next to be taken from one (key 2^32 × package + channel). -/
structure NetSt where
  links : SMap Link
  pkts : List Pkt
  eseq : SMap Nat
  seen : SMap Seen
  acks : List (Nat × Nat × Nat × Nat)
  markers : SMap Nat
  colls : List Coll
  nextColl : Nat
  offers : List (Nat × List Nat)
  mailTo : SMap Nat
  mailFrom : SMap Nat
  deriving DecidableEq, Repr

/-! ### Control complex (spec 25) -/

/-- A front-end port (25 R402): descriptors of its receive and transmit queues, oldest first; frames sent, frames dropped. -/
structure Port where
  rx : List (List Byte)
  tx : List (List Byte)
  sent : List (List Byte)
  drop : Nat
  deriving DecidableEq, Repr

/-- A supervisor block (25 R397). -/
structure SupBlk where
  ttb : Word
  xbase : Word
  xspb : Word
  xsps : Word
  deriving DecidableEq, Repr

/-- Package registers, firmware and ports (spec 25): package number; the owner hash fused at provisioning; PODCFG, and a
value of it that waits for packets to drain; PWRSTAT, PCAP, the power controller's T of the window, whether a hot junction forces T to 63; L2QUOTA, CECNT, the log of transient errors (19 R332) by physical address, RSVSZ;
retired units; control command blocks waiting; measurement registers; state RUN, the loaded entry, the last SEQ accepted;
replies and events sent; halted by a thermal trip; ports; supervisor blocks, capture and measurement areas. -/
structure CtlSt where
  pkgNum : Nat
  owner : List Byte
  podcfg : Word
  podNext : Option Word
  pwr : Word
  pcap : Nat
  tNow : Nat
  forced : Bool
  l2q : SMap Word
  cecnt : SMap Nat
  soft : List Nat
  rsvsz : Nat
  retired : List Nat
  ccmd : List Nat
  mreg : SMap (List Byte)
  run : Bool
  entry : Nat
  lastSeq : Nat
  replies : List (List Byte)
  events : List (Nat × Nat × Nat)
  halted : Bool
  ports : SMap Port
  sup : SMap SupBlk
  caps : SMap CapArea
  meas : SMap CapArea
  deriving DecidableEq, Repr

/-- The homes' own state. -/
structure HomeSt where
  objs : List Obj
  accs : SMap Acc
  shadows : List Shadow
  wins : SMap Win
  mwins : SMap Win
  hseq : SMap Nat
  quad : SMap (List TlbE)
  walk : SMap (List WalkE)
  l2 : SMap (List L2Line)
  queues : SMap Queue
  regions : List Region
  arrivals : List Arr
  dram : List DramCmd
  deriving DecidableEq, Repr

/-- The networks; groups by own team, and what other packages announced of groups: package, number, members. -/
structure GrpSt where
  bars : List BarSt
  meets : List Meet
  mgen : SMap Nat
  ckMeets : SMap (List Meet)
  ckBars : SMap (List BarSt)
  ckObjs : SMap (List Obj)
  groups : SMap Group
  anns : List (Nat × Nat × List (Nat × Nat))
  deriving DecidableEq, Repr

/-- A memory error that ECC finds (19 R332), an input (log 119): one corrected and counted in CECNT register `k` (0–7
the stacks, 8–11 the dies); a transient one, logged; a lasting one that an access of the core in focus is to meet; a lasting one
that a memory-side agent meets on behalf of a team, and the arrival it stops, with the lines of the block already written and the
data that came from other packages (14 R267); one in the scratchpad or the weight array of core `k` that its copy engine, its Teasel,
its save path or a quad mate's engine meets, with the fault as it would be reported late. -/
inductive MemError where
  | corrected (k : Nat)
  | transient (pa : Nat)
  | lasting (hit : MemHit)
  | engine (team pa : Nat) (arrival : Option Nat) (lines : Nat) (remote : List Byte)
  | sram (k : Nat) (f : LateF)
  deriving DecidableEq, Repr

/-- What comes next (log 3): a core takes the focus, an agent's step is done, or a memory error is met. -/
inductive Move where
  | core (n : Nat) (ctl : Bool)
  | agent (i : Instr)
  | error (e : MemError)
  deriving DecidableEq, Repr

/-- The machine: the core in focus, the others by number (control core k has key 1024 + k), device memory by package and
physical address (package × 2^52 + address), the homes, the distributor, the networks, the torus, the control complex;
the cycle of the last step, the schedule, and the counter of free values. -/
structure State where
  core : Core
  others : SMap Core
  mem : SMap Byte
  home : HomeSt
  dist : DistSt
  grp : GrpSt
  net : NetSt
  ctl : CtlSt
  time : Nat
  sched : List Move
  free : Nat
  deriving DecidableEq, Repr

/-- Why the machine stops without a next state. -/
inductive Fault where
  /-- The package is halted by a thermal trip and a core is to issue (25
  R404): raised by `step`; safe, the machine has no step to take. -/
  | halted
  deriving DecidableEq, Repr

/-- Why an instruction has no meaning here. -/
inductive Refusal where
  /-- An instruction not modelled yet: raised by `exec` only; safe. -/
  | notModelled (mnemonic : String)
  deriving DecidableEq, Repr

/-! ### Reset (spec 25 R399) -/

def ScalarSt.reset : ScalarSt := { s := [], a := [], p := 1#8, lc := [], loops := [], frozen := none }

def VecSt.reset : VecSt := { v := [], m := [], latch := [], gen := [], pat := [] }

def Iss.reset : Iss :=
  { pc := 0, hdr := 0, words := [], npc := 0, seq := 0, slot := 0, from_ := 0, busy := false, trapped := false,
    held := none, taken := false, cnt := [], wait := 0, roll := none, got := [], qs := [], early := none, split := false, parts := [], err := none, pm0 := none }

def XRegs.reset (ctl : Bool) : XRegs :=
  { pl := ctl, ppl := false, ack := false, dh := false, pp := false, cause := 0, cause2 := 0, fa := 0, fa2 := 0,
    xpc := 0, xfpc := 0, xnpc := 0, xslot := 0, xmode := 0, xsp := 0, xbase := 0, mode := 1#8, fpstat := 0, ttb := 0,
    wdogr := 0x0100000001000000#64, ftab := [] }

def EventSt.reset : EventSt :=
  { fpx := none, late := [], wdog := false, ccreq := none, wdogAge := 0, reqAge := 0, ppAge := 0, stopped := false, work := 0 }

def SpadSt.reset : SpadSt := { w := [], a := [], c := [], epoch := 0, cyc := { at_ := 0, used := [], wr := [] } }

def SbSt.reset : SbSt := { ent := [], hnd := [] }

def CopySt.reset : CopySt := { cmds := [], cb := [], evq := [], evNew := [], resv := 0 }

def Plane.reset : Plane := { cells := [], scales := [], rows := 0, cols := 0, fmt := fp32Word, mx := false, loaded := false }

def MatSt.reset : MatSt :=
  { p0 := .reset, p1 := .reset, act := 0, dscl := 0, hbase := 0, hist := [], gcol := [], flight := [], td := [] }

def ThunkSt.reset : ThunkSt :=
  { tv := [], nodes := [], nextSeq := 0, seed := 0, arenaA := 0, arenaB := 0, reqs := [] }

def TaskSt.reset : TaskSt := { cont := none, fw := 0, fa := 0, fc := 0 }

def CMem.reset : CMem :=
  { rc := [], tlb := [], fCount := 0, fRefused := false, fDead := false, msOut := 0, colOut := 0, held := [],
    barp := none, rem := none, regs := [], reach := [], due := 0, ans := [] }

def PmSt.reset : PmSt := { pmc := [], sel := [], cph := 0, open_ := false, refp := false, ref_ := none }

/-- A core right after its reset: IDLE, every register at its Reset value (19 R310, 25 R399). -/
def Core.reset (num : Nat) (ctl : Bool) : Core :=
  { num := num, ctl := ctl, st := .idle, now := 0, born := 0, sc := .reset, vec := .reset, pend := [], iss := .reset,
    path := { lines := [] }, x := .reset ctl, ev := .reset, sp := .reset, sb := .reset, cp := .reset, mx := .reset,
    th := .reset, task := .reset, cm := .reset, pm := .reset, phase := [] }

def HomeSt.reset : HomeSt :=
  { objs := [], accs := [], shadows := [], wins := [], mwins := [], hseq := [], quad := [], walk := [], l2 := [],
    queues := [], regions := [], arrivals := [], dram := [] }

def DistSt.reset : DistSt :=
  { teams := [], gens := [], nextTeam := 0, pool := none, slots := [], age := [], rr := [],
    freeRep := [], quadq := [], toDo := [], notices := [] }

def GrpSt.reset : GrpSt := { bars := [], meets := [], mgen := [], ckMeets := [], ckBars := [], ckObjs := [], groups := [], anns := [] }

def NetSt.reset : NetSt :=
  { links := [], pkts := [], eseq := [], seen := [], acks := [], markers := [], colls := [], nextColl := 0,
    offers := [], mailTo := [], mailFrom := [] }

def CtlSt.reset : CtlSt :=
  { pkgNum := 0, owner := Config.secretBytes 0 [], podcfg := 0x8000#64, podNext := none, pwr := wd (1440 * 2 ^ 20), pcap := 1800, tNow := 0, forced := false, l2q := [],
    cecnt := [], soft := [], rsvsz := 64, retired := [], ccmd := [], mreg := [], run := false, entry := 0, lastSeq := 0,
    replies := [], events := [], halted := false, ports := [], sup := [], caps := [], meas := [] }

/-- The machine right after reset: package state LOAD, memory clear, every core IDLE, core 0 in focus, nothing scheduled. -/
def State.reset : State :=
  { core := .reset 0 false, others := [], mem := [], home := .reset, dist := .reset, grp := .reset, net := .reset,
    ctl := .reset, time := 0, sched := [], free := 0 }

end Sys2Proof.Machine
end

