-- ==== Sys2Proof/Machine/Ops.lean ====
section
/-!
DEFINITION. Machine/Ops.lean: the named operations every meaning is made of: reading registers, results and how they
land, special registers, counters, the clock, taking an exception and returning from one.
-/
namespace Sys2Proof.Machine

/-- An outcome of a step. -/
abbrev Out := Host.Outcome State Fault Refusal

/-! ### One part of the state changed -/

def onCore (f : Core → Core) (s : State) : State := { s with core := f s.core }
def onSc (f : ScalarSt → ScalarSt) : State → State := onCore (fun c => { c with sc := f c.sc })
def onVec (f : VecSt → VecSt) : State → State := onCore (fun c => { c with vec := f c.vec })
def onIss (f : Iss → Iss) : State → State := onCore (fun c => { c with iss := f c.iss })
def onX (f : XRegs → XRegs) : State → State := onCore (fun c => { c with x := f c.x })
def onEv (f : EventSt → EventSt) : State → State := onCore (fun c => { c with ev := f c.ev })
def onSb (f : SbSt → SbSt) : State → State := onCore (fun c => { c with sb := f c.sb })
def onCp (f : CopySt → CopySt) : State → State := onCore (fun c => { c with cp := f c.cp })
def onMx (f : MatSt → MatSt) : State → State := onCore (fun c => { c with mx := f c.mx })
def onTh (f : ThunkSt → ThunkSt) : State → State := onCore (fun c => { c with th := f c.th })
def onTask (f : TaskSt → TaskSt) : State → State := onCore (fun c => { c with task := f c.task })
def onCm (f : CMem → CMem) : State → State := onCore (fun c => { c with cm := f c.cm })
def onPm (f : PmSt → PmSt) : State → State := onCore (fun c => { c with pm := f c.pm })
def onHome (f : HomeSt → HomeSt) (s : State) : State := { s with home := f s.home }
def onDist (f : DistSt → DistSt) (s : State) : State := { s with dist := f s.dist }
def onGrp (f : GrpSt → GrpSt) (s : State) : State := { s with grp := f s.grp }
def onNet (f : NetSt → NetSt) (s : State) : State := { s with net := f s.net }
def onCtl (f : CtlSt → CtlSt) (s : State) : State := { s with ctl := f s.ctl }

/-- A line that the bundle takes words from is the same for all of them: wholly old or wholly new (03 R59). -/
def gotLine (a : Nat) (l : List Byte) : State → State := onIss (fun i => { i with got := mput i.got a l })

/-- A free value is drawn (log 4). -/
def draw (s : State) : Nat × State := (s.free, { s with free := s.free + 1 })

/-! ### Cores by number -/

/-- Key of a core among the others. -/
def coreKey (num : Nat) (ctl : Bool) : Nat := if ctl then 1024 + num else num

/-- Key of the core in focus. -/
def State.focus (s : State) : Nat := coreKey s.core.num s.core.ctl

/-- A core by key, in focus or not. -/
def coreAt (s : State) (k : Nat) : Core :=
  if k = s.focus then s.core
  else (mfind? s.others k).getD (if k < 1024 then .reset k false else .reset (k - 1024) true)

/-- The state with a core replaced. -/
def setCoreAt (k : Nat) (c : Core) (s : State) : State :=
  if k = s.focus then { s with core := c } else { s with others := mput s.others k c }

/-- A core changed where it is. -/
def onCoreAt (k : Nat) (f : Core → Core) (s : State) : State := setCoreAt k (f (coreAt s k)) s

/-- A core takes the focus. -/
def focusOn (k : Nat) (s : State) : State :=
  if k = s.focus then s
  else { s with core := coreAt s k, others := mput (mdel s.others k) s.focus s.core }

/-- Something done as by another core's agents: that core has the focus meanwhile. -/
def asCore (k : Nat) (f : State → State) (s : State) : State := focusOn s.focus (f (focusOn k s))

/-- Every compute core the state lists, the one in focus included. -/
def liveCores (s : State) : List (Nat × Core) :=
  (s.focus, s.core) :: s.others.filter (fun p => decide (p.1 ≠ s.focus))

/-! ### Registers read (03 R49: s0, p0 and m0 read their fixed values) -/

def rdS (s : State) (r : Nat) : Word := if r = 0 then 0 else mget 0 s.core.sc.s r
def rdA (s : State) (r : Nat) : Word := mget 0 s.core.sc.a r
def rdP (s : State) (r : Nat) : Bool := if r = 0 then true else bitAt s.core.sc.p r
def rdLc (s : State) (r : Nat) : Word := mget 0 s.core.sc.lc r
def rdTd (s : State) (r : Nat) : BitVec 256 := mget 0 s.core.mx.td r
def rdM (s : State) (c r : Nat) : BitVec 16 := if r = 0 then 0xFFFF else mget 0 s.core.vec.m (8 * c + r)

/-- Lane `l` of v_r of cluster c. -/
def laneOf (v : SMap W32) (c r l : Nat) : W32 := mget 0 v ((48 * c + r) * 16 + l)
/-- The sixteen lanes of v_r of cluster c. -/
def rdV (s : State) (c r : Nat) : List W32 := (List.range 16).map (laneOf s.core.vec.v c r)

/-- State of lane generator `16c + l` (02 R28). -/
def genOf (s : State) (n : Nat) : W32 := (mfind? s.core.vec.gen n).getD (seedState 0 n)

/-- The format-table word of an index (02 R15). -/
def ftabWord (s : State) (i : Nat) : W32 := (mfind? s.core.x.ftab i).getD (ftabReset i)

/-- Exposed mode (06 Table 6-3). -/
def exposed (s : State) : Bool := !bitAt s.core.x.mode 0

/-- FPSTAT.RM (02 R30). -/
def fpRm (s : State) : Nat := fld s.core.x.fpstat 57 55

/-! ### Counters (spec 24) -/

/-- An event counted at once under the selections in force; a core in IDLE or SAVE counts nothing (24 R382). -/
def pmAdd (e n : Nat) (c : Core) : Core :=
  if c.ctl || c.st = .idle || c.st = .save || c.st = .dhalt then c
  else
    let hit := fun i => let z := mget 0 c.pm.sel i
      bitAt z 8 && bitAt z (if c.x.pl then 7 else 6) && decide (fld z 5 0 = e)
    let pmc := (List.range 4).foldl (fun m i => if hit i then mset 0 m i (mget 0 m i + wd n) else m) c.pm.pmc
    { c with pm := { c.pm with pmc := pmc } }

/-- An event of the bundle in progress, counted in its issue cycle. -/
def cntEv (e n : Nat) : State → State := onIss (fun i => { i with cnt := mset 0 i.cnt e (mget 0 i.cnt e + n) })

/-- Something counted at a level and in a state that the core may have left since. -/
def asAt (pl : Bool) (st : CoreSt) (f : Core → Core) (c : Core) : Core :=
  let d := f { c with st := st, x := { c.x with pl := pl } }
  { d with st := c.st, x := { d.x with pl := c.x.pl } }

/-- A count raised. -/
def addCnt (e n : Nat) (m : SMap Nat) : SMap Nat := if n = 0 then m else mset 0 m e (mget 0 m e + n)

/-- The counts of a bundle added under the level it issued at (24 R382). -/
def applyCnt (pl : Bool) (cnt : SMap Nat) (c : Core) : Core :=
  asAt pl c.st (fun c => cnt.foldl (fun c p => if p.1 < 0x40 then pmAdd p.1 p.2 c else c) c) c

/-! ### Special registers (19 R312–R316) -/

/-- XSTAT as it reads (19 Table 19-3). -/
def xstatWord (x : XRegs) : Word := wd (b2n x.pl + 2 * b2n x.ppl + 4 * b2n x.ack + 8 * b2n x.dh + 16 * b2n x.pp)

/-- MSTAT as it reads (09 Table 9-6). FORCE is 1 while an accepted request of Teasel is at work and not held. -/
def mstatWord (c : Core) : Word :=
  wd (c.mx.act + 4 * b2n c.mx.p0.loaded + 8 * b2n c.mx.p1.loaded + 16 * b2n (!c.mx.flight.isEmpty) +
    32 * b2n (c.th.reqs.any (fun r => r.busy)) + 2 ^ 8 * c.mx.dscl.toNat + 2 ^ 16 * c.mx.hbase.toNat)

/-- COREID (19 Table 19-5). -/
def coreId (s : State) : Word := wd (s.core.num + 2 ^ 10 * s.ctl.pkgNum + 2 ^ 24 * b2n s.core.ctl)

/-- A special register as it stands. -/
def readSr (s : State) (n : Nat) : Word :=
  let x := s.core.x
  if n = 0x000 then xstatWord x else if n = 0x001 then x.cause else if n = 0x002 then x.cause2
  else if n = 0x003 then x.fa else if n = 0x004 then x.fa2 else if n = 0x005 then x.xpc else if n = 0x006 then x.xfpc
  else if n = 0x007 then x.xnpc else if n = 0x008 then x.xslot else if n = 0x009 then x.xmode
  else if n = 0x00A then x.xsp else if n = 0x00B then x.xbase else if n = 0x010 then x.mode.setWidth 64
  else if n = 0x011 then x.fpstat else if n = 0x012 then mstatWord s.core else if n = 0x013 then x.ttb
  else if n = 0x014 then x.wdogr else if n = 0x015 then coreId s
  else if 0x020 ≤ n ∧ n ≤ 0x02F then (ftabWord s (n - 0x020)).setWidth 64
  else if 0x030 ≤ n ∧ n ≤ 0x033 then mget 0 s.core.pm.pmc (n - 0x030)
  else if 0x034 ≤ n ∧ n ≤ 0x037 then mget 0 s.core.pm.sel (n - 0x034)
  else if n = 0x038 then wd (s.core.now - s.core.born) else 0

/-- FPSTAT after a write: RM and EN written, flag bits cleared where a one is written (02 Table 2-8). -/
def fpstatWrite (old x : Word) : Word :=
  (x &&& 0x03FC000000000000#64) ||| (old &&& ~~~x &&& 0x0003FFFFFFFFFFFF#64)

/-- A special register written: read-only registers and fields ignore it (19 R312–R314, 06 R125, 12 R214, 16 R285,
24 R380–R381). -/
def writeSr (n : Nat) (v : Word) (c : Core) : Core :=
  let x := c.x
  let put := fun (y : XRegs) => { c with x := y }
  if n = 0x000 then put { x with ppl := bitAt v 1 }
  else if n = 0x001 then put { x with cause := v &&& 0x3FFFF }
  else if n = 0x002 then put { x with cause2 := v &&& 0x3FFFF }
  else if n = 0x003 then put { x with fa := v } else if n = 0x004 then put { x with fa2 := v }
  else if n = 0x005 then put { x with xpc := v } else if n = 0x006 then put { x with xfpc := v }
  else if n = 0x007 then put { x with xnpc := v } else if n = 0x008 then put { x with xslot := v &&& 0xFF }
  else if n = 0x009 then put { x with xmode := v } else if n = 0x00A then put { x with xsp := v }
  else if n = 0x00B then put { x with xbase := v &&& ~~~3#64 }
  else if n = 0x010 then (if c.ctl then c else put { x with mode := v.setWidth 8 })
  else if n = 0x011 then put { x with fpstat := fpstatWrite x.fpstat v }
  else if n = 0x013 then put { x with ttb := v &&& ~~~0xFFF#64 }
  else if n = 0x014 then put { x with wdogr := (x.wdogr &&& 0xFFFFFFFF00000000#64) ||| (v &&& 0xFFFFFFFF#64) }
  else if 0x020 ≤ n ∧ n ≤ 0x02F then put { x with ftab := mput x.ftab (n - 0x020) (v.setWidth 32) }
  else if 0x030 ≤ n ∧ n ≤ 0x033 then { c with pm := { c.pm with pmc := mset 0 c.pm.pmc (n - 0x030) v } }
  else if 0x034 ≤ n ∧ n ≤ 0x037 then { c with pm := { c.pm with sel := mset 0 c.pm.sel (n - 0x034) (v &&& 0x1FF) } }
  else c

/-- Bits replaced where `which` has a one. -/
def mergeBits {w : Nat} (old which x : BitVec w) : BitVec w := (old &&& ~~~which) ||| (x &&& which)

/-! ### Scratchpad bytes of a core (07 R128, 16 R277) -/

/-- A byte of buffer `b` (0 W, 1 A, 2 C) of a core. -/
def spadByte (c : Core) (b off : Nat) : Byte :=
  let m := if b = 0 then c.sp.w else if b = 1 then c.sp.a else c.sp.c
  match mfind? m off with
  | some x => x
  | none => if c.sp.epoch = 0 then 0 else Config.freeSpad (coreKey c.num c.ctl) c.sp.epoch b off

/-- A byte stored. While an unlisted byte reads 0 the map lists no zero. -/
def spadPut (b off : Nat) (x : Byte) (c : Core) : Core :=
  let f := fun m => if c.sp.epoch = 0 then mset 0 m off x else mput m off x
  let sp := c.sp
  { c with sp := if b = 0 then { sp with w := f sp.w } else if b = 1 then { sp with a := f sp.a }
                 else { sp with c := f sp.c } }

/-- Bytes of a buffer. -/
def spadBytes (c : Core) (b off n : Nat) : List Byte := (List.range n).map (fun i => spadByte c b (off + i))

/-- Bytes stored from an offset up. -/
def spadWrite (b off : Nat) : List Byte → Core → Core
  | [], c => c
  | x :: r, c => spadWrite b (off + 1) r (spadPut b off x c)

/-- Bits of a line replaced: byte `i` of the line keeps the bits outside the mask. -/
def spadMasked (b off mask val : Nat) (c : Core) : Core :=
  (List.range 64).foldl (fun c i =>
    let m : Byte := BitVec.ofNat 8 (mask / 2 ^ (8 * i))
    if m = 0 then c
    else spadPut b (off + i) (mergeBits (spadByte c b (off + i)) m (BitVec.ofNat 8 (val / 2 ^ (8 * i)))) c) c

/-! ### Results landing (03 R57, 06 R117, 02 R31–R32, 03 R46) -/

/-- The latches of a register that is written are no longer valid (03 R46); `key` is 48 × cluster + register. -/
def dropLatch (key : Nat) (m : SMap Latch) : SMap Latch :=
  m.map (fun p => (p.1, if p.2.reg = key then { p.2 with valid := false } else p.2))

/-- Lanes of a vector register written where `which` has a one. -/
def putLanes (c r : Nat) (which : BitVec 16) (x : List W32) (v : SMap W32) : SMap W32 :=
  (List.range 16).foldl (fun v l => if bitAt which l then mset 0 v ((48 * c + r) * 16 + l) (nth 0 x l) else v) v

/-- One result lands. An enabled flag raises FPX (02 R32); of several operations whose enabled flags are set before the next
bundle issues, the first to land is the one XFA and XSLOT name, and one entry reports them all (DESIGN CHOICE, log 126: the
spec says nothing of several). -/
def landOne (p : Pend) (c : Core) : Core :=
  match p.eff with
  | .s r x => if r = 0 then c else { c with sc := { c.sc with s := mset 0 c.sc.s r x } }
  | .a r x => { c with sc := { c.sc with a := mset 0 c.sc.a r x } }
  | .p which x => { c with sc := { c.sc with p := mergeBits c.sc.p which x ||| 1 } }
  | .v cl r which x =>
    if which = 0 then c
    else { c with vec := { c.vec with v := putLanes cl r which x c.vec.v, latch := dropLatch (48 * cl + r) c.vec.latch } }
  | .m cl r which x =>
    if r = 0 then c
    else { c with vec := { c.vec with m := mset 0 c.vec.m (8 * cl + r) (mergeBits (mget 0 c.vec.m (8 * cl + r)) which x) } }
  | .sr n x => writeSr n x c
  | .mode x => if c.ctl then c else { c with x := { c.x with mode := x } }
  | .ack => { c with x := { c.x with ack := true } }
  | .pp => { c with x := { c.x with pp := true } }
  | .st b off _ x => spadWrite b off x c
  | .stw b off x => spadWrite b off x c
  | .fl cl f =>
    let en := fld c.x.fpstat 54 50
    let c := { c with x := { c.x with fpstat := c.x.fpstat ||| wd (f.toNat * 2 ^ (5 * cl)) } }
    if f.toNat &&& en ≠ 0 ∧ c.ev.fpx = none then { c with ev := { c.ev with fpx := some (p.pc, p.slot) } } else c

/-- Results due before cycle `t` land, earliest first; results of one cycle in the order they were issued. -/
def landBefore (t : Nat) : List Pend → Core → Core
  | [], c => { c with pend := [] }
  | p :: r, c => if p.due < t then landBefore t r (landOne p c) else { c with pend := p :: r }

/-- A flag entry stands after the results of its cycle. -/
def Land.isFlag : Land → Bool
  | .fl _ _ => true
  | _ => false

/-- A result put in the order of landing. -/
def insPend (p : Pend) : List Pend → List Pend
  | [] => [p]
  | q :: r =>
    if q.due < p.due ∨ (q.due = p.due ∧ (q.eff.isFlag = false ∨ p.eff.isFlag = true)) then q :: insPend p r
    else p :: q :: r

/-- What is left of an older result of the same bundle when a higher slot writes the same register (03 R57). -/
def Land.trim (new old : Land) : Option Land :=
  match new, old with
  | .s r _, .s q x => if r = q then none else some (.s q x)
  | .a r _, .a q x => if r = q then none else some (.a q x)
  | .p w _, .p u x => if u &&& ~~~w = 0 then none else some (.p (u &&& ~~~w) x)
  | .v c r w _, .v d q u x =>
    if c = d ∧ r = q then (if u &&& ~~~w = 0 then none else some (.v d q (u &&& ~~~w) x)) else some (.v d q u x)
  | .m c r w _, .m d q u x =>
    if c = d ∧ r = q then (if u &&& ~~~w = 0 then none else some (.m d q (u &&& ~~~w) x)) else some (.m d q u x)
  | .sr n _, .sr k x => if n = k then none else some (.sr k x)
  | _, e => some e

/-- Older results of the bundle trimmed. -/
def trimPend (t : Nat) (e : Land) (ps : List Pend) : List Pend :=
  ps.filterMap (fun q => if q.born = t then (e.trim q.eff).map (fun x => { q with eff := x }) else some q)

/-- A result of latency `lat` is issued: it lands at the end of cycle now + lat − 1 (06 R117). -/
def emit (lat : Nat) (e : Land) : State → State := onCore (fun c =>
  { c with pend := insPend ⟨c.now + lat - 1, c.now, c.iss.pc, c.iss.slot, e⟩ (trimPend c.now e c.pend) })

/-- MODE as the entries of this bundle leave it (06 R126: applied from the next bundle). -/
def modeNext (s : State) : BitVec 8 :=
  s.core.pend.foldl (fun m p => match p.eff with | .mode x => x | _ => m) s.core.x.mode

/-- A special register as the entries of this bundle leave it (24 R385 within one bundle). -/
def srNext (s : State) (n : Nat) : Word :=
  s.core.pend.foldl (fun v p => match p.eff with | .sr k x => if k = n then x else v | _ => v) (readSr s n)

/-! ### S12 commands landing (09 R174) -/

/-- A saturating count into a histogram bin (09 R182). -/
def histAdd (h : SMap (BitVec 32)) (k n : Nat) : SMap (BitVec 32) :=
  let v := (mget 0 h k).toNat + n
  mset 0 h k (if v < 2 ^ 32 then BitVec.ofNat 32 v else 0xFFFFFFFF)

/-- Flags of the matrix unit, kept in MATF (02 Table 2-8). -/
def setMatf (f : Flags5) (c : Core) : Core :=
  { c with x := { c.x with fpstat := c.x.fpstat ||| wd (f.toNat * 2 ^ 40) } }

/-- One command lands: its bytes, planes, counts and flags. -/
def landS12 (k : S12Cmd) (c : Core) : Core :=
  let c := k.out.foldl (fun c w => spadMasked w.buf w.off w.mask w.val c) c
  let mx := k.plane.foldl (fun m p => if p.1 = 0 then { m with p0 := p.2 } else { m with p1 := p.2 }) c.mx
  let h := (List.range 32).foldl (fun h i => if nth 0 k.hist i = 0 then h else histAdd h i (nth 0 k.hist i)) mx.hist
  setMatf k.flags { c with mx := { mx with hist := h } }

/-- Commands due before cycle `t` land in the order of issue. -/
def landFlights (t : Nat) (c : Core) : Core :=
  let (d, k) := c.mx.flight.partition (fun f => decide (f.land < t))
  let c := d.foldl (fun c f => landS12 f c) c
  { c with mx := { c.mx with flight := k } }

/-- Numbers in rising order, each once. -/
def insNat (n : Nat) : List Nat → List Nat
  | [] => [n]
  | m :: r => if n < m then n :: m :: r else if n = m then m :: r else m :: insNat n r

/-- Everything due before cycle `t` lands, cycle by cycle: in each the core's results, and then the S12 commands, whose writes
remain (07 R134). -/
def landAll (t : Nat) (c : Core) : Core :=
  if c.mx.flight.isEmpty then landBefore t c.pend { c with pend := [] }
  else
    let ds := (c.pend.map Pend.due ++ c.mx.flight.map S12Cmd.land).foldl (fun m d => if d < t then insNat d m else m) []
    ds.foldl (fun c d => landFlights (d + 1) (landBefore (d + 1) c.pend { c with pend := [] })) c

/-- The bits of 64-byte lines that bytes at an offset cover: (line offset, mask). -/
def lineMask (off n : Nat) : Nat × Nat := (off / 64 * 64, (2 ^ (8 * n) - 1) * 2 ^ (8 * (off % 64)))

/-- What a core and its S12 commands write in cycle `t` (07 R134). -/
def cycWrites (t : Nat) (c : Core) : List (Nat × Nat × Nat × Nat × Nat) :=
  c.pend.filterMap (fun p => match p.eff with
    | .st b off _ x => if p.due = t then some (1, 0, b, lineMask off x.length) else none
    | _ => none) ++
  c.mx.flight.flatMap (fun f => if f.land = t then f.out.map (fun w => (0, 0, w.buf, w.off, w.mask)) else [])

/-- Uses of ports noted for cycle `t`. -/
def noteCycle (t : Nat) (used : SMap Nat) (wr : List (Nat × Nat × Nat × Nat × Nat)) (c : Core) : Core :=
  let z := c.sp.cyc
  { c with sp := { c.sp with cyc := if z.at_ = t then { z with used := used.foldl (fun m p => addCnt p.1 p.2 m) z.used, wr := z.wr ++ wr }
                                    else { at_ := t, used := used, wr := wr } } }

/-! ### The clock (06 R117, R118; 16 R285; 19 R318) -/

/-- The watchdog's count falls while the core runs a task at user level (16 R285). -/
def tickWdog (k : Nat) (c : Core) : Core :=
  if c.ctl || c.x.pl || c.st ≠ .run then c
  else
    let n := fld c.x.wdogr 63 32
    let x := { c.x with wdogr := setFld c.x.wdogr 63 32 (n - k) }
    let hit := decide (n ≠ 0 ∧ n ≤ k) && decide (fld c.x.wdogr 31 0 ≠ 0)
    { c with x := x, ev := { c.ev with wdog := c.ev.wdog || hit } }

/-- An item waits for a group boundary (16 R286). -/
def groupItem (c : Core) : Bool := c.ev.wdog || c.ev.ccreq.isSome || c.x.pp

/-- Those of the next `k` cycles in which the array is held. -/
def arrayBusy (k : Nat) (c : Core) : Nat :=
  c.mx.flight.foldl (fun m f => let n := f.arrayTill - c.now
                                let n := if n < k then n else k
                                if m < n then n else m) 0

/-- The cycles an item has waited at user level: `k` more for one that waits, of which the last `j` where it came meanwhile; none
for one that does not (16 R286). Cycles of a handler leave the count as it stands. -/
def ageItem (run : Bool) (was is : Bool) (k j age : Nat) : Nat :=
  if !is then 0 else if !run then age else if was then age + k else j

/-- What `k` cycles count: cycle events, the watchdog, and for each item the cycles at user level in which it waits for a STOP
boundary (16 R286). -/
def countCycles (k : Nat) (c : Core) : Core :=
  let c := pmAdd 0x3F k (pmAdd (if c.x.pl then 0x3D else 0x3C) k c)
  let c := if c.cp.cmds.isEmpty then c else pmAdd 0x39 k c
  let c := pmAdd 0x37 (arrayBusy k c) c
  let c := if c.th.reqs.any (fun r => r.busy) then pmAdd 0x38 k c else c
  let d := tickWdog k c
  let run := !d.x.pl && decide (d.st = .run)
  let e := d.ev
  { d with ev := { e with wdogAge := ageItem run c.ev.wdog e.wdog k (k - fld c.x.wdogr 63 32) e.wdogAge,
                          reqAge := ageItem run true e.ccreq.isSome k k e.reqAge, ppAge := ageItem run true d.x.pp k k e.ppAge } }

/-- The clock of a core moves on by `k`: what is due lands. -/
def moveOn (k : Nat) (c : Core) : Core :=
  let n := c.now + k
  let wr := cycWrites (n - 1) c
  let c := if wr.isEmpty ∨ k = 0 then landAll n c else noteCycle (n - 1) [] wr (landAll n c)
  let q := c.cp.evNew.partition (fun p => decide (p.1 < n))
  { c with now := n, cp := { c.cp with evq := c.cp.evq ++ q.1.map Prod.snd, evNew := q.2 } }

/-- `k` cycles pass on a core. -/
def passCore (k : Nat) (c : Core) : Core := moveOn k (countCycles k c)

/-- A core's clock in core-clock cycles: the control clock is twice as fast (25 R404). -/
def coreTime (c : Core) : Nat := if c.ctl then c.now / 2 else c.now

/-- The core in focus moved on in time; the package's clock follows. -/
def inTime (c : Core) (s : State) : State := { s with core := c, time := if s.time < coreTime c then coreTime c else s.time }

/-- `k` cycles pass on the core in focus. -/
def pass (k : Nat) (s : State) : State := inTime (passCore k s.core) s

/-- `k` cycles pass that count at a level and in a state the core may have left. -/
def passAs (pl : Bool) (st : CoreSt) (k : Nat) (s : State) : State := inTime (moveOn k (asAt pl st (countCycles k) s.core)) s

/-- The last cycle at which a result of the core lands, or its present cycle less one. -/
def lastDue (c : Core) : Nat := c.pend.foldl (fun m p => if m < p.due + 1 then p.due + 1 else m) c.now

/-- Results of lower slots that a waiting bundle keeps (03 R54) become results of the present cycle. -/
def rejoin (c : Core) : Core :=
  if c.iss.parts.all (fun p => p.res.isEmpty) then c
  else
    let rs := c.iss.parts.flatMap Part.res
    { c with iss := { c.iss with parts := c.iss.parts.map (fun p => { p with res := [] }) },
             pend := rs.foldl (fun ps p => insPend { p with due := p.due - p.born + c.now, born := c.now } ps) c.pend }

/-- Every issued register result lands (03 R55). -/
def drain (s : State) : State :=
  let s := onCore rejoin s
  if s.core.pend.isEmpty then s else pass (lastDue s.core - s.core.now) s

/-- What ends after `now` ends `k` cycles later. -/
def S12Cmd.later (now k : Nat) (f : S12Cmd) : S12Cmd :=
  let sh := fun x => if x ≤ now then x else x + k
  { f with land := f.land + k, arrayTill := sh f.arrayTill, drainTill := sh f.drainTill,
           planeTill := f.planeTill.map (fun p => (p.1, sh p.2)),
           ports := f.ports.map (fun p => if p.2.2 ≤ now then p else (p.1, p.2.1 + k, p.2.2 + k)) }

/-- Everything in flight lands `k` cycles later. -/
def putOff (k : Nat) (c : Core) : Core :=
  { c with pend := c.pend.map (fun p => { p with due := p.due + k }),
           mx := { c.mx with flight := c.mx.flight.map (S12Cmd.later c.now k) } }

/-- Does the core issue by exposed cycles, which results in flight count (06 R118)? -/
def issuesExposed (s : State) : Bool := exposed s && decide (s.core.st = .run ∨ s.core.st = .handler)

/-- `k` cycles in which the core issues nothing: in exposed mode its results wait. -/
def idleFor (k : Nat) (s : State) : State := pass k (if issuesExposed s then onCore (putOff k) s else s)

/-- Cycles in which an exposed core freezes (06 R118), counted under `ev`: results in flight land as many cycles later. -/
def freezeAs (ev k : Nat) (s : State) : State := pass k (onCore (fun c => putOff k (pmAdd ev k c)) s)
def freeze (k : Nat) (s : State) : State := freezeAs 0x32 k s

/-! ### Exceptions (19 R311–R322) -/

def cILLOP : Nat := 1
def cPRIV : Nat := 2
def cALIGN : Nat := 3
def cXLATE : Nat := 4
def cPROT : Nat := 5
def cENTRY : Nat := 6
def cSVIOL : Nat := 7
def cTOVF : Nat := 8
def cARENA : Nat := 9
def cALIAS : Nat := 10
def cPAIRTORN : Nat := 11
def cPHASECONF : Nat := 12
def cLOGFULL : Nat := 13
def cMEMERR : Nat := 14
def cWDOG : Nat := 15
def cFPX : Nat := 16
def cBREAK : Nat := 17
def cSYSCALL : Nat := 18
def cLINK : Nat := 19
def cCCREQ : Nat := 20

/-- What an entry records: cause, detail, EVT, LATE, fault address, XSLOT, XPC, XNPC, XFPC. -/
structure Entry where
  cause : Nat
  detail : Nat
  evt : Bool
  late : Bool
  fa : Word
  slot : Nat
  pc : Word
  npc : Word
  fpc : Word
  deriving DecidableEq, Repr

/-- XCAUSE (19 Table 19-4). -/
def Entry.word (e : Entry) : Word := wd (e.cause + 2 ^ 8 * e.detail + 2 ^ 16 * b2n e.late + 2 ^ 17 * b2n e.evt)

/-- An event of the control complex: kind and two values (25 R394 EVENT). -/
def ctlEvent (kind a b : Nat) : State → State := onCtl (fun c => { c with events := c.events ++ [(kind, a, b)] })

/-- Double fault (19 R322): the second cause is recorded, the core halts, its team is to be rolled back, an event with
both causes is sent. -/
def doubleFault (e : Entry) (s : State) : State :=
  let s := onX (fun x => { x with cause2 := e.word, fa2 := e.fa, dh := true, pp := false }) s
  let s := onCore (fun c => { c with st := .dhalt, ev := { c.ev with ccreq := none } }) s
  let s := onIss (fun i => { i with trapped := true, busy := false, roll := some false }) s
  ctlEvent 1 (coreId s).toNat (s.core.x.cause.toNat % 2 ^ 18 + 2 ^ 18 * e.word.toNat) s

/-- Every operand latch invalid (03 R46). -/
def latchesOff (c : Core) : Core := { c with vec := { c.vec with latch := [] } }

/-- Handler entry (19 R317). -/
def enter (e : Entry) (s : State) : State :=
  if s.core.x.pl && !s.core.x.ack then doubleFault e s
  else
    let s := drain s
    onCore (fun c =>
      let c := pmAdd 0x24 1 c
      let x := c.x
      let x := { x with cause := e.word, fa := e.fa, xslot := wd e.slot, xpc := e.pc, xnpc := e.npc, xfpc := e.fpc,
                        xmode := x.mode.setWidth 64, mode := 1, ppl := x.pl, pl := true, ack := false }
      let c := if c.x.pl then { c with x := x, sc := { c.sc with loops := [] } }
               else { c with x := { x with xsp := mget 0 c.sc.a 15 },
                             sc := { c.sc with a := mset 0 c.sc.a 15 c.x.xsp, frozen := some c.sc.loops, loops := [] } }
      let c := latchesOff c
      { c with st := .handler, iss := { c.iss with npc := x.xbase, from_ := 0, busy := false, trapped := true, wait := 0 } }) s

/-- Cause 14 (19 R332): the fault is recorded as any other of its kind is (03 R55, R56) and the handler is not entered; the team is
to be rolled back, which ends it LOST where the error is in no core's memories (`lost`, 19 R337). An error in the core's own halts
it. -/
def memErr (e : Entry) (own lost : Bool) (s : State) : State :=
  let s := onX (fun x => { x with cause := e.word, fa := e.fa, xslot := wd e.slot, xpc := e.pc, xnpc := e.npc, xfpc := e.fpc }) (drain s)
  let s := if own then onCore (fun c => { c with st := .dhalt }) s else s
  onIss (fun i => { i with trapped := true, busy := false, roll := some lost }) s

/-- A 64 KiB unit put on the retirement list, where it is a unit that is not there yet and the list has room (25 R401). -/
def retireUnit (pa : Nat) (s : State) : State :=
  if pa % 2 ^ 16 ≠ 0 ∨ 2 ^ 39 ≤ pa ∨ s.ctl.retired.contains (pa / 2 ^ 16) = true ∨ 1024 ≤ s.ctl.retired.length then s
  else onCtl (fun c => { c with retired := c.retired ++ [pa / 2 ^ 16] }) s

/-- The lasting error that an access in a slot meets. -/
def hitAt (s : State) (slot : Nat) : Option MemHit := s.core.iss.err.filter (fun e => decide (e.slot = slot))

/-- What a fault in the slot in progress records. -/
def slotEntry (cause detail : Nat) (fa : Word) (cl : Option Nat) (s : State) : Entry :=
  let i := s.core.iss
  let bc := match cl with | some c => if bitAt i.hdr 15 then 128 + 16 * c else 0 | none => 0
  ⟨cause, detail, false, false, fa, i.slot + bc, i.pc, if i.slot = 0 then i.seq else i.npc, 0⟩

/-- What a header fault records. -/
def headerEntry (cause detail : Nat) (fa : Word) (s : State) : Entry :=
  ⟨cause, detail, false, false, fa, 14, s.core.iss.pc, s.core.iss.seq, 0⟩

/-- A lasting error is met (19 R332) in slot `e.slot`, 14 for the header: in device memory or the L2 (DETAIL 1, 2) its unit is retired;
one in a core's memories halts that core, the own one or a quad mate. -/
def meetError (e : MemHit) (s : State) : State :=
  let s := onIss (fun i => { i with err := none }) s
  let sram := decide (3 ≤ e.detail)
  let s := match if sram then e.mate else none with
    | some k => onCoreAt k (fun c => { c with st := .dhalt, iss := { c.iss with roll := some false } }) s
    | none => s
  memErr (if e.slot = 14 then headerEntry cMEMERR e.detail e.va s else slotEntry cMEMERR e.detail e.va none s)
    (sram && decide (e.mate = none ∨ e.mate = some s.focus)) (!sram)
    (if sram then s else retireUnit (e.pa % 2 ^ 52 / 2 ^ 16 * 2 ^ 16) s)

/-- A fault in the slot in progress (03 R55, R56): the committed slots below stand, XNPC is where the core would have
continued. `cl` names the cluster of a broadcast word. -/
def trapCl (cause detail : Nat) (fa : Word) (cl : Option Nat) (s : State) : State :=
  let i := s.core.iss
  let e := slotEntry cause detail fa cl s
  if cause = cMEMERR then memErr e false true s
  else enter e (if 1 ≤ i.slot ∧ i.slot ≤ 13 then onEv (fun e => { e with stopped := false }) s else s)

/-- A fault of the slot in progress that names no cluster. -/
def trap (cause detail : Nat) (fa : Word) (s : State) : State := trapCl cause detail fa none s

/-- ILLOP at the slot in progress: XFA is the bundle address (19 Table 19-2). -/
def illop (s : State) : State := trap cILLOP 0 s.core.iss.pc s
/-- PRIV at the slot in progress. -/
def privFault (s : State) : State := trap cPRIV 0 s.core.iss.pc s
/-- SVIOL with a subcode of 06 Table 6-2. -/
def sviol (sub : Nat) (s : State) : State := trap cSVIOL sub s.core.iss.pc s

/-- The bundle waits; the wait counts under an event of 24 Table 24-2. -/
def hold (ev : Nat) : State → State := onIss (fun i => { i with held := some ev })

/-- A wait of a slot for what lower slots of its bundle may themselves have begun: they commit first. -/
def splitAs (kind ev : Nat) : State → State := onIss (fun i => { i with held := some ev, wait := kind, split := true })

/-- A wait that a pre-emption or WDOG may end (2, 16 R284), or a suspension under way (3, 16 R283). -/
def holdAs (kind ev : Nat) : State → State := onIss (fun i => { i with held := some ev, wait := kind })

/-- A header fault (03 R55): no slot commits, XSLOT 14. -/
def headerFault (cause detail : Nat) (fa : Word) (s : State) : State :=
  let e := headerEntry cause detail fa s
  if cause = cMEMERR then memErr e false true s else enter e s

/-- Return from the handler (19 R321, 03 Table 3-8). Held commands resume on a return to user level, but for one whose
late fault still waits. -/
def leave (s : State) : State :=
  let s := drain s
  onCore (fun c =>
    let x := c.x
    let user := !x.ppl
    let c1 := if user then
        { c with sc := { c.sc with a := mset 0 c.sc.a 15 x.xsp, loops := c.sc.frozen.getD [], frozen := none } }
      else { c with sc := { c.sc with loops := [] } }
    let x1 := { x with mode := if c.ctl then x.mode else x.xmode.setWidth 8, pl := x.ppl, ack := !user,
                       xsp := if user then mget 0 c.sc.a 15 else x.xsp }
    let late := bitAt x.cause 16
    let evt := bitAt x.cause 17
    let sl := fld x.xslot 3 0
    let st := if late || evt || decide (sl = 14) then 0 else sl
    let still := fun who => c.ev.late.any (fun f => f.who = who)
    let c1 := if user then
        { c1 with cp := { c1.cp with cmds := c1.cp.cmds.map (fun k => { k with held := k.held && still 1 }) },
                  th := { c1.th with reqs := c1.th.reqs.map (fun r => { r with held := r.held && still 2 }) } }
      else c1
    latchesOff { c1 with x := x1, st := if user then .run else .handler,
                         iss := { c1.iss with npc := if late then x.xnpc else x.xpc, from_ := st } }) s

/-! ### Guards and conditions (03 R45, R52) -/

/-- p[g] xor n. -/
def guardOk (g n : Nat) (s : State) : Bool := rdP s g != decide (n = 1)

/-- An effect under a predicate guard; a false guard leaves the slot without effect. -/
def guarded (g n : Nat) (f : State → State) (s : State) : State := if guardOk g n s then f s else s

/-- The privileged instruction: PRIV at user level (19 R309). -/
def priv (f : State → State) (s : State) : State := if s.core.x.pl then f s else privFault s

/-- Step 4 check: ILLOP unless the condition holds. -/
def need (b : Bool) (f : State → State) (s : State) : State := if b then f s else illop s

/-- A wait: in exposed mode ILLOP, in interlocked mode the bundle is held until the condition holds. -/
def waitIl (b : Bool) (f : State → State) (s : State) : State :=
  if exposed s then illop s else if b then f s else hold 0x36 s

end Sys2Proof.Machine
end

