-- ==== Sys2Proof/Machine/Hazard.lean ====
section
/-!
DEFINITION. Machine/Hazard.lean: what stands in the way of a scratchpad or memory access of a core: address decoding and
admitted agents (07 R129, R130), the thunk arena (10 R190), phase sets (23 R371), ports (07 R131, R132), leaf ranges of
live nodes (10 R199, R205), and the bytes of S12 commands in flight (09 R175).
-/
namespace Sys2Proof.Machine

/-! ### Ranges: (space, first, after the last); spaces 0 W, 1 A, 2 C, 3 virtual -/

/-- First common address of two ranges. -/
def meetAt (lo hi a b : Nat) : Option Nat :=
  let m := if lo < a then a else lo
  if m < hi ∧ m < b then some m else none

/-- Least of the numbers given. -/
def leastOpt (xs : List (Option Nat)) : Option Nat :=
  xs.foldl (fun m x => match m, x with | none, y => y | m, none => m | some a, some b => some (if b < a then b else a)) none

/-- Space and start of an address of a descriptor. -/
def tdPlace (virt : Bool) (a : Nat) : Nat × Nat := if virt then (3, a) else (a / 2 ^ 20 % 4, a % 2 ^ 20)

/-- The byte ranges of a leaf: tile, and scale tensor when MX = 1 (10 R199). -/
def leafRanges (d : BitVec 256) (fmt : W32) : List (Nat × Nat × Nat) :=
  let t := tdOf d
  let (p, a) := tdPlace t.virt t.base
  let (q, b) := tdPlace t.virt t.sbase
  (p, a, a + t.bytes (fmtOf fmt).cont) :: (if t.mx then [(q, b, b + t.sbytes)] else [])

/-- Ranges a node holds: none once its leaves are released. -/
def nodeRanges (n : TNode) : List (Nat × Nat × Nat) :=
  if n.perm then []
  else n.srcs.flatMap (fun x => match x with | .leaf d f => leafRanges d f | .node _ => [])

/-- Ranges held for live nodes, identical ones once (10 R199). -/
def heldRanges (c : Core) : List (Nat × Nat × Nat) := (c.th.nodes.flatMap nodeRanges).eraseDups

/-- Ranges held for the phase in force, identical ones once. -/
def phaseRanges (c : Core) : List (Nat × Nat × Nat) := c.phase.map (fun p => (p.buf, p.lo, p.hi))

/-- Nodes that hold a range a write of [lo, hi) meets. -/
def hazardNodes (c : Core) (sp lo hi : Nat) : List Nat :=
  (c.th.nodes.filter (fun n => (nodeRanges n).any (fun r => decide (r.1 = sp) && (meetAt lo hi r.2.1 r.2.2).isSome))).map
    TNode.seq

/-- First address of a write of [lo, hi) that meets a held range (10 R205). -/
def hazardAt (c : Core) (sp lo hi : Nat) : Option Nat :=
  leastOpt ((heldRanges c).map (fun r => if r.1 = sp then meetAt lo hi r.2.1 r.2.2 else none))

/-- Work for a core's Teasel as the bundle in progress asks for it, with nothing done. -/
def newReq (kind : Nat) (c : Core) (s : State) : TReq :=
  { kind := kind, pc := s.core.iss.pc, fpc := s.core.iss.pc, tag := 0, cb := 0, src := .node 0, r0 := 0, c0 := 0, rows := 0,
    cols := 0, region := none, tv := 0, pre := [], preSet := false, todo := [], total := 0, planned := false, out := [],
    gap := 0, sent := [], far := [], told := false, stg := [], kept := [], flags := flNone, blocks := 0, ttb := c.x.ttb, sup := c.x.pl, held := false, busy := false }

/-- A hazard force asked of a core's Teasel, once (10 R205); `fpc` is the bundle that waits. -/
def askForce (key : Nat) (nodes : List Nat) (s : State) : State :=
  onCoreAt key (fun c =>
    if nodes.all (fun n => c.th.reqs.any (fun r => decide (r.kind = 3) && r.pre.contains n)) then c
    else { c with th := { c.th with reqs := c.th.reqs ++ [{ newReq 3 c s with pre := nodes, preSet := true }] } }) s

/-- A write of this core over ranges, checked against leaves (10 R205): ALIAS in exposed mode, otherwise the bundle waits
for a hazard force. `xfa` gives the fault address of a byte. -/
def aliasCheck (sp lo hi : Nat) (xfa : Nat → Word) (cl : Option Nat) (f : State → State) (s : State) : State :=
  match hazardAt s.core sp lo hi with
  | none => f s
  | some a => if exposed s then trapCl cALIAS 0 (xfa a) cl s else hold 0x33 (askForce s.focus (hazardNodes s.core sp lo hi) s)

/-! ### Phases (23 R371) -/

/-- Byte `b` may be accessed by the agent. -/
def phaseOk (c : Core) (agent : Nat) (wr : Bool) (buf b : Nat) : Bool :=
  let rs := c.phase.filter (fun r => decide (r.buf = buf ∧ r.lo ≤ b ∧ b < r.hi))
  rs.isEmpty || rs.any (fun r => decide (r.agent = agent) && (r.wr || !wr)) || (!wr && rs.all (fun r => !r.wr))

/-- First byte of [lo, hi) that conflicts: a conflict begins where the access or a range begins or ends. -/
def phaseBad (c : Core) (agent : Nat) (wr : Bool) (buf lo hi : Nat) : Option Nat :=
  let pts := lo :: (c.phase.flatMap (fun r => [r.lo, r.hi])).filter (fun x => decide (lo ≤ x))
  leastOpt (pts.map (fun b => if b < hi ∧ phaseOk c agent wr buf b = false then some b else none))

/-- Plain scratchpad address (07 Table 7-2). -/
def spadAddr (buf off : Nat) : Word := wd (buf * 2 ^ 20 + off)

/-! ### Addresses and agents (07 R129, R130) -/

/-- Bytes of a buffer. -/
def bufSize (b : Nat) : Nat := if b = 2 then 0x40000 else if b = 3 then 0 else 0x80000

/-- Ranges of the arena of a core: A, C and W (10 Table 10-3). -/
def arenaRanges (c : Core) : List (Nat × Nat × Nat) :=
  if bitAt c.th.arenaA 0 then
    let r := fun (b base size : Nat) => (b, base * 1024, (base + size) * 1024)
    [r 1 (fld c.th.arenaA 10 1) (fld c.th.arenaA 20 11), r 2 (fld c.th.arenaA 29 21) (fld c.th.arenaA 38 30),
     r 0 (fld c.th.arenaB 9 0) (fld c.th.arenaB 19 10)]
  else []

/-- Does [lo, hi) of a buffer meet the arena? -/
def arenaHit (c : Core) (buf lo hi : Nat) : Bool :=
  (arenaRanges c).any (fun r => decide (r.1 = buf) && (meetAt lo hi r.2.1 r.2.2).isSome)

/-- Table 7-3 by agent: 0 scalar, 1 VLD and VST, 2 gather and scatter, 3 copy engine. -/
def admitted (agent buf : Nat) (wr win : Bool) : Bool :=
  match agent, win with
  | 0, false => buf != 0 || !wr
  | 0, true => buf = 1 || (buf = 0 && !wr)
  | 1, false => buf != 0 || !wr
  | 1, true => !wr && buf ≤ 1
  | 2, false => buf = 1 || (buf = 0 && !wr)
  | 2, true => !wr && buf ≤ 1
  | 3, false => true
  | _, _ => buf ≤ 1

/-- Key of the core a scratchpad address reaches. -/
def spadTarget (s : State) (ea : Nat) : Nat :=
  if ea / 2 ^ 24 % 2 = 1 then s.core.num / 4 * 4 + ea / 2 ^ 22 % 4 else s.focus

/-- Does an address name a place in a buffer, by its fields (07 Table 7-2)? -/
def spadNamed (ea : Nat) : Bool :=
  decide (ea < 2 ^ 25) && decide (ea / 2 ^ 20 % 4 ≠ 3) && (decide (ea / 2 ^ 24 % 2 = 1) || decide (ea / 2 ^ 22 % 4 = 0))

/-- Does the address decode for the agent (07 R129), outside the target's arena (10 R190)? -/
def spadOk (s : State) (agent : Nat) (wr : Bool) (ea size : Nat) : Bool :=
  let b := ea / 2 ^ 20 % 4
  let win := decide (ea / 2 ^ 24 % 2 = 1)
  !s.core.ctl && spadNamed ea && decide (ea % 2 ^ 20 + size ≤ bufSize b) && admitted agent b wr win &&
  !arenaHit (coreAt s (spadTarget s ea)) b (ea % 2 ^ 20) (ea % 2 ^ 20 + size)

/-! ### Ports (07 R131, R132) -/

/-- Ports: 0 WP, 1 AE, 2 AR, 16 + k read and 32 + k write of C bank k. -/
def portWidth (p : Nat) : Nat := if p ≤ 1 then 256 else if p = 2 then 128 else 64

/-- The cycles for which class 1 holds a port: first, and after the last. -/
def portSpans (c : Core) (p : Nat) : List (Nat × Nat) :=
  c.mx.flight.flatMap (fun k => k.ports.filterMap (fun q => if q.1 = p then some q.2 else none))

/-- Is a port held by class 1 in a cycle? -/
def portHeld (c : Core) (p t : Nat) : Bool := (portSpans c p).any (fun q => decide (q.1 ≤ t ∧ t < q.2))

/-- The first cycle from `t` on that none of the spans covers. -/
def pastSpans (qs : List (Nat × Nat)) (t : Nat) : Nat :=
  qs.foldl (fun t _ => qs.foldl (fun t q => if q.1 ≤ t ∧ t < q.2 then q.2 else t) t) t

/-- The cycle, from `t` on, in which class 1 leaves a port free for the (k + 1)-th time. -/
def nthFree (qs : List (Nat × Nat)) : Nat → Nat → Nat
  | 0, t => pastSpans qs t
  | k + 1, t => nthFree qs k (pastSpans qs t + 1)

/-- The access asks for width beyond what exposed mode can serve at once (07 R132). -/
def portOver (s : State) (p n : Nat) : Bool :=
  portHeld s.core p s.core.now || decide (portWidth p < mget 0 s.core.iss.cnt (0x100 + p) + n)

/-- `n` bytes taken of a port: in exposed mode SVIOL PORT where they cannot be served at once; otherwise the bundle waits, and
`f` takes the cycle of service, counted from the first. A bundle that has waited knows those cycles already. -/
def takePort (p n : Nat) (cl : Option Nat) (f : Nat → State → State) (s : State) : State :=
  match s.core.iss.early with
  | some ⟨q :: r, st, sp, last⟩ =>
    f q (onIss (fun i => { i with early := some ⟨r, st, sp, last⟩ }) (if q = last then cntEv (0x100 + p) n s else s))
  | _ =>
    if exposed s && portOver s p n then trapCl cSVIOL 2 s.core.iss.pc cl s
    else
      let used := mget 0 s.core.iss.cnt (0x100 + p)
      let q := nthFree (portSpans s.core p) ((used + n - 1) / portWidth p) s.core.now - s.core.now
      f q (onIss (fun i => { i with qs := i.qs ++ [q] }) (cntEv (0x100 + p) n s))

/-- The port and the width an access of this core's own buffers takes; the A-buffer's own paths never clash. A gather takes
the bytes of each active lane of WP, a VLD the whole 64 bytes of its line whatever lanes are masked (DESIGN CHOICE, log 126:
the spec gives no figure). -/
def portOf (buf off n : Nat) (wr : Bool) : Option (Nat × Nat) :=
  if buf = 0 then some (0, n) else if buf = 2 then some ((if wr then 32 else 16) + off / 64 % 16, 64) else none

/-- The port of an access of this core's own buffers. -/
def corePort (buf off n : Nat) (wr : Bool) (cl : Option Nat) (f : Nat → State → State) (s : State) : State :=
  match portOf buf off n wr with
  | some (p, k) => takePort p k cl f s
  | none => f 0 s

/-! ### Asynchronous accesses (07 R131, R133–R135)

An engine's line or a window request of a mate is served in the target's cycle that has just passed, in what width its scheduled
and core accesses, and the asynchronous ones before it, left. A request arrives when its step is taken; one that finds no width
leaves nothing and is taken up again later (DESIGN CHOICE, log 129). -/

/-- The port by which an engine reaches a line of a buffer (07 Table 7-1). -/
def enginePort (buf off : Nat) : Nat := if buf = 0 then 0 else if buf = 1 then 1 else 32 + off / 64 % 16

/-- What an engine of the core itself, and what a mate through the window port, takes for `n` bytes. -/
def ownPorts (buf off n : Nat) : List (Nat × Nat) := [(enginePort buf off, n)]
def matePorts (buf off n : Nat) : List (Nat × Nat) := [(enginePort buf off, n), (3, n)]

/-- The cycle that has just passed on a core at the package's time: one that issues nothing has no clock of its own. -/
def lastCycle (time : Nat) (c : Core) : Nat := (if c.st = .run ∨ c.st = .handler ∨ time < c.now then c.now else time) - 1

/-- Does every port have the width left in the cycle that has just passed? -/
def asyncRoom (time : Nat) (c : Core) (ps : List (Nat × Nat)) : Bool :=
  let used := if c.sp.cyc.at_ = lastCycle time c then c.sp.cyc.used else []
  ps.all (fun p => !portHeld c p.1 (lastCycle time c) && decide (mget 0 used p.1 + p.2 ≤ portWidth p.1))

/-- Bits of a line written by an asynchronous access of rank `rank` for core `by_`, but for those that the cycle's earlier ranks, or
another agent before it, have written (07 R134). -/
def asyncPut (time rank by_ : Nat) (ps : List (Nat × Nat)) (buf off mask val : Nat) (c : Core) : Core :=
  let z := c.sp.cyc
  let first := if z.at_ = lastCycle time c then
      (z.wr.filter (fun w => decide (w.2.2.1 = buf ∧ w.2.2.2.1 = off) && decide (w.1 < rank ∨ (w.1 = rank ∧ w.2.1 ≠ by_)))).foldl
        (fun m w => m ||| w.2.2.2.2) 0
    else 0
  noteCycle (lastCycle time c) ps [(rank, by_, buf, off, mask)] (spadMasked buf off (mask - (mask &&& first)) val c)

/-- Bytes at an offset of a line, written so. -/
def asyncBytes (time rank by_ : Nat) (ps : List (Nat × Nat)) (buf off : Nat) (bs : List Byte) : Core → Core :=
  let m := lineMask off bs.length
  asyncPut time rank by_ ps buf m.1 m.2 (leNat bs * 2 ^ (8 * (off % 64)))

/-- Does an earlier result of the core land in a bank's cycle (06 R124)? -/
def bankTaken (c : Core) (cl r due : Nat) : Bool :=
  c.pend.any (fun q => decide (q.due = due) && (match q.eff with | .v d k _ _ => decide (d = cl ∧ k % 6 = r % 6) | _ => false))

/-! ### A core's access, checked -/

/-- Where an access goes: its address, the core's key, buffer, offset, whether it is one of this core's own plain
addresses, and the cycle of service. -/
structure SpRef where
  ea : Word
  key : Nat
  buf : Nat
  off : Nat
  own : Bool
  q : Nat
  deriving DecidableEq, Repr

/-- The place an address names. -/
def spRef (s : State) (ea : Word) : SpRef :=
  let k := spadTarget s ea.toNat
  { ea := ea, key := k, buf := ea.toNat / 2 ^ 20 % 4, off := ea.toNat % 2 ^ 20,
    own := decide (k = s.focus) && decide (ea.toNat / 2 ^ 24 % 2 = 0), q := 0 }

/-- PROT or PHASECONF of an access of slot 3 or of a cluster to `size` bytes at `ea`, of which the runs in `parts`
(offset, bytes) are read or written: cause and fault address (07 R129, 23 R371). -/
def spadFault (s : State) (agent : Nat) (wr : Bool) (ea : Word) (size : Nat) (parts : List (Nat × Nat)) : Option (Nat × Word) :=
  if spadOk s agent wr ea.toNat size then
    let r := spRef s ea
    (leastOpt (parts.map (fun p => phaseBad (coreAt s r.key) 0 wr r.buf (r.off + p.1) (r.off + p.1 + p.2)))).map
      (fun x => (cPHASECONF, ea + wd (x - r.off)))
  else some (cPROT, ea)

/-- PHASECONF of an access, where its address names a place: it comes at step 4 (23 R371). -/
def phaseFault (s : State) (wr : Bool) (ea : Word) (parts : List (Nat × Nat)) : Option Word :=
  if spadNamed ea.toNat then
    let r := spRef s ea
    (leastOpt (parts.map (fun p => phaseBad (coreAt s r.key) 0 wr r.buf (r.off + p.1) (r.off + p.1 + p.2)))).map
      (fun x => ea + wd (x - r.off))
  else none

/-- Does the address lie in a buffer that the agent's port admits, the arena left aside? Such an access wants its port. -/
def spadReach (s : State) (agent : Nat) (wr : Bool) (ea size : Nat) : Bool :=
  let b := ea / 2 ^ 20 % 4
  !s.core.ctl && spadNamed ea && decide (ea % 2 ^ 20 + size ≤ bufSize b) && admitted agent b wr (decide (ea / 2 ^ 24 % 2 = 1))

/-- The port of an access that may be made at all. In a mate's buffer it is a request at the window port; of several of one bundle
the first waits for its turn and the others follow it within the latency (DESIGN CHOICE, log 129). -/
def spadPort (agent : Nat) (r : SpRef) (size : Nat) (wr : Bool) (cl : Option Nat) (f : SpRef → State → State) (s : State) : State :=
  if !spadReach s agent wr r.ea.toNat size then f r s
  else if r.own then corePort r.buf r.off size wr cl (fun q => f { r with q := q }) s
  else if r.key = s.focus ∨ mget 0 s.core.iss.cnt (0x200 + r.key % 4) ≠ 0 then f r s
  else if asyncRoom s.time (coreAt s r.key) (matePorts r.buf r.off size) then
    f r (cntEv (0x200 + r.key % 4) 1 (onCoreAt r.key (fun c => noteCycle (lastCycle s.time c) (matePorts r.buf r.off size) [] c) s))
  else holdAs 2 0x33 s

/-- The checks of step 4 of an access: PHASECONF, ALIAS or a wait (10 R205), its port, then `f`, which makes those of step 5. A
window write over a mate's leaves waits at the target in either mode. -/
def spadGo (agent : Nat) (wr : Bool) (ea : Word) (size : Nat) (parts : List (Nat × Nat)) (cl : Option Nat)
    (f : SpRef → State → State) (s : State) : State :=
  let r := spRef s ea
  let t := coreAt s r.key
  match phaseFault s wr ea parts with
  | some fa => trapCl cPHASECONF 0 fa cl s
  | none =>
  if !wr || !spadNamed ea.toNat then spadPort agent r size wr cl f s
  else
    match leastOpt (parts.map (fun p => hazardAt t r.buf (r.off + p.1) (r.off + p.1 + p.2))) with
    | none => spadPort agent r size wr cl f s
    | some a =>
      if r.key = s.focus ∧ exposed s then trapCl cALIAS 0 (ea + wd (a - r.off)) cl s
      else
        let ns := (parts.flatMap (fun p => hazardNodes t r.buf (r.off + p.1) (r.off + p.1 + p.2))).eraseDups
        hold 0x33 (askForce r.key ns s)

/-- ALIGN, PROT or PHASECONF of an access aligned to its size. -/
def alignedFault (s : State) (agent : Nat) (wr : Bool) (ea : Word) (size : Nat) (parts : List (Nat × Nat)) : Option (Nat × Word) :=
  if ea.toNat % size ≠ 0 then some (cALIGN, ea) else spadFault s agent wr ea size parts

/-- A scalar access of slot 3 to `size` bytes at `ea`: ALIAS or a wait, ALIGN, PROT, PHASECONF, or `f` with its place. -/
def coreSpad (agent : Nat) (wr : Bool) (ea : Word) (size : Nat) (f : SpRef → State → State) (s : State) : State :=
  spadGo agent wr ea size [(0, size)] none (fun r t =>
    match alignedFault s agent wr ea size [(0, size)] with
    | some (c, fa) => trap c 0 fa s
    | none => f r t) s

/-- Bytes that S12 commands in flight will write, laid over bytes read at an offset. -/
def overlayOut (ws : List SpWrite) (buf off : Nat) (bs : List Byte) : List Byte :=
  (List.range bs.length).map (fun i =>
    ws.foldl (fun x w =>
      if w.buf = buf ∧ w.off ≤ off + i ∧ off + i < w.off + 64 then
        let j := 8 * (off + i - w.off)
        mergeBits x (BitVec.ofNat 8 (w.mask / 2 ^ j)) (BitVec.ofNat 8 (w.val / 2 ^ j))
      else x) (nth 0 bs i))

/-- Stores laid over bytes read, in order. -/
def overlaySt (sts : List StRec) (r : SpRef) (bs : List Byte) : List Byte :=
  (List.range bs.length).map (fun i =>
    sts.foldl (fun x p =>
      if p.buf = r.buf ∧ p.off ≤ r.off + i ∧ r.off + i < p.off + p.x.length then nth 0 p.x (r.off + i - p.off) else x)
      (nth 0 bs i))

/-- Stores that a load of this core's buffers sees before they land: by a plain address those of the bundle that the ports
served in an earlier cycle (07 R132), through the window the core's own window stores (07 R135). -/
def storesSeen (s : State) (r : SpRef) : List StRec :=
  if r.key ≠ s.focus then []
  else if r.own then
    match s.core.iss.early with
    | some v => v.sts.filter (fun p => decide (p.q < r.q))
    | none => []
  else s.core.pend.filterMap (fun p => match p.eff with | .stw b off x => some ⟨0, b, off, x⟩ | _ => none)

/-- S12 writes in flight on the core a load reaches that touch its bytes. -/
def writesMet (s : State) (r : SpRef) (n : Nat) : List SpWrite :=
  ((coreAt s r.key).mx.flight.flatMap S12Cmd.out).filter (fun w => decide (w.buf = r.buf ∧ w.off < r.off + n ∧ r.off < w.off + 64))

/-- The core a load reads: of a bundle that waited for its ports, the buffers as they stood in the first cycle. -/
def readFrom (s : State) (r : SpRef) : Core :=
  match if r.own then s.core.iss.early else none with
  | some v => { s.core with sp := v.sp }
  | none => coreAt s r.key

/-- A load under draw `d`, which says for each line whether it is read old or new (07 R134, 09 R175). -/
def spadRead (s : State) (d : Nat) (r : SpRef) (n : Nat) : List Byte :=
  let bs := overlaySt (storesSeen s r) r (spadBytes (readFrom s r) r.buf r.off n)
  overlayOut ((writesMet s r n).filter (fun w => Config.freeLine d (r.key * 2 ^ 22 + w.buf * 2 ^ 20 + w.off))) r.buf r.off bs

/-- Core loads of scratchpad bytes by one instruction: a store of the same bundle is not seen, unless the port served it
earlier (07 R134). Of a range an S12 command in flight writes, interlocked mode waits, and exposed mode reads each line
wholly old or wholly new (09 R175). -/
def spadLoads (rs : List (SpRef × Nat)) (f : List (List Byte) → State → State) (s : State) : State :=
  if rs.all (fun x => (writesMet s x.1 x.2).isEmpty) then f (rs.map (fun x => spadRead s 0 x.1 x.2)) s
  else if exposed s then
    let (d, t) := draw s
    f (rs.map (fun x => spadRead s d x.1 x.2)) t
  else holdAs 2 0x33 s

/-- One load. -/
def spadLoad (r : SpRef) (n : Nat) (f : List Byte → State → State) : State → State := spadLoads [(r, n)] (fun bs => f (nth [] bs 0))

/-- A core store: bytes of an own buffer land at the end of the cycle of service, bytes of a mate's at once (07 R132, R134, R135).
One served in a held cycle has landed. -/
def spadStore (r : SpRef) (d : Nat) (bs : List Byte) (s : State) : State :=
  if r.own then
    (match s.core.iss.early with
     | some v => if r.q < v.last then s else emit 1 (.st r.buf (r.off + d) r.q bs) s
     | none => emit 1 (.st r.buf (r.off + d) r.q bs) s)
  else if r.key = s.focus then emit 1 (.stw r.buf (r.off + d) bs) s
  else onCoreAt r.key (asyncBytes s.time 2 s.focus [] r.buf (r.off + d) bs) s

/-- Latency of a scratchpad load: 4 and 6, or 8 and 10 through the window (07 R135). -/
def spadLat (base : Nat) (ea : Word) : Nat := if bitAt ea 24 then base + 4 else base

end Sys2Proof.Machine
end

