-- ==== Sys2Proof/Machine/Phys.lean ====
section
/-!
DEFINITION. Machine/Phys.lean: physical addresses and bytes of memory, who performs an access, and the L2 in front of the
stacks (12 R220, R221, R223, R224; 24 R388). A full address is package × 2^52 + physical address.
-/
namespace Sys2Proof.Machine

/-! ### Bytes of memory -/

/-- The canonical form of memory: addresses strictly rising, no entry 0, which an unlisted address reads as (log 2). -/
abbrev Memory.wf (m : SMap Byte) : Bool := mcanon 0 m

def memByte (m : SMap Byte) (a : Nat) : Byte := mget 0 m a
def memBytes (m : SMap Byte) (a n : Nat) : List Byte := (List.range n).map (fun i => memByte m (a + i))
def memNat (m : SMap Byte) (a n : Nat) : Nat := leNat (memBytes m a n)

/-- Bytes stored from an address up. -/
def memPut : List Byte → Nat → SMap Byte → SMap Byte
  | [], _, m => m
  | b :: r, a, m => memPut r (a + 1) (mset 0 m a b)

/-- The pairs of [a, a + n) moved to b; whatever stood in [b, b + n) goes. -/
def memCopy (a b n : Nat) (m : SMap Byte) : SMap Byte :=
  let src := m.filter (fun p => decide (a ≤ p.1 ∧ p.1 < a + n))
  let rest := m.filter (fun p => !decide (b ≤ p.1 ∧ p.1 < b + n))
  src.foldl (fun m p => mset 0 m (p.1 - a + b) p.2) rest

/-- Own package's full address of a physical address. -/
def own (s : State) (pa : Nat) : Nat := s.ctl.pkgNum * 2 ^ 52 + pa
def paOf (a : Nat) : Nat := a % 2 ^ 52
def pkgOf (a : Nat) : Nat := a / 2 ^ 52
/-- Stack of a physical address (12 Table 12-4). -/
def stackOf (a : Nat) : Nat := a / 2 ^ 36 % 8
/-- Device memory (12 Table 12-4). -/
def isDev (a : Nat) : Bool := decide (paOf a < 2 ^ 39)
/-! ### Agents -/

/-- Who performs an access: a core's key or 2048 and up for an engine of the package; the team it acts for; whether for a
task whose measurement pass is open; the class of the leaf; whether the team's digest counts it (23 R373). -/
structure Who where
  key : Nat
  team : Option Nat
  meas : Bool
  cls : Nat
  dig : Bool
  deriving DecidableEq, Repr

/-- The core at a key, with its task. -/
def whoCore (c : Core) (cls : Nat) : Who :=
  { key := coreKey c.num c.ctl, team := c.task.cont.map Cont.team, meas := c.pm.open_, cls := cls, dig := true }

/-- Line of a full address. -/
def lineOf (a : Nat) : Nat := a / 64 * 64
/-- In the own package's device memory. -/
def isOwn (s : State) (a : Nat) : Bool := decide (pkgOf a = s.ctl.pkgNum) && isDev a

/-! ### L2 (12 R223, R224; 24 R388) -/

def l2Key (a : Nat) : Nat := stackOf (paOf a) / 2 * 65536 + paOf a / 64 % 65536
def l2quota (s : State) (die : Nat) : Word := mget (wd (16 * 2 ^ 16)) s.ctl.l2q die

/-- First way and number of ways of a class. -/
def classWays (q : Word) (cls : Nat) : Nat × Nat :=
  let w1 := fld q 3 0
  let w2 := fld q 7 4
  let w3 := fld q 11 8
  if cls = 3 then (0, w3) else if cls = 2 then (w3, w2) else if cls = 1 then (w3 + w2, w1)
  else (w3 + w2 + w1, 16 - (w1 + w2 + w3))

/-- The line of a set to replace: the least recently used within the ways. -/
def lruIn (lo n : Nat) (ls : List L2Line) : Option L2Line :=
  ls.foldl (fun m l => if lo ≤ l.way ∧ l.way < lo + n then some l else m) none

/-- Marks with a team's added. -/
def addMark (m : Option Nat) (ms : List Nat) : List Nat :=
  match m with | some t => if ms.contains t then ms else ms ++ [t] | none => ms

/-- A set after an access, and whether it hit. -/
def l2Set (q : Word) (cls : Nat) (wr : Bool) (mark : Option Nat) (line : Nat) (ls : List L2Line) : List L2Line × Bool :=
  match ls.find? (fun l => decide (l.line = line)) with
  | some l =>
    ({ l with dirty := l.dirty || wr, mark := if wr then addMark mark l.mark else l.mark } ::
      ls.filter (fun l => !decide (l.line = line)), true)
  | none =>
    let (lo, n) := classWays q cls
    let new := fun way => ({ line := line, way := way, cls := cls, dirty := wr, mark := addMark mark [] } : L2Line)
    if n = 0 then (ls, false)
    else
      match firstBelow n (fun i => !ls.any (fun l => decide (l.way = lo + i))) with
      | some i => (new (lo + i) :: ls, false)
      | none =>
        match lruIn lo n ls with
        | some v => (new v.way :: ls.filter (fun l => !decide (l.line = v.line)), false)
        | none => (ls, false)

/-- An access of the L2 in front of an address; a core's own accesses count hits and misses. -/
def l2Touch (w : Who) (wr : Bool) (a : Nat) (s : State) : State :=
  if isOwn s a then
    let k := l2Key a
    let (ls, hit) := l2Set (l2quota s (k / 65536)) w.cls wr (if w.meas then w.team else none) (lineOf a) (mget [] s.home.l2 k)
    let s := onHome (fun h => { h with l2 := mset [] h.l2 k ls }) s
    if w.key < 1024 then onCoreAt w.key (pmAdd (if hit then 0x2E else 0x2F) 1) s else s
  else s

/-- Lines of [a, a + n) leave the L2. -/
def l2Drop (a n : Nat) (s : State) : State :=
  onHome (fun h => { h with l2 := h.l2.filterMap (fun p =>
    match p.2.filter (fun l => !decide (a < l.line + 64 ∧ l.line < a + n)) with
    | [] => none | ls => some (p.1, ls)) }) s

end Sys2Proof.Machine
end

