-- ==== Sys2Proof/Machine/Trans.lean ====
section
/-!
DEFINITION. Machine/Trans.lean: translation, its caches and the walks of tables (12 R213–R219).
-/
namespace Sys2Proof.Machine

/-! ### Addresses -/

/-- The reserved top of a stack (25 R398): first offset. -/
def rsvStart (s : State) : Nat := 2 ^ 36 - s.ctl.rsvsz * 2 ^ 20
/-- A retired 64 KiB unit of the own package (25 R401). -/
def retired (s : State) (a : Nat) : Bool := decide (pkgOf a = s.ctl.pkgNum) && s.ctl.retired.contains (paOf a / 2 ^ 16)

/-! ### Table entries (12 R215) -/

/-- Does an address break 12 R213? -/
def nonCanon (va : Nat) : Bool := va / 2 ^ 57 != (if va / 2 ^ 56 % 2 = 1 then 127 else 0)

/-- Size in bits of the page a leaf at a level maps. -/
def leafBits (level : Nat) : Nat := if level = 3 then 30 else if level = 2 then 21 else 16

/-- A malformed next-level entry. -/
def badNext (level e : Nat) : Bool := decide (level = 1) || decide (nbits e 11 2 ≠ 0) || decide (nbits e 63 52 ≠ 0)

/-- A malformed leaf. -/
def badLeaf (rsv level e : Nat) : Bool :=
  let rem := e / 2 ^ 9 % 2 = 1
  let pa := nbits e 51 16 * 2 ^ 16
  let size := 2 ^ leafBits level
  decide (level > 3) || decide (nbits e 15 14 ≠ 0) || decide (nbits e 11 10 ≠ 0) ||
  (decide (e / 8 % 2 = 1) && decide (e / 4 % 2 = 0)) || decide (pa % size ≠ 0) ||
  (!rem && (decide (nbits e 63 52 ≠ 0) || decide (nbits e 13 12 ≠ 0))) ||
  (if pa / 2 ^ 39 = 0 then decide (rsv < pa % 2 ^ 36 + size)
   else if pa / 2 ^ 39 = 1 then rem || decide (e / 32 % 2 = 1) else true)

/-- Package a leaf names. -/
def leafPkg (own e : Nat) : Nat := if e / 2 ^ 9 % 2 = 1 then nbits e 13 12 * 2 ^ 12 + nbits e 63 52 else own

/-- Kinds of access: read, write, instruction fetch. -/
inductive Acq where
  | rd | wr | fetch
  deriving DecidableEq, Repr

/-- Rights (12 R216). -/
def permits (e : Nat) (k : Acq) (user : Bool) : Bool :=
  (!user || decide (e / 32 % 2 = 1)) &&
  match k with
  | .rd => decide (e / 4 % 2 = 1) | .wr => decide (e / 8 % 2 = 1) | .fetch => decide (e / 16 % 2 = 1)

/-- A translation: full address and leaf, or a fault's cause, detail and address. -/
inductive Tr where
  | ok (a : Nat) (leaf : Nat)
  | bad (cause detail : Nat) (fa : Word)
  deriving DecidableEq, Repr

def Tr.rem : Tr → Bool
  | .ok _ e => decide (e / 2 ^ 9 % 2 = 1)
  | _ => false

/-- Class of a leaf. -/
def leafCls (e : Nat) : Nat := nbits e 7 6

/-- What an engine keeps of a leaf besides its page: 4 × REM + class. -/
def leafLow (e : Nat) : Nat := 4 * (e / 2 ^ 9 % 2) + leafCls e

/-! ### Caches of translations (12 R217) -/

/-- Most recently used first, at most `n`. -/
def lruPut {α : Type} (n : Nat) (x : α) (m : List α) (same : α → Bool) : List α :=
  (x :: m.filter (fun y => !same y)).take n

def TlbE.hits (t : TlbE) (asid va : Nat) : Bool := decide (t.asid = asid) && decide (t.va / 2 ^ t.bits = va / 2 ^ t.bits)
def TlbE.same (t u : TlbE) : Bool := decide (t.asid = u.asid ∧ t.bits = u.bits ∧ t.va / 2 ^ t.bits = u.va / 2 ^ u.bits)
def WalkE.hits (t : WalkE) (asid va : Nat) : Bool := decide (t.asid = asid) && decide (t.va / 2 ^ t.bits = va / 2 ^ t.bits)
def WalkE.same (t u : WalkE) : Bool := decide (t.asid = u.asid ∧ t.bits = u.bits ∧ t.va / 2 ^ t.bits = u.va / 2 ^ u.bits)

/-- What a walk finds: the entries it read, next-level entries met, and a leaf with its level, or a fault. -/
structure Walked where
  reads : List Nat
  steps : List (Nat × Nat)
  path : List Nat
  leaf : Option (Nat × Nat)
  cause : Nat
  kind : Nat
  fa : Nat
  deriving DecidableEq, Repr

/-- Index bits of a level (12 Table 12-1). -/
def levelLo (level : Nat) : Nat := if level = 1 then 16 else 21 + 9 * (level - 2)
def levelHi (level : Nat) : Nat := if level = 1 then 20 else levelLo level + 8

/-- A walk from a level's table down (12 R213–R216). -/
def walk (s : State) (va : Nat) : Nat → Nat → Walked → Walked
  | 0, _, w => { w with cause := cXLATE, kind := 3, fa := va }
  | level + 1, tab, w =>
    let ea := tab + 8 * nbits va (levelHi (level + 1)) (levelLo (level + 1))
    if retired s (own s ea) then { w with cause := cMEMERR, kind := 1, fa := ea }
    else
      let e := memNat s.mem (own s ea) 8
      let w := { w with reads := ea :: w.reads, path := ea :: w.path }
      if e % 2 = 0 then { w with cause := cXLATE, kind := 2, fa := va }
      else if e / 2 % 2 = 1 then
        if badNext (level + 1) e then { w with cause := cXLATE, kind := 3, fa := va }
        else
          let t := nbits e 51 12 * 2 ^ 12
          walk s va level t { w with steps := (levelLo (level + 1), t) :: w.steps }
      else if badLeaf (rsvStart s) (level + 1) e then { w with cause := cXLATE, kind := 3, fa := va }
      else { w with leaf := some (level + 1, e) }

/-- Level whose table a next-level entry covering `bits` names. -/
def levelBelow (bits : Nat) : Nat := if bits = 48 then 4 else if bits = 39 then 3 else if bits = 30 then 2 else 1

/-- The entry of a walk cache a walk starts from: the one that goes furthest down. -/
def walkFrom (asid v : Nat) (m : List WalkE) : Option WalkE :=
  (m.filter (fun t => t.hits asid v)).foldl
    (fun m t => match m with | none => some t | some u => if t.bits < u.bits then some t else some u) none

/-- The walk a die makes, from its walk cache where that holds an entry on the path. -/
def dieWalk (s : State) (die asid root va : Nat) : Walked :=
  let v := va % 2 ^ 57
  let w0 : Walked := { reads := [], steps := [], path := [], leaf := none, cause := 0, kind := 0, fa := 0 }
  match walkFrom asid v (mget [] s.home.walk die) with
  | some t => walk s va (levelBelow t.bits) t.tab { w0 with path := t.path }
  | none => walk s va 5 root w0

/-- The walker of a die, as the L2 sees it: no file gives its reads a class (DESIGN CHOICE, log 131: 0). -/
def whoWalker : Who := { key := 2048, team := none, meas := false, cls := 0, dig := false }

/-- Die of a core. -/
def dieOf (key : Nat) : Nat := if key < 1024 then key / 256 else 4
/-- Quad of a core. -/
def quadOf (key : Nat) : Nat := key / 4

/-- A new translation enters the core's cache, where it has one in play. -/
def fillCore (useCore : Bool) (key : Nat) (t : TlbE) (s : State) : State :=
  if useCore then onCoreAt key (fun c => { c with cm := { c.cm with tlb := lruPut 64 t c.cm.tlb t.same } }) s else s

/-- A translation enters the cache of a core's quad. -/
def fillQuad (key : Nat) (t : TlbE) : State → State :=
  onHome (fun h => { h with quad := mput h.quad (quadOf key) (lruPut 2048 t (mget [] h.quad (quadOf key)) t.same) })

/-- Next-level entries enter a die's walk cache. -/
def fillWalk (die : Nat) (ws : List WalkE) : State → State :=
  onHome (fun h => { h with walk := mput h.walk die (ws.foldl (fun m x => lruPut 256 x m x.same) (mget [] h.walk die)) })

/-- What a translation answers an access of one kind. -/
def TlbE.answer (s : State) (user : Bool) (k : Acq) (va : Word) (t : TlbE) : Tr :=
  let e := t.leaf.toNat
  if permits e k user then .ok (leafPkg s.ctl.pkgNum e * 2 ^ 52 + (nbits e 51 16 * 2 ^ 16 + va.toNat % 2 ^ 57 % 2 ^ t.bits)) e
  else .bad cPROT 4 va

/-- The walk-cache entry a walk of a die starts from is the most recently used. -/
def useWalk (die asid v : Nat) (s : State) : State :=
  match walkFrom asid v (mget [] s.home.walk die) with | some t => fillWalk die [t] s | none => s

/-- A walk for a core's quad. The walker reads through the L2; a walk that ends in a fault of any kind fills no cache. -/
def freshWalk (key : Nat) (ttb : Word) (useCore user : Bool) (k : Acq) (va : Word) (s : State) : Tr × State :=
  let v := va.toNat % 2 ^ 57
  let asid := fld ttb 63 52
  let d := dieOf key
  let w := dieWalk s d asid (fld ttb 51 12 * 2 ^ 12) va.toNat
  let s := w.reads.reverse.foldl (fun s a => l2Touch whoWalker false (own s a) s) (useWalk d asid v s)
  match w.leaf with
  | none => (.bad w.cause w.kind (if w.cause = cMEMERR then wd w.fa else va), s)
  | some (level, e) =>
    let t : TlbE := { asid := asid, va := v, bits := leafBits level, leaf := wd e, path := w.path }
    match t.answer s user k va with
    | .ok a e =>
      (.ok a e, fillCore useCore key t (fillQuad key t (fillWalk d (w.steps.map (fun p => ⟨asid, v, p.1, p.2, w.path⟩)) s)))
    | r => (r, s)

/-- The translation of `va` for a core's address space; the caches of the core (when `useCore`), its quad and its die
answer or are filled. A cached translation may be out of date until TINV (12 R218). -/
def translate (key : Nat) (ttb : Word) (useCore user : Bool) (k : Acq) (va : Word) (s : State) : Tr × State :=
  let v := va.toNat % 2 ^ 57
  let asid := fld ttb 63 52
  if nonCanon va.toNat then (.bad cXLATE 1 va, s)
  else
    match if useCore then (coreAt s key).cm.tlb.find? (fun t => t.hits asid v) else none with
    | some t => (t.answer s user k va, fillCore useCore key t s)
    | none =>
      let s := if useCore then onCoreAt key (pmAdd 0x2B 1) s else s
      match (mget [] s.home.quad (quadOf key)).find? (fun t => t.hits asid v) with
      | some t => (t.answer s user k va, fillCore useCore key t (fillQuad key t s))
      | none => freshWalk key ttb useCore user k va (onCoreAt key (fun c => pmAdd 0x2D 1 (pmAdd 0x2C 1 c)) s)

/-- Translation for an instruction of the core in focus. -/
def transCore (k : Acq) (va : Word) (s : State) : Tr × State :=
  translate s.focus s.core.x.ttb true (!s.core.x.pl) k va s

/-! ### Invalidation (19 R326) -/

/-- Entries matching are dropped from every cache of the package. -/
def tinvWhere (pt : TlbE → Bool) (pw : WalkE → Bool) (s : State) : State :=
  let f := fun (c : Core) => { c with cm := { c.cm with tlb := c.cm.tlb.filter (fun t => !pt t) } }
  let s := { s with core := f s.core, others := s.others.map (fun p => (p.1, f p.2)) }
  onHome (fun h => { h with quad := h.quad.map (fun p => (p.1, p.2.filter (fun t => !pt t))),
                            walk := h.walk.map (fun p => (p.1, p.2.filter (fun t => !pw t))) }) s

end Sys2Proof.Machine
end

