-- ==== Sys2Proof/Machine/Regions.lean ====
section
/-!
DEFINITION. Machine/Regions.lean: region records of the Sorrel engines, their arrays, and the check of torn blocks
(14 R260, R262, R267).
-/
namespace Sys2Proof.Machine

/-- A region record as it stands in memory (14 Table 14-4); `ctrl` is the whole first field. -/
structure RRec where
  ctrl : Nat
  cols : Nat
  rows : Nat
  eng : Nat
  mxc : Bool
  adam : Bool
  mwb : Nat
  m1b : Nat
  m2b : Nat
  mxeb : Nat
  mxsb : Nat
  mxfw : W32
  ssh : Nat
  tagb : Nat
  winb : Nat
  deriving DecidableEq, Repr

/-- The record at a full address. -/
def recAt (m : SMap Byte) (a : Nat) : RRec :=
  let c := memNat m a 8
  let q := fun o => memNat m (a + o) 8
  { ctrl := c, cols := nbits c 47 32 + 1, rows := nbits c 31 16 + 1, eng := nbits c 7 6, mxc := decide (c / 8 % 2 = 1),
    adam := decide (c / 4 % 2 = 1), mwb := q 0x08, m1b := q 0x10, m2b := q 0x18, mxeb := q 0x20, mxsb := q 0x28,
    mxfw := BitVec.ofNat 32 (memNat m (a + 0x30) 4), ssh := memNat m (a + 0x34) 4, tagb := q 0x38, winb := q 0x40 }

def RRec.bcols (r : RRec) : Nat := cdiv r.cols 16
def RRec.brows (r : RRec) : Nat := cdiv r.rows 16
def RRec.blocks (r : RRec) : Nat := r.bcols * r.brows
/-- Container of an MX element in bits, and the row pitch of the MX elements in bytes. -/
def RRec.cbits (r : RRec) : Nat := (fmtOf r.mxfw).cont
def RRec.mxPitch (r : RRec) : Nat := cdiv (r.cols * r.cbits) 512 * 64

/-- Arrays of a record: (virtual base, bytes). -/
def RRec.arrays (r : RRec) : List (Nat × Nat) :=
  let w := 4 * r.rows * r.cols
  [(r.mwb, w), (r.m1b, w)] ++ (if r.adam then [(r.m2b, w)] else []) ++
  (if r.mxc then [(r.mxeb, r.rows * r.mxPitch), (r.mxsb, (r.brows - 1) * 2 ^ (r.ssh % 16) + r.bcols)] else []) ++
  [(r.tagb, 8 * r.blocks), (r.winb, 4096 * 8)]

/-- Full address of a virtual address in a region's captured pages. -/
def Region.phys (r : Region) (va : Nat) : Nat := mget 0 r.pages (va / 2 ^ 16) / 8 * 2 ^ 16 + va % 2 ^ 16

/-- Class of the leaf a virtual address was captured by. -/
def Region.cls (r : Region) (va : Nat) : Nat := mget 0 r.pages (va / 2 ^ 16) % 4

/-- Offsets in [base, base + n) that lie at the line `a` of physical memory. -/
def Region.lineAt (r : Region) (a base n : Nat) : Option Nat :=
  (r.pages.filterMap (fun p =>
    let va := p.1 * 2 ^ 16 + a % 2 ^ 16
    if p.2 / 8 = a / 2 ^ 16 ∧ base < va + 64 ∧ va < base + n then some (va - base) else none)).head?

/-- Is the line part of the region's record or arrays (14 R262)? -/
def Region.owns (s : State) (r : Region) (a : Nat) : Bool :=
  decide (r.rec_ ≤ a ∧ a < r.rec_ + 256) ||
  (recAt s.mem r.rec_).arrays.any (fun p => (r.lineAt a p.1 p.2).isSome)

/-- The region a line belongs to. -/
def regionOf (s : State) (a : Nat) : Option Region := s.home.regions.find? (fun r => r.owns s a)

/-- Does the block's tag pair differ (14 R267)? -/
def tornBlock (s : State) (r : Region) (c : RRec) (bi bj : Nat) : Bool :=
  let t := r.phys (c.tagb + 8 * (bi * c.bcols + bj))
  memNat s.mem t 4 != memNat s.mem (t + 4) 4

/-- Does a line of the MX copy cover a torn block? -/
def tornLine (s : State) (r : Region) (a : Nat) : Bool :=
  let c := recAt s.mem r.rec_
  c.mxc &&
  ((match r.lineAt a c.mxeb (c.rows * c.mxPitch) with
    | some o =>
      let row := o / c.mxPitch
      let b0 := o % c.mxPitch * 8 / c.cbits / 16
      let b1 := ((o % c.mxPitch + 64) * 8 - 1) / c.cbits / 16
      (List.range (b1 + 1 - b0)).any (fun k => decide (b0 + k < c.bcols) && tornBlock s r c (row / 16) (b0 + k))
    | none => false) ||
   (match r.lineAt a c.mxsb ((c.brows - 1) * 2 ^ (c.ssh % 16) + c.bcols) with
    | some o =>
      (List.range 64).any (fun k =>
        let bi := (o + k) / 2 ^ (c.ssh % 16)
        let bj := (o + k) % 2 ^ (c.ssh % 16)
        decide (bi < c.brows ∧ bj < c.bcols) && tornBlock s r c bi bj)
    | none => false))

/-- A read of the line raises PAIRTORN (14 R267). -/
def pairTorn (s : State) (a : Nat) : Bool := s.home.regions.any (fun r => tornLine s r (a / 64 * 64))

end Sys2Proof.Machine
end

