-- ==== Sys2Proof/Machine/Torus.lean ====
section
/-!
DEFINITION. Machine/Torus.lean: the torus as a sender sees it: routes, links and the flits put on them (21 R342–R346), packets
and their end-to-end numbers (21 R347), and a core's accesses to other packages (21 R348).
-/
namespace Sys2Proof.Machine

/-! ### Coordinates and links (21 R342) -/

/-- Coordinates of a package (21 R342). -/
def coordOf (p d : Nat) : Nat := if d = 0 then p % 32 else if d = 1 then p / 32 % 32 else p / 1024
/-- Extent of a dimension. -/
def extentOf (s : State) (d : Nat) : Nat := 2 ^ fld s.ctl.podcfg (5 * d + 4) (5 * d)

/-- A link that no extent gives the package (21 R342). -/
def linkAbsent (s : State) (i : Nat) : Bool :=
  decide (12 ≤ i) || decide (extentOf s (i / 4) = 1) || (decide (extentOf s (i / 4) = 2) && decide (i / 2 % 2 = 1))

/-- A link as it is kept: trained at reset. -/
def linkKept (s : State) (i : Nat) : Link :=
  (mfind? s.net.links i).getD { st := 0, tx := 0, rx := 0, pos := 0, nak := false, unack := [], retry := 0, efail := 0, replies := [], inb := [] }

/-- State of a link of the own package, absent where the extents give none. -/
def linkAt (s : State) (i : Nat) : Link := let l := linkKept s i; if linkAbsent s i then { l with st := 3 } else l

def putLink (i : Nat) (l : Link) : State → State := onNet (fun n => { n with links := mput n.links i l })

/-! ### Descriptors (21 Table 21-3) -/

def clDt (d : List Byte) : Nat := leAt d 0 8 % 4
def clRk (d : List Byte) : Nat := nbits (leAt d 0 8) 7 4
def clDopt (d : List Byte) : Bool := decide (leAt d 0 8 / 2 ^ 9 % 2 = 1)
def clSrc (d : List Byte) : Nat := leAt d 0x08 8
def clDst (d : List Byte) : Nat := leAt d 0x10 8
def clLen (d : List Byte) : Nat := leAt d 0x18 8
def clRlist (d : List Byte) : Nat := leAt d 0x20 8
def clChan (d : List Byte) : Nat := leAt d 0x28 4
def clPeer (d : List Byte) : Nat := leAt d 0x2E 2
def clNblk (d : List Byte) : Nat := leAt d 0x34 4
def clNq (d : List Byte) : Word := wd (leAt d 0x40 8)

/-- Members of the command's ring: P of the descriptor, or the extent of the ring's dimension. -/
def clP (s : State) (d : List Byte) : Nat := if clRk d = 0 then leAt d 0x2C 2 else extentOf s (clRk d - 1)

/-- Members of a command that are told of it: its ring, or the peer of SEND and RECV. -/
def Coll.mates (c : Coll) : List Nat := if 3 ≤ c.kind then [clPeer c.desc] else c.ring

/-- What the matching of a command compares: kind, CHAN, LEN, DT, ring (21 R353). -/
def Coll.sig (c : Coll) : List Nat := [c.kind, clChan c.desc, clLen c.desc, clDt c.desc] ++ (if 3 ≤ c.kind then [] else c.ring)

/-- Number under which the engine holds objects for a command. -/
def collHolder (id : Nat) : Nat := 2 ^ 66 + id

/-! ### Routes (21 R345, R346) -/

/-- Recovery mode (21 R346). -/
def recov (s : State) : Bool := bitAt s.ctl.podcfg 15

/-- Directions a packet needs, in dimension order: 2d for +, 2d + 1 for −. Where both ways round are equal it goes +; in
recovery mode both are minimal. -/
def routeDirs (s : State) (src dst : Nat) : List Nat :=
  (List.range 3).flatMap (fun d =>
    let n := extentOf s d
    let k := (coordOf dst d + n - coordOf src d % n) % n
    if k = 0 then [] else if 2 * k < n then [2 * d] else if 2 * k = n then (if recov s then [2 * d, 2 * d + 1] else [2 * d])
    else [2 * d + 1])

/-- Links by which a packet from `src` may leave this package, in the order they are tried: the first direction of dimension
order, or in recovery mode any minimal one (21 R345, R346). -/
def usable (s : State) (src dst : Nat) : List Nat :=
  let ds := routeDirs s s.ctl.pkgNum dst
  let i := (src + dst) % 2
  ((if recov s then ds else ds.take 1).flatMap (fun d => [2 * d + i, 2 * d + (1 - i)])).filter (fun k => decide ((linkAt s k).st = 0))

/-- The direction a packet needs when no link is up for it: it is failed at once (21 R345). -/
def deadDir (s : State) (dst : Nat) : Option Nat :=
  if (usable s s.ctl.pkgNum dst).isEmpty then (routeDirs s s.ctl.pkgNum dst).head? else none

/-- EFAIL counts on a link, saturating. -/
def countFail (i : Nat) (s : State) : State :=
  let l := linkKept s i
  putLink i { l with efail := if l.efail < 65535 then l.efail + 1 else 65535 } s

/-- EFAIL counts on both links of a direction. -/
def countDead (d : Nat) (s : State) : State := countFail (2 * d) (countFail (2 * d + 1) s)

/-- The link a packet takes: the first choice, or in recovery mode one left open. -/
def chooseLink (s : State) (src dst : Nat) : Option Nat × State :=
  match usable s src dst with
  | [] => (none, s)
  | k :: r => if recov s then let (d, s) := draw s; (some (nth k (k :: r) (Config.freeNat d % (r.length + 1))), s) else (some k, s)

/-! ### Flits (21 R343) -/

/-- A flit: TYPE, LSEQ, 58 bytes of payload, CRC. -/
def flitOf (ty seq : Nat) (pl : List Byte) : List Byte :=
  let b := leBytes 2 (ty % 16 * 2 ^ 12 + seq % 2 ^ 12) ++ (pl ++ List.replicate 58 0).take 58
  b ++ leBytes 4 (crc32c b)

/-- The bytes of a packet that its flit `i` carries; no file lays them out. -/
def pktPayload (r : PRef) (i : Nat) : List Byte := (List.range 58).map (Config.pktByte r.frm r.to_ (2 * r.eseq + b2n r.ack) i)

/-- The flush marker from a package to another (13 R253), and its payload. -/
def markerRef (src dst : Nat) : PRef := ⟨src, dst, 2 ^ 32, false⟩
def markerPayload (r : PRef) : List Byte := pktPayload r 0

/-- Flits of one type join those a link has sent. -/
def putFlits (k ty : Nat) (r : PRef) (pls : List (List Byte)) (s : State) : State :=
  let l := linkKept s k
  putLink k { l with
    tx := (l.tx + pls.length) % 4096,
    unack := l.unack ++ ((List.range pls.length).zip pls).map (fun p =>
      let q := (l.tx + p.1) % 4096
      ⟨q, r, flitOf ty q p.2, false⟩) } s

/-- A packet's flits; how many a packet takes is left open. -/
def putPacket (k : Nat) (r : PRef) (s : State) : State :=
  putFlits k 1 r ((List.range (1 + Config.pktFlits r.to_ r.eseq % 2048)).map (pktPayload r)) s

/-- A packet put on a link of this package, and the link it took; one that finds no link up for it is failed at once. -/
def routeRef (r : PRef) (s : State) : Option Nat × State :=
  match chooseLink s r.frm r.to_ with
  | (some k, s) => (some k, putPacket k r s)
  | (none, s) => (none, match (routeDirs s s.ctl.pkgNum r.to_).head? with | some d => countDead d s | none => s)

/-! ### Packets (21 R347) -/

/-- A packet of this package put on a link, anew or again. -/
def routePkt (dst eseq : Nat) (s : State) : State :=
  let (k, s) := routeRef ⟨s.ctl.pkgNum, dst, eseq, false⟩ s
  onNet (fun n => { n with pkts := n.pkts.map (fun p => if p.dst = dst ∧ p.eseq = eseq then { p with via := k } else p) }) s

/-- A packet leaves for another package (21 R347). -/
def sendPkt (dst : Nat) (r : PktReq) (s : State) : State :=
  let e := mget 0 s.net.eseq dst
  routePkt dst e (onNet (fun n => { n with pkts := n.pkts ++ [⟨dst, e, s.time, s.time, 0, none, r⟩],
                                           eseq := mset 0 n.eseq dst ((e + 1) % 2 ^ 32) }) s)

/-- A message to another package, which nobody waits for with a register; one that no link leads to is lost. -/
def tell (pkg kind addr : Nat) (data : List Byte) (s : State) : State :=
  if pkg = s.ctl.pkgNum then s
  else match deadDir s pkg with
    | some d => countDead d s
    | none => sendPkt pkg (.tell s.focus kind addr data) s

/-- Kind of the away and re-home messages (19 R331). -/
def kHome : Nat := 41

/-- Kind of the message that ends a continuation's, or a whole team's, holdings and registrations. -/
def kWithdraw : Nat := 42

/-- Kind of the message that a registration's queue is gone (14 R258). -/
def kStale : Nat := 43

/-- Kind of the message that members of a collective are told its command is abandoned (21 R361). -/
def kAbandon : Nat := 46

/-- Kind of the message that withdraws a replica's submissions for steps without an outcome (23 R374, 19 R336). -/
def kUnsubmit : Nat := 37

/-- Kind of the message that a member's team of a replica group is gone (25 R396). -/
def kUngroup : Nat := 49

/-- Kind of the request for a piece of a meeting's tile (17 R300). -/
def kTile : Nat := 50

/-- Is nothing in flight that this package has sent? -/
def netQuiet (s : State) : Bool := s.net.pkts.isEmpty && s.net.links.all (fun p => p.2.unack.isEmpty)

/-- Is a packet that satisfies `p` still unanswered? -/
def inFlight (s : State) (p : PktReq → Bool) : Bool := s.net.pkts.any (fun x => p x.req)

/-! ### A core's accesses to other packages (21 R348) -/

/-- A failed store is recorded for the core's next FENCE (13 R246). -/
def fenceFail (refused : Bool) (key : Nat) : State → State := onCoreAt key (fun c =>
  { c with cm := { c.cm with fCount := if c.cm.fCount < 255 then c.cm.fCount + 1 else 255,
                             fRefused := c.cm.fRefused || refused, fDead := c.cm.fDead || !refused } })

/-- The core in focus reaches a package: a later flush marker goes there (13 R253). -/
def reachPkg (p : Nat) : State → State := onCm (fun c => { c with reach := if c.reach.contains p then c.reach else c.reach ++ [p] })

def winKey (team stack : Nat) : Nat := team * 8 + stack
def Win.new : Win := { caps := [], broken := false, lines := [], digest := 0, accs := [], logs := [] }

/-- A write at a home of another package (12 R229, 19 R335, 24 R387): the team has no area there, so that a window of it is BROKEN
(DEDUCED, log 158), and so is its pass where it measures. -/
def farWrote (w : Who) (s : State) : State :=
  match w.team with
  | none => s
  | some t =>
    let brk := fun (m : SMap Win) => mput m (winKey t 0) { (mfind? m (winKey t 0)).getD .new with broken := true }
    onHome (fun h => { h with wins := brk h.wins, mwins := if w.meas then brk h.mwins else h.mwins }) s

/-- A posted store to another package: sent, or failed at once and recorded. `by_` gives its bundle and virtual address. -/
def remoteStore (cls a : Nat) (bs : List Byte) (by_ : Option (Word × Word)) (s : State) : State :=
  let s := onCore (pmAdd 0x30 1) s
  match deadDir s (pkgOf a) with
  | some d => fenceFail false s.focus (countDead d s)
  | none => sendPkt (pkgOf a) (.store s.focus cls a bs by_) (reachPkg (pkgOf a) (farWrote (whoCore s.core cls) s))

/-- What has come of an access on another package: a reply, a failure, or nothing yet. -/
inductive Asked where
  | got (r : Nat)
  | failed
  | wait
  deriving DecidableEq, Repr

/-- The access on another package that the core in focus waits for: sent, then answered with a reply, or failed (21 R348).
What the other package holds is not part of this machine: its reply is an input (log 30). -/
def askFar (pkg cls kind addr : Nat) (data : List Byte) (s : State) : Asked × State :=
  let setRem := fun r => onCm (fun c => { c with rem := r })
  match s.core.cm.rem with
  | some (some (some r)) => (.got r, setRem none s)
  | some (some none) => (.failed, setRem none s)
  | some none => (.wait, s)
  | none =>
    let s := onCore (pmAdd 0x30 1) s
    match deadDir s pkg with
    | some d => (.failed, countDead d s)
    | none => (.wait, setRem (some none) (sendPkt pkg (.ask s.focus cls kind addr data) (reachPkg pkg s)))

/-- An access of slot 3 on another package: the bundle is held until the reply is there; LINK when it fails. -/
def remoteAsk (pkg cls kind addr : Nat) (data : List Byte) (va : Word) (f : Nat → State → State) (s : State) : State :=
  match askFar pkg cls kind addr data s with
  | (.got r, s) => f r s
  | (.failed, s) => trap cLINK 0 va s
  | (.wait, s) => hold 0x33 s

end Sys2Proof.Machine
end

