-- ==== Sys2Proof/Machine/DevMem.lean ====
section
/-!
DEFINITION. Machine/DevMem.lean: accesses performed at their homes: write-set and measurement
capture (12 R228, R229, 24 R387), kernel digests (23 R373), bound lines (13 R241), shadows and publication (13 R243,
R244), the package register space (25 R393), and a core's loads and stores of device memory (07 R138, 13 R231).
-/
namespace Sys2Proof.Machine

/-! ### Capture (12 R228, R229; 24 R387) -/

/-- ASID of a team. -/
def teamAsid (s : State) (t : Nat) : Nat := ((mfind? s.dist.teams t).map Team.asid).getD 0

/-- Slots of an area taken by the windows of a map. -/
def slotsTaken (s : State) (wins : SMap Win) (asid stack : Nat) : List Nat :=
  wins.flatMap (fun p => if p.1 % 8 = stack ∧ teamAsid s (p.1 / 8) = asid then p.2.caps.map Prod.snd else [])

/-- Least number not in a list. -/
def freeNum (xs : List Nat) : Nat := ((List.range (xs.length + 1)).find? (fun i => !xs.contains i)).getD xs.length

/-- First byte of the data slots of an area. -/
def CapArea.data (c : CapArea) : Nat := c.base + cdiv (8 * c.n) 4096 * 4096

/-- The capture of a granule (12 R228): index entry and data of the next free slot. -/
def captureAt (area : CapArea) (team slot gran : Nat) (s : State) : State :=
  let s := l2Drop gran 4096 s
  let m := memCopy gran (own s (area.data + 4096 * slot)) 4096 s.mem
  let idx := 1 + paOf gran % 2 ^ 39 / 2 ^ 12 * 2 ^ 12 + team % 2 ^ 12 * 2 ^ 39
  { s with mem := memPut (leBytes 8 idx) (own s (area.base + 8 * slot)) m }

/-- One window's capture of a write: captured already, a slot taken, or BROKEN, with an event for every write left uncaptured (12
R229). -/
def captureIn (wins : SMap Win) (area : Option CapArea) (team gran : Nat) (put : SMap Win → HomeSt → HomeSt) (s : State) :
    State :=
  let k := winKey team (stackOf (paOf gran))
  let w := (mfind? wins k).getD .new
  if w.caps.any (fun p => decide (p.1 = gran)) then s
  else
    let broken := fun s => ctlEvent 2 team (paOf gran) (onHome (put (mput wins k { w with broken := true })) s)
    match area with
    | none => broken s
    | some ar =>
      let slot := freeNum (slotsTaken s wins (teamAsid s team) (stackOf (paOf gran)))
      if slot < ar.n then captureAt ar team slot gran (onHome (put (mput wins k { w with caps := w.caps ++ [(gran, slot)] })) s)
      else broken s

/-- Key of an area. -/
def areaKey (asid stack : Nat) : Nat := asid * 8 + stack

/-- Captures a write asks for, before it is performed. -/
def capture (w : Who) (a : Nat) (s : State) : State :=
  match w.team with
  | none => s
  | some t =>
    let gran := a / 4096 * 4096
    let k := areaKey (teamAsid s t) (stackOf (paOf a))
    let s := captureIn s.home.wins (mfind? s.ctl.caps k) t gran (fun m h => { h with wins := m }) s
    if w.meas then captureIn s.home.mwins (mfind? s.ctl.meas k) t gran (fun m h => { h with mwins := m }) s else s

/-! ### Writes performed at their home -/

/-- Bits of a line replaced in memory. -/
def memMasked (a mask val : Nat) (m : SMap Byte) : SMap Byte :=
  (List.range 64).foldl (fun m i =>
    let k : Byte := BitVec.ofNat 8 (mask / 2 ^ (8 * i))
    if k = 0 then m else mset 0 m (a + i) (mergeBits (memByte m (a + i)) k (BitVec.ofNat 8 (val / 2 ^ (8 * i))))) m

/-- A line's bytes with bits replaced. -/
def lineMerge (mask val : Nat) (l : List Byte) : List Byte :=
  (List.range 64).map (fun i => mergeBits (nth 0 l i) (BitVec.ofNat 8 (mask / 2 ^ (8 * i))) (BitVec.ofNat 8 (val / 2 ^ (8 * i))))

/-- The value of a line that counts for a window: what it last counted, or the bytes of memory without log records (23 R373,
R377). -/
def Win.counted (v : Win) (m : SMap Byte) (a : Nat) : List Byte :=
  match mfind? v.lines a with
  | some l => l
  | none => (List.range 64).map (fun i => (mfind? v.logs (a + i)).getD (memByte m (a + i)))

/-- A window's digest after a write of bits of a line: the line's hash as it counted so far gives way to the new one. -/
def Win.digestOn (m : SMap Byte) (a mask val : Nat) (v : Win) : Win :=
  let h := fun bs => lineHash (paOf a % 2 ^ 39) bs
  let old := v.counted m a
  let new := lineMerge mask val old
  { v with digest := v.digest + h new - (if (mfind? v.lines a).isSome then h old else 0), lines := mput v.lines a new }

/-- The homes' shares of kernel digests when a line is written (23 R373): that of the writer's team, and those of teams that
wrote the line before. -/
def digestStep (w : Who) (a mask val : Nat) (s : State) : State :=
  let mine := w.team.map (fun t => winKey t (stackOf (paOf a)))
  let wins := match mine with
    | some k => if (mfind? s.home.wins k).isSome then s.home.wins else mput s.home.wins k .new
    | none => s.home.wins
  onHome (fun h => { h with wins := wins.map (fun p =>
    if some p.1 = mine ∨ (mfind? p.2.lines a).isSome = true then (p.1, p.2.digestOn s.mem a mask val) else p) }) s

/-- Does a line lie in a team's log block (23 R375)? -/
def inLog (s : State) (a : Nat) : Bool :=
  s.dist.teams.any (fun p => match p.2.log with | some b => decide (b ≤ a ∧ a < b + 320) | none => false)

/-- Bits of a line that a write changes: POS of a log descriptor is read only (23 Table 23-5). -/
def roMask (s : State) (a mask : Nat) : Nat :=
  if inLog s a then mask - (mask &&& ((2 ^ 64 - 1) * 2 ^ 128 + (2 ^ 64 - 1) * 2 ^ 384)) else mask

/-- The values such a write gives them: the reserved bits of CTRL read as zero (00 R4, 23 Table 23-5). -/
def rzVal (s : State) (a val : Nat) : Nat :=
  if inLog s a then val - (val &&& ((2 ^ 63 - 1) * 2 ^ 193 + (2 ^ 63 - 1) * 2 ^ 449)) else val

/-- A write of bits of the line at `a`, performed at its home: captured first, digested, taken into the L2 when `l2`. -/
def homeWrite (w : Who) (l2 : Bool) (a mask val : Nat) (s : State) : State :=
  if isOwn s a then
    let mask := roMask s a mask
    let val := rzVal s a val
    let s := capture w a s
    let s := if l2 then l2Touch w true a s else s
    let s := if w.dig then digestStep w a mask val s else s
    { s with mem := memMasked a mask val s.mem }
  else { s with mem := memMasked a mask val s.mem }

/-- Mask and value of bytes at an offset of a line. -/
def lineBits (off : Nat) (bs : List Byte) : Nat × Nat :=
  ((2 ^ (8 * bs.length) - 1) * 2 ^ (8 * off), leNat bs * 2 ^ (8 * off))

/-- Bytes within one line written at their home. -/
def homePut (w : Who) (l2 : Bool) (a : Nat) (bs : List Byte) (s : State) : State :=
  let (m, v) := lineBits (a % 64) bs
  homeWrite w l2 (lineOf a) m v s

/-! ### Read-cache copies (13 R231) -/

/-- Copies of lines that satisfy `p` leave a core's read cache. -/
def rcFilter (p : Nat → Bool) (c : Core) : Core := { c with cm := { c.cm with rc := c.cm.rc.filter (fun x => !p x.1) } }

/-- Copies leave every core's read cache. -/
def rcDropAll (p : Nat → Bool) (s : State) : State :=
  { s with core := rcFilter p s.core, others := s.others.map (fun x => (x.1, rcFilter p x.2)) }

/-- The whole read cache of the core in focus is invalidated. -/
def rcClear (s : State) : State := onCm (fun c => { c with rc := [] }) s

/-! ### Bound lines (13 R234–R242) -/

/-- Is the full address in a range? -/
def BRange.has (r : BRange) (a : Nat) : Bool := r.pcs.any (fun p => decide (p.1 ≤ a ∧ a < p.1 + p.2))
def Obj.binds (o : Obj) (a : Nat) : Bool := o.ranges.any (fun r => r.has a)
/-- The object a line is bound to. -/
def boundTo (s : State) (a : Nat) : Option Obj := s.home.objs.find? (fun o => o.binds a)

/-- Does the holder key hold the object (exclusive when `x`)? -/
def Obj.heldBy (o : Obj) (key : Nat) (x : Bool) : Bool :=
  match o.hold with
  | .free => false
  | .shared hs => !x && hs.any (fun h => h.core = some key)
  | .excl h => h.core = some key
  | .engine n => decide (n = key)

/-- A write of a line is refused: bound and not held exclusive (13 R241), or a registered region's (14 R262). -/
def writeRefused (s : State) (key a : Nat) : Bool :=
  (match boundTo s a with | some o => !o.heldBy key true | none => false) || (regionOf s (lineOf a)).isSome

/-- Bytes from an address up written line by line (`k` lines at most); a line whose home refuses the write keeps its bytes. -/
def homePuts (w : Who) (l2 : Bool) : Nat → Nat → List Byte → State → State
  | 0, _, _, s => s
  | k + 1, a, bs, s =>
    if bs.isEmpty then s
    else
      let n := 64 - a % 64
      homePuts w l2 k (a + n) (bs.drop n) (if writeRefused s w.key a then s else homePut w l2 a (bs.take n) s)

/-- ENTRY is found for the instruction of the slot in progress and waits for a boundary (13 R241). -/
def lateEntry (fa : Word) : State → State := onCore (fun c =>
  { c with ev := { c.ev with late := c.ev.late ++ [⟨cENTRY, 0, fa, c.iss.pc, 3, c.iss.pc, 0⟩] } })

/-! ### Shadows (13 R243, R244) -/

/-- Lines a stack's shadow store holds: 16 MiB. -/
def shadowCap : Nat := 262144

/-- Has the home room for one more shadow of this line? -/
def shadowRoom (s : State) (w : Who) (a : Nat) : Bool :=
  s.home.shadows.any (fun x => decide (x.line = a ∧ x.owner = w.key)) ||
  decide ((s.home.shadows.filter (fun x => decide (stackOf (paOf x.line) = stackOf (paOf a)))).length < shadowCap)

/-- Bits of a shadow after another write of the same engine. -/
def mergeShadow (mask val : Nat) (x : Shadow) : Shadow :=
  { x with mask := x.mask ||| mask, val := (x.val - (x.val &&& mask)) + (val &&& mask) }

/-- A write put into a shadow of its line; a bound line that finds no room is written in place (13 R244), and taken into the L2 when
`l2`. -/
def shadowPutAs (l2 : Bool) (w : Who) (a mask val : Nat) (s : State) : State :=
  let bound := (boundTo s a).isSome
  if shadowRoom s w a then
    onHome (fun h =>
      if h.shadows.any (fun x => decide (x.line = a ∧ x.owner = w.key)) then
        { h with shadows := h.shadows.map (fun x => if x.line = a ∧ x.owner = w.key then mergeShadow mask val x else x) }
      else
        { h with shadows := h.shadows ++ [⟨a, mask, val &&& mask, w.key, w.team.getD 4096, w.cls, bound, false⟩] }) s
  else homeWrite w l2 a mask val s

/-- The same by an engine whose lines the L2 takes. -/
def shadowPut (w : Who) (a mask val : Nat) (s : State) : State := shadowPutAs true w a mask val s

/-- One shadow exposed; the L2 takes the line in the class of its writer's leaf. -/
def exposeOne (meas : Bool) (x : Shadow) (s : State) : State :=
  homeWrite ⟨x.owner, if x.team < 4096 then some x.team else none, meas, x.cls, true⟩ (!x.dram) x.line x.mask x.val s

/-- The shadows that satisfy `p` are published (13 R244): copies dropped, then all lines exposed. -/
def publish (p : Shadow → Bool) (meas : Bool) (s : State) : State :=
  let (ys, rest) := s.home.shadows.partition p
  let s := rcDropAll (fun l => ys.any (fun x => decide (x.line = l))) s
  ys.foldl (fun s x => exposeOne meas x s) (onHome (fun h => { h with shadows := rest }) s)

/-! ### Package registers (25 R393) -/

/-- An 8-byte register by offset; an offset that names none reads 0. -/
def regRead (s : State) (off : Nat) : Word :=
  let c := s.ctl
  if off = 0x0000 then wd (c.pkgNum + 2 ^ 16)
  else if off = 0x0040 then c.podcfg
  else if off = 0x0080 then c.pwr
  else if off = 0x00C0 then wd c.pcap
  else if off = 0x1000 ∨ off = 0x1040 ∨ off = 0x1080 ∨ off = 0x10C0 then l2quota s ((off - 0x1000) / 0x40)
  else if 0x2000 ≤ off ∧ off < 0x2040 then wd (mget 0 c.cecnt ((off - 0x2000) / 8))
  else if 0x2040 ≤ off ∧ off < 0x2060 then wd (mget 0 c.cecnt (8 + (off - 0x2040) / 8))
  else if off = 0x3000 then wd c.retired.length
  else if off = 0x3040 then wd c.rsvsz
  else 0

/-- L2QUOTA after a write: ignored where the three reserve more than 16 ways (12 R224). -/
def quotaWrite (old v : Word) : Word :=
  let w := fld v 3 0 + fld v 7 4 + fld v 11 8
  if 16 < w then old else (v &&& 0xFFF) ||| wd ((16 - w) * 2 ^ 16)

/-- PODCFG after a write: a change of RECOV waits until the packets in flight have drained (21 R346). -/
def podWrite (v : Word) (s : State) : State :=
  let v := v &&& 0xFFFF
  if bitAt v 15 != bitAt s.ctl.podcfg 15 && !netQuiet s then onCtl (fun c => { c with podNext := some v }) s
  else onCtl (fun c => { c with podcfg := v, podNext := none }) s

/-- A register written by the control complex; other offsets ignore it. -/
def regWrite (off : Nat) (v : Word) (s : State) : State :=
  if off = 0x0040 then podWrite v s
  else if off = 0x00C0 then
    (if 600 ≤ fld v 10 0 ∧ fld v 10 0 ≤ 1800 then onCtl (fun c => { c with pcap := fld v 10 0 }) s else s)
  else if off = 0x1000 ∨ off = 0x1040 ∨ off = 0x1080 ∨ off = 0x10C0 then
    let d := (off - 0x1000) / 0x40
    let v := quotaWrite (l2quota s d) v
    onCtl (fun c => { c with l2q := mset (wd (16 * 2 ^ 16)) c.l2q d v }) s
  else if off = 0x4000 then
    (if v.toNat % 64 = 0 ∧ v.toNat < 2 ^ 39 then onCtl (fun c => { c with ccmd := c.ccmd ++ [v.toNat] }) s else s)
  else s

/-! ### A core's scalar loads and stores (07 R138) -/

/-- Is the full address in the package register space? -/
def isReg (a : Nat) : Bool := decide (paOf a / 2 ^ 39 = 1)

/-- A line's value brought into the read cache of the core in focus; of 256 lines a full cache gives up one (log 6). -/
def rcFill (a : Nat) (s : State) : State :=
  let (d, s) := if s.core.cm.rc.length < 256 then (0, s) else draw s
  let v := memBytes s.mem (lineOf a) 64
  onCm (fun c =>
    let rc := if c.rc.length < 256 then c.rc else c.rc.eraseIdx (Config.freeNat d % 256)
    { c with rc := mput rc (lineOf a) v }) s

/-- May the core keep a copy of the line (13 R231)? -/
def rcMay (s : State) (a : Nat) : Bool :=
  match boundTo s a with | none => true | some o => o.heldBy s.focus false

/-- The bytes a core's load of own device memory returns: from its copy, or from the home. -/
def rcLoad (w : Who) (a n : Nat) (f : List Byte → State → State) (s : State) : State :=
  match if s.core.ctl then none else mfind? s.core.cm.rc (lineOf a) with
  | some v => f ((v.drop (a % 64)).take n) (onCore (pmAdd 0x29 1) s)
  | none =>
    let s := l2Touch w false a s
    let v := memBytes s.mem a n
    if s.core.ctl then f v s
    else
      let s := onCore (pmAdd 0x2A 1) s
      f v (if rcMay s a then rcFill a s else s)

/-- A scalar load of `n` bytes at virtual `va` by slot 3; `f` takes the bytes. -/
def loadDev (va : Word) (n : Nat) (f : List Byte → State → State) (s : State) : State :=
  if va.toNat % n ≠ 0 then trap cALIGN 0 va s
  else
    match transCore .rd va s with
    | (.bad c d fa, s) => trap c d fa s
    | (.ok a e, s) =>
      if isReg a then
        (if n = 8 then f (leBytes 8 (regRead s (paOf a % 2 ^ 39)).toNat) s else trap cALIGN 0 va s)
      else if retired s a then trap cMEMERR 1 va s
      else if pairTorn s a then trap cPAIRTORN 0 (wd (lineOf va.toNat)) s
      else
        let w := whoCore s.core (leafCls e)
        if pkgOf a ≠ s.ctl.pkgNum then remoteAsk (pkgOf a) (leafCls e) 0 a [BitVec.ofNat 8 n] va (fun r => f (leBytes n r)) s
        else if (Tr.ok a e).rem then f (memBytes s.mem a n) (l2Touch w false a (onCore (pmAdd 0x30 1) s))
        else rcLoad w a n f s

/-- The core's own copy of a line after its own store (13 R231). -/
def rcUpdate (a : Nat) (bs : List Byte) : State → State := onCm (fun c =>
  match mfind? c.rc (lineOf a) with
  | some v => { c with rc := mput c.rc (lineOf a) (v.take (a % 64) ++ bs ++ v.drop (a % 64 + bs.length)) }
  | none => c)

/-- A scalar store of bytes at virtual `va` by slot 3, then `f`. -/
def storeDev (va : Word) (bs : List Byte) (f : State → State) (s : State) : State :=
  aliasCheck 3 va.toNat (va.toNat + bs.length) (fun x => wd x) none (fun s =>
    if va.toNat % bs.length ≠ 0 then trap cALIGN 0 va s
    else
      match transCore .wr va s with
      | (.bad c d fa, s) => trap c d fa s
      | (.ok a e, s) =>
        if isReg a then
          (if bs.length ≠ 8 then trap cALIGN 0 va s
           else f (if s.core.ctl then regWrite (paOf a % 2 ^ 39) (wd (leNat bs)) s else s))
        else if retired s a then trap cMEMERR 1 va s
        else
          let w := whoCore s.core (leafCls e)
          let far := (Tr.ok a e).rem
          if pkgOf a ≠ s.ctl.pkgNum then f (remoteStore (leafCls e) a bs (some (s.core.iss.pc, va)) s)
          else
            let s := if far then onCore (pmAdd 0x30 1) s else s
            if writeRefused s s.focus a then f (lateEntry va s)
            else
              let s := homePut w true a bs s
              f (if far then s else rcUpdate a (memBytes s.mem a bs.length) s)) s

end Sys2Proof.Machine
end

