-- ==== Sys2Proof/Machine/Logs.lean ====
section
/-!
DEFINITION. Machine/Logs.lean: supervisor blocks of address spaces (25 R397) and the logs of a team (23 R375–R378): log
descriptors, room, records of atomics.
-/
namespace Sys2Proof.Machine

/-- The supervisor block of an ASID (25 R397). -/
def supOf (s : State) (asid : Nat) : SupBlk := (mfind? s.ctl.sup asid).getD ⟨wd (asid * 2 ^ 52), 0, 0, 0⟩

def teamOf (s : State) (t : Nat) : Option Team := mfind? s.dist.teams t
def onTeam (t : Nat) (f : Team → Team) (s : State) : State :=
  match teamOf s t with
  | some x => onDist (fun d => { d with teams := mput d.teams t (f x) }) s
  | none => s

/-- Full address of a virtual address of a team's address space, where it translates. -/
def teamPhys (s : State) (t : Nat) (k : Acq) (va : Word) : Option Nat :=
  match (translate 1024 (supOf s (teamAsid s t)).ttb false false k va s).1 with
  | .ok a _ => if isReg a then none else some a
  | .bad _ _ _ => none

/-- A log descriptor (23 Table 23-5). -/
structure LogD where
  addr : Nat
  base : Nat
  limit : Nat
  pos : Nat
  deriving DecidableEq, Repr

/-- Descriptor `k` of a team's log block, where it is enabled. -/
def logD (s : State) (t k : Nat) : Option LogD :=
  ((teamOf s t).bind Team.log).bind (fun b =>
    let a := b + 32 * k
    if memNat s.mem (a + 0x18) 8 % 2 = 1 then some ⟨a, memNat s.mem a 8, memNat s.mem (a + 8) 8, memNat s.mem (a + 0x10) 8⟩
    else none)

/-- A record of `z` bytes has no room: LIMIT, where that is so (23 R378). -/
def logFull (s : State) (t k z : Nat) : Option Word :=
  (logD s t k).bind (fun d => if d.pos + z ≤ d.limit then none else some (wd d.limit))

/-- A byte of a log record: every window of the stack keeps what stood there before (23 R373, R377). -/
def noteLog (a : Nat) (s : State) : State :=
  onHome (fun h => { h with wins := h.wins.map (fun p =>
    if p.1 % 8 = stackOf (paOf a) ∧ (mfind? p.2.logs a).isNone = true then (p.1, { p.2 with logs := mput p.2.logs a (memByte s.mem a) }) else p) }) s

/-- Bytes put at a team's virtual address, byte by byte; log writes are no team writes (23 R377). A home refuses them in a bound
line or a registered region (13 R241, 14 R262). -/
def logPut (t : Nat) : List Byte → Nat → State → State
  | [], _, s => s
  | b :: r, va, s =>
    logPut t r (va + 1) (match teamPhys s t .wr (wd va) with
      | some a => if writeRefused s 2048 a then s else { noteLog a s with mem := mset 0 s.mem a b }
      | none => s)

/-- A record written where its log is enabled and has room; a home that refuses a write of POS has no record written (13 R241, 14
R262). -/
def logWrite (t k : Nat) (f : LogD → List Byte) (s : State) : State :=
  match logD s t k with
  | none => s
  | some d =>
    let bs := f d
    if d.pos + bs.length ≤ d.limit ∧ writeRefused s 2048 d.addr = false then
      let s := (List.range 8).foldl (fun s i => noteLog (d.addr + 0x10 + i) s) (logPut t bs d.pos s)
      { s with mem := memPut (leBytes 8 (d.pos + bs.length)) (d.addr + 0x10) s.mem }
    else s

/-- EPOCH of a team (23 R376). -/
def epochOf (s : State) (t : Nat) : Nat := ((teamOf s t).map Team.rolls).getD 0 % 256

/-- A scheduler record (23 Table 23-6). -/
def schedRec (s : State) (t ev prio task : Nat) (w2 w3 : Nat) (d : LogD) : List Byte :=
  leBytes 8 (1 * 2 ^ 60 + ev * 2 ^ 56 + epochOf s t * 2 ^ 48 + t * 2 ^ 36 + prio * 2 ^ 34 + task) ++
  leBytes 8 ((d.pos - d.base) / 32) ++ leBytes 8 w2 ++ leBytes 8 w3

/-- A scheduler record written to a team's log. -/
def logSched (t ev prio task w2 w3 : Nat) (s : State) : State := logWrite t 0 (schedRec s t ev prio task w2 w3) s

/-- Records free in a team's scheduler log, without those reserved by teams that share it; none while it is off. -/
def logFree (s : State) (t : Nat) : Option Nat :=
  (logD s t 0).map (fun d =>
    let l := (teamOf s t).bind Team.log
    (d.limit - d.pos) / 32 - sumTo s.dist.teams.length (fun i =>
      match s.dist.teams[i]? with | some p => if p.2.log = l then p.2.logRes + p.2.dealRes else 0 | none => 0))

/-- Has a team's log room for the records of `n` pre-emptions? -/
def preRoom (s : State) (t n : Nat) : Bool := match logFree s t with | some f => decide (2 * n ≤ f) | none => true

/-- The two records of a pre-emption, PREEMPT and the later PICK, reserved for it where the team's log is on (23 R378). -/
def preReserve (t key : Nat) (s : State) : State :=
  if (logD s t 0).isSome then onTeam t (fun x => { x with pre := x.pre ++ [key], logRes := x.logRes + 2 }) s else s

/-- Records reserved for a team's picks, where its log is on. -/
def logReserve (t k : Nat) (s : State) : State :=
  if (logD s t 0).isSome then onTeam t (fun x => { x with logRes := x.logRes + k }) s else s

/-- An atomic-order record (23 Table 23-7). -/
def atomRec (s : State) (t task op succ a old hseq : Nat) : List Byte :=
  leBytes 8 (2 * 2 ^ 60 + op * 2 ^ 58 + succ * 2 ^ 57 + epochOf s t * 2 ^ 48 + t * 2 ^ 36 + task * 2 ^ 12) ++
  leBytes 8 (paOf a % 2 ^ 39 + pkgOf a % 2 ^ 14 * 2 ^ 39) ++ leBytes 8 old ++ leBytes 8 hseq

end Sys2Proof.Machine
end

