-- ==== Sys2Proof/WellFormed.lean ====
section
/-!
DEFINITION. WellFormed.lean: what a field of a slot word stands for (03 R48, R49), and when an instruction's fields fit
their widths and name registers that exist. An agent's step is always well formed: its arguments are inputs.
-/
namespace Sys2Proof

/-- The register files of 03 Table 3-6. -/
inductive RFile where
  | s | a | p | lc | td | sb | tv | v | m
  deriving DecidableEq, Repr

/-- Legal field values of a file: 0 to this number minus 1 (03 Table 3-6). -/
def RFile.size : RFile → Nat
  | .s => 32 | .a => 16 | .p => 8 | .lc => 6 | .td => 16 | .sb => 16 | .tv => 64 | .v => 48 | .m => 8

/-- What a field of a slot word is for. -/
inductive Role where
  /-- guard predicate, guard mask, guard inversion -/
  | gp | gm | neg
  /-- hold bits of source positions a and b (03 R46) -/
  | ha | hb
  /-- a register read, written, or read and written by an explicit field -/
  | rd (f : RFile) | wr (f : RFile) | rw (f : RFile)
  /-- vector sources in positions a and b, and XCOPY's source in another cluster -/
  | va | vb | vx
  /-- a lane number, a 4-bit address register read, a lazy tile source, a weight tile descriptor or plane -/
  | lane | areg | src | tw
  /-- `k` consecutive registers read from this one on -/
  | span (f : RFile) (k : Nat)
  | imm
  deriving DecidableEq, Repr

/-- One operand field: what it is for, its width in bits, its value. -/
structure Opnd where
  role : Role
  width : Nat
  val : Nat
  deriving DecidableEq, Repr

/-- The operand fields of an instruction in the order of the opcode table; an agent step has none. -/
def Instr.ops : Instr → List Opnd
  | .issueBundle => []
  | .watchdogExpiry => []
  | .forcedBoundary => []
  | .resultLands => []
  | .preemption => []
  | .saveComplete => []
  | .copyLineLands _ _ => []
  | .copyCommandCompletion => []
  | .copyLateFault => []
  | .copyRequestPop _ => []
  | .noticePushRetry _ => []
  | .s12Landing => []
  | .teaselBlockComputed _ => []
  | .teaselRequestCompletion => []
  | .teaselLateFault => []
  | .waiterDelivery _ => []
  | .arrival _ => []
  | .inDramCompletion _ => []
  | .pick => []
  | .dispatch _ => []
  | .freeCoreReport _ => []
  | .untakenTasksReturn => []
  | .collectiveStart _ _ => []
  | .collectiveCompletion _ _ => []
  | .flitData _ _ => []
  | .flitMarker _ _ => []
  | .flitAck _ _ => []
  | .flitNak _ _ => []
  | .packetArrival _ _ _ => []
  | .endToEndAck _ _ _ _ => []
  | .retransmission _ => []
  | .packetDeclaredFailed _ => []
  | .powerWindow _ _ _ _ => []
  | .thermalLimit _ => []
  | .thermalRecovery _ => []
  | .thermalTrip _ => []
  | .resetSequence => []
  | .frameReceived _ _ _ => []
  | .frameTransmit _ _ => []
  | .getid _ => []
  | .attest _ => []
  | .loados _ _ _ _ _ => []
  | .start _ _ => []
  | .reset _ _ => []
  | .podset _ _ => []
  | .linktrain _ _ => []
  | .pcapset _ _ => []
  | .retire _ _ => []
  | .mgmtLaunch _ _ _ => []
  | .mgmtRollback _ _ => []
  | .qcreate => []
  | .qdestroy => []
  | .poolset => []
  | .supset => []
  | .capset => []
  | .measset => []
  | .logset => []
  | .repgrp => []
  | .rollback => []
  | .creq => []
  | .l2quotaWrite _ _ => []
  | .pcapWrite _ => []
  | .podcfgWrite _ => []
  | .packageRegisterWrite _ _ => []
  | .add g n d a b => [⟨.gp, 3, g⟩, ⟨.neg, 1, n⟩, ⟨(.wr .s), 6, d⟩, ⟨(.rd .s), 6, a⟩, ⟨(.rd .s), 6, b⟩]
  | .sub g n d a b => [⟨.gp, 3, g⟩, ⟨.neg, 1, n⟩, ⟨(.wr .s), 6, d⟩, ⟨(.rd .s), 6, a⟩, ⟨(.rd .s), 6, b⟩]
  | .and g n d a b => [⟨.gp, 3, g⟩, ⟨.neg, 1, n⟩, ⟨(.wr .s), 6, d⟩, ⟨(.rd .s), 6, a⟩, ⟨(.rd .s), 6, b⟩]
  | .or g n d a b => [⟨.gp, 3, g⟩, ⟨.neg, 1, n⟩, ⟨(.wr .s), 6, d⟩, ⟨(.rd .s), 6, a⟩, ⟨(.rd .s), 6, b⟩]
  | .xor g n d a b => [⟨.gp, 3, g⟩, ⟨.neg, 1, n⟩, ⟨(.wr .s), 6, d⟩, ⟨(.rd .s), 6, a⟩, ⟨(.rd .s), 6, b⟩]
  | .andn g n d a b => [⟨.gp, 3, g⟩, ⟨.neg, 1, n⟩, ⟨(.wr .s), 6, d⟩, ⟨(.rd .s), 6, a⟩, ⟨(.rd .s), 6, b⟩]
  | .shl g n d a b => [⟨.gp, 3, g⟩, ⟨.neg, 1, n⟩, ⟨(.wr .s), 6, d⟩, ⟨(.rd .s), 6, a⟩, ⟨(.rd .s), 6, b⟩]
  | .shr g n d a b => [⟨.gp, 3, g⟩, ⟨.neg, 1, n⟩, ⟨(.wr .s), 6, d⟩, ⟨(.rd .s), 6, a⟩, ⟨(.rd .s), 6, b⟩]
  | .sar g n d a b => [⟨.gp, 3, g⟩, ⟨.neg, 1, n⟩, ⟨(.wr .s), 6, d⟩, ⟨(.rd .s), 6, a⟩, ⟨(.rd .s), 6, b⟩]
  | .rol g n d a b => [⟨.gp, 3, g⟩, ⟨.neg, 1, n⟩, ⟨(.wr .s), 6, d⟩, ⟨(.rd .s), 6, a⟩, ⟨(.rd .s), 6, b⟩]
  | .ror g n d a b => [⟨.gp, 3, g⟩, ⟨.neg, 1, n⟩, ⟨(.wr .s), 6, d⟩, ⟨(.rd .s), 6, a⟩, ⟨(.rd .s), 6, b⟩]
  | .min g n d a b => [⟨.gp, 3, g⟩, ⟨.neg, 1, n⟩, ⟨(.wr .s), 6, d⟩, ⟨(.rd .s), 6, a⟩, ⟨(.rd .s), 6, b⟩]
  | .max g n d a b => [⟨.gp, 3, g⟩, ⟨.neg, 1, n⟩, ⟨(.wr .s), 6, d⟩, ⟨(.rd .s), 6, a⟩, ⟨(.rd .s), 6, b⟩]
  | .minu g n d a b => [⟨.gp, 3, g⟩, ⟨.neg, 1, n⟩, ⟨(.wr .s), 6, d⟩, ⟨(.rd .s), 6, a⟩, ⟨(.rd .s), 6, b⟩]
  | .maxu g n d a b => [⟨.gp, 3, g⟩, ⟨.neg, 1, n⟩, ⟨(.wr .s), 6, d⟩, ⟨(.rd .s), 6, a⟩, ⟨(.rd .s), 6, b⟩]
  | .mul g n d a b => [⟨.gp, 3, g⟩, ⟨.neg, 1, n⟩, ⟨(.wr .s), 6, d⟩, ⟨(.rd .s), 6, a⟩, ⟨(.rd .s), 6, b⟩]
  | .mulh g n d a b => [⟨.gp, 3, g⟩, ⟨.neg, 1, n⟩, ⟨(.wr .s), 6, d⟩, ⟨(.rd .s), 6, a⟩, ⟨(.rd .s), 6, b⟩]
  | .mulhu g n d a b => [⟨.gp, 3, g⟩, ⟨.neg, 1, n⟩, ⟨(.wr .s), 6, d⟩, ⟨(.rd .s), 6, a⟩, ⟨(.rd .s), 6, b⟩]
  | .mulhsu g n d a b => [⟨.gp, 3, g⟩, ⟨.neg, 1, n⟩, ⟨(.wr .s), 6, d⟩, ⟨(.rd .s), 6, a⟩, ⟨(.rd .s), 6, b⟩]
  | .div g n d a b => [⟨.gp, 3, g⟩, ⟨.neg, 1, n⟩, ⟨(.wr .s), 6, d⟩, ⟨(.rd .s), 6, a⟩, ⟨(.rd .s), 6, b⟩]
  | .divu g n d a b => [⟨.gp, 3, g⟩, ⟨.neg, 1, n⟩, ⟨(.wr .s), 6, d⟩, ⟨(.rd .s), 6, a⟩, ⟨(.rd .s), 6, b⟩]
  | .rem g n d a b => [⟨.gp, 3, g⟩, ⟨.neg, 1, n⟩, ⟨(.wr .s), 6, d⟩, ⟨(.rd .s), 6, a⟩, ⟨(.rd .s), 6, b⟩]
  | .remu g n d a b => [⟨.gp, 3, g⟩, ⟨.neg, 1, n⟩, ⟨(.wr .s), 6, d⟩, ⟨(.rd .s), 6, a⟩, ⟨(.rd .s), 6, b⟩]
  | .clz g n d a => [⟨.gp, 3, g⟩, ⟨.neg, 1, n⟩, ⟨(.wr .s), 6, d⟩, ⟨(.rd .s), 6, a⟩]
  | .ctz g n d a => [⟨.gp, 3, g⟩, ⟨.neg, 1, n⟩, ⟨(.wr .s), 6, d⟩, ⟨(.rd .s), 6, a⟩]
  | .popc g n d a => [⟨.gp, 3, g⟩, ⟨.neg, 1, n⟩, ⟨(.wr .s), 6, d⟩, ⟨(.rd .s), 6, a⟩]
  | .brev g n d a => [⟨.gp, 3, g⟩, ⟨.neg, 1, n⟩, ⟨(.wr .s), 6, d⟩, ⟨(.rd .s), 6, a⟩]
  | .bswap g n d a => [⟨.gp, 3, g⟩, ⟨.neg, 1, n⟩, ⟨(.wr .s), 6, d⟩, ⟨(.rd .s), 6, a⟩]
  | .cmpeq g n d a b => [⟨.gp, 3, g⟩, ⟨.neg, 1, n⟩, ⟨(.wr .p), 6, d⟩, ⟨(.rd .s), 6, a⟩, ⟨(.rd .s), 6, b⟩]
  | .cmpne g n d a b => [⟨.gp, 3, g⟩, ⟨.neg, 1, n⟩, ⟨(.wr .p), 6, d⟩, ⟨(.rd .s), 6, a⟩, ⟨(.rd .s), 6, b⟩]
  | .cmplt g n d a b => [⟨.gp, 3, g⟩, ⟨.neg, 1, n⟩, ⟨(.wr .p), 6, d⟩, ⟨(.rd .s), 6, a⟩, ⟨(.rd .s), 6, b⟩]
  | .cmple g n d a b => [⟨.gp, 3, g⟩, ⟨.neg, 1, n⟩, ⟨(.wr .p), 6, d⟩, ⟨(.rd .s), 6, a⟩, ⟨(.rd .s), 6, b⟩]
  | .cmpltu g n d a b => [⟨.gp, 3, g⟩, ⟨.neg, 1, n⟩, ⟨(.wr .p), 6, d⟩, ⟨(.rd .s), 6, a⟩, ⟨(.rd .s), 6, b⟩]
  | .cmpleu g n d a b => [⟨.gp, 3, g⟩, ⟨.neg, 1, n⟩, ⟨(.wr .p), 6, d⟩, ⟨(.rd .s), 6, a⟩, ⟨(.rd .s), 6, b⟩]
  | .sel g n d a b k => [⟨.gp, 3, g⟩, ⟨.neg, 1, n⟩, ⟨(.wr .s), 6, d⟩, ⟨(.rd .s), 6, a⟩, ⟨(.rd .s), 6, b⟩, ⟨(.rd .p), 4, k⟩]
  | .pand g n d a b => [⟨.gp, 3, g⟩, ⟨.neg, 1, n⟩, ⟨(.wr .p), 6, d⟩, ⟨(.rd .p), 6, a⟩, ⟨(.rd .p), 6, b⟩]
  | .por g n d a b => [⟨.gp, 3, g⟩, ⟨.neg, 1, n⟩, ⟨(.wr .p), 6, d⟩, ⟨(.rd .p), 6, a⟩, ⟨(.rd .p), 6, b⟩]
  | .pxor g n d a b => [⟨.gp, 3, g⟩, ⟨.neg, 1, n⟩, ⟨(.wr .p), 6, d⟩, ⟨(.rd .p), 6, a⟩, ⟨(.rd .p), 6, b⟩]
  | .pandn g n d a b => [⟨.gp, 3, g⟩, ⟨.neg, 1, n⟩, ⟨(.wr .p), 6, d⟩, ⟨(.rd .p), 6, a⟩, ⟨(.rd .p), 6, b⟩]
  | .pnot g n d a => [⟨.gp, 3, g⟩, ⟨.neg, 1, n⟩, ⟨(.wr .p), 6, d⟩, ⟨(.rd .p), 6, a⟩]
  | .prd g n d => [⟨.gp, 3, g⟩, ⟨.neg, 1, n⟩, ⟨(.wr .s), 6, d⟩]
  | .pwr g n a => [⟨.gp, 3, g⟩, ⟨.neg, 1, n⟩, ⟨(.rd .s), 6, a⟩]
  | .bext g n d a b => [⟨.gp, 3, g⟩, ⟨.neg, 1, n⟩, ⟨(.wr .s), 6, d⟩, ⟨(.rd .s), 6, a⟩, ⟨(.rd .s), 6, b⟩]
  | .bextu g n d a b => [⟨.gp, 3, g⟩, ⟨.neg, 1, n⟩, ⟨(.wr .s), 6, d⟩, ⟨(.rd .s), 6, a⟩, ⟨(.rd .s), 6, b⟩]
  | .bins g n d a b => [⟨.gp, 3, g⟩, ⟨.neg, 1, n⟩, ⟨(.rw .s), 6, d⟩, ⟨(.rd .s), 6, a⟩, ⟨(.rd .s), 6, b⟩]
  | .addi g n d a i => [⟨.gp, 3, g⟩, ⟨.neg, 1, n⟩, ⟨(.wr .s), 6, d⟩, ⟨(.rd .s), 6, a⟩, ⟨.imm, 10, i⟩]
  | .andi g n d a i => [⟨.gp, 3, g⟩, ⟨.neg, 1, n⟩, ⟨(.wr .s), 6, d⟩, ⟨(.rd .s), 6, a⟩, ⟨.imm, 10, i⟩]
  | .ori g n d a i => [⟨.gp, 3, g⟩, ⟨.neg, 1, n⟩, ⟨(.wr .s), 6, d⟩, ⟨(.rd .s), 6, a⟩, ⟨.imm, 10, i⟩]
  | .xori g n d a i => [⟨.gp, 3, g⟩, ⟨.neg, 1, n⟩, ⟨(.wr .s), 6, d⟩, ⟨(.rd .s), 6, a⟩, ⟨.imm, 10, i⟩]
  | .shli g n d a i => [⟨.gp, 3, g⟩, ⟨.neg, 1, n⟩, ⟨(.wr .s), 6, d⟩, ⟨(.rd .s), 6, a⟩, ⟨.imm, 10, i⟩]
  | .shri g n d a i => [⟨.gp, 3, g⟩, ⟨.neg, 1, n⟩, ⟨(.wr .s), 6, d⟩, ⟨(.rd .s), 6, a⟩, ⟨.imm, 10, i⟩]
  | .sari g n d a i => [⟨.gp, 3, g⟩, ⟨.neg, 1, n⟩, ⟨(.wr .s), 6, d⟩, ⟨(.rd .s), 6, a⟩, ⟨.imm, 10, i⟩]
  | .rori g n d a i => [⟨.gp, 3, g⟩, ⟨.neg, 1, n⟩, ⟨(.wr .s), 6, d⟩, ⟨(.rd .s), 6, a⟩, ⟨.imm, 10, i⟩]
  | .muli g n d a i => [⟨.gp, 3, g⟩, ⟨.neg, 1, n⟩, ⟨(.wr .s), 6, d⟩, ⟨(.rd .s), 6, a⟩, ⟨.imm, 10, i⟩]
  | .mini g n d a i => [⟨.gp, 3, g⟩, ⟨.neg, 1, n⟩, ⟨(.wr .s), 6, d⟩, ⟨(.rd .s), 6, a⟩, ⟨.imm, 10, i⟩]
  | .maxi g n d a i => [⟨.gp, 3, g⟩, ⟨.neg, 1, n⟩, ⟨(.wr .s), 6, d⟩, ⟨(.rd .s), 6, a⟩, ⟨.imm, 10, i⟩]
  | .cmpeqi g n d a i => [⟨.gp, 3, g⟩, ⟨.neg, 1, n⟩, ⟨(.wr .p), 6, d⟩, ⟨(.rd .s), 6, a⟩, ⟨.imm, 10, i⟩]
  | .cmpnei g n d a i => [⟨.gp, 3, g⟩, ⟨.neg, 1, n⟩, ⟨(.wr .p), 6, d⟩, ⟨(.rd .s), 6, a⟩, ⟨.imm, 10, i⟩]
  | .cmplti g n d a i => [⟨.gp, 3, g⟩, ⟨.neg, 1, n⟩, ⟨(.wr .p), 6, d⟩, ⟨(.rd .s), 6, a⟩, ⟨.imm, 10, i⟩]
  | .cmplei g n d a i => [⟨.gp, 3, g⟩, ⟨.neg, 1, n⟩, ⟨(.wr .p), 6, d⟩, ⟨(.rd .s), 6, a⟩, ⟨.imm, 10, i⟩]
  | .cmpgti g n d a i => [⟨.gp, 3, g⟩, ⟨.neg, 1, n⟩, ⟨(.wr .p), 6, d⟩, ⟨(.rd .s), 6, a⟩, ⟨.imm, 10, i⟩]
  | .cmpgei g n d a i => [⟨.gp, 3, g⟩, ⟨.neg, 1, n⟩, ⟨(.wr .p), 6, d⟩, ⟨(.rd .s), 6, a⟩, ⟨.imm, 10, i⟩]
  | .cmpltui g n d a i => [⟨.gp, 3, g⟩, ⟨.neg, 1, n⟩, ⟨(.wr .p), 6, d⟩, ⟨(.rd .s), 6, a⟩, ⟨.imm, 10, i⟩]
  | .cmpgtui g n d a i => [⟨.gp, 3, g⟩, ⟨.neg, 1, n⟩, ⟨(.wr .p), 6, d⟩, ⟨(.rd .s), 6, a⟩, ⟨.imm, 10, i⟩]
  | .movi g n d i => [⟨.gp, 3, g⟩, ⟨.neg, 1, n⟩, ⟨(.wr .s), 6, d⟩, ⟨.imm, 16, i⟩]
  | .moviz g n d i => [⟨.gp, 3, g⟩, ⟨.neg, 1, n⟩, ⟨(.wr .s), 6, d⟩, ⟨.imm, 16, i⟩]
  | .movk0 g n d i => [⟨.gp, 3, g⟩, ⟨.neg, 1, n⟩, ⟨(.rw .s), 6, d⟩, ⟨.imm, 16, i⟩]
  | .movk1 g n d i => [⟨.gp, 3, g⟩, ⟨.neg, 1, n⟩, ⟨(.rw .s), 6, d⟩, ⟨.imm, 16, i⟩]
  | .movk2 g n d i => [⟨.gp, 3, g⟩, ⟨.neg, 1, n⟩, ⟨(.rw .s), 6, d⟩, ⟨.imm, 16, i⟩]
  | .movk3 g n d i => [⟨.gp, 3, g⟩, ⟨.neg, 1, n⟩, ⟨(.rw .s), 6, d⟩, ⟨.imm, 16, i⟩]
  | .adda g n d a b => [⟨.gp, 3, g⟩, ⟨.neg, 1, n⟩, ⟨(.wr .a), 6, d⟩, ⟨(.rd .a), 6, a⟩, ⟨(.rd .s), 6, b⟩]
  | .adda2 g n d a b => [⟨.gp, 3, g⟩, ⟨.neg, 1, n⟩, ⟨(.wr .a), 6, d⟩, ⟨(.rd .a), 6, a⟩, ⟨(.rd .s), 6, b⟩]
  | .adda4 g n d a b => [⟨.gp, 3, g⟩, ⟨.neg, 1, n⟩, ⟨(.wr .a), 6, d⟩, ⟨(.rd .a), 6, a⟩, ⟨(.rd .s), 6, b⟩]
  | .adda8 g n d a b => [⟨.gp, 3, g⟩, ⟨.neg, 1, n⟩, ⟨(.wr .a), 6, d⟩, ⟨(.rd .a), 6, a⟩, ⟨(.rd .s), 6, b⟩]
  | .difa g n d a b => [⟨.gp, 3, g⟩, ⟨.neg, 1, n⟩, ⟨(.wr .s), 6, d⟩, ⟨(.rd .a), 6, a⟩, ⟨(.rd .a), 6, b⟩]
  | .movas g n d a => [⟨.gp, 3, g⟩, ⟨.neg, 1, n⟩, ⟨(.wr .a), 6, d⟩, ⟨(.rd .s), 6, a⟩]
  | .movsa g n d a => [⟨.gp, 3, g⟩, ⟨.neg, 1, n⟩, ⟨(.wr .s), 6, d⟩, ⟨(.rd .a), 6, a⟩]
  | .addai g n d a i => [⟨.gp, 3, g⟩, ⟨.neg, 1, n⟩, ⟨(.wr .a), 6, d⟩, ⟨(.rd .a), 6, a⟩, ⟨.imm, 10, i⟩]
  | .movai g n d i => [⟨.gp, 3, g⟩, ⟨.neg, 1, n⟩, ⟨(.wr .a), 6, d⟩, ⟨.imm, 16, i⟩]
  | .andai g n d a i => [⟨.gp, 3, g⟩, ⟨.neg, 1, n⟩, ⟨(.wr .a), 6, d⟩, ⟨(.rd .a), 6, a⟩, ⟨.imm, 10, i⟩]
  | .br g n s => [⟨.gp, 3, g⟩, ⟨.neg, 1, n⟩, ⟨.imm, 22, s⟩]
  | .call g n s => [⟨.gp, 3, g⟩, ⟨.neg, 1, n⟩, ⟨.imm, 22, s⟩]
  | .jmp g n a => [⟨.gp, 3, g⟩, ⟨.neg, 1, n⟩, ⟨(.rd .a), 6, a⟩]
  | .callr g n a => [⟨.gp, 3, g⟩, ⟨.neg, 1, n⟩, ⟨(.rd .a), 6, a⟩]
  | .ret g n => [⟨.gp, 3, g⟩, ⟨.neg, 1, n⟩]
  | .loop g n d a i => [⟨.gp, 3, g⟩, ⟨.neg, 1, n⟩, ⟨(.wr .lc), 6, d⟩, ⟨(.rd .s), 6, a⟩, ⟨.imm, 10, i⟩]
  | .mtlc g n d a => [⟨.gp, 3, g⟩, ⟨.neg, 1, n⟩, ⟨(.wr .lc), 6, d⟩, ⟨(.rd .s), 6, a⟩]
  | .mflc g n d a => [⟨.gp, 3, g⟩, ⟨.neg, 1, n⟩, ⟨(.wr .s), 6, d⟩, ⟨(.rd .lc), 6, a⟩]
  | .lmode g n m => [⟨.gp, 3, g⟩, ⟨.neg, 1, n⟩, ⟨.imm, 1, m⟩]
  | .lmodeL g n m => [⟨.gp, 3, g⟩, ⟨.neg, 1, n⟩, ⟨.imm, 1, m⟩]
  | .vfadd g h d a b x => [⟨.gm, 3, g⟩, ⟨.ha, 1, h⟩, ⟨(.wr .v), 6, d⟩, ⟨.va, 6, a⟩, ⟨.vb, 6, b⟩, ⟨.hb, 1, x⟩]
  | .vfsub g h d a b x => [⟨.gm, 3, g⟩, ⟨.ha, 1, h⟩, ⟨(.wr .v), 6, d⟩, ⟨.va, 6, a⟩, ⟨.vb, 6, b⟩, ⟨.hb, 1, x⟩]
  | .vfmul g h d a b x => [⟨.gm, 3, g⟩, ⟨.ha, 1, h⟩, ⟨(.wr .v), 6, d⟩, ⟨.va, 6, a⟩, ⟨.vb, 6, b⟩, ⟨.hb, 1, x⟩]
  | .vfmin g h d a b x => [⟨.gm, 3, g⟩, ⟨.ha, 1, h⟩, ⟨(.wr .v), 6, d⟩, ⟨.va, 6, a⟩, ⟨.vb, 6, b⟩, ⟨.hb, 1, x⟩]
  | .vfmax g h d a b x => [⟨.gm, 3, g⟩, ⟨.ha, 1, h⟩, ⟨(.wr .v), 6, d⟩, ⟨.va, 6, a⟩, ⟨.vb, 6, b⟩, ⟨.hb, 1, x⟩]
  | .vfminn g h d a b x => [⟨.gm, 3, g⟩, ⟨.ha, 1, h⟩, ⟨(.wr .v), 6, d⟩, ⟨.va, 6, a⟩, ⟨.vb, 6, b⟩, ⟨.hb, 1, x⟩]
  | .vfmaxn g h d a b x => [⟨.gm, 3, g⟩, ⟨.ha, 1, h⟩, ⟨(.wr .v), 6, d⟩, ⟨.va, 6, a⟩, ⟨.vb, 6, b⟩, ⟨.hb, 1, x⟩]
  | .vfma g h d a b x => [⟨.gm, 3, g⟩, ⟨.ha, 1, h⟩, ⟨(.rw .v), 6, d⟩, ⟨.va, 6, a⟩, ⟨.vb, 6, b⟩, ⟨.hb, 1, x⟩]
  | .vfms g h d a b x => [⟨.gm, 3, g⟩, ⟨.ha, 1, h⟩, ⟨(.rw .v), 6, d⟩, ⟨.va, 6, a⟩, ⟨.vb, 6, b⟩, ⟨.hb, 1, x⟩]
  | .vfnma g h d a b x => [⟨.gm, 3, g⟩, ⟨.ha, 1, h⟩, ⟨(.rw .v), 6, d⟩, ⟨.va, 6, a⟩, ⟨.vb, 6, b⟩, ⟨.hb, 1, x⟩]
  | .vfnms g h d a b x => [⟨.gm, 3, g⟩, ⟨.ha, 1, h⟩, ⟨(.rw .v), 6, d⟩, ⟨.va, 6, a⟩, ⟨.vb, 6, b⟩, ⟨.hb, 1, x⟩]
  | .vfabs g h d a => [⟨.gm, 3, g⟩, ⟨.ha, 1, h⟩, ⟨(.wr .v), 6, d⟩, ⟨.va, 6, a⟩]
  | .vfneg g h d a => [⟨.gm, 3, g⟩, ⟨.ha, 1, h⟩, ⟨(.wr .v), 6, d⟩, ⟨.va, 6, a⟩]
  | .vfsqrt g h d a => [⟨.gm, 3, g⟩, ⟨.ha, 1, h⟩, ⟨(.wr .v), 6, d⟩, ⟨.va, 6, a⟩]
  | .vfrcp g h d a => [⟨.gm, 3, g⟩, ⟨.ha, 1, h⟩, ⟨(.wr .v), 6, d⟩, ⟨.va, 6, a⟩]
  | .vfrsq g h d a => [⟨.gm, 3, g⟩, ⟨.ha, 1, h⟩, ⟨(.wr .v), 6, d⟩, ⟨.va, 6, a⟩]
  | .vfdiv g h d a b x => [⟨.gm, 3, g⟩, ⟨.ha, 1, h⟩, ⟨(.wr .v), 6, d⟩, ⟨.va, 6, a⟩, ⟨.vb, 6, b⟩, ⟨.hb, 1, x⟩]
  | .vexp2 g h d a => [⟨.gm, 3, g⟩, ⟨.ha, 1, h⟩, ⟨(.wr .v), 6, d⟩, ⟨.va, 6, a⟩]
  | .vlog2 g h d a => [⟨.gm, 3, g⟩, ⟨.ha, 1, h⟩, ⟨(.wr .v), 6, d⟩, ⟨.va, 6, a⟩]
  | .vexp g h d a => [⟨.gm, 3, g⟩, ⟨.ha, 1, h⟩, ⟨(.wr .v), 6, d⟩, ⟨.va, 6, a⟩]
  | .vln g h d a => [⟨.gm, 3, g⟩, ⟨.ha, 1, h⟩, ⟨(.wr .v), 6, d⟩, ⟨.va, 6, a⟩]
  | .vtanh g h d a => [⟨.gm, 3, g⟩, ⟨.ha, 1, h⟩, ⟨(.wr .v), 6, d⟩, ⟨.va, 6, a⟩]
  | .vsigm g h d a => [⟨.gm, 3, g⟩, ⟨.ha, 1, h⟩, ⟨(.wr .v), 6, d⟩, ⟨.va, 6, a⟩]
  | .vfceq g h d a b x => [⟨.gm, 3, g⟩, ⟨.ha, 1, h⟩, ⟨(.wr .m), 6, d⟩, ⟨.va, 6, a⟩, ⟨.vb, 6, b⟩, ⟨.hb, 1, x⟩]
  | .vfcne g h d a b x => [⟨.gm, 3, g⟩, ⟨.ha, 1, h⟩, ⟨(.wr .m), 6, d⟩, ⟨.va, 6, a⟩, ⟨.vb, 6, b⟩, ⟨.hb, 1, x⟩]
  | .vfclt g h d a b x => [⟨.gm, 3, g⟩, ⟨.ha, 1, h⟩, ⟨(.wr .m), 6, d⟩, ⟨.va, 6, a⟩, ⟨.vb, 6, b⟩, ⟨.hb, 1, x⟩]
  | .vfcle g h d a b x => [⟨.gm, 3, g⟩, ⟨.ha, 1, h⟩, ⟨(.wr .m), 6, d⟩, ⟨.va, 6, a⟩, ⟨.vb, 6, b⟩, ⟨.hb, 1, x⟩]
  | .vfcun g h d a b x => [⟨.gm, 3, g⟩, ⟨.ha, 1, h⟩, ⟨(.wr .m), 6, d⟩, ⟨.va, 6, a⟩, ⟨.vb, 6, b⟩, ⟨.hb, 1, x⟩]
  | .vfrsum g h d a => [⟨.gm, 3, g⟩, ⟨.ha, 1, h⟩, ⟨(.wr .v), 6, d⟩, ⟨.va, 6, a⟩]
  | .vfrmax g h d a => [⟨.gm, 3, g⟩, ⟨.ha, 1, h⟩, ⟨(.wr .v), 6, d⟩, ⟨.va, 6, a⟩]
  | .vfrmin g h d a => [⟨.gm, 3, g⟩, ⟨.ha, 1, h⟩, ⟨(.wr .v), 6, d⟩, ⟨.va, 6, a⟩]
  | .vadd g h d a b x => [⟨.gm, 3, g⟩, ⟨.ha, 1, h⟩, ⟨(.wr .v), 6, d⟩, ⟨.va, 6, a⟩, ⟨.vb, 6, b⟩, ⟨.hb, 1, x⟩]
  | .vsub g h d a b x => [⟨.gm, 3, g⟩, ⟨.ha, 1, h⟩, ⟨(.wr .v), 6, d⟩, ⟨.va, 6, a⟩, ⟨.vb, 6, b⟩, ⟨.hb, 1, x⟩]
  | .vmul g h d a b x => [⟨.gm, 3, g⟩, ⟨.ha, 1, h⟩, ⟨(.wr .v), 6, d⟩, ⟨.va, 6, a⟩, ⟨.vb, 6, b⟩, ⟨.hb, 1, x⟩]
  | .vmulh g h d a b x => [⟨.gm, 3, g⟩, ⟨.ha, 1, h⟩, ⟨(.wr .v), 6, d⟩, ⟨.va, 6, a⟩, ⟨.vb, 6, b⟩, ⟨.hb, 1, x⟩]
  | .vmulhu g h d a b x => [⟨.gm, 3, g⟩, ⟨.ha, 1, h⟩, ⟨(.wr .v), 6, d⟩, ⟨.va, 6, a⟩, ⟨.vb, 6, b⟩, ⟨.hb, 1, x⟩]
  | .vadds g h d a b x => [⟨.gm, 3, g⟩, ⟨.ha, 1, h⟩, ⟨(.wr .v), 6, d⟩, ⟨.va, 6, a⟩, ⟨.vb, 6, b⟩, ⟨.hb, 1, x⟩]
  | .vsubs g h d a b x => [⟨.gm, 3, g⟩, ⟨.ha, 1, h⟩, ⟨(.wr .v), 6, d⟩, ⟨.va, 6, a⟩, ⟨.vb, 6, b⟩, ⟨.hb, 1, x⟩]
  | .vaddsu g h d a b x => [⟨.gm, 3, g⟩, ⟨.ha, 1, h⟩, ⟨(.wr .v), 6, d⟩, ⟨.va, 6, a⟩, ⟨.vb, 6, b⟩, ⟨.hb, 1, x⟩]
  | .vand g h d a b x => [⟨.gm, 3, g⟩, ⟨.ha, 1, h⟩, ⟨(.wr .v), 6, d⟩, ⟨.va, 6, a⟩, ⟨.vb, 6, b⟩, ⟨.hb, 1, x⟩]
  | .vor g h d a b x => [⟨.gm, 3, g⟩, ⟨.ha, 1, h⟩, ⟨(.wr .v), 6, d⟩, ⟨.va, 6, a⟩, ⟨.vb, 6, b⟩, ⟨.hb, 1, x⟩]
  | .vxor g h d a b x => [⟨.gm, 3, g⟩, ⟨.ha, 1, h⟩, ⟨(.wr .v), 6, d⟩, ⟨.va, 6, a⟩, ⟨.vb, 6, b⟩, ⟨.hb, 1, x⟩]
  | .vandn g h d a b x => [⟨.gm, 3, g⟩, ⟨.ha, 1, h⟩, ⟨(.wr .v), 6, d⟩, ⟨.va, 6, a⟩, ⟨.vb, 6, b⟩, ⟨.hb, 1, x⟩]
  | .vshl g h d a b x => [⟨.gm, 3, g⟩, ⟨.ha, 1, h⟩, ⟨(.wr .v), 6, d⟩, ⟨.va, 6, a⟩, ⟨.vb, 6, b⟩, ⟨.hb, 1, x⟩]
  | .vshr g h d a b x => [⟨.gm, 3, g⟩, ⟨.ha, 1, h⟩, ⟨(.wr .v), 6, d⟩, ⟨.va, 6, a⟩, ⟨.vb, 6, b⟩, ⟨.hb, 1, x⟩]
  | .vsar g h d a b x => [⟨.gm, 3, g⟩, ⟨.ha, 1, h⟩, ⟨(.wr .v), 6, d⟩, ⟨.va, 6, a⟩, ⟨.vb, 6, b⟩, ⟨.hb, 1, x⟩]
  | .vror g h d a b x => [⟨.gm, 3, g⟩, ⟨.ha, 1, h⟩, ⟨(.wr .v), 6, d⟩, ⟨.va, 6, a⟩, ⟨.vb, 6, b⟩, ⟨.hb, 1, x⟩]
  | .vmin g h d a b x => [⟨.gm, 3, g⟩, ⟨.ha, 1, h⟩, ⟨(.wr .v), 6, d⟩, ⟨.va, 6, a⟩, ⟨.vb, 6, b⟩, ⟨.hb, 1, x⟩]
  | .vmax g h d a b x => [⟨.gm, 3, g⟩, ⟨.ha, 1, h⟩, ⟨(.wr .v), 6, d⟩, ⟨.va, 6, a⟩, ⟨.vb, 6, b⟩, ⟨.hb, 1, x⟩]
  | .vminu g h d a b x => [⟨.gm, 3, g⟩, ⟨.ha, 1, h⟩, ⟨(.wr .v), 6, d⟩, ⟨.va, 6, a⟩, ⟨.vb, 6, b⟩, ⟨.hb, 1, x⟩]
  | .vmaxu g h d a b x => [⟨.gm, 3, g⟩, ⟨.ha, 1, h⟩, ⟨(.wr .v), 6, d⟩, ⟨.va, 6, a⟩, ⟨.vb, 6, b⟩, ⟨.hb, 1, x⟩]
  | .vclz g h d a => [⟨.gm, 3, g⟩, ⟨.ha, 1, h⟩, ⟨(.wr .v), 6, d⟩, ⟨.va, 6, a⟩]
  | .vpopc g h d a => [⟨.gm, 3, g⟩, ⟨.ha, 1, h⟩, ⟨(.wr .v), 6, d⟩, ⟨.va, 6, a⟩]
  | .vabs g h d a => [⟨.gm, 3, g⟩, ⟨.ha, 1, h⟩, ⟨(.wr .v), 6, d⟩, ⟨.va, 6, a⟩]
  | .vceq g h d a b x => [⟨.gm, 3, g⟩, ⟨.ha, 1, h⟩, ⟨(.wr .m), 6, d⟩, ⟨.va, 6, a⟩, ⟨.vb, 6, b⟩, ⟨.hb, 1, x⟩]
  | .vcne g h d a b x => [⟨.gm, 3, g⟩, ⟨.ha, 1, h⟩, ⟨(.wr .m), 6, d⟩, ⟨.va, 6, a⟩, ⟨.vb, 6, b⟩, ⟨.hb, 1, x⟩]
  | .vclt g h d a b x => [⟨.gm, 3, g⟩, ⟨.ha, 1, h⟩, ⟨(.wr .m), 6, d⟩, ⟨.va, 6, a⟩, ⟨.vb, 6, b⟩, ⟨.hb, 1, x⟩]
  | .vcle g h d a b x => [⟨.gm, 3, g⟩, ⟨.ha, 1, h⟩, ⟨(.wr .m), 6, d⟩, ⟨.va, 6, a⟩, ⟨.vb, 6, b⟩, ⟨.hb, 1, x⟩]
  | .vcltu g h d a b x => [⟨.gm, 3, g⟩, ⟨.ha, 1, h⟩, ⟨(.wr .m), 6, d⟩, ⟨.va, 6, a⟩, ⟨.vb, 6, b⟩, ⟨.hb, 1, x⟩]
  | .vcleu g h d a b x => [⟨.gm, 3, g⟩, ⟨.ha, 1, h⟩, ⟨(.wr .m), 6, d⟩, ⟨.va, 6, a⟩, ⟨.vb, 6, b⟩, ⟨.hb, 1, x⟩]
  | .vaddi g h d a i => [⟨.gm, 3, g⟩, ⟨.ha, 1, h⟩, ⟨(.wr .v), 6, d⟩, ⟨.va, 6, a⟩, ⟨.imm, 10, i⟩]
  | .vandi g h d a i => [⟨.gm, 3, g⟩, ⟨.ha, 1, h⟩, ⟨(.wr .v), 6, d⟩, ⟨.va, 6, a⟩, ⟨.imm, 10, i⟩]
  | .vori g h d a i => [⟨.gm, 3, g⟩, ⟨.ha, 1, h⟩, ⟨(.wr .v), 6, d⟩, ⟨.va, 6, a⟩, ⟨.imm, 10, i⟩]
  | .vxori g h d a i => [⟨.gm, 3, g⟩, ⟨.ha, 1, h⟩, ⟨(.wr .v), 6, d⟩, ⟨.va, 6, a⟩, ⟨.imm, 10, i⟩]
  | .vshli g h d a i => [⟨.gm, 3, g⟩, ⟨.ha, 1, h⟩, ⟨(.wr .v), 6, d⟩, ⟨.va, 6, a⟩, ⟨.imm, 10, i⟩]
  | .vshri g h d a i => [⟨.gm, 3, g⟩, ⟨.ha, 1, h⟩, ⟨(.wr .v), 6, d⟩, ⟨.va, 6, a⟩, ⟨.imm, 10, i⟩]
  | .vsari g h d a i => [⟨.gm, 3, g⟩, ⟨.ha, 1, h⟩, ⟨(.wr .v), 6, d⟩, ⟨.va, 6, a⟩, ⟨.imm, 10, i⟩]
  | .mand g d a b => [⟨.gm, 3, g⟩, ⟨(.wr .m), 6, d⟩, ⟨(.rd .m), 6, a⟩, ⟨(.rd .m), 6, b⟩]
  | .mor g d a b => [⟨.gm, 3, g⟩, ⟨(.wr .m), 6, d⟩, ⟨(.rd .m), 6, a⟩, ⟨(.rd .m), 6, b⟩]
  | .mxor g d a b => [⟨.gm, 3, g⟩, ⟨(.wr .m), 6, d⟩, ⟨(.rd .m), 6, a⟩, ⟨(.rd .m), 6, b⟩]
  | .mandn g d a b => [⟨.gm, 3, g⟩, ⟨(.wr .m), 6, d⟩, ⟨(.rd .m), 6, a⟩, ⟨(.rd .m), 6, b⟩]
  | .mnot g d a => [⟨.gm, 3, g⟩, ⟨(.wr .m), 6, d⟩, ⟨(.rd .m), 6, a⟩]
  | .vmovi g d i => [⟨.gm, 3, g⟩, ⟨(.wr .v), 6, d⟩, ⟨.imm, 10, i⟩]
  | .virsum g h d a => [⟨.gm, 3, g⟩, ⟨.ha, 1, h⟩, ⟨(.wr .v), 6, d⟩, ⟨.va, 6, a⟩]
  | .virmax g h d a => [⟨.gm, 3, g⟩, ⟨.ha, 1, h⟩, ⟨(.wr .v), 6, d⟩, ⟨.va, 6, a⟩]
  | .virmin g h d a => [⟨.gm, 3, g⟩, ⟨.ha, 1, h⟩, ⟨(.wr .v), 6, d⟩, ⟨.va, 6, a⟩]
  | .virmaxu g h d a => [⟨.gm, 3, g⟩, ⟨.ha, 1, h⟩, ⟨(.wr .v), 6, d⟩, ⟨.va, 6, a⟩]
  | .virminu g h d a => [⟨.gm, 3, g⟩, ⟨.ha, 1, h⟩, ⟨(.wr .v), 6, d⟩, ⟨.va, 6, a⟩]
  | .vcvtRne g h d a i => [⟨.gm, 3, g⟩, ⟨.ha, 1, h⟩, ⟨(.wr .v), 6, d⟩, ⟨.va, 6, a⟩, ⟨.imm, 10, i⟩]
  | .vcvtRtz g h d a i => [⟨.gm, 3, g⟩, ⟨.ha, 1, h⟩, ⟨(.wr .v), 6, d⟩, ⟨.va, 6, a⟩, ⟨.imm, 10, i⟩]
  | .vcvtSr g h d a i => [⟨.gm, 3, g⟩, ⟨.ha, 1, h⟩, ⟨(.wr .v), 6, d⟩, ⟨.va, 6, a⟩, ⟨.imm, 10, i⟩]
  | .vcvtDyn g h d a i => [⟨.gm, 3, g⟩, ⟨.ha, 1, h⟩, ⟨(.wr .v), 6, d⟩, ⟨.va, 6, a⟩, ⟨.imm, 10, i⟩]
  | .vqsc g h d a i => [⟨.gm, 3, g⟩, ⟨.ha, 1, h⟩, ⟨(.wr .v), 6, d⟩, ⟨.va, 6, a⟩, ⟨.imm, 10, i⟩]
  | .vqel g h d a b x i => [⟨.gm, 3, g⟩, ⟨.ha, 1, h⟩, ⟨(.wr .v), 6, d⟩, ⟨.va, 6, a⟩, ⟨.vb, 6, b⟩, ⟨.hb, 1, x⟩, ⟨.imm, 3, i⟩]
  | .vqelSr g h d a b x i => [⟨.gm, 3, g⟩, ⟨.ha, 1, h⟩, ⟨(.wr .v), 6, d⟩, ⟨.va, 6, a⟩, ⟨.vb, 6, b⟩, ⟨.hb, 1, x⟩, ⟨.imm, 3, i⟩]
  | .vseed g a => [⟨.gm, 3, g⟩, ⟨(.rd .s), 6, a⟩]
  | .vgrd g d => [⟨.gm, 3, g⟩, ⟨(.wr .v), 6, d⟩]
  | .vgwr g h a => [⟨.gm, 3, g⟩, ⟨.ha, 1, h⟩, ⟨.va, 6, a⟩]
  | .vshuf g h d a i => [⟨.gm, 3, g⟩, ⟨.ha, 1, h⟩, ⟨(.rw .v), 6, d⟩, ⟨.va, 6, a⟩, ⟨.imm, 10, i⟩]
  | .xcopy g h d a i => [⟨.gm, 3, g⟩, ⟨.ha, 1, h⟩, ⟨(.wr .v), 6, d⟩, ⟨.vx, 6, a⟩, ⟨.imm, 10, i⟩]
  | .vbcs g d a => [⟨.gm, 3, g⟩, ⟨(.wr .v), 6, d⟩, ⟨(.rd .s), 6, a⟩]
  | .vext g h d a l => [⟨.gm, 3, g⟩, ⟨.ha, 1, h⟩, ⟨(.wr .s), 6, d⟩, ⟨.va, 6, a⟩, ⟨.lane, 6, l⟩]
  | .vins g d a l => [⟨.gm, 3, g⟩, ⟨(.wr .v), 6, d⟩, ⟨(.rd .s), 6, a⟩, ⟨.lane, 6, l⟩]
  | .vm2s g d a => [⟨.gm, 3, g⟩, ⟨(.wr .s), 6, d⟩, ⟨(.rd .m), 6, a⟩]
  | .vs2m g d a => [⟨.gm, 3, g⟩, ⟨(.wr .m), 6, d⟩, ⟨(.rd .s), 6, a⟩]
  | .viota g d => [⟨.gm, 3, g⟩, ⟨(.wr .v), 6, d⟩]
  | .vpld g h a i => [⟨.gm, 3, g⟩, ⟨.ha, 1, h⟩, ⟨.va, 6, a⟩, ⟨.imm, 10, i⟩]
  | .ldb g n d r o => [⟨.gp, 3, g⟩, ⟨.neg, 1, n⟩, ⟨(.wr .s), 6, d⟩, ⟨.areg, 4, r⟩, ⟨.imm, 12, o⟩]
  | .ldbu g n d r o => [⟨.gp, 3, g⟩, ⟨.neg, 1, n⟩, ⟨(.wr .s), 6, d⟩, ⟨.areg, 4, r⟩, ⟨.imm, 12, o⟩]
  | .ldh g n d r o => [⟨.gp, 3, g⟩, ⟨.neg, 1, n⟩, ⟨(.wr .s), 6, d⟩, ⟨.areg, 4, r⟩, ⟨.imm, 12, o⟩]
  | .ldhu g n d r o => [⟨.gp, 3, g⟩, ⟨.neg, 1, n⟩, ⟨(.wr .s), 6, d⟩, ⟨.areg, 4, r⟩, ⟨.imm, 12, o⟩]
  | .ldw g n d r o => [⟨.gp, 3, g⟩, ⟨.neg, 1, n⟩, ⟨(.wr .s), 6, d⟩, ⟨.areg, 4, r⟩, ⟨.imm, 12, o⟩]
  | .ldwu g n d r o => [⟨.gp, 3, g⟩, ⟨.neg, 1, n⟩, ⟨(.wr .s), 6, d⟩, ⟨.areg, 4, r⟩, ⟨.imm, 12, o⟩]
  | .ldd g n d r o => [⟨.gp, 3, g⟩, ⟨.neg, 1, n⟩, ⟨(.wr .s), 6, d⟩, ⟨.areg, 4, r⟩, ⟨.imm, 12, o⟩]
  | .lda g n d r o => [⟨.gp, 3, g⟩, ⟨.neg, 1, n⟩, ⟨(.wr .a), 6, d⟩, ⟨.areg, 4, r⟩, ⟨.imm, 12, o⟩]
  | .stb g n d r o => [⟨.gp, 3, g⟩, ⟨.neg, 1, n⟩, ⟨(.rd .s), 6, d⟩, ⟨.areg, 4, r⟩, ⟨.imm, 12, o⟩]
  | .sth g n d r o => [⟨.gp, 3, g⟩, ⟨.neg, 1, n⟩, ⟨(.rd .s), 6, d⟩, ⟨.areg, 4, r⟩, ⟨.imm, 12, o⟩]
  | .stw g n d r o => [⟨.gp, 3, g⟩, ⟨.neg, 1, n⟩, ⟨(.rd .s), 6, d⟩, ⟨.areg, 4, r⟩, ⟨.imm, 12, o⟩]
  | .std g n d r o => [⟨.gp, 3, g⟩, ⟨.neg, 1, n⟩, ⟨(.rd .s), 6, d⟩, ⟨.areg, 4, r⟩, ⟨.imm, 12, o⟩]
  | .sta g n d r o => [⟨.gp, 3, g⟩, ⟨.neg, 1, n⟩, ⟨(.rd .a), 6, d⟩, ⟨.areg, 4, r⟩, ⟨.imm, 12, o⟩]
  | .sldb g n d r o => [⟨.gp, 3, g⟩, ⟨.neg, 1, n⟩, ⟨(.wr .s), 6, d⟩, ⟨.areg, 4, r⟩, ⟨.imm, 12, o⟩]
  | .sldbu g n d r o => [⟨.gp, 3, g⟩, ⟨.neg, 1, n⟩, ⟨(.wr .s), 6, d⟩, ⟨.areg, 4, r⟩, ⟨.imm, 12, o⟩]
  | .sldh g n d r o => [⟨.gp, 3, g⟩, ⟨.neg, 1, n⟩, ⟨(.wr .s), 6, d⟩, ⟨.areg, 4, r⟩, ⟨.imm, 12, o⟩]
  | .sldhu g n d r o => [⟨.gp, 3, g⟩, ⟨.neg, 1, n⟩, ⟨(.wr .s), 6, d⟩, ⟨.areg, 4, r⟩, ⟨.imm, 12, o⟩]
  | .sldw g n d r o => [⟨.gp, 3, g⟩, ⟨.neg, 1, n⟩, ⟨(.wr .s), 6, d⟩, ⟨.areg, 4, r⟩, ⟨.imm, 12, o⟩]
  | .sldwu g n d r o => [⟨.gp, 3, g⟩, ⟨.neg, 1, n⟩, ⟨(.wr .s), 6, d⟩, ⟨.areg, 4, r⟩, ⟨.imm, 12, o⟩]
  | .sldd g n d r o => [⟨.gp, 3, g⟩, ⟨.neg, 1, n⟩, ⟨(.wr .s), 6, d⟩, ⟨.areg, 4, r⟩, ⟨.imm, 12, o⟩]
  | .slda g n d r o => [⟨.gp, 3, g⟩, ⟨.neg, 1, n⟩, ⟨(.wr .a), 6, d⟩, ⟨.areg, 4, r⟩, ⟨.imm, 12, o⟩]
  | .sstb g n d r o => [⟨.gp, 3, g⟩, ⟨.neg, 1, n⟩, ⟨(.rd .s), 6, d⟩, ⟨.areg, 4, r⟩, ⟨.imm, 12, o⟩]
  | .ssth g n d r o => [⟨.gp, 3, g⟩, ⟨.neg, 1, n⟩, ⟨(.rd .s), 6, d⟩, ⟨.areg, 4, r⟩, ⟨.imm, 12, o⟩]
  | .sstw g n d r o => [⟨.gp, 3, g⟩, ⟨.neg, 1, n⟩, ⟨(.rd .s), 6, d⟩, ⟨.areg, 4, r⟩, ⟨.imm, 12, o⟩]
  | .sstd g n d r o => [⟨.gp, 3, g⟩, ⟨.neg, 1, n⟩, ⟨(.rd .s), 6, d⟩, ⟨.areg, 4, r⟩, ⟨.imm, 12, o⟩]
  | .ssta g n d r o => [⟨.gp, 3, g⟩, ⟨.neg, 1, n⟩, ⟨(.rd .a), 6, d⟩, ⟨.areg, 4, r⟩, ⟨.imm, 12, o⟩]
  | .vld g d r o => [⟨.gm, 3, g⟩, ⟨(.wr .v), 6, d⟩, ⟨.areg, 4, r⟩, ⟨.imm, 12, o⟩]
  | .vst g h d r o => [⟨.gm, 3, g⟩, ⟨.ha, 1, h⟩, ⟨.va, 6, d⟩, ⟨.areg, 4, r⟩, ⟨.imm, 12, o⟩]
  | .vgath g h d a => [⟨.gm, 3, g⟩, ⟨.ha, 1, h⟩, ⟨(.wr .v), 6, d⟩, ⟨.va, 6, a⟩]
  | .vgathh g h d a => [⟨.gm, 3, g⟩, ⟨.ha, 1, h⟩, ⟨(.wr .v), 6, d⟩, ⟨.va, 6, a⟩]
  | .vgathb g h d a => [⟨.gm, 3, g⟩, ⟨.ha, 1, h⟩, ⟨(.wr .v), 6, d⟩, ⟨.va, 6, a⟩]
  | .vscat g h a b x => [⟨.gm, 3, g⟩, ⟨.ha, 1, h⟩, ⟨.va, 6, a⟩, ⟨.vb, 6, b⟩, ⟨.hb, 1, x⟩]
  | .vscath g h a b x => [⟨.gm, 3, g⟩, ⟨.ha, 1, h⟩, ⟨.va, 6, a⟩, ⟨.vb, 6, b⟩, ⟨.hb, 1, x⟩]
  | .vscatb g h a b x => [⟨.gm, 3, g⟩, ⟨.ha, 1, h⟩, ⟨.va, 6, a⟩, ⟨.vb, 6, b⟩, ⟨.hb, 1, x⟩]
  | .sbcfg g n d a => [⟨.gp, 3, g⟩, ⟨.neg, 1, n⟩, ⟨(.wr .sb), 6, d⟩, ⟨(.rd .s), 6, a⟩]
  | .sbatt g n d a => [⟨.gp, 3, g⟩, ⟨.neg, 1, n⟩, ⟨(.wr .sb), 6, d⟩, ⟨(.rd .s), 6, a⟩]
  | .sbadrp g n d a => [⟨.gp, 3, g⟩, ⟨.neg, 1, n⟩, ⟨(.wr .a), 6, d⟩, ⟨(.rd .sb), 6, a⟩]
  | .sbadrc g n d a => [⟨.gp, 3, g⟩, ⟨.neg, 1, n⟩, ⟨(.wr .a), 6, d⟩, ⟨(.rd .sb), 6, a⟩]
  | .sbrd g n d a => [⟨.gp, 3, g⟩, ⟨.neg, 1, n⟩, ⟨(.wr .s), 6, d⟩, ⟨(.rd .sb), 6, a⟩]
  | .sbwaitf g n d i => [⟨.gp, 3, g⟩, ⟨.neg, 1, n⟩, ⟨(.rd .sb), 6, d⟩, ⟨.imm, 10, i⟩]
  | .sbwaite g n d i => [⟨.gp, 3, g⟩, ⟨.neg, 1, n⟩, ⟨(.rd .sb), 6, d⟩, ⟨.imm, 10, i⟩]
  | .sbadvp g n d i => [⟨.gp, 3, g⟩, ⟨.neg, 1, n⟩, ⟨(.rd .sb), 6, d⟩, ⟨.imm, 10, i⟩]
  | .sbadvc g n d i => [⟨.gp, 3, g⟩, ⟨.neg, 1, n⟩, ⟨(.rd .sb), 6, d⟩, ⟨.imm, 10, i⟩]
  | .cpy g n p r c t => [⟨.gp, 3, g⟩, ⟨.neg, 1, n⟩, ⟨(.wr .p), 3, p⟩, ⟨.areg, 4, r⟩, ⟨.imm, 3, c⟩, ⟨.imm, 8, t⟩]
  | .cpya g n p r c t => [⟨.gp, 3, g⟩, ⟨.neg, 1, n⟩, ⟨(.wr .p), 3, p⟩, ⟨.areg, 4, r⟩, ⟨.imm, 3, c⟩, ⟨.imm, 8, t⟩]
  | .cpym g n p r c t k => [⟨.gp, 3, g⟩, ⟨.neg, 1, n⟩, ⟨(.wr .p), 3, p⟩, ⟨.areg, 4, r⟩, ⟨.imm, 3, c⟩, ⟨.imm, 8, t⟩, ⟨.imm, 4, k⟩]
  | .cpyq g n p s t => [⟨.gp, 3, g⟩, ⟨.neg, 1, n⟩, ⟨(.wr .p), 3, p⟩, ⟨(.rd .s), 6, s⟩, ⟨.imm, 8, t⟩]
  | .cbtest g n d k w s => [⟨.gp, 3, g⟩, ⟨.neg, 1, n⟩, ⟨(.wr .p), 6, d⟩, ⟨.imm, 3, k⟩, ⟨.imm, 2, w⟩, ⟨(.rd .s), 6, s⟩]
  | .cbwait g n k w s => [⟨.gp, 3, g⟩, ⟨.neg, 1, n⟩, ⟨.imm, 3, k⟩, ⟨.imm, 2, w⟩, ⟨(.rd .s), 6, s⟩]
  | .cbclr g n k w s => [⟨.gp, 3, g⟩, ⟨.neg, 1, n⟩, ⟨.imm, 3, k⟩, ⟨.imm, 2, w⟩, ⟨(.rd .s), 6, s⟩]
  | .cbrd g n d k w => [⟨.gp, 3, g⟩, ⟨.neg, 1, n⟩, ⟨(.wr .s), 6, d⟩, ⟨.imm, 3, k⟩, ⟨.imm, 2, w⟩]
  | .evpop g n d p => [⟨.gp, 3, g⟩, ⟨.neg, 1, n⟩, ⟨(.wr .s), 6, d⟩, ⟨(.wr .p), 6, p⟩]
  | .wload g n t p => [⟨.gp, 3, g⟩, ⟨.neg, 1, n⟩, ⟨(.rd .td), 4, t⟩, ⟨.imm, 1, p⟩]
  | .wsel g n p => [⟨.gp, 3, g⟩, ⟨.neg, 1, n⟩, ⟨.imm, 1, p⟩]
  | .mmaR g n a w c => [⟨.gp, 3, g⟩, ⟨.neg, 1, n⟩, ⟨(.rd .td), 4, a⟩, ⟨.tw, 4, w⟩, ⟨(.rd .td), 4, c⟩]
  | .mmaC g n a w c => [⟨.gp, 3, g⟩, ⟨.neg, 1, n⟩, ⟨(.rd .td), 4, a⟩, ⟨.tw, 4, w⟩, ⟨(.rd .td), 4, c⟩]
  | .mmazR g n a w c => [⟨.gp, 3, g⟩, ⟨.neg, 1, n⟩, ⟨(.rd .td), 4, a⟩, ⟨.tw, 4, w⟩, ⟨(.rd .td), 4, c⟩]
  | .mmazC g n a w c => [⟨.gp, 3, g⟩, ⟨.neg, 1, n⟩, ⟨(.rd .td), 4, a⟩, ⟨.tw, 4, w⟩, ⟨(.rd .td), 4, c⟩]
  | .mdrain g n t s r f => [⟨.gp, 3, g⟩, ⟨.neg, 1, n⟩, ⟨(.rd .td), 4, t⟩, ⟨(.rd .td), 4, s⟩, ⟨.imm, 3, r⟩, ⟨.imm, 3, f⟩]
  | .mscale g n a => [⟨.gp, 3, g⟩, ⟨.neg, 1, n⟩, ⟨(.rd .s), 6, a⟩]
  | .mhist g n d a => [⟨.gp, 3, g⟩, ⟨.neg, 1, n⟩, ⟨(.wr .s), 6, d⟩, ⟨(.rd .s), 6, a⟩]
  | .tcfg g n a b => [⟨.gp, 3, g⟩, ⟨.neg, 1, n⟩, ⟨(.rd .s), 6, a⟩, ⟨(.rd .s), 6, b⟩]
  | .thome g n d b => [⟨.gp, 3, g⟩, ⟨.neg, 1, n⟩, ⟨(.rw .tv), 6, d⟩, ⟨(.rd .td), 6, b⟩]
  | .tseed g n a => [⟨.gp, 3, g⟩, ⟨.neg, 1, n⟩, ⟨(.rd .s), 6, a⟩]
  | .thomex g n d => [⟨.gp, 3, g⟩, ⟨.neg, 1, n⟩, ⟨(.rw .tv), 6, d⟩]
  | .tdcfg g n t r => [⟨.gp, 3, g⟩, ⟨.neg, 1, n⟩, ⟨(.wr .td), 4, t⟩, ⟨.areg, 4, r⟩]
  | .tdsav g n t r => [⟨.gp, 3, g⟩, ⟨.neg, 1, n⟩, ⟨(.rd .td), 4, t⟩, ⟨.areg, 4, r⟩]
  | .tmm g n d a b o => [⟨.gp, 3, g⟩, ⟨.neg, 1, n⟩, ⟨(.wr .tv), 6, d⟩, ⟨.src, 7, a⟩, ⟨.src, 7, b⟩, ⟨.imm, 2, o⟩]
  | .tadd g n d a b m => [⟨.gp, 3, g⟩, ⟨.neg, 1, n⟩, ⟨(.wr .tv), 6, d⟩, ⟨.src, 7, a⟩, ⟨.src, 7, b⟩, ⟨.imm, 2, m⟩]
  | .tmul g n d a b m => [⟨.gp, 3, g⟩, ⟨.neg, 1, n⟩, ⟨(.wr .tv), 6, d⟩, ⟨.src, 7, a⟩, ⟨.src, 7, b⟩, ⟨.imm, 2, m⟩]
  | .tact g n d a f => [⟨.gp, 3, g⟩, ⟨.neg, 1, n⟩, ⟨(.wr .tv), 6, d⟩, ⟨.src, 7, a⟩, ⟨.imm, 4, f⟩]
  | .tcvt g n d a f r => [⟨.gp, 3, g⟩, ⟨.neg, 1, n⟩, ⟨(.wr .tv), 6, d⟩, ⟨.src, 7, a⟩, ⟨.imm, 4, f⟩, ⟨.imm, 3, r⟩]
  | .tqnt g n d a f r => [⟨.gp, 3, g⟩, ⟨.neg, 1, n⟩, ⟨(.wr .tv), 6, d⟩, ⟨.src, 7, a⟩, ⟨.imm, 4, f⟩, ⟨.imm, 3, r⟩]
  | .tred g n d a x o => [⟨.gp, 3, g⟩, ⟨.neg, 1, n⟩, ⟨(.wr .tv), 6, d⟩, ⟨.src, 7, a⟩, ⟨.imm, 1, x⟩, ⟨.imm, 3, o⟩]
  | .ttopk g n d a k x => [⟨.gp, 3, g⟩, ⟨.neg, 1, n⟩, ⟨(.wr .tv), 6, d⟩, ⟨.src, 7, a⟩, ⟨.imm, 8, k⟩, ⟨.imm, 1, x⟩]
  | .tsoft g n d a => [⟨.gp, 3, g⟩, ⟨.neg, 1, n⟩, ⟨(.wr .tv), 6, d⟩, ⟨.src, 7, a⟩]
  | .tmap g n d a m => [⟨.gp, 3, g⟩, ⟨.neg, 1, n⟩, ⟨(.wr .tv), 6, d⟩, ⟨.src, 7, a⟩, ⟨(.span .s 2), 6, m⟩]
  | .tforce g n p v t c k => [⟨.gp, 3, g⟩, ⟨.neg, 1, n⟩, ⟨(.wr .p), 3, p⟩, ⟨(.rd .tv), 6, v⟩, ⟨(.rd .td), 4, t⟩, ⟨.imm, 3, c⟩, ⟨.imm, 6, k⟩]
  | .tstore g n p v t c k => [⟨.gp, 3, g⟩, ⟨.neg, 1, n⟩, ⟨(.wr .p), 3, p⟩, ⟨(.rd .tv), 6, v⟩, ⟨(.rd .td), 4, t⟩, ⟨.imm, 3, c⟩, ⟨.imm, 5, k⟩]
  | .tstoreH g n p v c k => [⟨.gp, 3, g⟩, ⟨.neg, 1, n⟩, ⟨(.wr .p), 3, p⟩, ⟨(.rd .tv), 6, v⟩, ⟨.imm, 3, c⟩, ⟨.imm, 5, k⟩]
  | .tdrop g n d => [⟨.gp, 3, g⟩, ⟨.neg, 1, n⟩, ⟨(.wr .tv), 6, d⟩]
  | .tstat g n d v => [⟨.gp, 3, g⟩, ⟨.neg, 1, n⟩, ⟨(.wr .s), 6, d⟩, ⟨(.rd .tv), 6, v⟩]
  | .pref g n p s b c k => [⟨.gp, 3, g⟩, ⟨.neg, 1, n⟩, ⟨(.wr .p), 3, p⟩, ⟨(.rd .s), 6, s⟩, ⟨(.rd .s), 6, b⟩, ⟨.imm, 2, c⟩, ⟨.imm, 5, k⟩]
  | .bind g n d a b s => [⟨.gp, 3, g⟩, ⟨.neg, 1, n⟩, ⟨(.wr .s), 6, d⟩, ⟨(.rd .a), 6, a⟩, ⟨(.span .s 2), 6, b⟩, ⟨.imm, 2, s⟩]
  | .unbind g n d a => [⟨.gp, 3, g⟩, ⟨.neg, 1, n⟩, ⟨(.wr .s), 6, d⟩, ⟨(.rd .a), 6, a⟩]
  | .acqs g n d a s => [⟨.gp, 3, g⟩, ⟨.neg, 1, n⟩, ⟨(.wr .s), 6, d⟩, ⟨(.rd .a), 6, a⟩, ⟨.imm, 2, s⟩]
  | .acqsT g n d a s => [⟨.gp, 3, g⟩, ⟨.neg, 1, n⟩, ⟨(.wr .s), 6, d⟩, ⟨(.rd .a), 6, a⟩, ⟨.imm, 2, s⟩]
  | .acqx g n d a s => [⟨.gp, 3, g⟩, ⟨.neg, 1, n⟩, ⟨(.wr .s), 6, d⟩, ⟨(.rd .a), 6, a⟩, ⟨.imm, 2, s⟩]
  | .acqxT g n d a s => [⟨.gp, 3, g⟩, ⟨.neg, 1, n⟩, ⟨(.wr .s), 6, d⟩, ⟨(.rd .a), 6, a⟩, ⟨.imm, 2, s⟩]
  | .rel g n d a s => [⟨.gp, 3, g⟩, ⟨.neg, 1, n⟩, ⟨(.wr .s), 6, d⟩, ⟨(.rd .a), 6, a⟩, ⟨.imm, 2, s⟩]
  | .fence g n d s => [⟨.gp, 3, g⟩, ⟨.neg, 1, n⟩, ⟨(.wr .s), 6, d⟩, ⟨.imm, 3, s⟩]
  | .aadd g n d a b o s => [⟨.gp, 3, g⟩, ⟨.neg, 1, n⟩, ⟨(.wr .s), 6, d⟩, ⟨(.rd .a), 6, a⟩, ⟨(.rd .s), 6, b⟩, ⟨.imm, 2, o⟩, ⟨.imm, 2, s⟩]
  | .aand g n d a b o s => [⟨.gp, 3, g⟩, ⟨.neg, 1, n⟩, ⟨(.wr .s), 6, d⟩, ⟨(.rd .a), 6, a⟩, ⟨(.rd .s), 6, b⟩, ⟨.imm, 2, o⟩, ⟨.imm, 2, s⟩]
  | .aor g n d a b o s => [⟨.gp, 3, g⟩, ⟨.neg, 1, n⟩, ⟨(.wr .s), 6, d⟩, ⟨(.rd .a), 6, a⟩, ⟨(.rd .s), 6, b⟩, ⟨.imm, 2, o⟩, ⟨.imm, 2, s⟩]
  | .axor g n d a b o s => [⟨.gp, 3, g⟩, ⟨.neg, 1, n⟩, ⟨(.wr .s), 6, d⟩, ⟨(.rd .a), 6, a⟩, ⟨(.rd .s), 6, b⟩, ⟨.imm, 2, o⟩, ⟨.imm, 2, s⟩]
  | .amin g n d a b o s => [⟨.gp, 3, g⟩, ⟨.neg, 1, n⟩, ⟨(.wr .s), 6, d⟩, ⟨(.rd .a), 6, a⟩, ⟨(.rd .s), 6, b⟩, ⟨.imm, 2, o⟩, ⟨.imm, 2, s⟩]
  | .amax g n d a b o s => [⟨.gp, 3, g⟩, ⟨.neg, 1, n⟩, ⟨(.wr .s), 6, d⟩, ⟨(.rd .a), 6, a⟩, ⟨(.rd .s), 6, b⟩, ⟨.imm, 2, o⟩, ⟨.imm, 2, s⟩]
  | .aminu g n d a b o s => [⟨.gp, 3, g⟩, ⟨.neg, 1, n⟩, ⟨(.wr .s), 6, d⟩, ⟨(.rd .a), 6, a⟩, ⟨(.rd .s), 6, b⟩, ⟨.imm, 2, o⟩, ⟨.imm, 2, s⟩]
  | .amaxu g n d a b o s => [⟨.gp, 3, g⟩, ⟨.neg, 1, n⟩, ⟨(.wr .s), 6, d⟩, ⟨(.rd .a), 6, a⟩, ⟨(.rd .s), 6, b⟩, ⟨.imm, 2, o⟩, ⟨.imm, 2, s⟩]
  | .aswap g n d a b o s => [⟨.gp, 3, g⟩, ⟨.neg, 1, n⟩, ⟨(.wr .s), 6, d⟩, ⟨(.rd .a), 6, a⟩, ⟨(.rd .s), 6, b⟩, ⟨.imm, 2, o⟩, ⟨.imm, 2, s⟩]
  | .acas g n d a b o s => [⟨.gp, 3, g⟩, ⟨.neg, 1, n⟩, ⟨(.rw .s), 6, d⟩, ⟨(.rd .a), 6, a⟩, ⟨(.rd .s), 6, b⟩, ⟨.imm, 2, o⟩, ⟨.imm, 2, s⟩]
  | .aaddF32 g n d a b o s => [⟨.gp, 3, g⟩, ⟨.neg, 1, n⟩, ⟨(.wr .s), 6, d⟩, ⟨(.rd .a), 6, a⟩, ⟨(.rd .s), 6, b⟩, ⟨.imm, 2, o⟩, ⟨.imm, 2, s⟩]
  | .ard g n d a o s => [⟨.gp, 3, g⟩, ⟨.neg, 1, n⟩, ⟨(.wr .s), 6, d⟩, ⟨(.rd .a), 6, a⟩, ⟨.imm, 2, o⟩, ⟨.imm, 2, s⟩]
  | .ald g n d a o s => [⟨.gp, 3, g⟩, ⟨.neg, 1, n⟩, ⟨(.wr .s), 6, d⟩, ⟨(.rd .a), 6, a⟩, ⟨.imm, 2, o⟩, ⟨.imm, 2, s⟩]
  | .ast g n a b o s => [⟨.gp, 3, g⟩, ⟨.neg, 1, n⟩, ⟨(.rd .a), 6, a⟩, ⟨(.rd .s), 6, b⟩, ⟨.imm, 2, o⟩, ⟨.imm, 2, s⟩]
  | .qpush g n d q r => [⟨.gp, 3, g⟩, ⟨.neg, 1, n⟩, ⟨(.wr .s), 6, d⟩, ⟨(.rd .s), 6, q⟩, ⟨.areg, 4, r⟩]
  | .qpop g n d q r => [⟨.gp, 3, g⟩, ⟨.neg, 1, n⟩, ⟨(.wr .s), 6, d⟩, ⟨(.rd .s), 6, q⟩, ⟨.areg, 4, r⟩]
  | .qpopB g n d q r t => [⟨.gp, 3, g⟩, ⟨.neg, 1, n⟩, ⟨(.wr .s), 6, d⟩, ⟨(.rd .s), 6, q⟩, ⟨.areg, 4, r⟩, ⟨.imm, 5, t⟩]
  | .optreg g n d a => [⟨.gp, 3, g⟩, ⟨.neg, 1, n⟩, ⟨(.wr .s), 6, d⟩, ⟨(.rd .s), 6, a⟩]
  | .optgrad g n p s r t => [⟨.gp, 3, g⟩, ⟨.neg, 1, n⟩, ⟨(.wr .p), 3, p⟩, ⟨(.rd .s), 6, s⟩, ⟨.areg, 4, r⟩, ⟨.imm, 6, t⟩]
  | .dereg g n d a => [⟨.gp, 3, g⟩, ⟨.neg, 1, n⟩, ⟨(.wr .s), 6, d⟩, ⟨(.rd .s), 6, a⟩]
  | .sethp g n d a r => [⟨.gp, 3, g⟩, ⟨.neg, 1, n⟩, ⟨(.wr .s), 6, d⟩, ⟨(.rd .s), 6, a⟩, ⟨.areg, 4, r⟩]
  | .clrf g n d a r => [⟨.gp, 3, g⟩, ⟨.neg, 1, n⟩, ⟨(.wr .s), 6, d⟩, ⟨(.rd .s), 6, a⟩, ⟨.areg, 4, r⟩]
  | .dzero g n p s t => [⟨.gp, 3, g⟩, ⟨.neg, 1, n⟩, ⟨(.wr .p), 3, p⟩, ⟨(.rd .s), 6, s⟩, ⟨.imm, 6, t⟩]
  | .dcopy g n p s b t => [⟨.gp, 3, g⟩, ⟨.neg, 1, n⟩, ⟨(.wr .p), 3, p⟩, ⟨(.rd .s), 6, s⟩, ⟨(.rd .s), 6, b⟩, ⟨.imm, 6, t⟩]
  | .launch g n d a => [⟨.gp, 3, g⟩, ⟨.neg, 1, n⟩, ⟨(.wr .s), 6, d⟩, ⟨(.rd .a), 6, a⟩]
  | .trigger g n => [⟨.gp, 3, g⟩, ⟨.neg, 1, n⟩]
  | .spawn g n d a b => [⟨.gp, 3, g⟩, ⟨.neg, 1, n⟩, ⟨(.wr .s), 6, d⟩, ⟨(.rd .a), 6, a⟩, ⟨(.span .s 6), 6, b⟩]
  | .resume g n d a => [⟨.gp, 3, g⟩, ⟨.neg, 1, n⟩, ⟨(.wr .s), 6, d⟩, ⟨(.rd .a), 6, a⟩]
  | .susp g n d b => [⟨.gp, 3, g⟩, ⟨.neg, 1, n⟩, ⟨(.wr .s), 6, d⟩, ⟨(.rd .s), 6, b⟩]
  | .suspK g n d b => [⟨.gp, 3, g⟩, ⟨.neg, 1, n⟩, ⟨(.wr .s), 6, d⟩, ⟨(.rd .s), 6, b⟩]
  | .yield g n => [⟨.gp, 3, g⟩, ⟨.neg, 1, n⟩]
  | .yieldK g n => [⟨.gp, 3, g⟩, ⟨.neg, 1, n⟩]
  | .endTask g n => [⟨.gp, 3, g⟩, ⟨.neg, 1, n⟩]
  | .wfe g n => [⟨.gp, 3, g⟩, ⟨.neg, 1, n⟩]
  | .mtcfg g n d r => [⟨.gp, 3, g⟩, ⟨.neg, 1, n⟩, ⟨(.wr .s), 6, d⟩, ⟨.areg, 4, r⟩]
  | .mtarr g n d h r m => [⟨.gp, 3, g⟩, ⟨.neg, 1, n⟩, ⟨(.wr .s), 6, d⟩, ⟨(.rd .s), 6, h⟩, ⟨.areg, 4, r⟩, ⟨(.rd .s), 6, m⟩]
  | .mtwait g n d h r t => [⟨.gp, 3, g⟩, ⟨.neg, 1, n⟩, ⟨(.wr .s), 6, d⟩, ⟨(.rd .s), 6, h⟩, ⟨.areg, 4, r⟩, ⟨(.rd .s), 6, t⟩]
  | .mtwaitT g n d h r t => [⟨.gp, 3, g⟩, ⟨.neg, 1, n⟩, ⟨(.wr .s), 6, d⟩, ⟨(.rd .s), 6, h⟩, ⟨.areg, 4, r⟩, ⟨(.rd .s), 6, t⟩]
  | .mttag g n d h m => [⟨.gp, 3, g⟩, ⟨.neg, 1, n⟩, ⟨(.wr .s), 6, d⟩, ⟨(.rd .s), 6, h⟩, ⟨(.rd .s), 6, m⟩]
  | .mtdel g n d h => [⟨.gp, 3, g⟩, ⟨.neg, 1, n⟩, ⟨(.wr .s), 6, d⟩, ⟨(.rd .s), 6, h⟩]
  | .bar g n d b s => [⟨.gp, 3, g⟩, ⟨.neg, 1, n⟩, ⟨(.wr .s), 6, d⟩, ⟨(.rd .s), 6, b⟩, ⟨.imm, 3, s⟩]
  | .barT g n d b s => [⟨.gp, 3, g⟩, ⟨.neg, 1, n⟩, ⟨(.wr .s), 6, d⟩, ⟨(.rd .s), 6, b⟩, ⟨.imm, 3, s⟩]
  | .trap g n i => [⟨.gp, 3, g⟩, ⟨.neg, 1, n⟩, ⟨.imm, 16, i⟩]
  | .brk g n i => [⟨.gp, 3, g⟩, ⟨.neg, 1, n⟩, ⟨.imm, 16, i⟩]
  | .tack g n => [⟨.gp, 3, g⟩, ⟨.neg, 1, n⟩]
  | .xret g n => [⟨.gp, 3, g⟩, ⟨.neg, 1, n⟩]
  | .preq g n => [⟨.gp, 3, g⟩, ⟨.neg, 1, n⟩]
  | .icinv g n => [⟨.gp, 3, g⟩, ⟨.neg, 1, n⟩]
  | .tinvAll g n => [⟨.gp, 3, g⟩, ⟨.neg, 1, n⟩]
  | .tinvAsid g n b => [⟨.gp, 3, g⟩, ⟨.neg, 1, n⟩, ⟨(.rd .s), 6, b⟩]
  | .tinvPage g n a b => [⟨.gp, 3, g⟩, ⟨.neg, 1, n⟩, ⟨(.rd .s), 6, a⟩, ⟨(.rd .s), 6, b⟩]
  | .ckpt g n d => [⟨.gp, 3, g⟩, ⟨.neg, 1, n⟩, ⟨(.wr .s), 6, d⟩]
  | .mfs g n d i => [⟨.gp, 3, g⟩, ⟨.neg, 1, n⟩, ⟨(.wr .s), 6, d⟩, ⟨.imm, 16, i⟩]
  | .mts g n d i => [⟨.gp, 3, g⟩, ⟨.neg, 1, n⟩, ⟨(.rd .s), 6, d⟩, ⟨.imm, 16, i⟩]
  | .mfsr g n d a => [⟨.gp, 3, g⟩, ⟨.neg, 1, n⟩, ⟨(.wr .s), 6, d⟩, ⟨(.rd .s), 6, a⟩]
  | .mtsr g n a b => [⟨.gp, 3, g⟩, ⟨.neg, 1, n⟩, ⟨(.rd .s), 6, a⟩, ⟨(.rd .s), 6, b⟩]
  | .pmen g n a => [⟨.gp, 3, g⟩, ⟨.neg, 1, n⟩, ⟨(.rd .s), 6, a⟩]
  | .pmz g n a => [⟨.gp, 3, g⟩, ⟨.neg, 1, n⟩, ⟨(.rd .s), 6, a⟩]
  | .mbegin g n d a => [⟨.gp, 3, g⟩, ⟨.neg, 1, n⟩, ⟨(.wr .s), 6, d⟩, ⟨(.rd .s), 6, a⟩]
  | .mend g n d => [⟨.gp, 3, g⟩, ⟨.neg, 1, n⟩, ⟨(.wr .s), 6, d⟩]
  | .mph g n d => [⟨.gp, 3, g⟩, ⟨.neg, 1, n⟩, ⟨(.wr .s), 6, d⟩]
  | .rscat g n p r t => [⟨.gp, 3, g⟩, ⟨.neg, 1, n⟩, ⟨(.wr .p), 3, p⟩, ⟨.areg, 4, r⟩, ⟨.imm, 8, t⟩]
  | .agath g n p r t => [⟨.gp, 3, g⟩, ⟨.neg, 1, n⟩, ⟨(.wr .p), 3, p⟩, ⟨.areg, 4, r⟩, ⟨.imm, 8, t⟩]
  | .ared g n p r t => [⟨.gp, 3, g⟩, ⟨.neg, 1, n⟩, ⟨(.wr .p), 3, p⟩, ⟨.areg, 4, r⟩, ⟨.imm, 8, t⟩]
  | .send g n p r t => [⟨.gp, 3, g⟩, ⟨.neg, 1, n⟩, ⟨(.wr .p), 3, p⟩, ⟨.areg, 4, r⟩, ⟨.imm, 8, t⟩]
  | .recv g n p r t => [⟨.gp, 3, g⟩, ⟨.neg, 1, n⟩, ⟨(.wr .p), 3, p⟩, ⟨.areg, 4, r⟩, ⟨.imm, 8, t⟩]
  | .lnkst g n d a => [⟨.gp, 3, g⟩, ⟨.neg, 1, n⟩, ⟨(.wr .s), 6, d⟩, ⟨(.rd .s), 6, a⟩]
  | .phase g n d r => [⟨.gp, 3, g⟩, ⟨.neg, 1, n⟩, ⟨(.wr .s), 6, d⟩, ⟨.areg, 4, r⟩]
  | .phaseEnd g n => [⟨.gp, 3, g⟩, ⟨.neg, 1, n⟩]
  | .digest g n d e => [⟨.gp, 3, g⟩, ⟨.neg, 1, n⟩, ⟨(.wr .s), 6, d⟩, ⟨(.wr .p), 3, e⟩]
  | .rcmp g n d a b => [⟨.gp, 3, g⟩, ⟨.neg, 1, n⟩, ⟨(.wr .s), 6, d⟩, ⟨(.rd .s), 6, a⟩, ⟨(.rd .s), 6, b⟩]
  | .coreReset _ => []
  | .linkTrained _ => []
  | .stackLogicDieReset _ _ _ _ => []
  | .malformedControlCommand => []

/-- A field fits its width and names a register of its file (03 R49). -/
def Opnd.ok (o : Opnd) : Bool :=
  decide (o.val < 2 ^ o.width) &&
  match o.role with
  | .gp | .gm | .neg | .ha | .hb | .areg | .tw | .imm => true
  | .rd f | .wr f | .rw f => decide (o.val < f.size)
  | .va | .vb | .vx => decide (o.val < 48)
  | .lane => decide (o.val < 16)
  | .src => decide (o.val < 64) || decide (o.val % 64 < 16)
  | .span f k => decide (o.val + k ≤ f.size)

/-- The instruction's fields fit and name registers that exist. -/
def Instr.wf (i : Instr) : Bool := i.ops.all Opnd.ok

end Sys2Proof
end

