-- ==== Sys2Proof/Decode.lean ====
section
/-!
DEFINITION. Decode.lean: slot words read against their slot class (03 R48, R50, R51), the checks of 03 R52 step 1 that
need only the word and the long immediate, and the encoder written from the same rows.
-/
namespace Sys2Proof

/-! Lean's compiler gives a data constructor a tag of eight bits and refuses to build the later ones of 417, so what
builds an `Instr` is not compiled; the kernel evaluates it. -/
noncomputable section

/-- One row of an encoding table: fixed bits, the place (lowest bit, width) of each field, the instruction they make. -/
structure Row where
  mask : Nat
  mat : Nat
  pos : List (Nat × Nat)
  make : List Nat → Option Instr

def rowADD : Row := ⟨0xfc00000f, 0x00000000, [(23, 3), (22, 1), (16, 6), (10, 6), (4, 6)], fun | [g, n, d, a, b] => some (.add g n d a b) | _ => none⟩
def rowSUB : Row := ⟨0xfc00000f, 0x00000001, [(23, 3), (22, 1), (16, 6), (10, 6), (4, 6)], fun | [g, n, d, a, b] => some (.sub g n d a b) | _ => none⟩
def rowAND : Row := ⟨0xfc00000f, 0x00000002, [(23, 3), (22, 1), (16, 6), (10, 6), (4, 6)], fun | [g, n, d, a, b] => some (.and g n d a b) | _ => none⟩
def rowOR : Row := ⟨0xfc00000f, 0x00000003, [(23, 3), (22, 1), (16, 6), (10, 6), (4, 6)], fun | [g, n, d, a, b] => some (.or g n d a b) | _ => none⟩
def rowXOR : Row := ⟨0xfc00000f, 0x00000004, [(23, 3), (22, 1), (16, 6), (10, 6), (4, 6)], fun | [g, n, d, a, b] => some (.xor g n d a b) | _ => none⟩
def rowANDN : Row := ⟨0xfc00000f, 0x00000005, [(23, 3), (22, 1), (16, 6), (10, 6), (4, 6)], fun | [g, n, d, a, b] => some (.andn g n d a b) | _ => none⟩
def rowSHL : Row := ⟨0xfc00000f, 0x00000006, [(23, 3), (22, 1), (16, 6), (10, 6), (4, 6)], fun | [g, n, d, a, b] => some (.shl g n d a b) | _ => none⟩
def rowSHR : Row := ⟨0xfc00000f, 0x00000007, [(23, 3), (22, 1), (16, 6), (10, 6), (4, 6)], fun | [g, n, d, a, b] => some (.shr g n d a b) | _ => none⟩
def rowSAR : Row := ⟨0xfc00000f, 0x00000008, [(23, 3), (22, 1), (16, 6), (10, 6), (4, 6)], fun | [g, n, d, a, b] => some (.sar g n d a b) | _ => none⟩
def rowROL : Row := ⟨0xfc00000f, 0x00000009, [(23, 3), (22, 1), (16, 6), (10, 6), (4, 6)], fun | [g, n, d, a, b] => some (.rol g n d a b) | _ => none⟩
def rowROR : Row := ⟨0xfc00000f, 0x0000000a, [(23, 3), (22, 1), (16, 6), (10, 6), (4, 6)], fun | [g, n, d, a, b] => some (.ror g n d a b) | _ => none⟩
def rowMIN : Row := ⟨0xfc00000f, 0x0000000b, [(23, 3), (22, 1), (16, 6), (10, 6), (4, 6)], fun | [g, n, d, a, b] => some (.min g n d a b) | _ => none⟩
def rowMAX : Row := ⟨0xfc00000f, 0x0000000c, [(23, 3), (22, 1), (16, 6), (10, 6), (4, 6)], fun | [g, n, d, a, b] => some (.max g n d a b) | _ => none⟩
def rowMINU : Row := ⟨0xfc00000f, 0x0000000d, [(23, 3), (22, 1), (16, 6), (10, 6), (4, 6)], fun | [g, n, d, a, b] => some (.minu g n d a b) | _ => none⟩
def rowMAXU : Row := ⟨0xfc00000f, 0x0000000e, [(23, 3), (22, 1), (16, 6), (10, 6), (4, 6)], fun | [g, n, d, a, b] => some (.maxu g n d a b) | _ => none⟩
def rowMUL : Row := ⟨0xfc00000f, 0x04000000, [(23, 3), (22, 1), (16, 6), (10, 6), (4, 6)], fun | [g, n, d, a, b] => some (.mul g n d a b) | _ => none⟩
def rowMULH : Row := ⟨0xfc00000f, 0x04000001, [(23, 3), (22, 1), (16, 6), (10, 6), (4, 6)], fun | [g, n, d, a, b] => some (.mulh g n d a b) | _ => none⟩
def rowMULHU : Row := ⟨0xfc00000f, 0x04000002, [(23, 3), (22, 1), (16, 6), (10, 6), (4, 6)], fun | [g, n, d, a, b] => some (.mulhu g n d a b) | _ => none⟩
def rowMULHSU : Row := ⟨0xfc00000f, 0x04000003, [(23, 3), (22, 1), (16, 6), (10, 6), (4, 6)], fun | [g, n, d, a, b] => some (.mulhsu g n d a b) | _ => none⟩
def rowDIV : Row := ⟨0xfc00000f, 0x04000004, [(23, 3), (22, 1), (16, 6), (10, 6), (4, 6)], fun | [g, n, d, a, b] => some (.div g n d a b) | _ => none⟩
def rowDIVU : Row := ⟨0xfc00000f, 0x04000005, [(23, 3), (22, 1), (16, 6), (10, 6), (4, 6)], fun | [g, n, d, a, b] => some (.divu g n d a b) | _ => none⟩
def rowREM : Row := ⟨0xfc00000f, 0x04000006, [(23, 3), (22, 1), (16, 6), (10, 6), (4, 6)], fun | [g, n, d, a, b] => some (.rem g n d a b) | _ => none⟩
def rowREMU : Row := ⟨0xfc00000f, 0x04000007, [(23, 3), (22, 1), (16, 6), (10, 6), (4, 6)], fun | [g, n, d, a, b] => some (.remu g n d a b) | _ => none⟩
def rowCLZ : Row := ⟨0xfc0003ff, 0x08000000, [(23, 3), (22, 1), (16, 6), (10, 6)], fun | [g, n, d, a] => some (.clz g n d a) | _ => none⟩
def rowCTZ : Row := ⟨0xfc0003ff, 0x08000001, [(23, 3), (22, 1), (16, 6), (10, 6)], fun | [g, n, d, a] => some (.ctz g n d a) | _ => none⟩
def rowPOPC : Row := ⟨0xfc0003ff, 0x08000002, [(23, 3), (22, 1), (16, 6), (10, 6)], fun | [g, n, d, a] => some (.popc g n d a) | _ => none⟩
def rowBREV : Row := ⟨0xfc0003ff, 0x08000003, [(23, 3), (22, 1), (16, 6), (10, 6)], fun | [g, n, d, a] => some (.brev g n d a) | _ => none⟩
def rowBSWAP : Row := ⟨0xfc0003ff, 0x08000004, [(23, 3), (22, 1), (16, 6), (10, 6)], fun | [g, n, d, a] => some (.bswap g n d a) | _ => none⟩
def rowCMPEQ : Row := ⟨0xfc00000f, 0x0c000000, [(23, 3), (22, 1), (16, 6), (10, 6), (4, 6)], fun | [g, n, d, a, b] => some (.cmpeq g n d a b) | _ => none⟩
def rowCMPNE : Row := ⟨0xfc00000f, 0x0c000001, [(23, 3), (22, 1), (16, 6), (10, 6), (4, 6)], fun | [g, n, d, a, b] => some (.cmpne g n d a b) | _ => none⟩
def rowCMPLT : Row := ⟨0xfc00000f, 0x0c000002, [(23, 3), (22, 1), (16, 6), (10, 6), (4, 6)], fun | [g, n, d, a, b] => some (.cmplt g n d a b) | _ => none⟩
def rowCMPLE : Row := ⟨0xfc00000f, 0x0c000003, [(23, 3), (22, 1), (16, 6), (10, 6), (4, 6)], fun | [g, n, d, a, b] => some (.cmple g n d a b) | _ => none⟩
def rowCMPLTU : Row := ⟨0xfc00000f, 0x0c000004, [(23, 3), (22, 1), (16, 6), (10, 6), (4, 6)], fun | [g, n, d, a, b] => some (.cmpltu g n d a b) | _ => none⟩
def rowCMPLEU : Row := ⟨0xfc00000f, 0x0c000005, [(23, 3), (22, 1), (16, 6), (10, 6), (4, 6)], fun | [g, n, d, a, b] => some (.cmpleu g n d a b) | _ => none⟩
def rowSEL : Row := ⟨0xfc000000, 0x10000000, [(23, 3), (22, 1), (16, 6), (10, 6), (4, 6), (0, 4)], fun | [g, n, d, a, b, k] => some (.sel g n d a b k) | _ => none⟩
def rowPAND : Row := ⟨0xfc00000f, 0x14000000, [(23, 3), (22, 1), (16, 6), (10, 6), (4, 6)], fun | [g, n, d, a, b] => some (.pand g n d a b) | _ => none⟩
def rowPOR : Row := ⟨0xfc00000f, 0x14000001, [(23, 3), (22, 1), (16, 6), (10, 6), (4, 6)], fun | [g, n, d, a, b] => some (.por g n d a b) | _ => none⟩
def rowPXOR : Row := ⟨0xfc00000f, 0x14000002, [(23, 3), (22, 1), (16, 6), (10, 6), (4, 6)], fun | [g, n, d, a, b] => some (.pxor g n d a b) | _ => none⟩
def rowPANDN : Row := ⟨0xfc00000f, 0x14000003, [(23, 3), (22, 1), (16, 6), (10, 6), (4, 6)], fun | [g, n, d, a, b] => some (.pandn g n d a b) | _ => none⟩
def rowPNOT : Row := ⟨0xfc0003ff, 0x14000004, [(23, 3), (22, 1), (16, 6), (10, 6)], fun | [g, n, d, a] => some (.pnot g n d a) | _ => none⟩
def rowPRD : Row := ⟨0xfc00ffff, 0x14000005, [(23, 3), (22, 1), (16, 6)], fun | [g, n, d] => some (.prd g n d) | _ => none⟩
def rowPWR : Row := ⟨0xfc3f03ff, 0x14000006, [(23, 3), (22, 1), (10, 6)], fun | [g, n, a] => some (.pwr g n a) | _ => none⟩
def rowBEXT : Row := ⟨0xfc00000f, 0x18000000, [(23, 3), (22, 1), (16, 6), (10, 6), (4, 6)], fun | [g, n, d, a, b] => some (.bext g n d a b) | _ => none⟩
def rowBEXTU : Row := ⟨0xfc00000f, 0x18000001, [(23, 3), (22, 1), (16, 6), (10, 6), (4, 6)], fun | [g, n, d, a, b] => some (.bextu g n d a b) | _ => none⟩
def rowBINS : Row := ⟨0xfc00000f, 0x18000002, [(23, 3), (22, 1), (16, 6), (10, 6), (4, 6)], fun | [g, n, d, a, b] => some (.bins g n d a b) | _ => none⟩
def rowADDI : Row := ⟨0xfc000000, 0x1c000000, [(23, 3), (22, 1), (16, 6), (10, 6), (0, 10)], fun | [g, n, d, a, i] => some (.addi g n d a i) | _ => none⟩
def rowANDI : Row := ⟨0xfc000000, 0x20000000, [(23, 3), (22, 1), (16, 6), (10, 6), (0, 10)], fun | [g, n, d, a, i] => some (.andi g n d a i) | _ => none⟩
def rowORI : Row := ⟨0xfc000000, 0x24000000, [(23, 3), (22, 1), (16, 6), (10, 6), (0, 10)], fun | [g, n, d, a, i] => some (.ori g n d a i) | _ => none⟩
def rowXORI : Row := ⟨0xfc000000, 0x28000000, [(23, 3), (22, 1), (16, 6), (10, 6), (0, 10)], fun | [g, n, d, a, i] => some (.xori g n d a i) | _ => none⟩
def rowSHLI : Row := ⟨0xfc000000, 0x2c000000, [(23, 3), (22, 1), (16, 6), (10, 6), (0, 10)], fun | [g, n, d, a, i] => some (.shli g n d a i) | _ => none⟩
def rowSHRI : Row := ⟨0xfc000000, 0x30000000, [(23, 3), (22, 1), (16, 6), (10, 6), (0, 10)], fun | [g, n, d, a, i] => some (.shri g n d a i) | _ => none⟩
def rowSARI : Row := ⟨0xfc000000, 0x34000000, [(23, 3), (22, 1), (16, 6), (10, 6), (0, 10)], fun | [g, n, d, a, i] => some (.sari g n d a i) | _ => none⟩
def rowRORI : Row := ⟨0xfc000000, 0x38000000, [(23, 3), (22, 1), (16, 6), (10, 6), (0, 10)], fun | [g, n, d, a, i] => some (.rori g n d a i) | _ => none⟩
def rowMULI : Row := ⟨0xfc000000, 0x3c000000, [(23, 3), (22, 1), (16, 6), (10, 6), (0, 10)], fun | [g, n, d, a, i] => some (.muli g n d a i) | _ => none⟩
def rowMINI : Row := ⟨0xfc000000, 0x40000000, [(23, 3), (22, 1), (16, 6), (10, 6), (0, 10)], fun | [g, n, d, a, i] => some (.mini g n d a i) | _ => none⟩
def rowMAXI : Row := ⟨0xfc000000, 0x44000000, [(23, 3), (22, 1), (16, 6), (10, 6), (0, 10)], fun | [g, n, d, a, i] => some (.maxi g n d a i) | _ => none⟩
def rowCMPEQI : Row := ⟨0xfc000000, 0x48000000, [(23, 3), (22, 1), (16, 6), (10, 6), (0, 10)], fun | [g, n, d, a, i] => some (.cmpeqi g n d a i) | _ => none⟩
def rowCMPNEI : Row := ⟨0xfc000000, 0x4c000000, [(23, 3), (22, 1), (16, 6), (10, 6), (0, 10)], fun | [g, n, d, a, i] => some (.cmpnei g n d a i) | _ => none⟩
def rowCMPLTI : Row := ⟨0xfc000000, 0x50000000, [(23, 3), (22, 1), (16, 6), (10, 6), (0, 10)], fun | [g, n, d, a, i] => some (.cmplti g n d a i) | _ => none⟩
def rowCMPLEI : Row := ⟨0xfc000000, 0x54000000, [(23, 3), (22, 1), (16, 6), (10, 6), (0, 10)], fun | [g, n, d, a, i] => some (.cmplei g n d a i) | _ => none⟩
def rowCMPGTI : Row := ⟨0xfc000000, 0x58000000, [(23, 3), (22, 1), (16, 6), (10, 6), (0, 10)], fun | [g, n, d, a, i] => some (.cmpgti g n d a i) | _ => none⟩
def rowCMPGEI : Row := ⟨0xfc000000, 0x5c000000, [(23, 3), (22, 1), (16, 6), (10, 6), (0, 10)], fun | [g, n, d, a, i] => some (.cmpgei g n d a i) | _ => none⟩
def rowCMPLTUI : Row := ⟨0xfc000000, 0x60000000, [(23, 3), (22, 1), (16, 6), (10, 6), (0, 10)], fun | [g, n, d, a, i] => some (.cmpltui g n d a i) | _ => none⟩
def rowCMPGTUI : Row := ⟨0xfc000000, 0x64000000, [(23, 3), (22, 1), (16, 6), (10, 6), (0, 10)], fun | [g, n, d, a, i] => some (.cmpgtui g n d a i) | _ => none⟩
def rowMOVI : Row := ⟨0xfc000000, 0x68000000, [(23, 3), (22, 1), (16, 6), (0, 16)], fun | [g, n, d, i] => some (.movi g n d i) | _ => none⟩
def rowMOVIZ : Row := ⟨0xfc000000, 0x6c000000, [(23, 3), (22, 1), (16, 6), (0, 16)], fun | [g, n, d, i] => some (.moviz g n d i) | _ => none⟩
def rowMOVK0 : Row := ⟨0xfc000000, 0x70000000, [(23, 3), (22, 1), (16, 6), (0, 16)], fun | [g, n, d, i] => some (.movk0 g n d i) | _ => none⟩
def rowMOVK1 : Row := ⟨0xfc000000, 0x74000000, [(23, 3), (22, 1), (16, 6), (0, 16)], fun | [g, n, d, i] => some (.movk1 g n d i) | _ => none⟩
def rowMOVK2 : Row := ⟨0xfc000000, 0x78000000, [(23, 3), (22, 1), (16, 6), (0, 16)], fun | [g, n, d, i] => some (.movk2 g n d i) | _ => none⟩
def rowMOVK3 : Row := ⟨0xfc000000, 0x7c000000, [(23, 3), (22, 1), (16, 6), (0, 16)], fun | [g, n, d, i] => some (.movk3 g n d i) | _ => none⟩
def rowADDA : Row := ⟨0xfc00000f, 0xc0000000, [(23, 3), (22, 1), (16, 6), (10, 6), (4, 6)], fun | [g, n, d, a, b] => some (.adda g n d a b) | _ => none⟩
def rowADDA2 : Row := ⟨0xfc00000f, 0xc0000001, [(23, 3), (22, 1), (16, 6), (10, 6), (4, 6)], fun | [g, n, d, a, b] => some (.adda2 g n d a b) | _ => none⟩
def rowADDA4 : Row := ⟨0xfc00000f, 0xc0000002, [(23, 3), (22, 1), (16, 6), (10, 6), (4, 6)], fun | [g, n, d, a, b] => some (.adda4 g n d a b) | _ => none⟩
def rowADDA8 : Row := ⟨0xfc00000f, 0xc0000003, [(23, 3), (22, 1), (16, 6), (10, 6), (4, 6)], fun | [g, n, d, a, b] => some (.adda8 g n d a b) | _ => none⟩
def rowDIFA : Row := ⟨0xfc00000f, 0xc0000004, [(23, 3), (22, 1), (16, 6), (10, 6), (4, 6)], fun | [g, n, d, a, b] => some (.difa g n d a b) | _ => none⟩
def rowMOVAS : Row := ⟨0xfc0003ff, 0xc0000005, [(23, 3), (22, 1), (16, 6), (10, 6)], fun | [g, n, d, a] => some (.movas g n d a) | _ => none⟩
def rowMOVSA : Row := ⟨0xfc0003ff, 0xc0000006, [(23, 3), (22, 1), (16, 6), (10, 6)], fun | [g, n, d, a] => some (.movsa g n d a) | _ => none⟩
def rowADDAI : Row := ⟨0xfc000000, 0xc4000000, [(23, 3), (22, 1), (16, 6), (10, 6), (0, 10)], fun | [g, n, d, a, i] => some (.addai g n d a i) | _ => none⟩
def rowMOVAI : Row := ⟨0xfc000000, 0xc8000000, [(23, 3), (22, 1), (16, 6), (0, 16)], fun | [g, n, d, i] => some (.movai g n d i) | _ => none⟩
def rowANDAI : Row := ⟨0xfc000000, 0xcc000000, [(23, 3), (22, 1), (16, 6), (10, 6), (0, 10)], fun | [g, n, d, a, i] => some (.andai g n d a i) | _ => none⟩
def rowBR : Row := ⟨0xfc000000, 0x00000000, [(23, 3), (22, 1), (0, 22)], fun | [g, n, s] => some (.br g n s) | _ => none⟩
def rowCALL : Row := ⟨0xfc000000, 0x04000000, [(23, 3), (22, 1), (0, 22)], fun | [g, n, s] => some (.call g n s) | _ => none⟩
def rowJMP : Row := ⟨0xfc3f03ff, 0x08000000, [(23, 3), (22, 1), (10, 6)], fun | [g, n, a] => some (.jmp g n a) | _ => none⟩
def rowCALLR : Row := ⟨0xfc3f03ff, 0x08000001, [(23, 3), (22, 1), (10, 6)], fun | [g, n, a] => some (.callr g n a) | _ => none⟩
def rowRET : Row := ⟨0xfc3fffff, 0x08000002, [(23, 3), (22, 1)], fun | [g, n] => some (.ret g n) | _ => none⟩
def rowLOOP : Row := ⟨0xfc000000, 0x0c000000, [(23, 3), (22, 1), (16, 6), (10, 6), (0, 10)], fun | [g, n, d, a, i] => some (.loop g n d a i) | _ => none⟩
def rowMTLC : Row := ⟨0xfc0003ff, 0x10000000, [(23, 3), (22, 1), (16, 6), (10, 6)], fun | [g, n, d, a] => some (.mtlc g n d a) | _ => none⟩
def rowMFLC : Row := ⟨0xfc0003ff, 0x10000001, [(23, 3), (22, 1), (16, 6), (10, 6)], fun | [g, n, d, a] => some (.mflc g n d a) | _ => none⟩
def rowLMODE : Row := ⟨0xfc3ffffe, 0x14000000, [(23, 3), (22, 1), (0, 1)], fun | [g, n, m] => some (.lmode g n m) | _ => none⟩
def rowLMODEL : Row := ⟨0xfc3ffffe, 0x14000002, [(23, 3), (22, 1), (0, 1)], fun | [g, n, m] => some (.lmodeL g n m) | _ => none⟩
def rowVFADD : Row := ⟨0xfc000007, 0x00000000, [(23, 3), (22, 1), (16, 6), (10, 6), (4, 6), (3, 1)], fun | [g, h, d, a, b, x] => some (.vfadd g h d a b x) | _ => none⟩
def rowVFSUB : Row := ⟨0xfc000007, 0x00000001, [(23, 3), (22, 1), (16, 6), (10, 6), (4, 6), (3, 1)], fun | [g, h, d, a, b, x] => some (.vfsub g h d a b x) | _ => none⟩
def rowVFMUL : Row := ⟨0xfc000007, 0x00000002, [(23, 3), (22, 1), (16, 6), (10, 6), (4, 6), (3, 1)], fun | [g, h, d, a, b, x] => some (.vfmul g h d a b x) | _ => none⟩
def rowVFMIN : Row := ⟨0xfc000007, 0x00000003, [(23, 3), (22, 1), (16, 6), (10, 6), (4, 6), (3, 1)], fun | [g, h, d, a, b, x] => some (.vfmin g h d a b x) | _ => none⟩
def rowVFMAX : Row := ⟨0xfc000007, 0x00000004, [(23, 3), (22, 1), (16, 6), (10, 6), (4, 6), (3, 1)], fun | [g, h, d, a, b, x] => some (.vfmax g h d a b x) | _ => none⟩
def rowVFMINN : Row := ⟨0xfc000007, 0x00000005, [(23, 3), (22, 1), (16, 6), (10, 6), (4, 6), (3, 1)], fun | [g, h, d, a, b, x] => some (.vfminn g h d a b x) | _ => none⟩
def rowVFMAXN : Row := ⟨0xfc000007, 0x00000006, [(23, 3), (22, 1), (16, 6), (10, 6), (4, 6), (3, 1)], fun | [g, h, d, a, b, x] => some (.vfmaxn g h d a b x) | _ => none⟩
def rowVFMA : Row := ⟨0xfc000007, 0x04000000, [(23, 3), (22, 1), (16, 6), (10, 6), (4, 6), (3, 1)], fun | [g, h, d, a, b, x] => some (.vfma g h d a b x) | _ => none⟩
def rowVFMS : Row := ⟨0xfc000007, 0x04000001, [(23, 3), (22, 1), (16, 6), (10, 6), (4, 6), (3, 1)], fun | [g, h, d, a, b, x] => some (.vfms g h d a b x) | _ => none⟩
def rowVFNMA : Row := ⟨0xfc000007, 0x04000002, [(23, 3), (22, 1), (16, 6), (10, 6), (4, 6), (3, 1)], fun | [g, h, d, a, b, x] => some (.vfnma g h d a b x) | _ => none⟩
def rowVFNMS : Row := ⟨0xfc000007, 0x04000003, [(23, 3), (22, 1), (16, 6), (10, 6), (4, 6), (3, 1)], fun | [g, h, d, a, b, x] => some (.vfnms g h d a b x) | _ => none⟩
def rowVFABS : Row := ⟨0xfc0003ff, 0x08000000, [(23, 3), (22, 1), (16, 6), (10, 6)], fun | [g, h, d, a] => some (.vfabs g h d a) | _ => none⟩
def rowVFNEG : Row := ⟨0xfc0003ff, 0x08000001, [(23, 3), (22, 1), (16, 6), (10, 6)], fun | [g, h, d, a] => some (.vfneg g h d a) | _ => none⟩
def rowVFSQRT : Row := ⟨0xfc0003ff, 0x08000002, [(23, 3), (22, 1), (16, 6), (10, 6)], fun | [g, h, d, a] => some (.vfsqrt g h d a) | _ => none⟩
def rowVFRCP : Row := ⟨0xfc0003ff, 0x08000003, [(23, 3), (22, 1), (16, 6), (10, 6)], fun | [g, h, d, a] => some (.vfrcp g h d a) | _ => none⟩
def rowVFRSQ : Row := ⟨0xfc0003ff, 0x08000004, [(23, 3), (22, 1), (16, 6), (10, 6)], fun | [g, h, d, a] => some (.vfrsq g h d a) | _ => none⟩
def rowVFDIV : Row := ⟨0xfc000007, 0x0c000000, [(23, 3), (22, 1), (16, 6), (10, 6), (4, 6), (3, 1)], fun | [g, h, d, a, b, x] => some (.vfdiv g h d a b x) | _ => none⟩
def rowVEXP2 : Row := ⟨0xfc0003ff, 0x10000000, [(23, 3), (22, 1), (16, 6), (10, 6)], fun | [g, h, d, a] => some (.vexp2 g h d a) | _ => none⟩
def rowVLOG2 : Row := ⟨0xfc0003ff, 0x10000001, [(23, 3), (22, 1), (16, 6), (10, 6)], fun | [g, h, d, a] => some (.vlog2 g h d a) | _ => none⟩
def rowVEXP : Row := ⟨0xfc0003ff, 0x10000002, [(23, 3), (22, 1), (16, 6), (10, 6)], fun | [g, h, d, a] => some (.vexp g h d a) | _ => none⟩
def rowVLN : Row := ⟨0xfc0003ff, 0x10000003, [(23, 3), (22, 1), (16, 6), (10, 6)], fun | [g, h, d, a] => some (.vln g h d a) | _ => none⟩
def rowVTANH : Row := ⟨0xfc0003ff, 0x10000004, [(23, 3), (22, 1), (16, 6), (10, 6)], fun | [g, h, d, a] => some (.vtanh g h d a) | _ => none⟩
def rowVSIGM : Row := ⟨0xfc0003ff, 0x10000005, [(23, 3), (22, 1), (16, 6), (10, 6)], fun | [g, h, d, a] => some (.vsigm g h d a) | _ => none⟩
def rowVFCEQ : Row := ⟨0xfc000007, 0x14000000, [(23, 3), (22, 1), (16, 6), (10, 6), (4, 6), (3, 1)], fun | [g, h, d, a, b, x] => some (.vfceq g h d a b x) | _ => none⟩
def rowVFCNE : Row := ⟨0xfc000007, 0x14000001, [(23, 3), (22, 1), (16, 6), (10, 6), (4, 6), (3, 1)], fun | [g, h, d, a, b, x] => some (.vfcne g h d a b x) | _ => none⟩
def rowVFCLT : Row := ⟨0xfc000007, 0x14000002, [(23, 3), (22, 1), (16, 6), (10, 6), (4, 6), (3, 1)], fun | [g, h, d, a, b, x] => some (.vfclt g h d a b x) | _ => none⟩
def rowVFCLE : Row := ⟨0xfc000007, 0x14000003, [(23, 3), (22, 1), (16, 6), (10, 6), (4, 6), (3, 1)], fun | [g, h, d, a, b, x] => some (.vfcle g h d a b x) | _ => none⟩
def rowVFCUN : Row := ⟨0xfc000007, 0x14000004, [(23, 3), (22, 1), (16, 6), (10, 6), (4, 6), (3, 1)], fun | [g, h, d, a, b, x] => some (.vfcun g h d a b x) | _ => none⟩
def rowVFRSUM : Row := ⟨0xfc0003ff, 0x1c000000, [(23, 3), (22, 1), (16, 6), (10, 6)], fun | [g, h, d, a] => some (.vfrsum g h d a) | _ => none⟩
def rowVFRMAX : Row := ⟨0xfc0003ff, 0x1c000001, [(23, 3), (22, 1), (16, 6), (10, 6)], fun | [g, h, d, a] => some (.vfrmax g h d a) | _ => none⟩
def rowVFRMIN : Row := ⟨0xfc0003ff, 0x1c000002, [(23, 3), (22, 1), (16, 6), (10, 6)], fun | [g, h, d, a] => some (.vfrmin g h d a) | _ => none⟩
def rowVADD : Row := ⟨0xfc000007, 0x80000000, [(23, 3), (22, 1), (16, 6), (10, 6), (4, 6), (3, 1)], fun | [g, h, d, a, b, x] => some (.vadd g h d a b x) | _ => none⟩
def rowVSUB : Row := ⟨0xfc000007, 0x80000001, [(23, 3), (22, 1), (16, 6), (10, 6), (4, 6), (3, 1)], fun | [g, h, d, a, b, x] => some (.vsub g h d a b x) | _ => none⟩
def rowVMUL : Row := ⟨0xfc000007, 0x80000002, [(23, 3), (22, 1), (16, 6), (10, 6), (4, 6), (3, 1)], fun | [g, h, d, a, b, x] => some (.vmul g h d a b x) | _ => none⟩
def rowVMULH : Row := ⟨0xfc000007, 0x80000003, [(23, 3), (22, 1), (16, 6), (10, 6), (4, 6), (3, 1)], fun | [g, h, d, a, b, x] => some (.vmulh g h d a b x) | _ => none⟩
def rowVMULHU : Row := ⟨0xfc000007, 0x80000004, [(23, 3), (22, 1), (16, 6), (10, 6), (4, 6), (3, 1)], fun | [g, h, d, a, b, x] => some (.vmulhu g h d a b x) | _ => none⟩
def rowVADDS : Row := ⟨0xfc000007, 0x80000005, [(23, 3), (22, 1), (16, 6), (10, 6), (4, 6), (3, 1)], fun | [g, h, d, a, b, x] => some (.vadds g h d a b x) | _ => none⟩
def rowVSUBS : Row := ⟨0xfc000007, 0x80000006, [(23, 3), (22, 1), (16, 6), (10, 6), (4, 6), (3, 1)], fun | [g, h, d, a, b, x] => some (.vsubs g h d a b x) | _ => none⟩
def rowVADDSU : Row := ⟨0xfc000007, 0x80000007, [(23, 3), (22, 1), (16, 6), (10, 6), (4, 6), (3, 1)], fun | [g, h, d, a, b, x] => some (.vaddsu g h d a b x) | _ => none⟩
def rowVAND : Row := ⟨0xfc000007, 0x84000000, [(23, 3), (22, 1), (16, 6), (10, 6), (4, 6), (3, 1)], fun | [g, h, d, a, b, x] => some (.vand g h d a b x) | _ => none⟩
def rowVOR : Row := ⟨0xfc000007, 0x84000001, [(23, 3), (22, 1), (16, 6), (10, 6), (4, 6), (3, 1)], fun | [g, h, d, a, b, x] => some (.vor g h d a b x) | _ => none⟩
def rowVXOR : Row := ⟨0xfc000007, 0x84000002, [(23, 3), (22, 1), (16, 6), (10, 6), (4, 6), (3, 1)], fun | [g, h, d, a, b, x] => some (.vxor g h d a b x) | _ => none⟩
def rowVANDN : Row := ⟨0xfc000007, 0x84000003, [(23, 3), (22, 1), (16, 6), (10, 6), (4, 6), (3, 1)], fun | [g, h, d, a, b, x] => some (.vandn g h d a b x) | _ => none⟩
def rowVSHL : Row := ⟨0xfc000007, 0x84000004, [(23, 3), (22, 1), (16, 6), (10, 6), (4, 6), (3, 1)], fun | [g, h, d, a, b, x] => some (.vshl g h d a b x) | _ => none⟩
def rowVSHR : Row := ⟨0xfc000007, 0x84000005, [(23, 3), (22, 1), (16, 6), (10, 6), (4, 6), (3, 1)], fun | [g, h, d, a, b, x] => some (.vshr g h d a b x) | _ => none⟩
def rowVSAR : Row := ⟨0xfc000007, 0x84000006, [(23, 3), (22, 1), (16, 6), (10, 6), (4, 6), (3, 1)], fun | [g, h, d, a, b, x] => some (.vsar g h d a b x) | _ => none⟩
def rowVROR : Row := ⟨0xfc000007, 0x84000007, [(23, 3), (22, 1), (16, 6), (10, 6), (4, 6), (3, 1)], fun | [g, h, d, a, b, x] => some (.vror g h d a b x) | _ => none⟩
def rowVMIN : Row := ⟨0xfc000007, 0x88000000, [(23, 3), (22, 1), (16, 6), (10, 6), (4, 6), (3, 1)], fun | [g, h, d, a, b, x] => some (.vmin g h d a b x) | _ => none⟩
def rowVMAX : Row := ⟨0xfc000007, 0x88000001, [(23, 3), (22, 1), (16, 6), (10, 6), (4, 6), (3, 1)], fun | [g, h, d, a, b, x] => some (.vmax g h d a b x) | _ => none⟩
def rowVMINU : Row := ⟨0xfc000007, 0x88000002, [(23, 3), (22, 1), (16, 6), (10, 6), (4, 6), (3, 1)], fun | [g, h, d, a, b, x] => some (.vminu g h d a b x) | _ => none⟩
def rowVMAXU : Row := ⟨0xfc000007, 0x88000003, [(23, 3), (22, 1), (16, 6), (10, 6), (4, 6), (3, 1)], fun | [g, h, d, a, b, x] => some (.vmaxu g h d a b x) | _ => none⟩
def rowVCLZ : Row := ⟨0xfc0003ff, 0x88000004, [(23, 3), (22, 1), (16, 6), (10, 6)], fun | [g, h, d, a] => some (.vclz g h d a) | _ => none⟩
def rowVPOPC : Row := ⟨0xfc0003ff, 0x88000005, [(23, 3), (22, 1), (16, 6), (10, 6)], fun | [g, h, d, a] => some (.vpopc g h d a) | _ => none⟩
def rowVABS : Row := ⟨0xfc0003ff, 0x88000006, [(23, 3), (22, 1), (16, 6), (10, 6)], fun | [g, h, d, a] => some (.vabs g h d a) | _ => none⟩
def rowVCEQ : Row := ⟨0xfc000007, 0x8c000000, [(23, 3), (22, 1), (16, 6), (10, 6), (4, 6), (3, 1)], fun | [g, h, d, a, b, x] => some (.vceq g h d a b x) | _ => none⟩
def rowVCNE : Row := ⟨0xfc000007, 0x8c000001, [(23, 3), (22, 1), (16, 6), (10, 6), (4, 6), (3, 1)], fun | [g, h, d, a, b, x] => some (.vcne g h d a b x) | _ => none⟩
def rowVCLT : Row := ⟨0xfc000007, 0x8c000002, [(23, 3), (22, 1), (16, 6), (10, 6), (4, 6), (3, 1)], fun | [g, h, d, a, b, x] => some (.vclt g h d a b x) | _ => none⟩
def rowVCLE : Row := ⟨0xfc000007, 0x8c000003, [(23, 3), (22, 1), (16, 6), (10, 6), (4, 6), (3, 1)], fun | [g, h, d, a, b, x] => some (.vcle g h d a b x) | _ => none⟩
def rowVCLTU : Row := ⟨0xfc000007, 0x8c000004, [(23, 3), (22, 1), (16, 6), (10, 6), (4, 6), (3, 1)], fun | [g, h, d, a, b, x] => some (.vcltu g h d a b x) | _ => none⟩
def rowVCLEU : Row := ⟨0xfc000007, 0x8c000005, [(23, 3), (22, 1), (16, 6), (10, 6), (4, 6), (3, 1)], fun | [g, h, d, a, b, x] => some (.vcleu g h d a b x) | _ => none⟩
def rowVADDI : Row := ⟨0xfc000000, 0x90000000, [(23, 3), (22, 1), (16, 6), (10, 6), (0, 10)], fun | [g, h, d, a, i] => some (.vaddi g h d a i) | _ => none⟩
def rowVANDI : Row := ⟨0xfc000000, 0x94000000, [(23, 3), (22, 1), (16, 6), (10, 6), (0, 10)], fun | [g, h, d, a, i] => some (.vandi g h d a i) | _ => none⟩
def rowVORI : Row := ⟨0xfc000000, 0x98000000, [(23, 3), (22, 1), (16, 6), (10, 6), (0, 10)], fun | [g, h, d, a, i] => some (.vori g h d a i) | _ => none⟩
def rowVXORI : Row := ⟨0xfc000000, 0x9c000000, [(23, 3), (22, 1), (16, 6), (10, 6), (0, 10)], fun | [g, h, d, a, i] => some (.vxori g h d a i) | _ => none⟩
def rowVSHLI : Row := ⟨0xfc000000, 0xa0000000, [(23, 3), (22, 1), (16, 6), (10, 6), (0, 10)], fun | [g, h, d, a, i] => some (.vshli g h d a i) | _ => none⟩
def rowVSHRI : Row := ⟨0xfc000000, 0xa4000000, [(23, 3), (22, 1), (16, 6), (10, 6), (0, 10)], fun | [g, h, d, a, i] => some (.vshri g h d a i) | _ => none⟩
def rowVSARI : Row := ⟨0xfc000000, 0xa8000000, [(23, 3), (22, 1), (16, 6), (10, 6), (0, 10)], fun | [g, h, d, a, i] => some (.vsari g h d a i) | _ => none⟩
def rowMAND : Row := ⟨0xfc40000f, 0xac000000, [(23, 3), (16, 6), (10, 6), (4, 6)], fun | [g, d, a, b] => some (.mand g d a b) | _ => none⟩
def rowMOR : Row := ⟨0xfc40000f, 0xac000001, [(23, 3), (16, 6), (10, 6), (4, 6)], fun | [g, d, a, b] => some (.mor g d a b) | _ => none⟩
def rowMXOR : Row := ⟨0xfc40000f, 0xac000002, [(23, 3), (16, 6), (10, 6), (4, 6)], fun | [g, d, a, b] => some (.mxor g d a b) | _ => none⟩
def rowMANDN : Row := ⟨0xfc40000f, 0xac000003, [(23, 3), (16, 6), (10, 6), (4, 6)], fun | [g, d, a, b] => some (.mandn g d a b) | _ => none⟩
def rowMNOT : Row := ⟨0xfc4003ff, 0xac000004, [(23, 3), (16, 6), (10, 6)], fun | [g, d, a] => some (.mnot g d a) | _ => none⟩
def rowVMOVI : Row := ⟨0xfc40fc00, 0xb0000000, [(23, 3), (16, 6), (0, 10)], fun | [g, d, i] => some (.vmovi g d i) | _ => none⟩
def rowVIRSUM : Row := ⟨0xfc0003ff, 0xb4000000, [(23, 3), (22, 1), (16, 6), (10, 6)], fun | [g, h, d, a] => some (.virsum g h d a) | _ => none⟩
def rowVIRMAX : Row := ⟨0xfc0003ff, 0xb4000001, [(23, 3), (22, 1), (16, 6), (10, 6)], fun | [g, h, d, a] => some (.virmax g h d a) | _ => none⟩
def rowVIRMIN : Row := ⟨0xfc0003ff, 0xb4000002, [(23, 3), (22, 1), (16, 6), (10, 6)], fun | [g, h, d, a] => some (.virmin g h d a) | _ => none⟩
def rowVIRMAXU : Row := ⟨0xfc0003ff, 0xb4000003, [(23, 3), (22, 1), (16, 6), (10, 6)], fun | [g, h, d, a] => some (.virmaxu g h d a) | _ => none⟩
def rowVIRMINU : Row := ⟨0xfc0003ff, 0xb4000004, [(23, 3), (22, 1), (16, 6), (10, 6)], fun | [g, h, d, a] => some (.virminu g h d a) | _ => none⟩
def rowVCVTRNE : Row := ⟨0xfc000000, 0xc0000000, [(23, 3), (22, 1), (16, 6), (10, 6), (0, 10)], fun | [g, h, d, a, i] => some (.vcvtRne g h d a i) | _ => none⟩
def rowVCVTRTZ : Row := ⟨0xfc000000, 0xc4000000, [(23, 3), (22, 1), (16, 6), (10, 6), (0, 10)], fun | [g, h, d, a, i] => some (.vcvtRtz g h d a i) | _ => none⟩
def rowVCVTSR : Row := ⟨0xfc000000, 0xc8000000, [(23, 3), (22, 1), (16, 6), (10, 6), (0, 10)], fun | [g, h, d, a, i] => some (.vcvtSr g h d a i) | _ => none⟩
def rowVCVTDYN : Row := ⟨0xfc000000, 0xcc000000, [(23, 3), (22, 1), (16, 6), (10, 6), (0, 10)], fun | [g, h, d, a, i] => some (.vcvtDyn g h d a i) | _ => none⟩
def rowVQSC : Row := ⟨0xfc000000, 0xd0000000, [(23, 3), (22, 1), (16, 6), (10, 6), (0, 10)], fun | [g, h, d, a, i] => some (.vqsc g h d a i) | _ => none⟩
def rowVQEL : Row := ⟨0xfc000000, 0xd4000000, [(23, 3), (22, 1), (16, 6), (10, 6), (4, 6), (3, 1), (0, 3)], fun | [g, h, d, a, b, x, i] => some (.vqel g h d a b x i) | _ => none⟩
def rowVQELSR : Row := ⟨0xfc000000, 0xd8000000, [(23, 3), (22, 1), (16, 6), (10, 6), (4, 6), (3, 1), (0, 3)], fun | [g, h, d, a, b, x, i] => some (.vqelSr g h d a b x i) | _ => none⟩
def rowVSEED : Row := ⟨0xfc7f03ff, 0xdc000000, [(23, 3), (10, 6)], fun | [g, a] => some (.vseed g a) | _ => none⟩
def rowVGRD : Row := ⟨0xfc40ffff, 0xdc000001, [(23, 3), (16, 6)], fun | [g, d] => some (.vgrd g d) | _ => none⟩
def rowVGWR : Row := ⟨0xfc3f03ff, 0xdc000002, [(23, 3), (22, 1), (10, 6)], fun | [g, h, a] => some (.vgwr g h a) | _ => none⟩
def rowVSHUF : Row := ⟨0xfc000000, 0xf0000000, [(23, 3), (22, 1), (16, 6), (10, 6), (0, 10)], fun | [g, h, d, a, i] => some (.vshuf g h d a i) | _ => none⟩
def rowXCOPY : Row := ⟨0xfc000000, 0xf4000000, [(23, 3), (22, 1), (16, 6), (10, 6), (0, 10)], fun | [g, h, d, a, i] => some (.xcopy g h d a i) | _ => none⟩
def rowVBCS : Row := ⟨0xfc4003ff, 0xf8000000, [(23, 3), (16, 6), (10, 6)], fun | [g, d, a] => some (.vbcs g d a) | _ => none⟩
def rowVEXT : Row := ⟨0xfc00000f, 0xf8000001, [(23, 3), (22, 1), (16, 6), (10, 6), (4, 6)], fun | [g, h, d, a, l] => some (.vext g h d a l) | _ => none⟩
def rowVINS : Row := ⟨0xfc40000f, 0xf8000002, [(23, 3), (16, 6), (10, 6), (4, 6)], fun | [g, d, a, l] => some (.vins g d a l) | _ => none⟩
def rowVM2S : Row := ⟨0xfc4003ff, 0xf8000003, [(23, 3), (16, 6), (10, 6)], fun | [g, d, a] => some (.vm2s g d a) | _ => none⟩
def rowVS2M : Row := ⟨0xfc4003ff, 0xf8000004, [(23, 3), (16, 6), (10, 6)], fun | [g, d, a] => some (.vs2m g d a) | _ => none⟩
def rowVIOTA : Row := ⟨0xfc40ffff, 0xf8000005, [(23, 3), (16, 6)], fun | [g, d] => some (.viota g d) | _ => none⟩
def rowVPLD : Row := ⟨0xfc3f0000, 0xfc000000, [(23, 3), (22, 1), (10, 6), (0, 10)], fun | [g, h, a, i] => some (.vpld g h a i) | _ => none⟩
def rowLDB : Row := ⟨0xfc000000, 0x00000000, [(23, 3), (22, 1), (16, 6), (12, 4), (0, 12)], fun | [g, n, d, r, o] => some (.ldb g n d r o) | _ => none⟩
def rowLDBU : Row := ⟨0xfc000000, 0x04000000, [(23, 3), (22, 1), (16, 6), (12, 4), (0, 12)], fun | [g, n, d, r, o] => some (.ldbu g n d r o) | _ => none⟩
def rowLDH : Row := ⟨0xfc000000, 0x08000000, [(23, 3), (22, 1), (16, 6), (12, 4), (0, 12)], fun | [g, n, d, r, o] => some (.ldh g n d r o) | _ => none⟩
def rowLDHU : Row := ⟨0xfc000000, 0x0c000000, [(23, 3), (22, 1), (16, 6), (12, 4), (0, 12)], fun | [g, n, d, r, o] => some (.ldhu g n d r o) | _ => none⟩
def rowLDW : Row := ⟨0xfc000000, 0x10000000, [(23, 3), (22, 1), (16, 6), (12, 4), (0, 12)], fun | [g, n, d, r, o] => some (.ldw g n d r o) | _ => none⟩
def rowLDWU : Row := ⟨0xfc000000, 0x14000000, [(23, 3), (22, 1), (16, 6), (12, 4), (0, 12)], fun | [g, n, d, r, o] => some (.ldwu g n d r o) | _ => none⟩
def rowLDD : Row := ⟨0xfc000000, 0x18000000, [(23, 3), (22, 1), (16, 6), (12, 4), (0, 12)], fun | [g, n, d, r, o] => some (.ldd g n d r o) | _ => none⟩
def rowLDA : Row := ⟨0xfc000000, 0x1c000000, [(23, 3), (22, 1), (16, 6), (12, 4), (0, 12)], fun | [g, n, d, r, o] => some (.lda g n d r o) | _ => none⟩
def rowSTB : Row := ⟨0xfc000000, 0x20000000, [(23, 3), (22, 1), (16, 6), (12, 4), (0, 12)], fun | [g, n, d, r, o] => some (.stb g n d r o) | _ => none⟩
def rowSTH : Row := ⟨0xfc000000, 0x24000000, [(23, 3), (22, 1), (16, 6), (12, 4), (0, 12)], fun | [g, n, d, r, o] => some (.sth g n d r o) | _ => none⟩
def rowSTW : Row := ⟨0xfc000000, 0x28000000, [(23, 3), (22, 1), (16, 6), (12, 4), (0, 12)], fun | [g, n, d, r, o] => some (.stw g n d r o) | _ => none⟩
def rowSTD : Row := ⟨0xfc000000, 0x2c000000, [(23, 3), (22, 1), (16, 6), (12, 4), (0, 12)], fun | [g, n, d, r, o] => some (.std g n d r o) | _ => none⟩
def rowSTA : Row := ⟨0xfc000000, 0x30000000, [(23, 3), (22, 1), (16, 6), (12, 4), (0, 12)], fun | [g, n, d, r, o] => some (.sta g n d r o) | _ => none⟩
def rowSLDB : Row := ⟨0xfc000000, 0x40000000, [(23, 3), (22, 1), (16, 6), (12, 4), (0, 12)], fun | [g, n, d, r, o] => some (.sldb g n d r o) | _ => none⟩
def rowSLDBU : Row := ⟨0xfc000000, 0x44000000, [(23, 3), (22, 1), (16, 6), (12, 4), (0, 12)], fun | [g, n, d, r, o] => some (.sldbu g n d r o) | _ => none⟩
def rowSLDH : Row := ⟨0xfc000000, 0x48000000, [(23, 3), (22, 1), (16, 6), (12, 4), (0, 12)], fun | [g, n, d, r, o] => some (.sldh g n d r o) | _ => none⟩
def rowSLDHU : Row := ⟨0xfc000000, 0x4c000000, [(23, 3), (22, 1), (16, 6), (12, 4), (0, 12)], fun | [g, n, d, r, o] => some (.sldhu g n d r o) | _ => none⟩
def rowSLDW : Row := ⟨0xfc000000, 0x50000000, [(23, 3), (22, 1), (16, 6), (12, 4), (0, 12)], fun | [g, n, d, r, o] => some (.sldw g n d r o) | _ => none⟩
def rowSLDWU : Row := ⟨0xfc000000, 0x54000000, [(23, 3), (22, 1), (16, 6), (12, 4), (0, 12)], fun | [g, n, d, r, o] => some (.sldwu g n d r o) | _ => none⟩
def rowSLDD : Row := ⟨0xfc000000, 0x58000000, [(23, 3), (22, 1), (16, 6), (12, 4), (0, 12)], fun | [g, n, d, r, o] => some (.sldd g n d r o) | _ => none⟩
def rowSLDA : Row := ⟨0xfc000000, 0x5c000000, [(23, 3), (22, 1), (16, 6), (12, 4), (0, 12)], fun | [g, n, d, r, o] => some (.slda g n d r o) | _ => none⟩
def rowSSTB : Row := ⟨0xfc000000, 0x60000000, [(23, 3), (22, 1), (16, 6), (12, 4), (0, 12)], fun | [g, n, d, r, o] => some (.sstb g n d r o) | _ => none⟩
def rowSSTH : Row := ⟨0xfc000000, 0x64000000, [(23, 3), (22, 1), (16, 6), (12, 4), (0, 12)], fun | [g, n, d, r, o] => some (.ssth g n d r o) | _ => none⟩
def rowSSTW : Row := ⟨0xfc000000, 0x68000000, [(23, 3), (22, 1), (16, 6), (12, 4), (0, 12)], fun | [g, n, d, r, o] => some (.sstw g n d r o) | _ => none⟩
def rowSSTD : Row := ⟨0xfc000000, 0x6c000000, [(23, 3), (22, 1), (16, 6), (12, 4), (0, 12)], fun | [g, n, d, r, o] => some (.sstd g n d r o) | _ => none⟩
def rowSSTA : Row := ⟨0xfc000000, 0x70000000, [(23, 3), (22, 1), (16, 6), (12, 4), (0, 12)], fun | [g, n, d, r, o] => some (.ssta g n d r o) | _ => none⟩
def rowVLD : Row := ⟨0xfc400000, 0xe0000000, [(23, 3), (16, 6), (12, 4), (0, 12)], fun | [g, d, r, o] => some (.vld g d r o) | _ => none⟩
def rowVST : Row := ⟨0xfc000000, 0xe4000000, [(23, 3), (22, 1), (16, 6), (12, 4), (0, 12)], fun | [g, h, d, r, o] => some (.vst g h d r o) | _ => none⟩
def rowVGATH : Row := ⟨0xfc0003ff, 0xe8000000, [(23, 3), (22, 1), (16, 6), (10, 6)], fun | [g, h, d, a] => some (.vgath g h d a) | _ => none⟩
def rowVGATHH : Row := ⟨0xfc0003ff, 0xe8000001, [(23, 3), (22, 1), (16, 6), (10, 6)], fun | [g, h, d, a] => some (.vgathh g h d a) | _ => none⟩
def rowVGATHB : Row := ⟨0xfc0003ff, 0xe8000002, [(23, 3), (22, 1), (16, 6), (10, 6)], fun | [g, h, d, a] => some (.vgathb g h d a) | _ => none⟩
def rowVSCAT : Row := ⟨0xfc3f0007, 0xec000000, [(23, 3), (22, 1), (10, 6), (4, 6), (3, 1)], fun | [g, h, a, b, x] => some (.vscat g h a b x) | _ => none⟩
def rowVSCATH : Row := ⟨0xfc3f0007, 0xec000001, [(23, 3), (22, 1), (10, 6), (4, 6), (3, 1)], fun | [g, h, a, b, x] => some (.vscath g h a b x) | _ => none⟩
def rowVSCATB : Row := ⟨0xfc3f0007, 0xec000002, [(23, 3), (22, 1), (10, 6), (4, 6), (3, 1)], fun | [g, h, a, b, x] => some (.vscatb g h a b x) | _ => none⟩
def rowSBCFG : Row := ⟨0xfc0003ff, 0xe0000000, [(23, 3), (22, 1), (16, 6), (10, 6)], fun | [g, n, d, a] => some (.sbcfg g n d a) | _ => none⟩
def rowSBATT : Row := ⟨0xfc0003ff, 0xe0000001, [(23, 3), (22, 1), (16, 6), (10, 6)], fun | [g, n, d, a] => some (.sbatt g n d a) | _ => none⟩
def rowSBADRP : Row := ⟨0xfc0003ff, 0xe0000002, [(23, 3), (22, 1), (16, 6), (10, 6)], fun | [g, n, d, a] => some (.sbadrp g n d a) | _ => none⟩
def rowSBADRC : Row := ⟨0xfc0003ff, 0xe0000003, [(23, 3), (22, 1), (16, 6), (10, 6)], fun | [g, n, d, a] => some (.sbadrc g n d a) | _ => none⟩
def rowSBRD : Row := ⟨0xfc0003ff, 0xe0000004, [(23, 3), (22, 1), (16, 6), (10, 6)], fun | [g, n, d, a] => some (.sbrd g n d a) | _ => none⟩
def rowSBWAITF : Row := ⟨0xfc00fc00, 0xe4000000, [(23, 3), (22, 1), (16, 6), (0, 10)], fun | [g, n, d, i] => some (.sbwaitf g n d i) | _ => none⟩
def rowSBWAITE : Row := ⟨0xfc00fc00, 0xe8000000, [(23, 3), (22, 1), (16, 6), (0, 10)], fun | [g, n, d, i] => some (.sbwaite g n d i) | _ => none⟩
def rowSBADVP : Row := ⟨0xfc00fc00, 0xec000000, [(23, 3), (22, 1), (16, 6), (0, 10)], fun | [g, n, d, i] => some (.sbadvp g n d i) | _ => none⟩
def rowSBADVC : Row := ⟨0xfc00fc00, 0xf0000000, [(23, 3), (22, 1), (16, 6), (0, 10)], fun | [g, n, d, i] => some (.sbadvc g n d i) | _ => none⟩
def rowCPY : Row := ⟨0xfc00000f, 0x00000000, [(23, 3), (22, 1), (19, 3), (15, 4), (12, 3), (4, 8)], fun | [g, n, p, r, c, t] => some (.cpy g n p r c t) | _ => none⟩
def rowCPYA : Row := ⟨0xfc00000f, 0x04000000, [(23, 3), (22, 1), (19, 3), (15, 4), (12, 3), (4, 8)], fun | [g, n, p, r, c, t] => some (.cpya g n p r c t) | _ => none⟩
def rowCPYM : Row := ⟨0xfc000000, 0x08000000, [(23, 3), (22, 1), (19, 3), (15, 4), (12, 3), (4, 8), (0, 4)], fun | [g, n, p, r, c, t, k] => some (.cpym g n p r c t k) | _ => none⟩
def rowCPYQ : Row := ⟨0xfc00100f, 0x0c000000, [(23, 3), (22, 1), (19, 3), (13, 6), (4, 8)], fun | [g, n, p, s, t] => some (.cpyq g n p s t) | _ => none⟩
def rowCBTEST : Row := ⟨0xfc00040f, 0x10000000, [(23, 3), (22, 1), (16, 6), (13, 3), (11, 2), (4, 6)], fun | [g, n, d, k, w, s] => some (.cbtest g n d k w s) | _ => none⟩
def rowCBWAIT : Row := ⟨0xfc3f040f, 0x10000001, [(23, 3), (22, 1), (13, 3), (11, 2), (4, 6)], fun | [g, n, k, w, s] => some (.cbwait g n k w s) | _ => none⟩
def rowCBCLR : Row := ⟨0xfc3f040f, 0x10000002, [(23, 3), (22, 1), (13, 3), (11, 2), (4, 6)], fun | [g, n, k, w, s] => some (.cbclr g n k w s) | _ => none⟩
def rowCBRD : Row := ⟨0xfc0007ff, 0x10000003, [(23, 3), (22, 1), (16, 6), (13, 3), (11, 2)], fun | [g, n, d, k, w] => some (.cbrd g n d k w) | _ => none⟩
def rowEVPOP : Row := ⟨0xfc0003ff, 0x14000000, [(23, 3), (22, 1), (16, 6), (10, 6)], fun | [g, n, d, p] => some (.evpop g n d p) | _ => none⟩
def rowWLOAD : Row := ⟨0xfc01ffff, 0x00000000, [(23, 3), (22, 1), (18, 4), (17, 1)], fun | [g, n, t, p] => some (.wload g n t p) | _ => none⟩
def rowWSEL : Row := ⟨0xfc1fffff, 0x04000000, [(23, 3), (22, 1), (21, 1)], fun | [g, n, p] => some (.wsel g n p) | _ => none⟩
def rowMMAR : Row := ⟨0xfc0003ff, 0x08000000, [(23, 3), (22, 1), (18, 4), (14, 4), (10, 4)], fun | [g, n, a, w, c] => some (.mmaR g n a w c) | _ => none⟩
def rowMMAC : Row := ⟨0xfc0003ff, 0x0c000000, [(23, 3), (22, 1), (18, 4), (14, 4), (10, 4)], fun | [g, n, a, w, c] => some (.mmaC g n a w c) | _ => none⟩
def rowMMAZR : Row := ⟨0xfc0003ff, 0x10000000, [(23, 3), (22, 1), (18, 4), (14, 4), (10, 4)], fun | [g, n, a, w, c] => some (.mmazR g n a w c) | _ => none⟩
def rowMMAZC : Row := ⟨0xfc0003ff, 0x14000000, [(23, 3), (22, 1), (18, 4), (14, 4), (10, 4)], fun | [g, n, a, w, c] => some (.mmazC g n a w c) | _ => none⟩
def rowMDRAIN : Row := ⟨0xfc0000ff, 0x18000000, [(23, 3), (22, 1), (18, 4), (14, 4), (11, 3), (8, 3)], fun | [g, n, t, s, r, f] => some (.mdrain g n t s r f) | _ => none⟩
def rowMSCALE : Row := ⟨0xfc3f03ff, 0x1c000000, [(23, 3), (22, 1), (10, 6)], fun | [g, n, a] => some (.mscale g n a) | _ => none⟩
def rowMHIST : Row := ⟨0xfc0003ff, 0x20000000, [(23, 3), (22, 1), (16, 6), (10, 6)], fun | [g, n, d, a] => some (.mhist g n d a) | _ => none⟩
def rowTCFG : Row := ⟨0xfc3f000f, 0x40000000, [(23, 3), (22, 1), (10, 6), (4, 6)], fun | [g, n, a, b] => some (.tcfg g n a b) | _ => none⟩
def rowTHOME : Row := ⟨0xfc00fc0f, 0x40000001, [(23, 3), (22, 1), (16, 6), (4, 6)], fun | [g, n, d, b] => some (.thome g n d b) | _ => none⟩
def rowTSEED : Row := ⟨0xfc3f03ff, 0x40000002, [(23, 3), (22, 1), (10, 6)], fun | [g, n, a] => some (.tseed g n a) | _ => none⟩
def rowTHOMEX : Row := ⟨0xfc00ffff, 0x40000003, [(23, 3), (22, 1), (16, 6)], fun | [g, n, d] => some (.thomex g n d) | _ => none⟩
def rowTDCFG : Row := ⟨0xfc003fff, 0x44000000, [(23, 3), (22, 1), (18, 4), (14, 4)], fun | [g, n, t, r] => some (.tdcfg g n t r) | _ => none⟩
def rowTDSAV : Row := ⟨0xfc003fff, 0x44000001, [(23, 3), (22, 1), (18, 4), (14, 4)], fun | [g, n, t, r] => some (.tdsav g n t r) | _ => none⟩
def rowTMM : Row := ⟨0xfc000000, 0x48000000, [(23, 3), (22, 1), (16, 6), (9, 7), (2, 7), (0, 2)], fun | [g, n, d, a, b, o] => some (.tmm g n d a b o) | _ => none⟩
def rowTADD : Row := ⟨0xfc000000, 0x4c000000, [(23, 3), (22, 1), (16, 6), (9, 7), (2, 7), (0, 2)], fun | [g, n, d, a, b, m] => some (.tadd g n d a b m) | _ => none⟩
def rowTMUL : Row := ⟨0xfc000000, 0x50000000, [(23, 3), (22, 1), (16, 6), (9, 7), (2, 7), (0, 2)], fun | [g, n, d, a, b, m] => some (.tmul g n d a b m) | _ => none⟩
def rowTACT : Row := ⟨0xfc0001f0, 0x54000000, [(23, 3), (22, 1), (16, 6), (9, 7), (0, 4)], fun | [g, n, d, a, f] => some (.tact g n d a f) | _ => none⟩
def rowTCVT : Row := ⟨0xfc000180, 0x58000000, [(23, 3), (22, 1), (16, 6), (9, 7), (3, 4), (0, 3)], fun | [g, n, d, a, f, r] => some (.tcvt g n d a f r) | _ => none⟩
def rowTQNT : Row := ⟨0xfc000180, 0x5c000000, [(23, 3), (22, 1), (16, 6), (9, 7), (3, 4), (0, 3)], fun | [g, n, d, a, f, r] => some (.tqnt g n d a f r) | _ => none⟩
def rowTRED : Row := ⟨0xfc0001f0, 0x60000000, [(23, 3), (22, 1), (16, 6), (9, 7), (3, 1), (0, 3)], fun | [g, n, d, a, x, o] => some (.tred g n d a x o) | _ => none⟩
def rowTTOPK : Row := ⟨0xfc000000, 0x64000000, [(23, 3), (22, 1), (16, 6), (9, 7), (1, 8), (0, 1)], fun | [g, n, d, a, k, x] => some (.ttopk g n d a k x) | _ => none⟩
def rowTSOFT : Row := ⟨0xfc0001ff, 0x68000000, [(23, 3), (22, 1), (16, 6), (9, 7)], fun | [g, n, d, a] => some (.tsoft g n d a) | _ => none⟩
def rowTMAP : Row := ⟨0xfc000007, 0x6c000000, [(23, 3), (22, 1), (16, 6), (9, 7), (3, 6)], fun | [g, n, d, a, m] => some (.tmap g n d a m) | _ => none⟩
def rowTFORCE : Row := ⟨0xfc000000, 0x70000000, [(23, 3), (22, 1), (19, 3), (13, 6), (9, 4), (6, 3), (0, 6)], fun | [g, n, p, v, t, c, k] => some (.tforce g n p v t c k) | _ => none⟩
def rowTSTORE : Row := ⟨0xfc000001, 0x74000000, [(23, 3), (22, 1), (19, 3), (13, 6), (9, 4), (6, 3), (1, 5)], fun | [g, n, p, v, t, c, k] => some (.tstore g n p v t c k) | _ => none⟩
def rowTSTOREH : Row := ⟨0xfc001e01, 0x74000001, [(23, 3), (22, 1), (19, 3), (13, 6), (6, 3), (1, 5)], fun | [g, n, p, v, c, k] => some (.tstoreH g n p v c k) | _ => none⟩
def rowTDROP : Row := ⟨0xfc00ffff, 0x78000000, [(23, 3), (22, 1), (16, 6)], fun | [g, n, d] => some (.tdrop g n d) | _ => none⟩
def rowTSTAT : Row := ⟨0xfc0003ff, 0x7c000000, [(23, 3), (22, 1), (16, 6), (10, 6)], fun | [g, n, d, v] => some (.tstat g n d v) | _ => none⟩
def rowPREF : Row := ⟨0xfc000000, 0x9c000000, [(23, 3), (22, 1), (19, 3), (13, 6), (7, 6), (5, 2), (0, 5)], fun | [g, n, p, s, b, c, k] => some (.pref g n p s b c k) | _ => none⟩
def rowBIND : Row := ⟨0xfc00000c, 0xc0000000, [(23, 3), (22, 1), (16, 6), (10, 6), (4, 6), (0, 2)], fun | [g, n, d, a, b, s] => some (.bind g n d a b s) | _ => none⟩
def rowUNBIND : Row := ⟨0xfc0003ff, 0xc4000000, [(23, 3), (22, 1), (16, 6), (10, 6)], fun | [g, n, d, a] => some (.unbind g n d a) | _ => none⟩
def rowACQS : Row := ⟨0xfc0003fc, 0xc8000000, [(23, 3), (22, 1), (16, 6), (10, 6), (0, 2)], fun | [g, n, d, a, s] => some (.acqs g n d a s) | _ => none⟩
def rowACQST : Row := ⟨0xfc0003fc, 0xc8000004, [(23, 3), (22, 1), (16, 6), (10, 6), (0, 2)], fun | [g, n, d, a, s] => some (.acqsT g n d a s) | _ => none⟩
def rowACQX : Row := ⟨0xfc0003fc, 0xc8000008, [(23, 3), (22, 1), (16, 6), (10, 6), (0, 2)], fun | [g, n, d, a, s] => some (.acqx g n d a s) | _ => none⟩
def rowACQXT : Row := ⟨0xfc0003fc, 0xc800000c, [(23, 3), (22, 1), (16, 6), (10, 6), (0, 2)], fun | [g, n, d, a, s] => some (.acqxT g n d a s) | _ => none⟩
def rowREL : Row := ⟨0xfc0003fc, 0xcc000000, [(23, 3), (22, 1), (16, 6), (10, 6), (0, 2)], fun | [g, n, d, a, s] => some (.rel g n d a s) | _ => none⟩
def rowFENCE : Row := ⟨0xfc00fff8, 0xd0000000, [(23, 3), (22, 1), (16, 6), (0, 3)], fun | [g, n, d, s] => some (.fence g n d s) | _ => none⟩
def rowAADD : Row := ⟨0xfc000000, 0x80000000, [(23, 3), (22, 1), (16, 6), (10, 6), (4, 6), (2, 2), (0, 2)], fun | [g, n, d, a, b, o, s] => some (.aadd g n d a b o s) | _ => none⟩
def rowAAND : Row := ⟨0xfc000000, 0x84000000, [(23, 3), (22, 1), (16, 6), (10, 6), (4, 6), (2, 2), (0, 2)], fun | [g, n, d, a, b, o, s] => some (.aand g n d a b o s) | _ => none⟩
def rowAOR : Row := ⟨0xfc000000, 0x88000000, [(23, 3), (22, 1), (16, 6), (10, 6), (4, 6), (2, 2), (0, 2)], fun | [g, n, d, a, b, o, s] => some (.aor g n d a b o s) | _ => none⟩
def rowAXOR : Row := ⟨0xfc000000, 0x8c000000, [(23, 3), (22, 1), (16, 6), (10, 6), (4, 6), (2, 2), (0, 2)], fun | [g, n, d, a, b, o, s] => some (.axor g n d a b o s) | _ => none⟩
def rowAMIN : Row := ⟨0xfc000000, 0x90000000, [(23, 3), (22, 1), (16, 6), (10, 6), (4, 6), (2, 2), (0, 2)], fun | [g, n, d, a, b, o, s] => some (.amin g n d a b o s) | _ => none⟩
def rowAMAX : Row := ⟨0xfc000000, 0x94000000, [(23, 3), (22, 1), (16, 6), (10, 6), (4, 6), (2, 2), (0, 2)], fun | [g, n, d, a, b, o, s] => some (.amax g n d a b o s) | _ => none⟩
def rowAMINU : Row := ⟨0xfc000000, 0x98000000, [(23, 3), (22, 1), (16, 6), (10, 6), (4, 6), (2, 2), (0, 2)], fun | [g, n, d, a, b, o, s] => some (.aminu g n d a b o s) | _ => none⟩
def rowAMAXU : Row := ⟨0xfc000000, 0x9c000000, [(23, 3), (22, 1), (16, 6), (10, 6), (4, 6), (2, 2), (0, 2)], fun | [g, n, d, a, b, o, s] => some (.amaxu g n d a b o s) | _ => none⟩
def rowASWAP : Row := ⟨0xfc000000, 0xa0000000, [(23, 3), (22, 1), (16, 6), (10, 6), (4, 6), (2, 2), (0, 2)], fun | [g, n, d, a, b, o, s] => some (.aswap g n d a b o s) | _ => none⟩
def rowACAS : Row := ⟨0xfc000000, 0xa4000000, [(23, 3), (22, 1), (16, 6), (10, 6), (4, 6), (2, 2), (0, 2)], fun | [g, n, d, a, b, o, s] => some (.acas g n d a b o s) | _ => none⟩
def rowAADDF32 : Row := ⟨0xfc000000, 0xa8000000, [(23, 3), (22, 1), (16, 6), (10, 6), (4, 6), (2, 2), (0, 2)], fun | [g, n, d, a, b, o, s] => some (.aaddF32 g n d a b o s) | _ => none⟩
def rowARD : Row := ⟨0xfc0003f0, 0xac000000, [(23, 3), (22, 1), (16, 6), (10, 6), (2, 2), (0, 2)], fun | [g, n, d, a, o, s] => some (.ard g n d a o s) | _ => none⟩
def rowALD : Row := ⟨0xfc0003f0, 0xb0000000, [(23, 3), (22, 1), (16, 6), (10, 6), (2, 2), (0, 2)], fun | [g, n, d, a, o, s] => some (.ald g n d a o s) | _ => none⟩
def rowAST : Row := ⟨0xfc3f0000, 0xb4000000, [(23, 3), (22, 1), (10, 6), (4, 6), (2, 2), (0, 2)], fun | [g, n, a, b, o, s] => some (.ast g n a b o s) | _ => none⟩
def rowQPUSH : Row := ⟨0xfc00003f, 0x80000000, [(23, 3), (22, 1), (16, 6), (10, 6), (6, 4)], fun | [g, n, d, q, r] => some (.qpush g n d q r) | _ => none⟩
def rowQPOP : Row := ⟨0xfc00003f, 0x84000000, [(23, 3), (22, 1), (16, 6), (10, 6), (6, 4)], fun | [g, n, d, q, r] => some (.qpop g n d q r) | _ => none⟩
def rowQPOPB : Row := ⟨0xfc000020, 0x84000020, [(23, 3), (22, 1), (16, 6), (10, 6), (6, 4), (0, 5)], fun | [g, n, d, q, r, t] => some (.qpopB g n d q r t) | _ => none⟩
def rowOPTREG : Row := ⟨0xfc0003ff, 0x88000000, [(23, 3), (22, 1), (16, 6), (10, 6)], fun | [g, n, d, a] => some (.optreg g n d a) | _ => none⟩
def rowOPTGRAD : Row := ⟨0xfc0001c0, 0x8c000000, [(23, 3), (22, 1), (19, 3), (13, 6), (9, 4), (0, 6)], fun | [g, n, p, s, r, t] => some (.optgrad g n p s r t) | _ => none⟩
def rowDEREG : Row := ⟨0xfc0003ff, 0x90000000, [(23, 3), (22, 1), (16, 6), (10, 6)], fun | [g, n, d, a] => some (.dereg g n d a) | _ => none⟩
def rowSETHP : Row := ⟨0xfc00003f, 0x90000001, [(23, 3), (22, 1), (16, 6), (10, 6), (6, 4)], fun | [g, n, d, a, r] => some (.sethp g n d a r) | _ => none⟩
def rowCLRF : Row := ⟨0xfc00003f, 0x90000002, [(23, 3), (22, 1), (16, 6), (10, 6), (6, 4)], fun | [g, n, d, a, r] => some (.clrf g n d a r) | _ => none⟩
def rowDZERO : Row := ⟨0xfc001fc0, 0x94000000, [(23, 3), (22, 1), (19, 3), (13, 6), (0, 6)], fun | [g, n, p, s, t] => some (.dzero g n p s t) | _ => none⟩
def rowDCOPY : Row := ⟨0xfc000040, 0x98000000, [(23, 3), (22, 1), (19, 3), (13, 6), (7, 6), (0, 6)], fun | [g, n, p, s, b, t] => some (.dcopy g n p s b t) | _ => none⟩
def rowLAUNCH : Row := ⟨0xfc0003ff, 0xc0000000, [(23, 3), (22, 1), (16, 6), (10, 6)], fun | [g, n, d, a] => some (.launch g n d a) | _ => none⟩
def rowTRIGGER : Row := ⟨0xfc3fffff, 0xc4000000, [(23, 3), (22, 1)], fun | [g, n] => some (.trigger g n) | _ => none⟩
def rowSPAWN : Row := ⟨0xfc00000f, 0xc8000000, [(23, 3), (22, 1), (16, 6), (10, 6), (4, 6)], fun | [g, n, d, a, b] => some (.spawn g n d a b) | _ => none⟩
def rowRESUME : Row := ⟨0xfc0003ff, 0xc8000001, [(23, 3), (22, 1), (16, 6), (10, 6)], fun | [g, n, d, a] => some (.resume g n d a) | _ => none⟩
def rowSUSP : Row := ⟨0xfc00fc0f, 0xcc000000, [(23, 3), (22, 1), (16, 6), (4, 6)], fun | [g, n, d, b] => some (.susp g n d b) | _ => none⟩
def rowSUSPK : Row := ⟨0xfc00fc0f, 0xcc000001, [(23, 3), (22, 1), (16, 6), (4, 6)], fun | [g, n, d, b] => some (.suspK g n d b) | _ => none⟩
def rowYIELD : Row := ⟨0xfc3fffff, 0xcc000002, [(23, 3), (22, 1)], fun | [g, n] => some (.yield g n) | _ => none⟩
def rowYIELDK : Row := ⟨0xfc3fffff, 0xcc000003, [(23, 3), (22, 1)], fun | [g, n] => some (.yieldK g n) | _ => none⟩
def rowEND : Row := ⟨0xfc3fffff, 0xcc000004, [(23, 3), (22, 1)], fun | [g, n] => some (.endTask g n) | _ => none⟩
def rowWFE : Row := ⟨0xfc3fffff, 0xd0000000, [(23, 3), (22, 1)], fun | [g, n] => some (.wfe g n) | _ => none⟩
def rowMTCFG : Row := ⟨0xfc00fc3f, 0xa0000000, [(23, 3), (22, 1), (16, 6), (6, 4)], fun | [g, n, d, r] => some (.mtcfg g n d r) | _ => none⟩
def rowMTARR : Row := ⟨0xfc000000, 0xa4000000, [(23, 3), (22, 1), (16, 6), (10, 6), (6, 4), (0, 6)], fun | [g, n, d, h, r, m] => some (.mtarr g n d h r m) | _ => none⟩
def rowMTWAIT : Row := ⟨0xfc000000, 0xa8000000, [(23, 3), (22, 1), (16, 6), (10, 6), (6, 4), (0, 6)], fun | [g, n, d, h, r, t] => some (.mtwait g n d h r t) | _ => none⟩
def rowMTWAITT : Row := ⟨0xfc000000, 0xac000000, [(23, 3), (22, 1), (16, 6), (10, 6), (6, 4), (0, 6)], fun | [g, n, d, h, r, t] => some (.mtwaitT g n d h r t) | _ => none⟩
def rowMTTAG : Row := ⟨0xfc00000f, 0xb0000000, [(23, 3), (22, 1), (16, 6), (10, 6), (4, 6)], fun | [g, n, d, h, m] => some (.mttag g n d h m) | _ => none⟩
def rowMTDEL : Row := ⟨0xfc0003ff, 0xb0000001, [(23, 3), (22, 1), (16, 6), (10, 6)], fun | [g, n, d, h] => some (.mtdel g n d h) | _ => none⟩
def rowBAR : Row := ⟨0xfc00fc08, 0xb4000000, [(23, 3), (22, 1), (16, 6), (4, 6), (0, 3)], fun | [g, n, d, b, s] => some (.bar g n d b s) | _ => none⟩
def rowBART : Row := ⟨0xfc00fc08, 0xb4000008, [(23, 3), (22, 1), (16, 6), (4, 6), (0, 3)], fun | [g, n, d, b, s] => some (.barT g n d b s) | _ => none⟩
def rowTRAP : Row := ⟨0xfc3f0000, 0x80000000, [(23, 3), (22, 1), (0, 16)], fun | [g, n, i] => some (.trap g n i) | _ => none⟩
def rowBRK : Row := ⟨0xfc3f0000, 0x84000000, [(23, 3), (22, 1), (0, 16)], fun | [g, n, i] => some (.brk g n i) | _ => none⟩
def rowTACK : Row := ⟨0xfc3fffff, 0x88000000, [(23, 3), (22, 1)], fun | [g, n] => some (.tack g n) | _ => none⟩
def rowXRET : Row := ⟨0xfc3fffff, 0x88000001, [(23, 3), (22, 1)], fun | [g, n] => some (.xret g n) | _ => none⟩
def rowPREQ : Row := ⟨0xfc3fffff, 0x88000002, [(23, 3), (22, 1)], fun | [g, n] => some (.preq g n) | _ => none⟩
def rowICINV : Row := ⟨0xfc3fffff, 0x88000003, [(23, 3), (22, 1)], fun | [g, n] => some (.icinv g n) | _ => none⟩
def rowTINVALL : Row := ⟨0xfc3fffff, 0x8c000000, [(23, 3), (22, 1)], fun | [g, n] => some (.tinvAll g n) | _ => none⟩
def rowTINVASID : Row := ⟨0xfc3ffc0f, 0x8c000001, [(23, 3), (22, 1), (4, 6)], fun | [g, n, b] => some (.tinvAsid g n b) | _ => none⟩
def rowTINVPAGE : Row := ⟨0xfc3f000f, 0x8c000002, [(23, 3), (22, 1), (10, 6), (4, 6)], fun | [g, n, a, b] => some (.tinvPage g n a b) | _ => none⟩
def rowCKPT : Row := ⟨0xfc00ffff, 0x90000000, [(23, 3), (22, 1), (16, 6)], fun | [g, n, d] => some (.ckpt g n d) | _ => none⟩
def rowMFS : Row := ⟨0xfc000000, 0xe0000000, [(23, 3), (22, 1), (16, 6), (0, 16)], fun | [g, n, d, i] => some (.mfs g n d i) | _ => none⟩
def rowMTS : Row := ⟨0xfc000000, 0xe4000000, [(23, 3), (22, 1), (16, 6), (0, 16)], fun | [g, n, d, i] => some (.mts g n d i) | _ => none⟩
def rowMFSR : Row := ⟨0xfc0003ff, 0xe8000000, [(23, 3), (22, 1), (16, 6), (10, 6)], fun | [g, n, d, a] => some (.mfsr g n d a) | _ => none⟩
def rowMTSR : Row := ⟨0xfc3f000f, 0xec000000, [(23, 3), (22, 1), (10, 6), (4, 6)], fun | [g, n, a, b] => some (.mtsr g n a b) | _ => none⟩
def rowPMEN : Row := ⟨0xfc3f03ff, 0xf0000000, [(23, 3), (22, 1), (10, 6)], fun | [g, n, a] => some (.pmen g n a) | _ => none⟩
def rowPMZ : Row := ⟨0xfc3f03ff, 0xf0000001, [(23, 3), (22, 1), (10, 6)], fun | [g, n, a] => some (.pmz g n a) | _ => none⟩
def rowMBEGIN : Row := ⟨0xfc0003ff, 0xf4000000, [(23, 3), (22, 1), (16, 6), (10, 6)], fun | [g, n, d, a] => some (.mbegin g n d a) | _ => none⟩
def rowMEND : Row := ⟨0xfc00ffff, 0xf8000000, [(23, 3), (22, 1), (16, 6)], fun | [g, n, d] => some (.mend g n d) | _ => none⟩
def rowMPH : Row := ⟨0xfc00ffff, 0xfc000000, [(23, 3), (22, 1), (16, 6)], fun | [g, n, d] => some (.mph g n d) | _ => none⟩
def rowRSCAT : Row := ⟨0xfc007f00, 0xc0000000, [(23, 3), (22, 1), (19, 3), (15, 4), (0, 8)], fun | [g, n, p, r, t] => some (.rscat g n p r t) | _ => none⟩
def rowAGATH : Row := ⟨0xfc007f00, 0xc4000000, [(23, 3), (22, 1), (19, 3), (15, 4), (0, 8)], fun | [g, n, p, r, t] => some (.agath g n p r t) | _ => none⟩
def rowARED : Row := ⟨0xfc007f00, 0xc8000000, [(23, 3), (22, 1), (19, 3), (15, 4), (0, 8)], fun | [g, n, p, r, t] => some (.ared g n p r t) | _ => none⟩
def rowSEND : Row := ⟨0xfc007f00, 0xcc000000, [(23, 3), (22, 1), (19, 3), (15, 4), (0, 8)], fun | [g, n, p, r, t] => some (.send g n p r t) | _ => none⟩
def rowRECV : Row := ⟨0xfc007f00, 0xd0000000, [(23, 3), (22, 1), (19, 3), (15, 4), (0, 8)], fun | [g, n, p, r, t] => some (.recv g n p r t) | _ => none⟩
def rowLNKST : Row := ⟨0xfc0003ff, 0xd4000000, [(23, 3), (22, 1), (16, 6), (10, 6)], fun | [g, n, d, a] => some (.lnkst g n d a) | _ => none⟩
def rowPHASE : Row := ⟨0xfc000fff, 0xe0000000, [(23, 3), (22, 1), (16, 6), (12, 4)], fun | [g, n, d, r] => some (.phase g n d r) | _ => none⟩
def rowPHASEEND : Row := ⟨0xfc3fffff, 0xe0000001, [(23, 3), (22, 1)], fun | [g, n] => some (.phaseEnd g n) | _ => none⟩
def rowDIGEST : Row := ⟨0xfc001fff, 0xe4000000, [(23, 3), (22, 1), (16, 6), (13, 3)], fun | [g, n, d, e] => some (.digest g n d e) | _ => none⟩
def rowRCMP : Row := ⟨0xfc00000f, 0xe8000000, [(23, 3), (22, 1), (16, 6), (10, 6), (4, 6)], fun | [g, n, d, a, b] => some (.rcmp g n d a b) | _ => none⟩

def rowsSc0 : List Row := [rowADD, rowSUB, rowAND, rowOR, rowXOR, rowANDN, rowSHL, rowSHR, rowSAR, rowROL, rowROR, rowMIN, rowMAX, rowMINU, rowMAXU, rowMUL, rowMULH, rowMULHU, rowMULHSU, rowDIV]
def rowsSc1 : List Row := [rowDIVU, rowREM, rowREMU, rowCLZ, rowCTZ, rowPOPC, rowBREV, rowBSWAP, rowCMPEQ, rowCMPNE, rowCMPLT, rowCMPLE, rowCMPLTU, rowCMPLEU, rowSEL, rowPAND, rowPOR, rowPXOR, rowPANDN, rowPNOT]
def rowsSc2 : List Row := [rowPRD, rowPWR, rowBEXT, rowBEXTU, rowBINS, rowADDI, rowANDI, rowORI, rowXORI, rowSHLI, rowSHRI, rowSARI, rowRORI, rowMULI, rowMINI, rowMAXI, rowCMPEQI, rowCMPNEI, rowCMPLTI, rowCMPLEI]
def rowsSc3 : List Row := [rowCMPGTI, rowCMPGEI, rowCMPLTUI, rowCMPGTUI, rowMOVI, rowMOVIZ, rowMOVK0, rowMOVK1, rowMOVK2, rowMOVK3, rowMFS, rowMTS, rowMFSR, rowMTSR, rowPMEN, rowPMZ, rowMBEGIN, rowMEND, rowMPH]
/-- The rows of slot class sc. -/
def rowsSc : List Row := rowsSc0 ++ rowsSc1 ++ rowsSc2 ++ rowsSc3
def rowsS20 : List Row := [rowADDA, rowADDA2, rowADDA4, rowADDA8, rowDIFA, rowMOVAS, rowMOVSA, rowADDAI, rowMOVAI, rowANDAI]
/-- The rows of slot class s2. -/
def rowsS2 : List Row := rowsS20
def rowsS00 : List Row := [rowBR, rowCALL, rowJMP, rowCALLR, rowRET, rowLOOP, rowMTLC, rowMFLC, rowLMODE, rowLMODEL, rowLAUNCH, rowTRIGGER, rowSPAWN, rowRESUME, rowSUSP, rowSUSPK, rowYIELD, rowYIELDK, rowEND, rowWFE]
def rowsS01 : List Row := [rowTRAP, rowBRK, rowTACK, rowXRET, rowPREQ, rowICINV, rowTINVALL, rowTINVASID, rowTINVPAGE, rowCKPT]
/-- The rows of slot class s0. -/
def rowsS0 : List Row := rowsS00 ++ rowsS01
def rowsVec0 : List Row := [rowVFADD, rowVFSUB, rowVFMUL, rowVFMIN, rowVFMAX, rowVFMINN, rowVFMAXN, rowVFMA, rowVFMS, rowVFNMA, rowVFNMS, rowVFABS, rowVFNEG, rowVFSQRT, rowVFRCP, rowVFRSQ, rowVFDIV, rowVEXP2, rowVLOG2, rowVEXP]
def rowsVec1 : List Row := [rowVLN, rowVTANH, rowVSIGM, rowVFCEQ, rowVFCNE, rowVFCLT, rowVFCLE, rowVFCUN, rowVFRSUM, rowVFRMAX, rowVFRMIN, rowVADD, rowVSUB, rowVMUL, rowVMULH, rowVMULHU, rowVADDS, rowVSUBS, rowVADDSU, rowVAND]
def rowsVec2 : List Row := [rowVOR, rowVXOR, rowVANDN, rowVSHL, rowVSHR, rowVSAR, rowVROR, rowVMIN, rowVMAX, rowVMINU, rowVMAXU, rowVCLZ, rowVPOPC, rowVABS, rowVCEQ, rowVCNE, rowVCLT, rowVCLE, rowVCLTU, rowVCLEU]
def rowsVec3 : List Row := [rowVADDI, rowVANDI, rowVORI, rowVXORI, rowVSHLI, rowVSHRI, rowVSARI, rowMAND, rowMOR, rowMXOR, rowMANDN, rowMNOT, rowVMOVI, rowVIRSUM, rowVIRMAX, rowVIRMIN, rowVIRMAXU, rowVIRMINU, rowVCVTRNE, rowVCVTRTZ]
def rowsVec4 : List Row := [rowVCVTSR, rowVCVTDYN, rowVQSC, rowVQEL, rowVQELSR, rowVSEED, rowVGRD, rowVGWR, rowVSHUF, rowXCOPY, rowVBCS, rowVEXT, rowVINS, rowVM2S, rowVS2M, rowVIOTA, rowVPLD, rowVLD, rowVST, rowVGATH]
def rowsVec5 : List Row := [rowVGATHH, rowVGATHB, rowVSCAT, rowVSCATH, rowVSCATB]
/-- The rows of slot class vec. -/
def rowsVec : List Row := rowsVec0 ++ rowsVec1 ++ rowsVec2 ++ rowsVec3 ++ rowsVec4 ++ rowsVec5
def rowsS30 : List Row := [rowLDB, rowLDBU, rowLDH, rowLDHU, rowLDW, rowLDWU, rowLDD, rowLDA, rowSTB, rowSTH, rowSTW, rowSTD, rowSTA, rowSLDB, rowSLDBU, rowSLDH, rowSLDHU, rowSLDW, rowSLDWU, rowSLDD]
def rowsS31 : List Row := [rowSLDA, rowSSTB, rowSSTH, rowSSTW, rowSSTD, rowSSTA, rowSBCFG, rowSBATT, rowSBADRP, rowSBADRC, rowSBRD, rowSBWAITF, rowSBWAITE, rowSBADVP, rowSBADVC, rowBIND, rowUNBIND, rowACQS, rowACQST, rowACQX]
def rowsS32 : List Row := [rowACQXT, rowREL, rowFENCE, rowAADD, rowAAND, rowAOR, rowAXOR, rowAMIN, rowAMAX, rowAMINU, rowAMAXU, rowASWAP, rowACAS, rowAADDF32, rowARD, rowALD, rowAST]
/-- The rows of slot class s3. -/
def rowsS3 : List Row := rowsS30 ++ rowsS31 ++ rowsS32
def rowsS130 : List Row := [rowCPY, rowCPYA, rowCPYM, rowCPYQ, rowCBTEST, rowCBWAIT, rowCBCLR, rowCBRD, rowEVPOP, rowTCFG, rowTHOME, rowTSEED, rowTHOMEX, rowTDCFG, rowTDSAV, rowTMM, rowTADD, rowTMUL, rowTACT, rowTCVT]
def rowsS131 : List Row := [rowTQNT, rowTRED, rowTTOPK, rowTSOFT, rowTMAP, rowTFORCE, rowTSTORE, rowTSTOREH, rowTDROP, rowTSTAT, rowPREF, rowQPUSH, rowQPOP, rowQPOPB, rowOPTREG, rowOPTGRAD, rowDEREG, rowSETHP, rowCLRF, rowDZERO]
def rowsS132 : List Row := [rowDCOPY, rowMTCFG, rowMTARR, rowMTWAIT, rowMTWAITT, rowMTTAG, rowMTDEL, rowBAR, rowBART, rowRSCAT, rowAGATH, rowARED, rowSEND, rowRECV, rowLNKST, rowPHASE, rowPHASEEND, rowDIGEST, rowRCMP]
/-- The rows of slot class s13. -/
def rowsS13 : List Row := rowsS130 ++ rowsS131 ++ rowsS132
def rowsS120 : List Row := [rowWLOAD, rowWSEL, rowMMAR, rowMMAC, rowMMAZR, rowMMAZC, rowMDRAIN, rowMSCALE, rowMHIST]
/-- The rows of slot class s12. -/
def rowsS12 : List Row := rowsS120

/-- The row of an instruction that stands in a slot word. -/
def rowOf : Instr → Option Row
  | .issueBundle => none
  | .watchdogExpiry => none
  | .forcedBoundary => none
  | .resultLands => none
  | .preemption => none
  | .saveComplete => none
  | .copyLineLands _ _ => none
  | .copyCommandCompletion => none
  | .copyLateFault => none
  | .copyRequestPop _ => none
  | .noticePushRetry _ => none
  | .s12Landing => none
  | .teaselBlockComputed _ => none
  | .teaselRequestCompletion => none
  | .teaselLateFault => none
  | .waiterDelivery _ => none
  | .arrival _ => none
  | .inDramCompletion _ => none
  | .pick => none
  | .dispatch _ => none
  | .freeCoreReport _ => none
  | .untakenTasksReturn => none
  | .collectiveStart _ _ => none
  | .collectiveCompletion _ _ => none
  | .flitData _ _ => none
  | .flitMarker _ _ => none
  | .flitAck _ _ => none
  | .flitNak _ _ => none
  | .packetArrival _ _ _ => none
  | .endToEndAck _ _ _ _ => none
  | .retransmission _ => none
  | .packetDeclaredFailed _ => none
  | .powerWindow _ _ _ _ => none
  | .thermalLimit _ => none
  | .thermalRecovery _ => none
  | .thermalTrip _ => none
  | .resetSequence => none
  | .frameReceived _ _ _ => none
  | .frameTransmit _ _ => none
  | .getid _ => none
  | .attest _ => none
  | .loados _ _ _ _ _ => none
  | .start _ _ => none
  | .reset _ _ => none
  | .podset _ _ => none
  | .linktrain _ _ => none
  | .pcapset _ _ => none
  | .retire _ _ => none
  | .mgmtLaunch _ _ _ => none
  | .mgmtRollback _ _ => none
  | .qcreate => none
  | .qdestroy => none
  | .poolset => none
  | .supset => none
  | .capset => none
  | .measset => none
  | .logset => none
  | .repgrp => none
  | .rollback => none
  | .creq => none
  | .l2quotaWrite _ _ => none
  | .pcapWrite _ => none
  | .podcfgWrite _ => none
  | .packageRegisterWrite _ _ => none
  | .add _ _ _ _ _ => some rowADD
  | .sub _ _ _ _ _ => some rowSUB
  | .and _ _ _ _ _ => some rowAND
  | .or _ _ _ _ _ => some rowOR
  | .xor _ _ _ _ _ => some rowXOR
  | .andn _ _ _ _ _ => some rowANDN
  | .shl _ _ _ _ _ => some rowSHL
  | .shr _ _ _ _ _ => some rowSHR
  | .sar _ _ _ _ _ => some rowSAR
  | .rol _ _ _ _ _ => some rowROL
  | .ror _ _ _ _ _ => some rowROR
  | .min _ _ _ _ _ => some rowMIN
  | .max _ _ _ _ _ => some rowMAX
  | .minu _ _ _ _ _ => some rowMINU
  | .maxu _ _ _ _ _ => some rowMAXU
  | .mul _ _ _ _ _ => some rowMUL
  | .mulh _ _ _ _ _ => some rowMULH
  | .mulhu _ _ _ _ _ => some rowMULHU
  | .mulhsu _ _ _ _ _ => some rowMULHSU
  | .div _ _ _ _ _ => some rowDIV
  | .divu _ _ _ _ _ => some rowDIVU
  | .rem _ _ _ _ _ => some rowREM
  | .remu _ _ _ _ _ => some rowREMU
  | .clz _ _ _ _ => some rowCLZ
  | .ctz _ _ _ _ => some rowCTZ
  | .popc _ _ _ _ => some rowPOPC
  | .brev _ _ _ _ => some rowBREV
  | .bswap _ _ _ _ => some rowBSWAP
  | .cmpeq _ _ _ _ _ => some rowCMPEQ
  | .cmpne _ _ _ _ _ => some rowCMPNE
  | .cmplt _ _ _ _ _ => some rowCMPLT
  | .cmple _ _ _ _ _ => some rowCMPLE
  | .cmpltu _ _ _ _ _ => some rowCMPLTU
  | .cmpleu _ _ _ _ _ => some rowCMPLEU
  | .sel _ _ _ _ _ _ => some rowSEL
  | .pand _ _ _ _ _ => some rowPAND
  | .por _ _ _ _ _ => some rowPOR
  | .pxor _ _ _ _ _ => some rowPXOR
  | .pandn _ _ _ _ _ => some rowPANDN
  | .pnot _ _ _ _ => some rowPNOT
  | .prd _ _ _ => some rowPRD
  | .pwr _ _ _ => some rowPWR
  | .bext _ _ _ _ _ => some rowBEXT
  | .bextu _ _ _ _ _ => some rowBEXTU
  | .bins _ _ _ _ _ => some rowBINS
  | .addi _ _ _ _ _ => some rowADDI
  | .andi _ _ _ _ _ => some rowANDI
  | .ori _ _ _ _ _ => some rowORI
  | .xori _ _ _ _ _ => some rowXORI
  | .shli _ _ _ _ _ => some rowSHLI
  | .shri _ _ _ _ _ => some rowSHRI
  | .sari _ _ _ _ _ => some rowSARI
  | .rori _ _ _ _ _ => some rowRORI
  | .muli _ _ _ _ _ => some rowMULI
  | .mini _ _ _ _ _ => some rowMINI
  | .maxi _ _ _ _ _ => some rowMAXI
  | .cmpeqi _ _ _ _ _ => some rowCMPEQI
  | .cmpnei _ _ _ _ _ => some rowCMPNEI
  | .cmplti _ _ _ _ _ => some rowCMPLTI
  | .cmplei _ _ _ _ _ => some rowCMPLEI
  | .cmpgti _ _ _ _ _ => some rowCMPGTI
  | .cmpgei _ _ _ _ _ => some rowCMPGEI
  | .cmpltui _ _ _ _ _ => some rowCMPLTUI
  | .cmpgtui _ _ _ _ _ => some rowCMPGTUI
  | .movi _ _ _ _ => some rowMOVI
  | .moviz _ _ _ _ => some rowMOVIZ
  | .movk0 _ _ _ _ => some rowMOVK0
  | .movk1 _ _ _ _ => some rowMOVK1
  | .movk2 _ _ _ _ => some rowMOVK2
  | .movk3 _ _ _ _ => some rowMOVK3
  | .adda _ _ _ _ _ => some rowADDA
  | .adda2 _ _ _ _ _ => some rowADDA2
  | .adda4 _ _ _ _ _ => some rowADDA4
  | .adda8 _ _ _ _ _ => some rowADDA8
  | .difa _ _ _ _ _ => some rowDIFA
  | .movas _ _ _ _ => some rowMOVAS
  | .movsa _ _ _ _ => some rowMOVSA
  | .addai _ _ _ _ _ => some rowADDAI
  | .movai _ _ _ _ => some rowMOVAI
  | .andai _ _ _ _ _ => some rowANDAI
  | .br _ _ _ => some rowBR
  | .call _ _ _ => some rowCALL
  | .jmp _ _ _ => some rowJMP
  | .callr _ _ _ => some rowCALLR
  | .ret _ _ => some rowRET
  | .loop _ _ _ _ _ => some rowLOOP
  | .mtlc _ _ _ _ => some rowMTLC
  | .mflc _ _ _ _ => some rowMFLC
  | .lmode _ _ _ => some rowLMODE
  | .lmodeL _ _ _ => some rowLMODEL
  | .vfadd _ _ _ _ _ _ => some rowVFADD
  | .vfsub _ _ _ _ _ _ => some rowVFSUB
  | .vfmul _ _ _ _ _ _ => some rowVFMUL
  | .vfmin _ _ _ _ _ _ => some rowVFMIN
  | .vfmax _ _ _ _ _ _ => some rowVFMAX
  | .vfminn _ _ _ _ _ _ => some rowVFMINN
  | .vfmaxn _ _ _ _ _ _ => some rowVFMAXN
  | .vfma _ _ _ _ _ _ => some rowVFMA
  | .vfms _ _ _ _ _ _ => some rowVFMS
  | .vfnma _ _ _ _ _ _ => some rowVFNMA
  | .vfnms _ _ _ _ _ _ => some rowVFNMS
  | .vfabs _ _ _ _ => some rowVFABS
  | .vfneg _ _ _ _ => some rowVFNEG
  | .vfsqrt _ _ _ _ => some rowVFSQRT
  | .vfrcp _ _ _ _ => some rowVFRCP
  | .vfrsq _ _ _ _ => some rowVFRSQ
  | .vfdiv _ _ _ _ _ _ => some rowVFDIV
  | .vexp2 _ _ _ _ => some rowVEXP2
  | .vlog2 _ _ _ _ => some rowVLOG2
  | .vexp _ _ _ _ => some rowVEXP
  | .vln _ _ _ _ => some rowVLN
  | .vtanh _ _ _ _ => some rowVTANH
  | .vsigm _ _ _ _ => some rowVSIGM
  | .vfceq _ _ _ _ _ _ => some rowVFCEQ
  | .vfcne _ _ _ _ _ _ => some rowVFCNE
  | .vfclt _ _ _ _ _ _ => some rowVFCLT
  | .vfcle _ _ _ _ _ _ => some rowVFCLE
  | .vfcun _ _ _ _ _ _ => some rowVFCUN
  | .vfrsum _ _ _ _ => some rowVFRSUM
  | .vfrmax _ _ _ _ => some rowVFRMAX
  | .vfrmin _ _ _ _ => some rowVFRMIN
  | .vadd _ _ _ _ _ _ => some rowVADD
  | .vsub _ _ _ _ _ _ => some rowVSUB
  | .vmul _ _ _ _ _ _ => some rowVMUL
  | .vmulh _ _ _ _ _ _ => some rowVMULH
  | .vmulhu _ _ _ _ _ _ => some rowVMULHU
  | .vadds _ _ _ _ _ _ => some rowVADDS
  | .vsubs _ _ _ _ _ _ => some rowVSUBS
  | .vaddsu _ _ _ _ _ _ => some rowVADDSU
  | .vand _ _ _ _ _ _ => some rowVAND
  | .vor _ _ _ _ _ _ => some rowVOR
  | .vxor _ _ _ _ _ _ => some rowVXOR
  | .vandn _ _ _ _ _ _ => some rowVANDN
  | .vshl _ _ _ _ _ _ => some rowVSHL
  | .vshr _ _ _ _ _ _ => some rowVSHR
  | .vsar _ _ _ _ _ _ => some rowVSAR
  | .vror _ _ _ _ _ _ => some rowVROR
  | .vmin _ _ _ _ _ _ => some rowVMIN
  | .vmax _ _ _ _ _ _ => some rowVMAX
  | .vminu _ _ _ _ _ _ => some rowVMINU
  | .vmaxu _ _ _ _ _ _ => some rowVMAXU
  | .vclz _ _ _ _ => some rowVCLZ
  | .vpopc _ _ _ _ => some rowVPOPC
  | .vabs _ _ _ _ => some rowVABS
  | .vceq _ _ _ _ _ _ => some rowVCEQ
  | .vcne _ _ _ _ _ _ => some rowVCNE
  | .vclt _ _ _ _ _ _ => some rowVCLT
  | .vcle _ _ _ _ _ _ => some rowVCLE
  | .vcltu _ _ _ _ _ _ => some rowVCLTU
  | .vcleu _ _ _ _ _ _ => some rowVCLEU
  | .vaddi _ _ _ _ _ => some rowVADDI
  | .vandi _ _ _ _ _ => some rowVANDI
  | .vori _ _ _ _ _ => some rowVORI
  | .vxori _ _ _ _ _ => some rowVXORI
  | .vshli _ _ _ _ _ => some rowVSHLI
  | .vshri _ _ _ _ _ => some rowVSHRI
  | .vsari _ _ _ _ _ => some rowVSARI
  | .mand _ _ _ _ => some rowMAND
  | .mor _ _ _ _ => some rowMOR
  | .mxor _ _ _ _ => some rowMXOR
  | .mandn _ _ _ _ => some rowMANDN
  | .mnot _ _ _ => some rowMNOT
  | .vmovi _ _ _ => some rowVMOVI
  | .virsum _ _ _ _ => some rowVIRSUM
  | .virmax _ _ _ _ => some rowVIRMAX
  | .virmin _ _ _ _ => some rowVIRMIN
  | .virmaxu _ _ _ _ => some rowVIRMAXU
  | .virminu _ _ _ _ => some rowVIRMINU
  | .vcvtRne _ _ _ _ _ => some rowVCVTRNE
  | .vcvtRtz _ _ _ _ _ => some rowVCVTRTZ
  | .vcvtSr _ _ _ _ _ => some rowVCVTSR
  | .vcvtDyn _ _ _ _ _ => some rowVCVTDYN
  | .vqsc _ _ _ _ _ => some rowVQSC
  | .vqel _ _ _ _ _ _ _ => some rowVQEL
  | .vqelSr _ _ _ _ _ _ _ => some rowVQELSR
  | .vseed _ _ => some rowVSEED
  | .vgrd _ _ => some rowVGRD
  | .vgwr _ _ _ => some rowVGWR
  | .vshuf _ _ _ _ _ => some rowVSHUF
  | .xcopy _ _ _ _ _ => some rowXCOPY
  | .vbcs _ _ _ => some rowVBCS
  | .vext _ _ _ _ _ => some rowVEXT
  | .vins _ _ _ _ => some rowVINS
  | .vm2s _ _ _ => some rowVM2S
  | .vs2m _ _ _ => some rowVS2M
  | .viota _ _ => some rowVIOTA
  | .vpld _ _ _ _ => some rowVPLD
  | .ldb _ _ _ _ _ => some rowLDB
  | .ldbu _ _ _ _ _ => some rowLDBU
  | .ldh _ _ _ _ _ => some rowLDH
  | .ldhu _ _ _ _ _ => some rowLDHU
  | .ldw _ _ _ _ _ => some rowLDW
  | .ldwu _ _ _ _ _ => some rowLDWU
  | .ldd _ _ _ _ _ => some rowLDD
  | .lda _ _ _ _ _ => some rowLDA
  | .stb _ _ _ _ _ => some rowSTB
  | .sth _ _ _ _ _ => some rowSTH
  | .stw _ _ _ _ _ => some rowSTW
  | .std _ _ _ _ _ => some rowSTD
  | .sta _ _ _ _ _ => some rowSTA
  | .sldb _ _ _ _ _ => some rowSLDB
  | .sldbu _ _ _ _ _ => some rowSLDBU
  | .sldh _ _ _ _ _ => some rowSLDH
  | .sldhu _ _ _ _ _ => some rowSLDHU
  | .sldw _ _ _ _ _ => some rowSLDW
  | .sldwu _ _ _ _ _ => some rowSLDWU
  | .sldd _ _ _ _ _ => some rowSLDD
  | .slda _ _ _ _ _ => some rowSLDA
  | .sstb _ _ _ _ _ => some rowSSTB
  | .ssth _ _ _ _ _ => some rowSSTH
  | .sstw _ _ _ _ _ => some rowSSTW
  | .sstd _ _ _ _ _ => some rowSSTD
  | .ssta _ _ _ _ _ => some rowSSTA
  | .vld _ _ _ _ => some rowVLD
  | .vst _ _ _ _ _ => some rowVST
  | .vgath _ _ _ _ => some rowVGATH
  | .vgathh _ _ _ _ => some rowVGATHH
  | .vgathb _ _ _ _ => some rowVGATHB
  | .vscat _ _ _ _ _ => some rowVSCAT
  | .vscath _ _ _ _ _ => some rowVSCATH
  | .vscatb _ _ _ _ _ => some rowVSCATB
  | .sbcfg _ _ _ _ => some rowSBCFG
  | .sbatt _ _ _ _ => some rowSBATT
  | .sbadrp _ _ _ _ => some rowSBADRP
  | .sbadrc _ _ _ _ => some rowSBADRC
  | .sbrd _ _ _ _ => some rowSBRD
  | .sbwaitf _ _ _ _ => some rowSBWAITF
  | .sbwaite _ _ _ _ => some rowSBWAITE
  | .sbadvp _ _ _ _ => some rowSBADVP
  | .sbadvc _ _ _ _ => some rowSBADVC
  | .cpy _ _ _ _ _ _ => some rowCPY
  | .cpya _ _ _ _ _ _ => some rowCPYA
  | .cpym _ _ _ _ _ _ _ => some rowCPYM
  | .cpyq _ _ _ _ _ => some rowCPYQ
  | .cbtest _ _ _ _ _ _ => some rowCBTEST
  | .cbwait _ _ _ _ _ => some rowCBWAIT
  | .cbclr _ _ _ _ _ => some rowCBCLR
  | .cbrd _ _ _ _ _ => some rowCBRD
  | .evpop _ _ _ _ => some rowEVPOP
  | .wload _ _ _ _ => some rowWLOAD
  | .wsel _ _ _ => some rowWSEL
  | .mmaR _ _ _ _ _ => some rowMMAR
  | .mmaC _ _ _ _ _ => some rowMMAC
  | .mmazR _ _ _ _ _ => some rowMMAZR
  | .mmazC _ _ _ _ _ => some rowMMAZC
  | .mdrain _ _ _ _ _ _ => some rowMDRAIN
  | .mscale _ _ _ => some rowMSCALE
  | .mhist _ _ _ _ => some rowMHIST
  | .tcfg _ _ _ _ => some rowTCFG
  | .thome _ _ _ _ => some rowTHOME
  | .tseed _ _ _ => some rowTSEED
  | .thomex _ _ _ => some rowTHOMEX
  | .tdcfg _ _ _ _ => some rowTDCFG
  | .tdsav _ _ _ _ => some rowTDSAV
  | .tmm _ _ _ _ _ _ => some rowTMM
  | .tadd _ _ _ _ _ _ => some rowTADD
  | .tmul _ _ _ _ _ _ => some rowTMUL
  | .tact _ _ _ _ _ => some rowTACT
  | .tcvt _ _ _ _ _ _ => some rowTCVT
  | .tqnt _ _ _ _ _ _ => some rowTQNT
  | .tred _ _ _ _ _ _ => some rowTRED
  | .ttopk _ _ _ _ _ _ => some rowTTOPK
  | .tsoft _ _ _ _ => some rowTSOFT
  | .tmap _ _ _ _ _ => some rowTMAP
  | .tforce _ _ _ _ _ _ _ => some rowTFORCE
  | .tstore _ _ _ _ _ _ _ => some rowTSTORE
  | .tstoreH _ _ _ _ _ _ => some rowTSTOREH
  | .tdrop _ _ _ => some rowTDROP
  | .tstat _ _ _ _ => some rowTSTAT
  | .pref _ _ _ _ _ _ _ => some rowPREF
  | .bind _ _ _ _ _ _ => some rowBIND
  | .unbind _ _ _ _ => some rowUNBIND
  | .acqs _ _ _ _ _ => some rowACQS
  | .acqsT _ _ _ _ _ => some rowACQST
  | .acqx _ _ _ _ _ => some rowACQX
  | .acqxT _ _ _ _ _ => some rowACQXT
  | .rel _ _ _ _ _ => some rowREL
  | .fence _ _ _ _ => some rowFENCE
  | .aadd _ _ _ _ _ _ _ => some rowAADD
  | .aand _ _ _ _ _ _ _ => some rowAAND
  | .aor _ _ _ _ _ _ _ => some rowAOR
  | .axor _ _ _ _ _ _ _ => some rowAXOR
  | .amin _ _ _ _ _ _ _ => some rowAMIN
  | .amax _ _ _ _ _ _ _ => some rowAMAX
  | .aminu _ _ _ _ _ _ _ => some rowAMINU
  | .amaxu _ _ _ _ _ _ _ => some rowAMAXU
  | .aswap _ _ _ _ _ _ _ => some rowASWAP
  | .acas _ _ _ _ _ _ _ => some rowACAS
  | .aaddF32 _ _ _ _ _ _ _ => some rowAADDF32
  | .ard _ _ _ _ _ _ => some rowARD
  | .ald _ _ _ _ _ _ => some rowALD
  | .ast _ _ _ _ _ _ => some rowAST
  | .qpush _ _ _ _ _ => some rowQPUSH
  | .qpop _ _ _ _ _ => some rowQPOP
  | .qpopB _ _ _ _ _ _ => some rowQPOPB
  | .optreg _ _ _ _ => some rowOPTREG
  | .optgrad _ _ _ _ _ _ => some rowOPTGRAD
  | .dereg _ _ _ _ => some rowDEREG
  | .sethp _ _ _ _ _ => some rowSETHP
  | .clrf _ _ _ _ _ => some rowCLRF
  | .dzero _ _ _ _ _ => some rowDZERO
  | .dcopy _ _ _ _ _ _ => some rowDCOPY
  | .launch _ _ _ _ => some rowLAUNCH
  | .trigger _ _ => some rowTRIGGER
  | .spawn _ _ _ _ _ => some rowSPAWN
  | .resume _ _ _ _ => some rowRESUME
  | .susp _ _ _ _ => some rowSUSP
  | .suspK _ _ _ _ => some rowSUSPK
  | .yield _ _ => some rowYIELD
  | .yieldK _ _ => some rowYIELDK
  | .endTask _ _ => some rowEND
  | .wfe _ _ => some rowWFE
  | .mtcfg _ _ _ _ => some rowMTCFG
  | .mtarr _ _ _ _ _ _ => some rowMTARR
  | .mtwait _ _ _ _ _ _ => some rowMTWAIT
  | .mtwaitT _ _ _ _ _ _ => some rowMTWAITT
  | .mttag _ _ _ _ _ => some rowMTTAG
  | .mtdel _ _ _ _ => some rowMTDEL
  | .bar _ _ _ _ _ => some rowBAR
  | .barT _ _ _ _ _ => some rowBART
  | .trap _ _ _ => some rowTRAP
  | .brk _ _ _ => some rowBRK
  | .tack _ _ => some rowTACK
  | .xret _ _ => some rowXRET
  | .preq _ _ => some rowPREQ
  | .icinv _ _ => some rowICINV
  | .tinvAll _ _ => some rowTINVALL
  | .tinvAsid _ _ _ => some rowTINVASID
  | .tinvPage _ _ _ _ => some rowTINVPAGE
  | .ckpt _ _ _ => some rowCKPT
  | .mfs _ _ _ _ => some rowMFS
  | .mts _ _ _ _ => some rowMTS
  | .mfsr _ _ _ _ => some rowMFSR
  | .mtsr _ _ _ _ => some rowMTSR
  | .pmen _ _ _ => some rowPMEN
  | .pmz _ _ _ => some rowPMZ
  | .mbegin _ _ _ _ => some rowMBEGIN
  | .mend _ _ _ => some rowMEND
  | .mph _ _ _ => some rowMPH
  | .rscat _ _ _ _ _ => some rowRSCAT
  | .agath _ _ _ _ _ => some rowAGATH
  | .ared _ _ _ _ _ => some rowARED
  | .send _ _ _ _ _ => some rowSEND
  | .recv _ _ _ _ _ => some rowRECV
  | .lnkst _ _ _ _ => some rowLNKST
  | .phase _ _ _ _ => some rowPHASE
  | .phaseEnd _ _ => some rowPHASEEND
  | .digest _ _ _ _ => some rowDIGEST
  | .rcmp _ _ _ _ _ => some rowRCMP
  | .coreReset _ => none
  | .linkTrained _ => none
  | .stackLogicDieReset _ _ _ _ => none
  | .malformedControlCommand => none

/-- The rows of slot `j` (03 Table 3-3; 03 R50: an S1/S2 major means the same in both, S2 adds address arithmetic). -/
def rowsFor (j : Nat) : List Row :=
  if j = 0 then rowsS0 else if j = 1 then rowsSc else if j = 2 then rowsSc ++ rowsS2 else if j = 3 then rowsS3
  else if j ≤ 11 then rowsVec else if j = 12 then rowsS12 else if j = 13 then rowsS13 else []

/-- Value of a 10-bit immediate field, or of LIMM in its place (03 R47). -/
def immSel (limm i : Nat) : Int := if i = 0x200 then Machine.sgn 16 limm else Machine.sgn 10 i

/-- Bits [9:0] of an immediate, or of LIMM in its place: the bits a code field is read from. -/
def immBits (limm i : Nat) : Nat := (immSel limm i % 1024).toNat

/-- Register numbers of 19 Table 19-5. -/
def srListed (n : Nat) : Bool :=
  decide (n ≤ 0x0B) || (decide (0x10 ≤ n) && decide (n ≤ 0x15)) || (decide (0x20 ≤ n) && decide (n ≤ 0x38))

/-- The checks of 03 R52 step 1 on an immediate or a code field: 04 R73 (shift amounts), 04 R84 (loop length), 05 R105,
R108, R109, R110, R112, R114, 13 R235 and 17 R295 (scopes), 13 R247 (a relaxed form has scope
field 0), 19 R314 (listed register numbers). -/
def Instr.encOk (limm : Nat) : Instr → Bool
  | .shli _ _ _ _ i | .shri _ _ _ _ i | .sari _ _ _ _ i | .rori _ _ _ _ i =>
    decide (0 ≤ immSel limm i) && decide (immSel limm i ≤ 63)
  | .loop _ _ _ _ i => decide (1 ≤ immSel limm i) && decide (immSel limm i ≤ 64)
  | .vshli _ _ _ _ i | .vshri _ _ _ _ i | .vsari _ _ _ _ i =>
    decide (0 ≤ immSel limm i) && decide (immSel limm i ≤ 31)
  | .vcvtRne _ _ _ _ i | .vcvtRtz _ _ _ _ i | .vcvtSr _ _ _ _ i | .vcvtDyn _ _ _ _ i => decide (immBits limm i < 256)
  | .vqsc _ _ _ _ i => decide (immBits limm i < 16)
  | .vqel _ _ _ _ _ _ i | .vqelSr _ _ _ _ _ _ i => decide (i ≤ 5)
  | .vshuf _ _ _ _ i | .vpld _ _ _ i => decide (immBits limm i < 64)
  | .xcopy _ _ _ _ i => decide (1 ≤ immBits limm i) && decide (immBits limm i < 8)
  | .fence _ _ _ s => decide (s ≤ 5)
  | .bar _ _ _ _ s | .barT _ _ _ _ s => decide (1 ≤ s) && decide (s ≤ 5)
  | .aadd _ _ _ _ _ o s | .aand _ _ _ _ _ o s | .aor _ _ _ _ _ o s | .axor _ _ _ _ _ o s | .amin _ _ _ _ _ o s
  | .amax _ _ _ _ _ o s | .aminu _ _ _ _ _ o s | .amaxu _ _ _ _ _ o s | .aswap _ _ _ _ _ o s
  | .acas _ _ _ _ _ o s | .aaddF32 _ _ _ _ _ o s | .ard _ _ _ _ o s | .ald _ _ _ _ o s | .ast _ _ _ _ o s =>
    decide (o ≠ 0) || decide (s = 0)
  | .mfs _ _ _ i | .mts _ _ _ i => srListed i
  | _ => true

/-- Fields of a word at the places of a row. -/
def fieldsOf (w : Nat) (ps : List (Nat × Nat)) : List Nat := ps.map (fun p => w / 2 ^ p.1 % 2 ^ p.2)

/-- The word of the opcode LMODE that takes its immediate from LIMM (04 R89, 03 R47). -/
def decodeLmodeLong (limm w : Nat) : Option Instr :=
  if w &&& 0xFC3FFFFF = 0x14000200 ∧ limm ≤ 3 then
    some (if limm ≤ 1 then .lmode (w / 2 ^ 23 % 8) (w / 2 ^ 22 % 2) limm
          else .lmodeL (w / 2 ^ 23 % 8) (w / 2 ^ 22 % 2) (limm - 2))
  else none

/-- The instruction a word stands for in slot `j` of a bundle with long immediate `limm`; none where 03 R51, or a step 1
check that needs no more than these, rejects it with ILLOP. -/
def decodeSlot (j limm w : Nat) : Option Instr :=
  match (rowsFor j).find? (fun r => decide (w &&& r.mask = r.mat)) with
  | none => if j = 0 then decodeLmodeLong limm w else none
  | some r =>
    match r.make (fieldsOf w r.pos) with
    | none => none
    | some i => if i.wf && i.encOk limm then some i else none

/-- Field values put at their places. -/
def placeFields : List (Nat × Nat) → List Nat → Nat
  | p :: ps, v :: vs => v * 2 ^ p.1 + placeFields ps vs
  | _, _ => 0

/-- The slot word of an instruction, from the same rows (0 for an agent's step, which has no word). -/
def encode (i : Instr) : Nat :=
  match rowOf i with
  | none => 0
  | some r => r.mat + placeFields r.pos (i.ops.map Opnd.val)

/-- The order in which slots are tried for a word given without its slot (log 8). -/
def slotOrder : List Nat := [12, 2, 13, 4, 3, 0]

/-- The first slot of the order whose class gives the word a meaning, with that meaning. -/
def decodeAny (w : Nat) : Option (Nat × Instr) :=
  slotOrder.findSome? (fun j => (decodeSlot j 0 w).map (fun i => (j, i)))

/-- The instruction of an opcode-table word. -/
def decodeTableWord (nbits w : Nat) : Option Instr := (decodeAny (w % 2 ^ nbits % 2 ^ 32)).map Prod.snd

end

end Sys2Proof
end

