-- ==== Sys2Proof/Machine/Operands.lean ====
section
/-!
DEFINITION. Machine/Operands.lean: the operand forms of slot words (03 R44–R48): immediates, the long immediate, M and VM
addresses, guards; the clusters and lanes a vector word runs in (03 R42, R45, R60); and how a slot returns its result.
-/
namespace Sys2Proof.Machine

/-- LIMM of the bundle in progress (03 Table 3-1). -/
def limmOf (s : State) : Nat := fld s.core.iss.hdr 31 16

/-- The value of an imm10 field, or of LIMM in its place (03 R47). -/
def imm10v (s : State) (i : Nat) : Word := BitVec.ofInt 64 (immSel (limmOf s) i)

/-- An imm10 field of a VI word, taken to 32 bits. -/
def imm10w (s : State) (i : Nat) : W32 := BitVec.ofInt 32 (immSel (limmOf s) i)

/-- An imm10 field read as a number: its low bits. -/
def imm10n (s : State) (i : Nat) : Nat := (imm10v s i).toNat

/-- The address of an M or VM word: areg + sext(off12) × size (03 Table 3-5). -/
def memAddr (s : State) (r o size : Nat) : Word := rdA s r + BitVec.ofInt 64 (sgn 12 o * (size : Int))

/-- Target of a B word: bundle address + sext(disp22) × 4. -/
def brTarget (s : State) (disp : Nat) : Word := s.core.iss.pc + BitVec.ofInt 64 (sgn 22 disp * 4)

/-! ### Results of predicate-guarded slots -/

/-- A scalar register receives a value after `lat` cycles, where the guard holds. -/
def retS (g n lat d : Nat) (x : Word) (s : State) : Out := .next (guarded g n (emit lat (.s d x)) s)
/-- An address register receives a value, where the guard holds. -/
def retA (g n d : Nat) (x : Word) (s : State) : Out := .next (guarded g n (emit 1 (.a d x)) s)
/-- A predicate's bit and its value. -/
def predBit (d : Nat) (b : Bool) : Land := .p (BitVec.ofNat 8 (2 ^ d)) (BitVec.ofNat 8 (b2n b * 2 ^ d))
/-- A predicate receives a value, where the guard holds. -/
def retP (g n d : Nat) (b : Bool) (s : State) : Out := .next (guarded g n (emit 1 (predBit d b)) s)
/-- The effect of a slot under its predicate guard. -/
def slotDo (g n : Nat) (f : State → State) (s : State) : Out := .next (guarded g n f s)

/-- A status that lands as the result of a device-memory load (06 R118). -/
def retDev (d : Nat) (x : Word) (s : State) : State :=
  emit (if s.core.ctl then Config.devLatCtl else Config.devLat) (.s d x) s

/-! ### Vector words -/

/-- The clusters that execute the vector word in progress (03 R60). -/
def clusters (s : State) : List Nat := if bitAt s.core.iss.hdr 15 then List.range 8 else [s.core.iss.slot - 4]

/-- Lanes of a list where a mask has ones, and zero elsewhere. -/
def onLanes (which : BitVec 16) (f : Nat → W32) : List W32 :=
  (List.range 16).map (fun l => if bitAt which l then f l else 0)

/-- A mask of lane predicates where a mask has ones. -/
def laneBits (which : BitVec 16) (f : Nat → Bool) : BitVec 16 :=
  BitVec.ofNat 16 (maskOf 16 (fun l => bitAt which l && f l))

/-- Each executing cluster, in order. -/
def eachCluster (f : Nat → State → State) (s : State) : State := (clusters s).foldl (fun t c => f c t) s

/-- A vector register of every executing cluster receives lanes `f c l` where its guard mask has ones. -/
def vput (lat g d : Nat) (f : Nat → Nat → W32) (s : State) : State :=
  eachCluster (fun c => emit lat (.v c d (rdM s c g) (onLanes (rdM s c g) (f c)))) s

/-- A mask register of every executing cluster receives bits `f c l` where its guard mask has ones. -/
def mputBits (lat g d : Nat) (f : Nat → Nat → Bool) (s : State) : State :=
  eachCluster (fun c => emit lat (.m c d (rdM s c g) (laneBits (rdM s c g) (f c)))) s

/-- A fault of the vector word in progress at its lowest-numbered cluster. -/
def vtrap (cause detail : Nat) (fa : Word) (s : State) : State := trapCl cause detail fa (clusters s).head? s
/-- ILLOP at a vector word. -/
def villop (s : State) : State := vtrap cILLOP 0 s.core.iss.pc s

end Sys2Proof.Machine
end

