-- ==== Sys2Proof/Machine/CopyDesc.lean ====
section
/-!
DEFINITION. Machine/CopyDesc.lean: copy descriptors (08 R151–R159): their fields, the loop, what makes one legal, the
ranges a command reads and writes.
-/
namespace Sys2Proof.Machine

/-- A copy descriptor, read (08 Table 8-2); index 0 of the strides is not used. -/
structure CD where
  ctrl : Nat
  src : Nat
  dst : Nat
  n : List Nat
  seed : Nat
  ss : List Int
  ds : List Int
  ssb : Nat
  dsb : Nat
  dga : Nat
  resv : Nat
  deriving DecidableEq, Repr

def cdOf (b : List Byte) : CD :=
  { ctrl := leAt b 0 8, src := leAt b 0x08 8, dst := leAt b 0x10 8,
    n := (List.range 6).map (fun k => leAt b (0x18 + 2 * k) 2), seed := leAt b 0x24 4,
    ss := 0 :: (List.range 5).map (fun k => sgn 32 (leAt b (0x28 + 4 * k) 4)),
    ds := 0 :: (List.range 5).map (fun k => sgn 32 (leAt b (0x40 + 4 * k) 4)),
    ssb := leAt b 0x58 8, dsb := leAt b 0x60 8, dga := leAt b 0x68 8,
    resv := leAt b 0x3C 4 + leAt b 0x54 4 + leAt b 0x70 16 }

/-! ### Control word (08 Table 8-3) -/

def CD.codes (c : CD) : List Nat := (List.range 4).map (fun i => nbits c.ctrl (3 * i + 50) (3 * i + 48))
def CD.live (c : CD) : List Nat := c.codes.filter (fun k => decide (k ≠ 0))
def CD.conv (c : CD) : Bool := c.live.contains 1
def CD.tr (c : CD) : Bool := c.live.contains 2
def CD.quant (c : CD) : Bool := c.live.contains 3
def CD.dig (c : CD) : Bool := c.live.contains 4
def CD.rm (c : CD) : Nat := nbits c.ctrl 47 45
def CD.socp (c : CD) : Bool := decide (c.ctrl / 2 ^ 44 % 2 = 1)
def CD.docp (c : CD) : Bool := decide (c.ctrl / 2 ^ 43 % 2 = 1)
def CD.smx (c : CD) : Bool := decide (c.ctrl / 2 ^ 42 % 2 = 1)
def CD.nb (c : CD) : Bool := decide (c.ctrl / 2 ^ 41 % 2 = 1)
def CD.fs (c : CD) : Nat := nbits c.ctrl 39 36
def CD.fd (c : CD) : Nat := nbits c.ctrl 35 32
def CD.fsc (c : CD) : Nat := nbits c.ctrl 31 28
def CD.ssh (c : CD) : Nat := nbits c.ctrl 27 24
def CD.dsh (c : CD) : Nat := nbits c.ctrl 23 20
def CD.ssp (c : CD) : Bool := decide (c.ctrl / 2 ^ 19 % 2 = 1)
def CD.dsp (c : CD) : Bool := decide (c.ctrl / 2 ^ 18 % 2 = 1)
def CD.nk (c : CD) (k : Nat) : Nat := nth 0 c.n k
def CD.empty (c : CD) : Bool := c.n.contains 0
/-- Rows and columns in destination coordinates. Under TRANSPOSE they are exchanged, and the DSH check of 08 Table 8-4 counts
the block columns of the exchanged shape, though the table writes ceil(N0/16) for the destination too (DESIGN CHOICE, log
128). -/
def CD.drows (c : CD) : Nat := if c.tr then c.nk 0 else c.nk 1
def CD.dcols (c : CD) : Nat := if c.tr then c.nk 1 else c.nk 0

/-- Scale blocks per row and number of scale rows: square, or 1 × 32. -/
def blkCols (ocp : Bool) (cols : Nat) : Nat := if ocp then cdiv cols 32 else cdiv cols 16
def blkRows (ocp : Bool) (rows : Nat) : Nat := if ocp then rows else cdiv rows 16

/-- A stage list is legal (08 Table 8-4: termination, once each, digest last, quantise after reshaping). -/
def CD.stagesOk (c : CD) : Bool :=
  let l := c.live
  l.all (fun k => decide (k ≤ 4)) && decide (c.codes.take l.length = l) && decide (l.eraseDups.length = l.length) &&
  (!c.dig || decide (l.getLast? = some 4)) &&
  (!c.quant || (!(l.dropWhile (fun k => decide (k ≠ 3))).any (fun k => decide (k = 1 ∨ k = 2))))

/-- The rounding code the command uses: 7 reads FPSTAT.RM (08 Table 8-3, 02 R23). -/
def CD.rmNow (c : CD) (fprm : Nat) : Nat := if c.rm = 7 then fprm else c.rm

/-- Container of the destination: CPYA's is FP32's whatever the table holds (08 R158). -/
def dstFmt (kind : CopyKind) (fd : W32) : W32 := if kind = .cpya then fp32Word else fd

/-- The rest of 08 Table 8-4 and R155, R159: shapes, scales, CPYA, CPYM, rounding, formats. -/
def CD.legal (c : CD) (kind : CopyKind) (tgt : Nat) (fs fd fsc : W32) (rm : Nat) : Bool :=
  decide (c.resv = 0) && decide (nbits c.ctrl 63 60 = 0) && decide (c.ctrl / 2 ^ 40 % 2 = 0) && decide (c.ctrl % 2 ^ 18 = 0) &&
  c.stagesOk && (c.conv || c.quant || (decide (c.fd = c.fs) && !c.smx)) &&
  (!(c.smx || c.quant) || (c.n.drop 2).all (fun k => decide (k = 1))) &&
  (if c.smx || c.quant then
     scaleLegal (fmtOf fsc) && (!c.smx || decide (blkCols c.socp (c.nk 0) ≤ 2 ^ c.ssh)) &&
     (!c.quant || decide (blkCols c.docp c.dcols ≤ 2 ^ c.dsh))
   else decide (c.fsc = 0)) &&
  (kind != .cpya || (!c.quant && c.dsp && decide (c.dst / 2 ^ 20 % 4 = 2) && decide ((fmtOf fd).cont = 32))) &&
  (kind != .cpym || (c.dsp && decide (c.dst / 2 ^ 20 % 4 ≤ 1) && decide (c.dst / 2 ^ 24 % 2 = 0) && decide (tgt ≠ 0))) &&
  elemLegal (fmtOf fs) && elemLegal (fmtOf fd) && decide (rm ≤ 4) && (!c.quant || decide (rm = 0 ∨ rm = 4))

/-! ### The loop (08 R152) -/

/-- Index tuples in loop order, dimension 0 first and innermost. -/
def loopIdx : List Nat → List (List Nat)
  | [] => [[]]
  | n :: r => (loopIdx r).flatMap (fun t => (List.range n).map (fun i => i :: t))

/-- Σ ik × Sk. -/
def strideSum : List Nat → List Int → Int
  | i :: is, s :: ss => (i : Int) * s + strideSum is ss
  | _, _ => 0

/-- Bit position of the source element of an index tuple. -/
def CD.srcBit (c : CD) (cs : Nat) (ix : List Nat) : Int := 8 * ((c.src : Int) + strideSum ix c.ss) + (cs * nth 0 ix 0 : Nat)

/-- Bit position of its destination. -/
def CD.dstBit (c : CD) (cd : Nat) (ix : List Nat) : Int :=
  if c.tr then
    8 * ((c.dst : Int) + (nth 0 ix 0 : Nat) * nth 0 c.ds 1 + strideSum (0 :: 0 :: ix.drop 2) c.ds) + (cd * nth 0 ix 1 : Nat)
  else 8 * ((c.dst : Int) + strideSum ix c.ds) + (cd * nth 0 ix 0 : Nat)

/-- First byte and byte after the last of a loop: base, bits of the contiguous dimension, (count, stride) of the others. -/
def bounds (base : Nat) (bits : Nat) (dims : List (Nat × Int)) : Int × Int :=
  let lo := dims.foldl (fun a d => let x := ((d.1 - 1 : Nat) : Int) * d.2; if x < 0 then a + x else a) (base : Int)
  let hi := dims.foldl (fun a d => let x := ((d.1 - 1 : Nat) : Int) * d.2; if 0 < x then a + x else a) (base : Int)
  (lo, hi + (cdiv bits 8 : Nat))

def CD.srcBounds (c : CD) (cs : Nat) : Int × Int := bounds c.src (cs * c.nk 0) ((c.n.zip c.ss).drop 1)
def CD.dstBounds (c : CD) (cd : Nat) : Int × Int :=
  if c.tr then bounds c.dst (cd * c.nk 1) ((c.nk 0, nth 0 c.ds 1) :: (c.n.zip c.ds).drop 2)
  else bounds c.dst (cd * c.nk 0) ((c.n.zip c.ds).drop 1)

/-- Bytes of a scale tensor. -/
def scaleLen (ocp : Bool) (rows cols sh : Nat) : Nat := (blkRows ocp rows - 1) * 2 ^ sh + blkCols ocp cols

/-! ### Ranges (08 R157) -/

/-- A range of a command: whether in a scratchpad, first byte, bytes, written, what it is (0 source, 1 destination, 2
source scales, 3 destination scales, 4 digest). -/
structure CRange where
  sp : Bool
  lo : Int
  len : Nat
  wr : Bool
  what : Nat
  deriving DecidableEq, Repr

/-- The ranges of a command: none when it is empty. -/
def CD.ranges (c : CD) (cs cd : Nat) : List CRange :=
  let (a, b) := c.srcBounds cs
  let (d, e) := c.dstBounds cd
  (if c.empty then []
   else [⟨c.ssp, a, (b - a).toNat, false, 0⟩, ⟨c.dsp, d, (e - d).toNat, true, 1⟩] ++
     (if c.smx then [⟨c.ssp, c.ssb, scaleLen c.socp (c.nk 1) (c.nk 0) c.ssh, false, 2⟩] else []) ++
     (if c.quant then [⟨c.dsp, c.dsb, scaleLen c.docp c.drows c.dcols c.dsh, true, 3⟩] else []) ++
     (if c.dig then [⟨c.dsp, c.dga, 8, true, 4⟩] else []))

/-- A 64-bit address of an exact sum. -/
def addr64 (x : Int) : Word := BitVec.ofInt 64 x

/-- The scratchpad addresses a range reaches: a CPYM destination one for each target position, in its window form. -/
def CRange.eas (r : CRange) (kind : CopyKind) (tgt : Nat) : List Word :=
  if kind = .cpym ∧ (r.what = 1 ∨ r.what = 3) then
    (List.range 4).filterMap (fun p => if tgt / 2 ^ p % 2 = 1 then some (addr64 r.lo + wd (2 ^ 24 + p * 2 ^ 22)) else none)
  else [addr64 r.lo]

/-- Space of a range for overlap: 3 for device memory, 4 + the buffer, the core's key. -/
def CRange.spaces (s : State) (kind : CopyKind) (tgt : Nat) (r : CRange) : List (Nat × Nat × Int × Int) :=
  if r.sp then
    (r.eas kind tgt).map (fun ea =>
      (4 + ea.toNat / 2 ^ 20 % 4, spadTarget s ea.toNat, ((ea.toNat % 2 ^ 20 : Nat) : Int), ((ea.toNat % 2 ^ 20 + r.len : Nat) : Int)))
  else [(3, 0, r.lo, r.lo + r.len)]

/-- Do two ranges overlap in one space? -/
def rangesMeet (s : State) (kind : CopyKind) (tgt : Nat) (x y : CRange) : Bool :=
  (x.spaces s kind tgt).any (fun a => (y.spaces s kind tgt).any (fun b =>
    decide (a.1 = b.1 ∧ a.2.1 = b.2.1 ∧ a.2.2.1 < b.2.2.2 ∧ b.2.2.1 < a.2.2.2)))

/-- Do any two ranges that may not meet, meet (08 R157, R156)? The digest may not meet a written range. -/
def rangesClash (s : State) (kind : CopyKind) (tgt : Nat) : List CRange → Bool
  | [] => false
  | x :: r => r.any (fun y => (decide (x.what ≠ 4 ∧ y.what ≠ 4) || (x.wr && y.wr)) && rangesMeet s kind tgt x y) ||
      rangesClash s kind tgt r

/-- First scratchpad range refused by 07 R129: its own address decodes, and each address it reaches. XFA is the lowest address of that
range (DESIGN CHOICE, log 154: 08 R157 does not say which). -/
def spadRefused (s : State) (kind : CopyKind) (tgt : Nat) (rs : List CRange) : Option Word :=
  (rs.filter CRange.sp).findSome? (fun r =>
    if !spadNamed (addr64 r.lo).toNat then some (addr64 r.lo)
    else (r.eas kind tgt).findSome? (fun ea => if spadOk s 3 r.wr ea.toNat r.len then none else some (addr64 r.lo)))

/-- Alignment (08 R157): the first base that is no multiple of its container, or has a stride that is none; SSB and DSB
whether the command has scales or not. A stride's fault names its base (DESIGN CHOICE, log 154: no file says which address it is). -/
def CD.misaligned (c : CD) (cs cd : Nat) : Option Word :=
  let bad := fun (k base : Nat) (st : List Int) =>
    decide (8 ≤ k) && (decide (base % (k / 8) ≠ 0) || st.any (fun x => decide (x % ((k / 8 : Nat) : Int) ≠ 0)))
  if bad cs c.src c.ss then some (wd c.src)
  else if bad cd c.dst c.ds then some (wd c.dst)
  else if bad cs c.ssb [] then some (wd c.ssb)
  else if bad cd c.dsb [] then some (wd c.dsb)
  else if c.dig && decide (c.dga % 8 ≠ 0) then some (wd c.dga) else none

/-- First chunk and number of chunks of a command's span (08 R159). -/
def CD.span (c : CD) (cd : Nat) : Nat × Nat :=
  let hi := (c.dstBounds cd).2.toNat
  (c.dst / 512, if c.empty then 0 else (hi - 1) / 512 + 1 - c.dst / 512)

/-- Is the span legal? -/
def CD.spanOk (c : CD) (cd : Nat) : Bool :=
  c.nb || c.empty || (decide (((c.dst / 512 * 512 : Nat) : Int) ≤ (c.dstBounds cd).1) && decide ((c.span cd).2 ≤ 256))

end Sys2Proof.Machine
end

