-- ==== Sys2Proof/Machine/Copy.lean ====
section
/-!
DEFINITION. Machine/Copy.lean: the instructions of the copy engine, the completion bitmaps and the event queue (08
R149–R165), CPYQ's and PREF's acceptance (08 R166, 12 R225, R226).
-/
namespace Sys2Proof.Machine

/-! ### A line of the own A-buffer (08 R150, 14 R254) -/

/-- PROT or ALIGN of an address that must name `n` bytes of the own A-buffer, aligned to `n`. -/
def ownLineFault (wr : Bool) (ea : Word) (n : Nat) (s : State) : Option Nat :=
  if ea.toNat / 2 ^ 20 ≠ 1 ∨ spadOk s 0 wr ea.toNat n = false then some cPROT
  else if ea.toNat % n ≠ 0 then some cALIGN
  else none

/-- A place of the own A-buffer that slot 13 names: PHASECONF, what `go` asks at step 4, then PROT or ALIGN. -/
def ownPlace (wr : Bool) (ea : Word) (n : Nat) (go : (SpRef → State → State) → State → State) (f : SpRef → State → State) (s : State) : State :=
  if ea.toNat / 2 ^ 20 ≠ 1 then trap cPROT 0 ea s
  else
    match phaseFault s wr ea [(0, n)] with
    | some fa => trap cPHASECONF 0 fa s
    | none => go (fun p s => match ownLineFault wr ea n s with | some c => trap c 0 ea s | none => f p s) s

/-- A place that is named. Where `acc` says that an access may follow, a conflict of that access comes before ALIGN and PROT, which it
would meet later; a place that is only named meets no phase. -/
def ownNamed (acc wr : Bool) (ea : Word) (n : Nat) (f : State → State) (s : State) : State :=
  match ownLineFault wr ea n s with
  | none => f s
  | some c =>
    match if acc ∧ ea.toNat / 2 ^ 20 = 1 then phaseFault s wr ea [(0, n)] else none with
    | some fa => trap cPHASECONF 0 fa s
    | none => trap c 0 ea s

/-- A place accessed in the issue cycle as a core access of slot 13 on port AE, whose clash comes before the faults of step 5. -/
def ownAccess (wr : Bool) (ea : Word) (n : Nat) (f : SpRef → State → State) (s : State) : State :=
  ownPlace wr ea n (fun k => takePort 1 n none (fun q s => k { spRef s ea with q := q } s)) f s

/-- The line read in the issue cycle; `f` takes its bytes. -/
def ownLine (ea : Word) (n : Nat) (f : List Byte → State → State) (s : State) : State :=
  ownAccess false ea n (fun p => spadLoad p n f) s

/-! ### Event queue and bitmaps (08 R160, R163–R165) -/

/-- Is there an entry left to reserve? -/
def evRoom (c : Core) : Bool := decide (c.cp.evq.length + c.cp.evNew.length + c.cp.resv < 64)
def reserveEv : State → State := onCp (fun c => { c with resv := c.resv + 1 })

/-- A record enters a core's reserved entry, visible from the next cycle. -/
def postEv (r : Word) (c : Core) : Core :=
  { c with cp := { c.cp with resv := c.cp.resv - 1, evNew := c.cp.evNew ++ [(c.now, r)] } }

/-- An event record: KIND, TAG, STATUS, bits 47 to 44, the low field. -/
def evRec (kind tag status hi4 low : Nat) : Word :=
  wd (kind % 16 * 2 ^ 60 + tag % 256 * 2 ^ 52 + status % 16 * 2 ^ 48 + hi4 % 16 * 2 ^ 44 + low % 2 ^ 44)

def cbOf (c : Core) (k : Nat) : BitVec 256 := mget 0 c.cp.cb k
def putCb (k : Nat) (x : BitVec 256) (c : Core) : Core := { c with cp := { c.cp with cb := mset 0 c.cp.cb k x } }
def lowBits (n : Nat) : BitVec 256 := BitVec.ofNat 256 (2 ^ n - 1)

/-- The result of an instruction that reports acceptance in a predicate (08 R157). -/
def retAccept (pd : Nat) (b : Bool) : State → State := emit 1 (predBit pd b)

/-! ### Acceptance of a command (08 R157) -/

/-- A command given to the engine, or turned away with 0. -/
def acceptCmd (pd : Nat) (k : CopyCmd) (clear : Option Nat) (s : State) : State :=
  if s.core.cp.cmds.length < 16 ∧ evRoom s.core = true then
    let s := onCp (fun c => { c with cmds := c.cmds ++ [k] }) (reserveEv s)
    let s := match clear with
      | some n => onCore (fun c => putCb k.cb (cbOf c k.cb &&& ~~~lowBits n) c) s
      | none => s
    retAccept pd true (cntEv 0x1E 1 s)
  else retAccept pd false s

/-- A command as accepted in this bundle, with nothing done. -/
def newCmd (kind : CopyKind) (tag : Nat) (s : State) : CopyCmd :=
  { kind := kind, pc := s.core.iss.pc, desc := [], fs := 0, fd := 0, rm := 0, tag := tag, cb := 0, tgt := 0, arg := 0,
    arg2 := 0, ttb := s.core.x.ttb, sup := s.core.x.pl, pages := [], started := false, out := [], total := 0,
    flags := flNone, digest := 0, held := false, status := 0, bytes := 0, notice := none, gap := 0, sent := [], stage := 0,
    far := [] }

/-- First conflict of the ranges with a declared phase, as agent 1 (23 R371). -/
def copyPhase (s : State) (kind : CopyKind) (tgt : Nat) (rs : List CRange) : Option Word :=
  (rs.filter CRange.sp).findSome? (fun r => (r.eas kind tgt).findSome? (fun ea =>
    let p := spRef s ea
    (phaseBad (coreAt s p.key) 1 r.wr p.buf p.off (p.off + r.len)).map (fun x => ea + wd (x - p.off))))

/-- First address at which a written range meets a leaf range of this core's live nodes, and the nodes (10 R205). -/
def copyAlias (s : State) (kind : CopyKind) (tgt : Nat) (rs : List CRange) : Option (Word × List Nat) :=
  (rs.filter CRange.wr).findSome? (fun r =>
    if r.sp then
      (r.eas kind tgt).findSome? (fun ea =>
        let p := spRef s ea
        if p.key = s.focus then
          (hazardAt s.core p.buf p.off (p.off + r.len)).map
            (fun a => (ea + wd (a - p.off), hazardNodes s.core p.buf p.off (p.off + r.len)))
        else none)
    else
      let lo := r.lo.toNat
      (hazardAt s.core 3 lo (lo + r.len)).map (fun a => (wd a, hazardNodes s.core 3 lo (lo + r.len))))

/-- Banks of the C-buffer that the lines of a range cover (07 R133). -/
def cBanks (lo hi : Nat) : List Nat :=
  (List.range 16).filter (fun k => (List.range (cdiv hi 64 - lo / 64)).any (fun i => decide ((lo / 64 + i) % 16 = k)))

/-- Do two ranges of the C-buffer share a bank? -/
def banksMeet (a b c d : Nat) : Bool := (cBanks a b).any (fun k => (cBanks c d).contains k)

/-- Does the destination of a CPYA share a bank with a writeback in flight? -/
def cpyaClash (s : State) (lo hi : Nat) : Bool :=
  s.core.mx.flight.any (fun f => f.writes.any (fun w => decide (w.1 = 2) && banksMeet lo hi w.2.1 w.2.2))

/-- CPY, CPYA and CPYM once the descriptor is read (08 R153, R157–R159). -/
def giveCopy (kind : CopyKind) (pd cb tag tgt : Nat) (d : List Byte) (s : State) : State :=
  let c := cdOf d
  let fs := ftabWord s c.fs
  let fd := ftabWord s c.fd
  let rm := c.rmNow (fpRm s)
  if !c.legal kind tgt fs fd (ftabWord s c.fsc) rm then illop s
  else
    let cs := (fmtOf fs).cont
    let cd := (fmtOf fd).cont
    let rs := c.ranges cs cd
    match spadRefused s kind tgt rs with
    | some fa => trap cPROT 0 fa s
    | none =>
      match c.misaligned cs cd with
      | some fa => trap cALIGN 0 fa s
      | none =>
        if rangesClash s kind tgt rs || !c.spanOk cd then illop s
        else
          match copyPhase s kind tgt rs with
          | some fa => trap cPHASECONF 0 fa s
          | none =>
            match copyAlias s kind tgt rs with
            | some (fa, ns) => if exposed s then trap cALIAS 0 fa s else hold 0x33 (askForce s.focus ns s)
            | none =>
              let (lo, hi) := c.dstBounds cd
              if kind = .cpya ∧ c.empty = false ∧ exposed s = true ∧ cpyaClash s (lo.toNat % 2 ^ 20) (hi.toNat % 2 ^ 20) = true
              then sviol 2 s
              else
                let k := { newCmd kind tag s with desc := d, fs := fs, fd := fd, rm := rm, cb := cb, tgt := tgt }
                acceptCmd pd k (if c.nb || c.empty then none else some (c.span cd).2) s

/-- CPY, CPYA and CPYM (08 R150). -/
def copyIssue (kind : CopyKind) (g n p r c t k : Nat) (s : State) : Out :=
  slotDo g n (ownLine (rdA s r) 128 (fun d => giveCopy kind p c t k d)) s

def execCpy (g n p r c t : Nat) (s : State) : Out := copyIssue .cpy g n p r c t 0 s
def execCpya (g n p r c t : Nat) (s : State) : Out := copyIssue .cpya g n p r c t 0 s
def execCpym (g n p r c t k : Nat) (s : State) : Out := copyIssue .cpym g n p r c t k s

/-- CPYQ (08 R166): the pop is made after acceptance. -/
def execCpyq (g n p s t : Nat) (z : State) : Out :=
  slotDo g n (fun z => acceptCmd p { newCmd .cpyq t z with arg := rdS z s } none z) z

/-- PREF (12 R226). -/
def execPref (g n p s b c k : Nat) (z : State) : Out :=
  slotDo g n (fun z =>
    let lo := rdS z s
    let len := (rdS z b).toNat
    if 2 ^ 30 < len then illop z
    else if nonCanon lo.toNat || decide (2 ^ 64 < lo.toNat + len) then trap cXLATE 1 lo z
    else acceptCmd p { newCmd .pref k z with arg := lo, arg2 := wd len, tgt := c } none z) z

/-! ### Bitmaps and records (08 R164, R165) -/

/-- Window `w` of bitmap `k`. -/
def cbWindow (s : State) (k w : Nat) : Word := BitVec.ofNat 64 ((cbOf s.core k).toNat / 2 ^ (64 * w))

/-- Is every bit of the mask set? -/
def cbMet (s : State) (k w : Nat) (m : Word) : Bool := decide (cbWindow s k w &&& m = m)

def execCbtest (g n d k w s : Nat) (z : State) : Out := retP g n d (cbMet z k w (rdS z s)) z
def execCbwait (g n k w s : Nat) (z : State) : Out := slotDo g n (waitIl (cbMet z k w (rdS z s)) id) z
def execCbclr (g n k w s : Nat) (z : State) : Out :=
  slotDo g n (fun z =>
    let m : BitVec 256 := BitVec.ofNat 256 ((rdS z s).toNat * 2 ^ (64 * w))
    onCore (fun c => putCb k (cbOf c k &&& ~~~m) c) z) z
def execCbrd (g n d k w : Nat) (s : State) : Out := retS g n 1 d (cbWindow s k w) s

def execEvpop (g n d p : Nat) (s : State) : Out :=
  slotDo g n (fun s =>
    match s.core.cp.evq with
    | [] => emit 1 (predBit p false) (emit 1 (.s d 0) s)
    | r :: rest =>
      emit 1 (predBit p true) (emit 1 (.s d r) (cntEv 0x21 1 (onCp (fun c => { c with evq := rest }) s)))) s

end Sys2Proof.Machine
end

