-- ==== Sys2Proof/Machine/Queues.lean ====
section
/-!
DEFINITION. Machine/Queues.lean: memory-side queues (14 R256–R259): handles, pushes and pops at the home, waiters and
their deliveries, QPUSH and QPOP; and who a core acts for (13 R240).
-/
namespace Sys2Proof.Machine

/-! ### Agents (13 R240, 16 R276) -/

/-- The agent a core acts for: the continuation it runs, or the core itself. -/
def agentOf (key : Nat) (c : Core) : Agent :=
  match c.task.cont with
  | some k => ⟨k.team, k.ctx, some key⟩
  | none => ⟨0x10000 + key, 0, some key⟩

/-- The same continuation or core, wherever it runs. -/
def Agent.same (x y : Agent) : Bool := decide (x.team = y.team ∧ x.slot = y.slot)

/-- Kind of the message that asks a package whether it has gathered every marker sent to it (13 R253). -/
def kMarker : Nat := 45

/-- Has every store the core sent to another package, and every flush marker, been acknowledged or failed (13 R246, R253)? -/
def podClear (s : State) : Bool :=
  !inFlight s (fun q => match q with
    | .store c _ _ _ _ => decide (c = s.focus)
    | .tell c k _ _ => decide (c = s.focus ∧ k = kMarker)
    | _ => false)

/-- In recovery mode a flush marker goes down every path to each package that earlier accesses of the core reached, and the
package answers once it has them all (13 R253). -/
def flushMarkers (s : State) : State :=
  let s := s.core.cm.reach.foldl (fun s p =>
    let ks := usable s s.ctl.pkgNum p
    tell p kMarker s.focus (leBytes 2 ks.length) (ks.foldl (fun s k => let r := markerRef s.ctl.pkgNum p; putFlits k 4 r [markerPayload r] s) s)) s
  onCm (fun c => { c with reach := [] }) s

/-- A release that own stores, performed as they issue, never delay, and that remote ones do: it waits for their
acknowledgements (13 R249), in recovery mode for flush markers too. `f` where it is done, `w` where it must wait. -/
def releaseElse (w f : State → State) (s : State) : State :=
  if !podClear s then w s
  else if recov s && !s.core.cm.reach.isEmpty then w (flushMarkers s)
  else f s

/-- A release for which the slot waits, with those below it committed: their stores go before it (03 R53). -/
def releasePod : (State → State) → State → State := releaseElse (splitAs 1 0x33)

/-- A release at package scope, or at `pod`. -/
def releaseAt (pod : Bool) (f : State → State) (s : State) : State := if pod then releasePod f s else f s

/-- A release that in recovery mode has earlier accesses to other packages flushed whatever its scope: REL and TRIGGER (13
R253). -/
def releaseAll (f : State → State) (s : State) : State := releaseAt (recov s) f s

/-! ### Handles (14 Table 14-3) -/

structure Hnd where
  v : Bool
  pkg : Nat
  stk : Nat
  hgen : Nat
  qnum : Nat
  resv : Bool
  deriving DecidableEq, Repr

def hndOf (w : Word) : Hnd :=
  { v := bitAt w 63, pkg := fld w 47 34, stk := fld w 33 31, hgen := fld w 15 10, qnum := fld w 9 0,
    resv := decide (fld w 62 48 ≠ 0) || decide (fld w 30 16 ≠ 0) }

/-- A legal handle: V = 1 and reserved bits zero. -/
def Hnd.ok (h : Hnd) : Bool := h.v && !h.resv
def Hnd.key (h : Hnd) : Nat := h.stk * 1024 + h.qnum

/-- Statuses (14 Table 14-2). -/
def qOK : Nat := 0
def qEMPTY : Nat := 1
def qFULL : Nat := 2
def qSTALE : Nat := 3
def qDENIED : Nat := 4
def qPENDING : Nat := 5
def qNOROOM : Nat := 6
def qNOREG : Nat := 7

/-- Who asks: supervisor level, or a user task's ASID. -/
structure Asker where
  sup : Bool
  asid : Nat
  deriving DecidableEq, Repr

def askerOf (c : Core) : Asker := ⟨c.x.pl, fld c.x.ttb 63 52⟩

/-- An asker as a request to another package carries it. -/
def askerBytes (sup : Bool) (asid : Nat) : List Byte := leBytes 1 (b2n sup) ++ leBytes 2 asid

/-- The core in focus as asker, in a request. -/
def meBytes (c : Core) : List Byte := askerBytes c.x.pl (fld c.x.ttb 63 52)

/-- Key of a core or an engine of another package, or of a continuation away from a core there; own keys lie below 2^24. -/
def farKey (src id : Nat) : Nat := 2 ^ 24 + src * 2 ^ 20 + id % 2 ^ 20

/-- An agent's team and pool slot as a request carries them (19 R331). -/
def agentBytes (a : Agent) : List Byte := leBytes 4 a.team ++ leBytes 4 a.slot

/-- Is a key one of another package? -/
def isFar (k : Nat) : Bool := decide (2 ^ 24 ≤ k)
def farPkg (k : Nat) : Nat := (k - 2 ^ 24) / 2 ^ 20
def farId (k : Nat) : Nat := k % 2 ^ 20

/-- The queue a handle of the own package names, or the status that turns the request away. -/
def qFind (s : State) (w : Asker) (h : Hnd) : Queue ⊕ Nat :=
  match mfind? s.home.queues h.key with
  | none => .inr qSTALE
  | some q =>
    if !q.live || decide (q.hgen ≠ h.hgen) then .inr qSTALE
    else if !w.sup && decide (w.asid ≠ q.asid) then .inr qDENIED else .inl q

def putQueue (k : Nat) (q : Queue) : State → State := onHome (fun h => { h with queues := mput h.queues k q })

/-- An entry handed to the oldest waiter that has none due. -/
def handTo (e : List Byte) : List QWait → List QWait
  | [] => []
  | w :: r => if w.due.isNone then { w with due := some e } :: r else w :: handTo e r

/-- A push performed at its home (14 R257): the status, and the state after it. -/
def qPush (w : Asker) (h : Hnd) (e : List Byte) (s : State) : Nat × State :=
  match qFind s w h with
  | .inr st => (st, s)
  | .inl q =>
    if q.cap ≤ q.ents.length then (qFULL, s)
    else if q.waits.any (fun x => x.due.isNone) then (qOK, putQueue h.key { q with waits := handTo e q.waits } s)
    else (qOK, putQueue h.key { q with ents := q.ents ++ [e] } s)

/-- A pop performed at its home: the status, the entry, the state after it. -/
def qPop (w : Asker) (h : Hnd) (s : State) : Nat × List Byte × State :=
  match qFind s w h with
  | .inr st => (st, [], s)
  | .inl q =>
    match q.ents with
    | [] => (qEMPTY, [], s)
    | e :: r => (qOK, e, putQueue h.key { q with ents := r } s)

/-! ### Deliveries to waiters (14 R258) -/

/-- Kind of the message that delivers an entry to a waiter of another package. -/
def kDeliver : Nat := 19

/-- The first waiter of a queue, of those that satisfy `p`, that has an entry and runs on a core. -/
def nextDue (p : Agent → Bool) (q : Queue) : Option QWait :=
  q.waits.find? (fun w => w.due.isSome && w.who.core.isSome && p w.who)

/-- An entry written to its line and its record posted, the delivery acting as an acquire; nothing happens where there is
none to deliver. -/
def deliverTo (p : Agent → Bool) (k : Nat) (s : State) : State :=
  match mfind? s.home.queues k with
  | none => s
  | some q =>
    match nextDue p q with
    | none => s
    | some w =>
      match w.who.core, w.due with
      | some c, some e =>
        let s := if isFar c then tell (farPkg c) kDeliver (farId c) (agentBytes ⟨farId w.who.team, w.who.slot, none⟩ ++ leBytes 4 w.off ++ leBytes 1 w.tag ++ e) s
          else onCoreAt c (fun x => postEv (evRec 5 w.tag 0 0 64) (rcFilter (fun _ => true) (asyncBytes s.time 4 4096 (ownPorts 1 w.off 64) 1 w.off e x))) s
        putQueue k { q with waits := q.waits.erase w } s
      | _, _ => s

/-- The first waiter that can be served is served. -/
def deliver : Nat → State → State := deliverTo (fun _ => true)

/-- The step of the home that serves one waiter. -/
def execWaiterDelivery (queue : Nat) (s : State) : Out := .next (deliver queue s)

/-! ### QPUSH and QPOP (14 R254–R257) -/

/-- A status as the result of a device-memory load (14 R255). -/
def retStatus (d : Nat) (x : Nat) (s : State) : State := retDev d (wd x) s

def execQpush (g n d q r : Nat) (s : State) : Out :=
  slotDo g n (fun s =>
    let h := hndOf (rdS s q)
    if !h.ok then illop s
    else
      ownLine (rdA s r) 64 (fun e s =>
        let pod := decide (h.pkg ≠ s.ctl.pkgNum)
        releaseAt pod (fun s =>
          if pod then remoteAsk h.pkg 0 16 (rdS s q).toNat (meBytes s.core ++ e) 0 (fun st s => retStatus d (st % 256) (cntEv 0x23 1 s)) s
          else
            let (st, s) := qPush (askerOf s.core) h e s
            retStatus d st (cntEv 0x23 1 s)) s) s) s

/-- The popped entry lands in its line, and the core's read cache is invalidated by the acquire. -/
def popLands (ea : Word) (d : Nat) (e : List Byte) (s : State) : State :=
  retStatus d qOK (rcClear (spadStore { spRef s ea with q := 0 } 0 e s))

/-- QPOP and QPOP.B (14 R257, R258). `blk` registers a waiter on an empty queue. -/
def qpopDo (blk : Option Nat) (d q r : Nat) (s : State) : State :=
  let h := hndOf (rdS s q)
  let ea := rdA s r
  if !h.ok then illop s
  else
    ownPlace true ea 64 (spadGo 0 true ea 64 [(0, 64)] none) (fun p s =>
          if h.pkg ≠ s.ctl.pkgNum then
            -- the reply gives the status in its low byte and, with OK, the entry above it
            let wait := blk.isSome && evRoom s.core
            let a := agentOf s.focus s.core
            remoteAsk h.pkg 0 (if wait then 18 else 17) (rdS s q).toNat
              (meBytes s.core ++ agentBytes a ++ leBytes 4 p.off ++ leBytes 1 (blk.getD 0)) 0 (fun v s =>
                let s := cntEv 0x23 1 s
                let st := v % 256
                if st = qOK then popLands ea d (leBytes 64 (v / 256)) s
                else if st = qPENDING then
                  retStatus d st (onCm (fun c => { c with regs := c.regs ++ [(h.pkg, blk.getD 0)] }) (reserveEv s))
                else retStatus d (if blk.isSome ∧ wait = false ∧ st = qEMPTY then qNOROOM else st) s) s
          else
            let (st, e, s) := qPop (askerOf s.core) h s
            let s := cntEv 0x23 1 s
            if st = qOK then popLands ea d e s
            else
              match blk, mfind? s.home.queues h.key with
              | some tag, some qu =>
                if st ≠ qEMPTY then retStatus d st s
                else if 64 ≤ qu.waits.length ∨ evRoom s.core = false then retStatus d qNOROOM s
                else
                  let w : QWait := { who := agentOf s.focus s.core, off := p.off, tag := tag, due := none }
                  retStatus d qPENDING (putQueue h.key { qu with waits := qu.waits ++ [w] } (reserveEv s))
              | _, _ => retStatus d st s) s

def execQpop (g n d q r : Nat) (s : State) : Out := slotDo g n (qpopDo none d q r) s
def execQpopB (g n d q r t : Nat) (s : State) : Out := slotDo g n (qpopDo (some t) d q r) s

end Sys2Proof.Machine
end

