-- ==== Sys2Proof/Machine/Objects.lean ====
section
/-!
DEFINITION. Machine/Objects.lean: synchronisation objects and FENCE (13 R230–R246).
-/
namespace Sys2Proof.Machine

/-! ### Object statuses (13 Table 13-2) -/

def oOK : Nat := 0
def oOVERLAP : Nat := 1
def oFULL : Nat := 2
def oNOTPIN : Nat := 3
def oHELD : Nat := 4
def oNOTBOUND : Nat := 5
def oSCOPE : Nat := 6
def oBUSY : Nat := 7
def oNOTHELD : Nat := 8

/-- The first status whose condition holds, in rising order. -/
def firstStatus : List (Bool × Nat) → Nat
  | [] => oOK
  | (b, st) :: r => if b then st else firstStatus r

/-- The instance of a scope a core of a package belongs to, numbered through the pod: a control core belongs to no quad and no die
(13 R230). Its copy engine and Teasel count as the core. -/
def instAt (pkg sc key : Nat) : Option Nat :=
  if sc = 0 then (if key < 1024 then some (256 * pkg + key / 4) else none)
  else if sc = 1 then (if key < 1024 then some (4 * pkg + key / 256) else none)
  else if sc = 2 then some pkg else some 0

/-- That of a core of the own package. -/
def instOf (s : State) (sc key : Nat) : Option Nat := instAt s.ctl.pkgNum sc key

/-- Does a memory-side agent belong to an object's instance (13 R230)? A Sorrel engine is of its stack's die and of the package;
the collective engine, with no stack, is of the package only. -/
def engineIn (s : State) (stk : Option Nat) (o : Obj) : Bool :=
  if o.scope = 0 then false
  else if o.scope = 1 then stk.any (fun k => decide (4 * s.ctl.pkgNum + k / 2 = o.inst))
  else if o.scope = 2 then decide (o.inst = s.ctl.pkgNum) else true

def objAt (s : State) (line : Nat) : Option Obj := s.home.objs.find? (fun o => decide (o.line = line))
def putObj (o : Obj) : State → State := onHome (fun h =>
  { h with objs := if h.objs.any (fun x => decide (x.line = o.line))
                   then h.objs.map (fun x => if x.line = o.line then o else x) else h.objs ++ [o] })

/-- Does the object lie outside the agent's scope or instance? -/
def scopeBad (s : State) (o : Obj) (sc : Option Nat) : Bool :=
  (match sc with | some k => decide (k ≠ o.scope) | none => false) || instOf s o.scope s.focus != some o.inst

/-- An object's address: aligned and translated as a read; the register space and a fault raise their causes (13 R235,
25 R393). `f` takes the full address of the line and whether its page is pinned. -/
def objLine (va : Word) (f : Nat → Bool → State → State) (s : State) : State :=
  if va.toNat % 64 ≠ 0 then trap cALIGN 0 va s
  else
    match transCore .rd va s with
    | (.bad c d fa, s) => trap c d fa s
    | (.ok a e, s) =>
      if isReg a then trap cPROT 4 va s else if retired s a then trap cMEMERR 1 va s else f a (decide (e / 2 ^ 8 % 2 = 1)) s

/-- An object of another package: its home answers with a status. The request names the task that asks (19 R331). -/
def objAsk (a kind : Nat) (data : List Byte) (va : Word) (d : Nat) (f : Nat → State → State) (s : State) : State :=
  releaseAt true (remoteAsk (pkgOf a) 0 kind a (agentBytes (agentOf s.focus s.core) ++ data) va (fun st s => retStatus d (st % 256) (f (st % 256) s))) s

/-! ### BIND and UNBIND (13 R236, R237) -/

/-- Pieces of a range, a page at a time: (first byte, bytes), pinned all of them, or a fault. -/
def bindPages : Nat → Nat → Nat → List (Nat × Nat) → Bool → State → ((Nat × Nat × Word) ⊕ (List (Nat × Nat) × Bool)) × State
  | 0, _, _, ps, pin, s => (.inr (ps.reverse, pin), s)
  | k + 1, va, len, ps, pin, s =>
    if len = 0 then (.inr (ps.reverse, pin), s)
    else
      match transCore .wr (wd va) s with
      | (.bad c d fa, s) => (.inl (c, d, fa), s)
      | (.ok a e, s) =>
        if isReg a then (.inl (cPROT, 4, wd va), s)
        else if retired s a then (.inl (cMEMERR, 1, wd va), s)
        else
          let n := 2 ^ 16 - va % 2 ^ 16
          let n := if len < n then len else n
          bindPages k (va + n) (len - n) ((a, n) :: ps) (pin && decide (e / 2 ^ 8 % 2 = 1)) s

/-- Do two sets of pieces share a byte? -/
def pcsMeet (xs ys : List (Nat × Nat)) : Bool :=
  xs.any (fun x => ys.any (fun y => (meetAt x.1 (x.1 + x.2) y.1 (y.1 + y.2)).isSome))

/-- Read-cache copies of pieces leave every core. -/
def dropPcs (ps : List (Nat × Nat)) (s : State) : State := rcDropAll (fun l => pcsMeet [(l, 64)] ps) s

/-- Team number, or 4096 for a core that runs no task. -/
def teamNum (c : Core) : Nat := (c.task.cont.map Cont.team).getD 4096

/-- BIND with the object's line and the range translated. -/
def bindAt (line : Nat) (pin : Bool) (sc d : Nat) (va : Word) (len : Nat) (ps : List (Nat × Nat)) (s : State) : State :=
  let old := objAt s line
  let full := match old with
    | some o => decide (8 ≤ o.ranges.length)
    | none => decide (16384 ≤ (s.home.objs.filter (fun o => decide (stackOf (paOf o.line) = stackOf (paOf line)))).length)
  let st := firstStatus
    [(!pin, oNOTPIN), (match old with | some o => scopeBad s o (some sc) | none => (instOf s sc s.focus).isNone, oSCOPE),
     (s.home.objs.any (fun o => o.ranges.any (fun r => pcsMeet r.pcs ps)), oOVERLAP), (full, oFULL)]
  if st ≠ oOK then retStatus d st s
  else
    let r : BRange := { va := va, len := len, pcs := ps }
    let o := match old with
      | some o => { o with ranges := o.ranges ++ [r] }
      | none => { line := line, scope := sc, inst := (instOf s sc s.focus).getD 0, ranges := [r], hold := .free, wait := [],
                  rel := 0, maker := teamNum s.core, inWin := true }
    retStatus d oOK (dropPcs ps (putObj o s))

/-- A range across packages, or on another package than its object: the spec names no status (log 50). -/
def bindAcross (d : Nat) (s : State) : State :=
  let (k, s) := draw s
  retDev d (Config.freeWord k) s

def execBind (g n d a b s : Nat) (z : State) : Out :=
  slotDo g n (fun z =>
    let base := rdS z b
    let len := (rdS z (b + 1)).toNat
    if base.toNat % 64 ≠ 0 ∨ len % 64 ≠ 0 ∨ len < 64 ∨ 2 ^ 36 < len then illop z
    else
      objLine (rdA z a) (fun line pin z =>
        match bindPages (len / 2 ^ 16 + 2) base.toNat len [] true z with
        | (.inl (c, dt, fa), z) => trap c dt fa z
        | (.inr (ps, pins), z) =>
          if ps.any (fun p => decide (pkgOf p.1 ≠ pkgOf line)) then bindAcross d z
          else if pkgOf line ≠ z.ctl.pkgNum then
            objAsk line 20 (leBytes 1 (s + 8 * b2n (pin && pins)) ++ ps.flatMap (fun p => leBytes 8 p.1 ++ leBytes 8 p.2)) (rdA z a) d (fun _ z => z) z
          else bindAt line (pin && pins) s d base len ps z) z) z

def execUnbind (g n d a : Nat) (s : State) : Out :=
  slotDo g n (objLine (rdA s a) (fun line pin s =>
    if pkgOf line ≠ s.ctl.pkgNum then objAsk line 21 (leBytes 1 (8 * b2n pin)) (rdA s a) d (fun _ s => s) s
    else
      match objAt s line with
      | none => retStatus d (if pin then oNOTBOUND else oNOTPIN) s
      | some o =>
        let st := firstStatus [(!pin, oNOTPIN), (scopeBad s o none, oSCOPE), (decide (o.hold ≠ .free), oHELD)]
        if st ≠ oOK then retStatus d st s
        else retStatus d oOK (onHome (fun h => { h with objs := h.objs.filter (fun x => decide (x.line ≠ line)) }) s))) s

/-! ### ACQ (13 R238) -/

/-- An engine that waits for an object, by its number. -/
def engAgent (n : Nat) : Agent := ⟨0x20000, n, none⟩

/-- The holding once a request is granted, when it is compatible. -/
def grantTo (a : Agent) (x : Bool) : Holding → Option Holding
  | .free => some (if a = engAgent a.slot then .engine a.slot else if x then .excl a else .shared [a])
  | .shared hs => if x then none else some (.shared (hs ++ [a]))
  | _ => none

/-- Waiters granted in arrival order while they are compatible (13 R239 step 6). -/
def grantGo : List (Agent × Bool) → Holding → List (Agent × Bool) × Holding
  | [], h => ([], h)
  | (a, x) :: r, h => match grantTo a x h with | some h => grantGo r h | none => ((a, x) :: r, h)

/-- The next waiters of an object are granted. -/
def grantNext (o : Obj) : Obj := let (w, h) := grantGo o.wait o.hold; { o with wait := w, hold := h }

/-- Does the agent hold the object? -/
def Obj.holds (o : Obj) (a : Agent) : Bool :=
  match o.hold with
  | .shared hs => hs.any (fun h => h.same a)
  | .excl h => h.same a
  | _ => false

/-- Pieces of an object's ranges. -/
def Obj.pcs (o : Obj) : List (Nat × Nat) := o.ranges.flatMap BRange.pcs

/-- Copies of an object's lines leave the read cache of the core in focus. -/
def rcDropObj (o : Obj) (s : State) : State := onCore (rcFilter (fun l => pcsMeet [(l, 64)] o.pcs)) s

/-- The core in focus holds one more object. -/
def addHeld (line : Nat) : State → State := onCm (fun c => { c with held := c.held ++ [line] })
def dropHeld (line : Nat) : State → State := onCm (fun c => { c with held := c.held.filter (fun x => decide (x ≠ line)) })

/-- A grant lands. -/
def acqLands (o : Obj) (d : Nat) (s : State) : State := retStatus d oOK (addHeld o.line (rcDropObj o s))

/-- ACQ on an object of the own package. -/
def acqAt (line : Nat) (pin x try_ : Bool) (sc d : Nat) (s : State) : State :=
  let full := s.core.cm.held.contains line || decide (16 ≤ s.core.cm.held.length)
  match objAt s line with
  | none => retStatus d (firstStatus [(!pin, oNOTPIN), (true, oNOTBOUND)]) s
  | some o =>
    let me := agentOf s.focus s.core
    let st := firstStatus [(!pin, oNOTPIN), (scopeBad s o (some sc), oSCOPE), (full, oFULL)]
    if st ≠ oOK then retStatus d st s
    else if o.holds me then acqLands o d s
    else if o.wait.any (fun w => w.1.same me) then hold 0x36 s
    else
      match if o.wait.isEmpty then grantTo me x o.hold else none with
      | some h => let o := { o with hold := h }; acqLands o d (putObj o s)
      | none => if try_ then retStatus d oBUSY s else hold 0x36 (putObj { o with wait := o.wait ++ [(me, x)] } s)

/-- An engine's ACQX of an object: held, or queued in the order of arrival. -/
def engAcq (n : Nat) (o : Obj) (s : State) : Bool × State :=
  let me := engAgent n
  if o.hold = .engine n then (true, s)
  else
    match if o.wait.isEmpty then grantTo me true o.hold else none with
    | some h => (true, putObj { o with hold := h } s)
    | none => (false, if o.wait.any (fun w => w.1.same me) then s else putObj { o with wait := o.wait ++ [(me, true)] } s)

/-- An engine acquires objects one after the other (14 R264). -/
def engAcqAll (n : Nat) : List Obj → State → Bool × State
  | [], s => (true, s)
  | o :: r, s => match engAcq n o s with | (true, s) => engAcqAll n r s | (false, s) => (false, s)

/-- An engine's holding and its place among an object's waiters are gone; the next waiters are granted. -/
def engGone (n : Nat) (o : Obj) : Obj :=
  grantNext { o with hold := if o.hold = .engine n then .free else o.hold, wait := o.wait.filter (fun w => !w.1.same (engAgent n)) }

/-- An engine's own release of an object: its shadows of the bound lines are published, the count rises, the next waiters are
granted (13 Table 13-3, R239). -/
def engRel (n key : Nat) (meas : Bool) (o : Obj) (s : State) : State :=
  let s := publish (fun x => decide (x.owner = key) && o.binds x.line) meas s
  putObj (engGone n { o with rel := o.rel + 1 }) s

/-- Objects bound to a byte of the pieces, in ascending object address. -/
def objsOver (s : State) (ps : List (Nat × Nat)) : List Obj :=
  (s.home.objs.filter (fun o => pcsMeet o.pcs ps)).foldl
    (fun m o => m.takeWhile (fun x => decide (x.line < o.line)) ++ o :: m.dropWhile (fun x => decide (x.line < o.line))) []

/-- The four ACQ forms. -/
def acq (x try_ : Bool) (g n d a sc : Nat) (s : State) : Out :=
  slotDo g n (fun s =>
    if !try_ && exposed s then illop s
    else
      objLine (rdA s a) (fun line pin s =>
        if pkgOf line ≠ s.ctl.pkgNum then
          (if s.core.cm.held.contains line ∨ 16 ≤ s.core.cm.held.length then retStatus d oFULL s
           else
             objAsk line (22 + b2n x + 2 * b2n try_) (leBytes 1 (sc + 8 * b2n pin)) (rdA s a) d
               (fun st s => if st = oOK then addHeld line s else s) s)
        else acqAt line pin x try_ sc d s) s) s

def execAcqs (g n d a s : Nat) (z : State) : Out := acq false false g n d a s z
def execAcqsT (g n d a s : Nat) (z : State) : Out := acq false true g n d a s z
def execAcqx (g n d a s : Nat) (z : State) : Out := acq true false g n d a s z
def execAcqxT (g n d a s : Nat) (z : State) : Out := acq true true g n d a s z

/-! ### REL (13 R239) -/

/-- Does a command of the core's engines with a destination in device memory stand in the way (13 R239 step 2)? -/
def relWaits (s : State) : Bool :=
  s.core.cp.cmds.any (fun k => decide (k.kind = .cpyq) || (decide (k.kind ≠ .pref) && !(cdOf k.desc).dsp)) ||
  s.core.th.reqs.any (fun r => decide (r.kind = 1) && (match r.region with | some g => (tdOf g.1).virt | none => false)) ||
  s.home.dram.any (fun k => decide (k.core = s.focus) && !k.written)

/-- A holding without one agent. -/
def Holding.less (a : Agent) : Holding → Holding
  | .shared hs => let r := hs.filter (fun h => !h.same a); if r.isEmpty then .free else .shared r
  | .excl h => if h.same a then .free else .excl h
  | h => h

/-- Shadows of a core's engines on an object's lines. -/
def objShadow (key : Nat) (o : Obj) (x : Shadow) : Bool :=
  (decide (x.owner = key) || decide (x.owner = 4096 + key)) && x.bound && o.binds x.line

/-- The release of an object by an agent: its core's shadows are published, copies dropped, the count raised, the
holding ended and the next waiters granted (13 R239 steps 3 to 6). -/
def releaseObj (a : Agent) (key : Nat) (o : Obj) (s : State) : State :=
  let s := publish (objShadow key o) (coreAt s key).pm.open_ s
  let s := onCoreAt key (rcFilter (fun l => pcsMeet [(l, 64)] o.pcs)) s
  putObj (grantNext { o with rel := o.rel + 1, hold := o.hold.less a }) s

def execRel (g n d a s : Nat) (z : State) : Out :=
  slotDo g n (objLine (rdA z a) (fun line pin z =>
    if pkgOf line ≠ z.ctl.pkgNum then
      (if relWaits z then hold 0x33 z
       else objAsk line 26 (leBytes 1 (s + 8 * b2n pin)) (rdA z a) d (fun st z => if st = oOK then dropHeld line z else z) z)
    else
      match objAt z line with
      | none => retStatus d (if pin then oNOTBOUND else oNOTPIN) z
      | some o =>
        let me := agentOf z.focus z.core
        let st := firstStatus [(!pin, oNOTPIN), (scopeBad z o (some s), oSCOPE), (!o.holds me, oNOTHELD)]
        if st ≠ oOK then retStatus d st z
        else if relWaits z then hold 0x33 z
        else releaseAll (fun z => retStatus d oOK (dropHeld line (releaseObj me z.focus o z))) z)) z

/-! ### FENCE (13 R246) -/

/-- FENCE's status word (13 Table 13-4). -/
def fenceWord (c : CMem) : Word := wd (b2n c.fDead + 2 * b2n c.fRefused + 2 ^ 8 * c.fCount)

/-- FENCE: scopes 0 .lane, 1 .core, 2 .quad, 3 .die, 4 .pkg, 5 .pod. -/
def execFence (g n d s : Nat) (z : State) : Out :=
  slotDo g n (releaseAt (decide (s = 5)) (fun z =>
    let w := fenceWord z.core.cm
    let z := onCm (fun c => { c with fCount := 0, fRefused := false, fDead := false }) z
    retDev d w (if 2 ≤ s then rcClear z else z))) z

end Sys2Proof.Machine
end

