-- ==== Sys2Proof/Machine/Atomics.lean ====
section
/-!
DEFINITION. Machine/Atomics.lean: atomics at their home (13 R247–R250), exact accumulators (23 R366, R367), deterministic
mode's results and the atomic-order log (23 R368, R376–R378).
-/
namespace Sys2Proof.Machine

/-! ### What an atomic does at its home

Kinds: 1 AADD, 2 AAND, 3 AOR, 4 AXOR, 5 AMIN, 6 AMAX, 7 AMINU, 8 AMAXU, 9 ASWAP, 10 ACAS, 11 AADD.F32, 12 ARD, 13 ALD,
14 AST. -/

/-- Bytes of the location. -/
def atomSize (k : Nat) : Nat := if k = 11 ∨ k = 12 then 4 else 8

/-- The new value of an 8-byte atomic (13 Table 13-5): `b` is s[b], `d` is s[d]. -/
def atomNew (k : Nat) (old b d : Word) : Word :=
  if k = 1 then old + b
  else if k = 2 then old &&& b
  else if k = 3 then old ||| b
  else if k = 4 then old ^^^ b
  else if k = 5 then (if old.toInt ≤ b.toInt then old else b)
  else if k = 6 then (if b.toInt ≤ old.toInt then old else b)
  else if k = 7 then (if old.toNat ≤ b.toNat then old else b)
  else if k = 8 then (if b.toNat ≤ old.toNat then old else b)
  else if k = 10 then (if old = d then b else old)
  else b

def Acc.zero : Acc := { sum := 0, nan := false, pinf := false, ninf := false }

/-- A value added to an accumulator (23 R366). -/
def Acc.add (x : Num) (a : Acc) : Acc :=
  match x with
  | .nan => { a with nan := true }
  | .inf n => if n then { a with ninf := true } else { a with pinf := true }
  | .fin n m e _ =>
    let v : Int := m * 2 ^ (e + 149).toNat
    { a with sum := a.sum + BitVec.ofInt 280 (if n then -v else v) }

/-- ARD's result on a location with an entry (23 R367). -/
def Acc.read (a : Acc) (old : Nat) : Nat :=
  let o := decodeF fp32 old
  let pos := a.pinf || decide (o = .inf false)
  let neg := a.ninf || decide (o = .inf true)
  if a.nan || decide (o = .nan) || (pos && neg) then nanBits fp32
  else if pos || neg then infBits fp32 neg
  else
    let t := dyAdd (dyOf o) (a.sum.toInt, -149)
    if t.1 = 0 then (if o.isZero && o.neg? && decide (a.sum = 0) then 2 ^ 31 else 0)
    else (rneF fp32 (.fin (decide (t.1 < 0)) t.1.natAbs t.2 false)).1

/-- An accumulator is kept as it stood when a window first changes it (23 R366). -/
def captureAcc (w : Who) (a : Nat) (s : State) : State :=
  match w.team with
  | none => s
  | some t =>
    let k := winKey t (stackOf (paOf a))
    let v := (mfind? s.home.wins k).getD .new
    if v.accs.any (fun p => decide (p.1 = a)) then s
    else onHome (fun h => { h with wins := mput h.wins k { v with accs := v.accs ++ [(a, mfind? h.accs a)] } }) s

/-- An accumulator's entry changed. -/
def putAcc (w : Who) (a : Nat) (x : Option Acc) (s : State) : State :=
  let s := captureAcc w a (capture w (lineOf a) s)
  onHome (fun h => { h with accs := match x with | some v => mput h.accs a v | none => mdel h.accs a }) s

/-- Has the stack no room for a new entry (23 R366)? -/
def accFull (s : State) (a : Nat) : Bool :=
  (mfind? s.home.accs a).isNone &&
  decide (65536 ≤ (s.home.accs.filter (fun p => decide (stackOf (paOf p.1) = stackOf (paOf a)))).length)

/-- An atomic performed at its home: what it returns, and the state after it. The home has the L2 write the line back and drop
it first, and leaves behind the only copy (12 R223). -/
def atomAt (w : Who) (det : Bool) (k a : Nat) (b d : Word) (s : State) : Nat × State :=
  let s := l2Drop (lineOf a) 64 s
  let old := memNat s.mem a (atomSize k)
  if k = 13 then (old, s)
  else if k = 11 then
    if det then (0, putAcc w a (some (((mfind? s.home.accs a).getD .zero).add (decodeF fp32 b.toNat))) s)
    else
      let (x, _) := addN (decodeF fp32 old) (decodeF fp32 b.toNat) false
      (old, homePut w false a (leBytes 4 (rneF fp32 x).1) s)
  else if k = 12 then
    match mfind? s.home.accs a with
    | none => (old, homePut w false a (leBytes 4 old) s)
    | some v => let r := v.read old; (r, homePut w false a (leBytes 4 r) (putAcc w a none s))
  else
    (if det && decide (k ≤ 8) then 0 else old, homePut w false a (leBytes 8 (atomNew k (wd old) b d).toNat) s)

/-- The home's count of logged atomics rises (23 Table 23-7). -/
def nextHseq (a : Nat) (s : State) : Nat × State :=
  let k := stackOf (paOf a)
  (mget 0 s.home.hseq k, onHome (fun h => { h with hseq := mset 0 h.hseq k (mget 0 h.hseq k + 1) }) s)

/-! ### The instructions -/

/-- Is the atomic on a location logged (23 R368)? Only where the team's log for the stack is enabled. -/
def logged (s : State) (k a : Nat) : Option Cont :=
  s.core.task.cont.bind (fun c =>
    if c.det = true ∧ (k = 9 ∨ k = 10 ∨ k = 13 ∨ k = 14) ∧ (logD s c.team (2 + stackOf (paOf a))).isSome then some c else none)

def logOp (k : Nat) : Nat := if k = 9 then 0 else if k = 10 then 1 else if k = 14 then 2 else 3

/-- The record of an atomic that is logged for a continuation. -/
def logAtom (lg : Option Cont) (k a : Nat) (old d : Word) (hseq : Nat) (s : State) : State :=
  match lg with
  | none => s
  | some c =>
    let succ := if k = 10 ∧ old = d then 1 else 0
    logWrite c.team (2 + stackOf (paOf a)) (fun _ => atomRec s c.team c.task (logOp k) succ a old.toNat hseq) s

/-- The result, the count and the acquire of an atomic that was performed. -/
def atomDone (dst : Option Nat) (ord : Nat) (x : Word) (s : State) : State :=
  let s := cntEv 0x15 1 (if ord = 1 ∨ ord = 3 then rcClear s else s)
  match dst with | some d => retDev d x s | none => s

/-- An atomic (13 R248). `dst` is the register that receives the result, none for AST; `d` is s[d] as ACAS reads it. -/
def atomic (k : Nat) (g n : Nat) (dst : Option Nat) (a : Nat) (b d : Word) (ord sc : Nat) (s : State) : Out :=
  slotDo g n (fun s =>
    let ea := rdA s a
    if ea.toNat % atomSize k ≠ 0 then trap cALIGN 0 ea s
    else
      match transCore (if k = 13 then .rd else .wr) ea s with
      | (.bad c dt fa, s) => trap c dt fa s
      | (.ok p e, s) =>
        let det := (s.core.task.cont.map Cont.det).getD false
        let lg := logged s k p
        -- one whose reply is back was let through when it was sent
        let full := if s.core.cm.rem.isSome then none else lg.bind (fun c => logFull s c.team (2 + stackOf (paOf p)) 32)
        if isReg p then trap cPROT 4 ea s
        else if retired s p then trap cMEMERR 1 ea s
        else if decide (k = 13) && pairTorn s p then trap cPAIRTORN 0 (wd (lineOf ea.toNat)) s
        else
          match full with
          | some lim => trap cLOGFULL 0 lim s
          | none =>
            releaseAt (decide (2 ≤ ord ∧ sc = 3)) (fun s =>
              let w := whoCore s.core (leafCls e)
              if pkgOf p ≠ s.ctl.pkgNum then
                -- the reply: the old value below bit 64, bit 64 a refusal at a bound line, bit 65 a refusal of the
                -- package, the home's count above
                remoteAsk (pkgOf p) (leafCls e) k p
                  (leBytes 8 b.toNat ++ leBytes 8 d.toNat ++ leBytes 1 (b2n det + 2 * b2n lg.isSome)) ea (fun r s =>
                    if r / 2 ^ 65 % 2 = 1 then trap cLINK 0 ea s
                    else if r / 2 ^ 64 % 2 = 1 then lateEntry ea s
                    else atomDone dst ord (wd (r % 2 ^ 64)) (logAtom lg k p (wd (r % 2 ^ 64)) d (r / 2 ^ 66) (if k = 13 then s else farWrote w s))) s
              else
                let s := if (Tr.ok p e).rem then onCore (pmAdd 0x30 1) s else s
                if k ≠ 13 ∧ writeRefused s s.focus p = true then lateEntry ea s
                else if decide (k = 11) && det && accFull s p then hold 0x33 s
                else
                  let old := wd (memNat s.mem p (atomSize k))
                  let (h, s) := if lg.isSome then nextHseq p s else (0, s)
                  let (x, s) := atomAt w det k p b d s
                  let s := rcUpdate p (memBytes s.mem p (atomSize k)) s
                  let s := logAtom lg k p old d h s
                  atomDone dst ord (wd x) s) s) s

def execAadd (g n d a b o s : Nat) (z : State) : Out := atomic 1 g n (some d) a (rdS z b) 0 o s z
def execAand (g n d a b o s : Nat) (z : State) : Out := atomic 2 g n (some d) a (rdS z b) 0 o s z
def execAor (g n d a b o s : Nat) (z : State) : Out := atomic 3 g n (some d) a (rdS z b) 0 o s z
def execAxor (g n d a b o s : Nat) (z : State) : Out := atomic 4 g n (some d) a (rdS z b) 0 o s z
def execAmin (g n d a b o s : Nat) (z : State) : Out := atomic 5 g n (some d) a (rdS z b) 0 o s z
def execAmax (g n d a b o s : Nat) (z : State) : Out := atomic 6 g n (some d) a (rdS z b) 0 o s z
def execAminu (g n d a b o s : Nat) (z : State) : Out := atomic 7 g n (some d) a (rdS z b) 0 o s z
def execAmaxu (g n d a b o s : Nat) (z : State) : Out := atomic 8 g n (some d) a (rdS z b) 0 o s z
def execAswap (g n d a b o s : Nat) (z : State) : Out := atomic 9 g n (some d) a (rdS z b) 0 o s z
def execAcas (g n d a b o s : Nat) (z : State) : Out := atomic 10 g n (some d) a (rdS z b) (rdS z d) o s z
def execAaddF32 (g n d a b o s : Nat) (z : State) : Out := atomic 11 g n (some d) a (rdS z b) 0 o s z
def execArd (g n d a o s : Nat) (z : State) : Out := atomic 12 g n (some d) a 0 0 o s z
def execAld (g n d a o s : Nat) (z : State) : Out := atomic 13 g n (some d) a 0 0 o s z
def execAst (g n a b o s : Nat) (z : State) : Out := atomic 14 g n none a (rdS z b) 0 o s z

end Sys2Proof.Machine
end

