-- ==== Sys2Proof/Machine/CopyRun.lean ====
section
/-!
DEFINITION. Machine/CopyRun.lean: the copy engine at work: the lines of a command (08 R152–R158), their landing, late
faults, completion and event records (08 R160–R162), copy requests (08 R166), prefetches (12 R226).
-/
namespace Sys2Proof.Machine

/-! ### What a command writes (08 R152–R158) -/

/-- What the engine reads from: a byte of the source's space. -/
abbrev ByteRd := Nat → Byte

/-- `k` bits at a bit position of the 64-bit address space. -/
def rdBits (rd : ByteRd) (pos : Int) (k : Nat) : Nat :=
  let p := (pos % (2 ^ 67 : Int)).toNat
  bitsAt (fun a => rd ((p / 8 + a) % 2 ^ 64)) (p % 8) k

/-- The value of a source element, scaled when SMX = 1 (08 R154). -/
def CD.value (c : CD) (f : Fmt) (rd : ByteRd) (ix : List Nat) : Num :=
  let x := rdBits rd (c.srcBit f.cont ix) f.cont
  if c.smx then
    let row := nth 0 ix 1
    let col := nth 0 ix 0
    let o := if c.socp then row * 2 ^ c.ssh + col / 32 else row / 16 * 2 ^ c.ssh + col / 16
    mxScaled f (rd ((c.ssb + o) % 2 ^ 64)).toNat x
  else decodeF f x

/-- What the loop builds: bits by line, additions by line, the sixteen generators, flags. -/
structure CopyAcc where
  bits : SMap (Nat × Nat)
  adds : SMap (List (Nat × Num))
  gens : List W32
  fl : Flags5
  deriving DecidableEq, Repr

def CopyAcc.start (seed : Nat) : CopyAcc :=
  { bits := [], adds := [], gens := (List.range 16).map (fun l => seedState (wd seed) l), fl := flNone }

/-- Position of a destination bit in the 64-bit address space. -/
def bitPos (pos : Int) : Nat := (pos % (2 ^ 67 : Int)).toNat

/-- One element of a command without QUANT; the bits of its container above the element are written as zero (02 R19). -/
def copyElem (c : CD) (add : Bool) (fs fd : Fmt) (rm : Nat) (rd : ByteRd) (p : Nat × List Nat) (a : CopyAcc) : CopyAcc :=
  let pos := bitPos (c.dstBit fd.cont p.2)
  let (v, x, a) :=
    if c.conv then
      let (b, fl, g) := encodeF fd (c.value fs rd p.2) rm (nth 0 a.gens (p.1 % 16))
      (b, decodeF fd b, { a with gens := setNth a.gens (p.1 % 16) g, fl := a.fl ||| fl })
    else
      let b := rdBits rd (c.srcBit fs.cont p.2) fs.cont
      (b % 2 ^ fs.width, decodeF fs b, a)
  if add then
    let l := pos / 512
    { a with bits := putBits pos 32 0 a.bits, adds := mput a.adds l (mget [] a.adds l ++ [(pos % 512 / 8, x)]) }
  else { a with bits := putBits pos fd.cont v a.bits }

/-- Destination coordinates of an element (08 R152). -/
def CD.coord (c : CD) (ix : List Nat) : Nat × Nat :=
  if c.tr then (nth 0 ix 0, nth 0 ix 1) else (nth 0 ix 1, nth 0 ix 0)

/-- Offset from DSB of the scale of an element. -/
def CD.scalePos (c : CD) (rc : Nat × Nat) : Nat :=
  if c.docp then rc.1 * 2 ^ c.dsh + rc.2 / 32 else rc.1 / 16 * 2 ^ c.dsh + rc.2 / 16

/-- Exact values of a command with QUANT, in loop order, with their scale's offset (08 R154, R155). -/
def quantVals (c : CD) (fs : Fmt) (rd : ByteRd) (ixs : List (List Nat)) : List (List Nat × Nat × Num) :=
  ixs.map (fun ix => (ix, c.scalePos (c.coord ix), c.value fs rd ix))

/-- Scales of the blocks: by offset, the byte and its flags. -/
def quantScales (fd : Fmt) (xs : List (List Nat × Nat × Num)) : SMap (Nat × Flags5) :=
  ((xs.map (fun x => x.2.1)).eraseDups).foldl
    (fun m o => mput m o (mxScale fd ((xs.filter (fun x => decide (x.2.1 = o))).map (fun x => x.2.2)))) []

/-- Elements rounded in loop order. -/
def quantElems (c : CD) (fd : Fmt) (rm : Nat) (sc : SMap (Nat × Flags5)) :
    Nat → List (List Nat × Nat × Num) → CopyAcc → CopyAcc
  | _, [], a => a
  | n, x :: r, a =>
    let (b, fl, g) := mxElem fd (mget (0, flNone) sc x.2.1).1 x.2.2 rm (nth 0 a.gens (n % 16))
    quantElems c fd rm sc (n + 1) r
      { a with bits := putBits (bitPos (c.dstBit fd.cont x.1)) fd.cont b a.bits, gens := setNth a.gens (n % 16) g,
               fl := a.fl ||| fl }

/-- Everything a command writes: element bits, scale bits (E8M0, 02 R34), additions, flags. -/
def copyAll (k : CopyCmd) (rd : ByteRd) : CopyAcc × SMap (Nat × Nat) :=
  let c := cdOf k.desc
  let fs := fmtOf k.fs
  let fd := fmtOf (dstFmt k.kind k.fd)
  let ixs := loopIdx c.n
  let a0 := CopyAcc.start c.seed
  if c.quant then
    let xs := quantVals c fs rd ixs
    let sc := quantScales fd xs
    let a := quantElems c fd k.rm sc 0 xs { a0 with fl := sc.foldl (fun f p => f ||| p.2.2) flNone }
    (a, sc.foldl (fun m p => putBits (8 * ((c.dsb + p.1) % 2 ^ 64)) 8 p.2.1 m) [])
  else
    let n := (List.range ixs.length).zip ixs
    (n.foldl (fun a p => copyElem c (decide (k.kind = .cpya)) fs fd k.rm rd p a) a0, [])

/-- Line addresses of the windows of CPYM's targets, or the line itself. -/
def lineTargets (k : CopyCmd) (sp : Bool) (a : Nat) : List (Nat × Word) :=
  if !sp then [(0, wd a)]
  else if k.kind = .cpym then
    (List.range 4).filterMap (fun p => if k.tgt / 2 ^ p % 2 = 1 then some (2, wd (a + 2 ^ 24 + p * 2 ^ 22)) else none)
  else [(1, wd a)]

/-- Bits replaced under a mask. -/
def mixBits (mask val old : Nat) : Nat := (old - (old &&& mask)) ||| (val &&& mask)

/-- Lines with other bits laid over them. -/
def mergeLines (top m : SMap (Nat × Nat)) : SMap (Nat × Nat) :=
  top.foldl (fun m p => let x := mget (0, 0) m p.1; mput m p.1 (x.1 ||| p.2.1, mixBits p.2.1 p.2.2 x.2)) m

/-- The destination lines of a command; a line that holds elements and scales is one line. -/
def copyOut (k : CopyCmd) (rd : ByteRd) : List OutLine × Flags5 :=
  let sp := (cdOf k.desc).dsp
  let (a, sc) := copyAll k rd
  ((mergeLines sc a.bits).flatMap (fun p => (lineTargets k sp (p.1 * 64)).map (fun t =>
      ({ sp := t.1, addr := t.2, mask := p.2.1, val := p.2.2, adds := mget [] a.adds p.1,
         own := (mget (0, 0) a.bits p.1).1 } : OutLine))), a.fl)

/-! ### Reading the source (08 R161, R162) -/

/-- The lines a command's source and scales lie in. -/
def srcLines (k : CopyCmd) : List Nat :=
  let c := cdOf k.desc
  let cs := (fmtOf k.fs).cont
  let el := (loopIdx c.n).flatMap (fun ix =>
    let p := bitPos (c.srcBit cs ix)
    [p / 512, (p + cs - 1) / 512] ++
    (if c.smx then
       let row := nth 0 ix 1
       let col := nth 0 ix 0
       [(c.ssb + (if c.socp then row * 2 ^ c.ssh + col / 32 else row / 16 * 2 ^ c.ssh + col / 16)) % 2 ^ 64 / 64]
     else []))
  el.foldl (fun m l => if m.contains l then m else m ++ [l]) []

/-- A fault of the engine: cause, detail, address. -/
abbrev EngFault := Nat × Nat × Word

/-- Translation of a line for an engine acting in an address space: the register space is refused (25 R393). -/
def engTrans (key : Nat) (ttb : Word) (sup : Bool) (k : Acq) (va : Word) (s : State) : (EngFault ⊕ (Nat × Nat)) × State :=
  match translate key ttb false (!sup) k va s with
  | (.bad c d fa, s) => (.inl (c, d, fa), s)
  | (.ok a e, s) =>
    if isReg a then (.inl (cPROT, 4, va), s)
    else if retired s a then (.inl (cMEMERR, 1, va), s)
    else (.inr (a, e), s)

/-- Lines read from device memory: own lines from their homes, lines of other packages from the replies `rem`, 64 bytes
each in turn. A read does not see what an earlier command of the engine wrote to a bound line and holds in a shadow until the
object's release (DEDUCED, log 154: 08 R161 has a command's reads see earlier commands' writes, 13 R243 has a shadow of a bound line
seen by nobody before the release). -/
def readLines (key : Nat) (ttb : Word) (sup : Bool) : List Nat → List Byte → SMap (List Byte) → State →
    (EngFault ⊕ SMap (List Byte)) × State
  | [], _, m, s => (.inr m, s)
  | l :: r, rem, m, s =>
    match engTrans key ttb sup .rd (wd (l * 64)) s with
    | (.inl f, s) => (.inl f, s)
    | (.inr (a, e), s) =>
      if pairTorn s a then (.inl (cPAIRTORN, 0, wd (l * 64)), s)
      else if pkgOf a ≠ s.ctl.pkgNum then readLines key ttb sup r (rem.drop 64) (mput m l (rem.take 64)) (onCoreAt key (pmAdd 0x30 1) s)
      else
        let s := l2Touch (whoCore (coreAt s key) (leafCls e)) false a (if (Tr.ok a e).rem then onCoreAt key (pmAdd 0x30 1) s else s)
        readLines key ttb sup r rem (mput m l (memBytes s.mem (lineOf a) 64)) s

/-- The source of a command as bytes, or the fault met. -/
def copySource (key : Nat) (k : CopyCmd) (rem : List Byte) (s : State) : (EngFault ⊕ ByteRd) × State :=
  let c := cdOf k.desc
  if c.ssp then
    (.inr (fun a =>
      let ea := a % 2 ^ 25
      let t := if ea / 2 ^ 24 = 1 then key / 4 * 4 + ea / 2 ^ 22 % 4 else key
      spadByte (coreAt s t) (ea / 2 ^ 20 % 4) (ea % 2 ^ 20)), s)
  else
    match readLines key k.ttb k.sup (srcLines k) rem [] s with
    | (.inl f, s) => (.inl f, s)
    | (.inr m, s) => (.inr (fun a => nth 0 (mget [] m (a / 64)) (a % 64)), s)

/-! ### The head command -/

/-- The head command of the core in focus changed. -/
def onHead (f : CopyCmd → CopyCmd) : State → State := onCp (fun c =>
  { c with cmds := match c.cmds with | k :: r => f k :: r | [] => [] })

/-- Chunks of a command's span. -/
def CopyCmd.chunks (k : CopyCmd) : Nat := ((cdOf k.desc).span (fmtOf (dstFmt k.kind k.fd)).cont).2

/-- Chunk of a line in the span of a command, if it lies there (08 R159). -/
def chunkOf (k : CopyCmd) (o : OutLine) : Option Nat :=
  let lo := (cdOf k.desc).dst / 512
  let l := (if o.sp = 2 then o.addr.toNat % 2 ^ 22 else o.addr.toNat) / 512
  if lo ≤ l ∧ l - lo < k.chunks then some (l - lo) else none

/-- The chunks of `n` in which none of the lines lies. -/
def chunkGap (n : Nat) (cs : List (Option Nat)) : BitVec 256 :=
  cs.foldl (fun b c => match c with | some c => b &&& ~~~BitVec.ofNat 256 (2 ^ c) | none => b) (lowBits n)

/-- Bytes that a command with a scratchpad source reads: (address, bytes). -/
def srcRuns (k : CopyCmd) : List (Nat × Nat) :=
  let c := cdOf k.desc
  let cs := (fmtOf k.fs).cont
  if !c.ssp || k.started then []
  else (loopIdx c.n).flatMap (fun ix =>
    let p := bitPos (c.srcBit cs ix)
    (p / 8, (p + cs - 1) / 8 + 1 - p / 8) ::
    (if c.smx then
       let row := nth 0 ix 1
       let col := nth 0 ix 0
       [((c.ssb + (if c.socp then row * 2 ^ c.ssh + col / 32 else row / 16 * 2 ^ c.ssh + col / 16)) % 2 ^ 64, 1)]
     else []))

/-- Rank of the copy engine of the core in focus at a place, and the ports it takes there: in a mate's buffers it is a window
request. -/
def copyRank (s : State) (r : SpRef) : Nat := if r.key = s.focus ∧ bitAt r.ea 24 = false then 4 else 2
def copyPorts (s : State) (r : SpRef) (n : Nat) : List (Nat × Nat) :=
  if copyRank s r = 4 then ownPorts r.buf r.off n else matePorts r.buf r.off n

/-- Must the engine wait to read its scratchpad source: is a port on its way held by scheduled accesses (07 R131)? -/
def srcWaits (k : CopyCmd) (s : State) : Bool :=
  (((srcRuns k).map (fun p => p.1 / 64)).eraseDups).any (fun l =>
    let r := spRef s (wd (l * 64))
    (copyPorts s r 64).any (fun p => portHeld (coreAt s r.key) (if r.buf = 2 then p.1 - 16 else p.1) (lastCycle s.time (coreAt s r.key))))

/-- A source byte in a mate's buffer that the mate's sets in force shut out when the read reaches it (23 R379). -/
def srcPhase (k : CopyCmd) (s : State) : Option Word :=
  (srcRuns k).findSome? (fun p =>
    let r := spRef s (wd p.1)
    if r.key = s.focus then none
    else (phaseBad (coreAt s r.key) 1 false r.buf r.off (r.off + p.2)).map (fun x => r.ea + wd (x - r.off)))

/-- The lines of the head command worked out, at the landing of its first: all of the source is read then, so that no line lands
before a fault of a later source line is found (DESIGN CHOICE, log 153: 08 R162 gives no order of reads and writes). -/
def startCmd (k : CopyCmd) (rem : List Byte) (s : State) : (EngFault ⊕ CopyCmd) × State :=
  if k.started then (.inr k, s)
  else
    match srcPhase k s with
    | some fa => (.inl (cPHASECONF, 0, fa), s)
    | none =>
    match copySource s.focus k rem s with
    | (.inl f, s) => (.inl f, s)
    | (.inr rd, s) =>
      let (out, fl) := copyOut k rd
      let k := { k with started := true, out := out, total := out.length, flags := fl, gap := chunkGap k.chunks (out.map (chunkOf k)) }
      (.inr k, onHead (fun _ => k) s)

/-- Bytes of a line of which the mask has any bit. -/
def maskBytes (m : Nat) : List Bool := (List.range 64).map (fun i => decide (m / 2 ^ (8 * i) % 256 ≠ 0))

/-- A line's bytes with every byte outside the mask zero (08 R156). -/
def maskedLine (m : Nat) (bs : List Byte) : List Byte := (bs.zip (maskBytes m)).map (fun p => if p.2 then p.1 else 0)

/-- Bits of an old line replaced. -/
def mixLine (mask val : Nat) (old : List Byte) : List Byte :=
  leBytes 64 (mixBits mask val (leNat old))

/-- Additions to a line of the C-buffer, each rounded once (08 R158): the new line and the flags. -/
def addLine (adds : List (Nat × Num)) (old : List Byte) : List Byte × Flags5 :=
  adds.foldl (fun a x =>
    let w := leNat ((a.1.drop x.1).take 4)
    let (y, f1) := addN (decodeF fp32 w) x.2 false
    let (b, f2) := rneF fp32 y
    (a.1.take x.1 ++ leBytes 4 b ++ a.1.drop (x.1 + 4), a.2 ||| f1 ||| f2)) (old, flNone)

/-- Runs of written bytes of a line: (offset, bytes). -/
def byteRuns : Nat → List Bool → List Byte → List (Nat × List Byte)
  | o, true :: bs, x :: xs =>
    match byteRuns (o + 1) bs xs with
    | (p, ys) :: r => if p = o + 1 then (o, x :: ys) :: r else (o, [x]) :: (p, ys) :: r
    | [] => [(o, [x])]
  | o, false :: bs, _ :: xs => byteRuns (o + 1) bs xs
  | _, _, _ => []

/-- How a line fares: a fault, a wait, sent to another package whose answer is awaited, or the state with it written, the bytes
as stored, and flags. -/
inductive Landed where
  | bad (f : EngFault)
  | wait (s : State)
  | sent (pkg : Nat) (s : State)
  | done (s : State) (line : List Byte) (fl : Flags5)

/-- A write of bits of a line of device memory by an engine of the core in focus: put in its shadow; refused at a bound line;
kept waiting for shadow space (13 R241, R243, R244); or sent to the package that has the line, where the same is done. One that
no link leads to is recorded as a failed store is (21 R348). `rem`: its leaf says that it is remote (12 R222). -/
def engWrite (w : Who) (rem : Bool) (va : Word) (a mask val : Nat) (s : State) : Landed :=
  let line := mixLine mask val (memBytes s.mem (lineOf a) 64)
  if pkgOf a ≠ s.ctl.pkgNum then
    let s := onCore (pmAdd 0x30 1) s
    match deadDir s (pkgOf a) with
    | some d => .done (fenceFail false s.focus (countDead d s)) line flNone
    | none => .sent (pkgOf a) (sendPkt (pkgOf a) (.line w.key w.cls va (lineOf a) mask val) (reachPkg (pkgOf a) (farWrote w s)))
  else if writeRefused s s.focus a then .bad (cENTRY, 0, va)
  else if (boundTo s a).isNone && !shadowRoom s w (lineOf a) then .wait s
  else .done (shadowPut w (lineOf a) mask val (if rem then onCore (pmAdd 0x30 1) s else s)) line flNone

/-- An asynchronous write of `n` bytes at a scratchpad place: it waits for width of the ports (07 R131, R133) and, in a quad
mate's buffers, over that core's live leaves (10 R205); outside that core's sets in force it faults (23 R379). `f` takes the rank and
the ports to be noted. -/
def asyncSpad (r : SpRef) (n : Nat) (f : Nat → List (Nat × Nat) → State → Landed) (s : State) : Landed :=
  let t := coreAt s r.key
  if r.key ≠ s.focus ∧ (hazardAt t r.buf r.off (r.off + n)).isSome then
    .wait (askForce r.key (hazardNodes t r.buf r.off (r.off + n)) s)
  else if !asyncRoom s.time t (copyPorts s r n) then .wait s
  else
    match if r.key ≠ s.focus then phaseBad t 1 true r.buf r.off (r.off + n) else none with
    | some x => .bad (cPHASECONF, 0, r.ea + wd (x - r.off))
    | none => f (copyRank s r) (copyPorts s r n) s

/-- One line written to its destination. -/
def landLine (k : CopyCmd) (o : OutLine) (s : State) : Landed :=
  if o.sp = 0 then
    match engTrans s.focus k.ttb k.sup .wr o.addr s with
    | (.inl f, _) => .bad f
    | (.inr (a, e), s) => engWrite (whoCore s.core (leafCls e)) (Tr.ok a e).rem o.addr a o.mask o.val s
  else
    let r := spRef s o.addr
    asyncSpad r 64 (fun rank ps s =>
      let old := spadBytes (coreAt s r.key) r.buf r.off 64
      if o.adds.isEmpty then
        .done (onCoreAt r.key (asyncPut s.time rank s.focus ps r.buf r.off o.mask o.val) s) (mixLine o.mask o.val old) flNone
      else
        let (new, fl) := addLine o.adds old
        .done (onCoreAt r.key (fun c => noteCycle (lastCycle s.time c) ps [(rank, s.focus, r.buf, r.off, o.mask)] (spadWrite r.buf r.off new c)) s) new fl) s

/-- Is the line the one of its address that is counted (CPYM: the lowest target)? -/
def countsLine (k : CopyCmd) (o : OutLine) : Bool :=
  o.sp != 2 || firstBelow 4 (fun p => decide (k.tgt / 2 ^ p % 2 = 1)) == some (o.addr.toNat / 2 ^ 22 % 4)

/-- Address by which the descriptor names a line; of a scratchpad line the one with WIN = 0 (08 R156). -/
def plainAddr (o : OutLine) : Nat := if o.sp = 0 then o.addr.toNat else o.addr.toNat % 2 ^ 22

/-- Bytes that a line counts. -/
def lineCount (m : Nat) : Nat := ((maskBytes m).filter (fun b => b)).length

/-- The bookkeeping of a landed line: digest, bytes, flags, its chunk's bit (08 R156, R160). -/
def lineDone (k : CopyCmd) (o : OutLine) (line : List Byte) (fl : Flags5) (s : State) : State :=
  let c := cdOf k.desc
  let one := countsLine k o
  let dg := if c.dig && one then lineHash (plainAddr o) (maskedLine o.mask line) else 0
  let s := onHead (fun k => { k with out := k.out.erase o, sent := k.sent.erase o, digest := k.digest + dg, flags := k.flags ||| fl,
                                     bytes := if one then k.bytes + lineCount o.own else k.bytes }) s
  let s := onCore (pmAdd 0x25 1) s
  match if c.nb then none else chunkOf k o with
  | none => s
  | some n =>
    if ((k.out ++ k.sent).filter (fun x => decide (chunkOf k x = some n))).length ≤ 1 then
      onCore (fun z => putCb k.cb (cbOf z k.cb ||| BitVec.ofNat 256 (2 ^ n)) z) s
    else s

/-- A line of the head command sent to a package. -/
def lineSent (o : OutLine) (p : Nat) : State → State :=
  onHead (fun k => { k with out := k.out.erase o, sent := k.sent ++ [o], far := if k.far.contains p then k.far else k.far ++ [p] })

/-! ### Copy requests (08 R166) -/

/-- Notice statuses (08 Table 8-6) of a fault; one the table names no status for is left open. -/
def noticeStatus (cause : Nat) (s : State) : Nat × State :=
  if cause = cXLATE then (1, s) else if cause = cPROT then (2, s) else if cause = cMEMERR then (3, s)
  else
    let (d, s) := draw s
    ((Config.freeWord d).toNat, s)

/-- A copy request's pages, translated once: each must be pinned (12 R219). -/
def pinPages (key : Nat) (k : CopyCmd) (a : Acq) : List Nat → SMap Nat → State → (EngFault ⊕ SMap Nat) × State
  | [], m, s => (.inr m, s)
  | p :: r, m, s =>
    match engTrans key k.ttb k.sup a (wd (p * 2 ^ 16)) s with
    | (.inl f, s) => (.inl f, s)
    | (.inr (x, e), s) =>
      if e / 2 ^ 8 % 2 = 0 then (.inl (cXLATE, 5, wd (p * 2 ^ 16)), s)
      else pinPages key k a r (mput m p (x / 2 ^ 16 * 8 + leafLow e)) s

/-- Pages of a byte range. -/
def pagesOf (lo len : Nat) : List Nat := (List.range ((lo + len - 1) / 2 ^ 16 + 1 - lo / 2 ^ 16)).map (fun i => lo / 2 ^ 16 + i)

/-- Is a request packet well formed (08 Table 8-6)? -/
def reqOk (b : List Byte) : Bool :=
  let len := leAt b 0 8
  let src := leAt b 8 8
  let dst := leAt b 16 8
  decide (len % 64 = 0 ∧ 64 ≤ len ∧ len ≤ 2 ^ 30) && decide (src % 64 = 0) && decide (dst % 64 = 0) &&
  decide (leAt b 0x28 8 < 2) && decide (leAt b 0x30 16 = 0) && !(decide (src < dst + len) && decide (dst < src + len))

/-- A request that is refused: its record's STATUS and its notice. -/
def refuseReq (st : Nat) (s : State) : State := onHead (fun k => { k with started := true, out := [], status := 3, arg2 := wd st }) s

/-- A request taken up: its lines, each with its virtual destination. -/
def takeReq (b : List Byte) (s : State) : State :=
  match s.core.cp.cmds with
  | [] => s
  | k :: _ =>
    let len := leAt b 0 8
    let s := onHead (fun k => { k with desc := b, started := true }) s
    if !reqOk b then refuseReq 4 s
    else
      match pinPages s.focus k .rd (pagesOf (leAt b 8 8) len) [] s with
      | (.inl f, s) => let (st, s) := noticeStatus f.1 s; refuseReq st s
      | (.inr m, s) =>
        match pinPages s.focus k .wr (pagesOf (leAt b 16 8) len) m s with
        | (.inl f, s) => let (st, s) := noticeStatus f.1 s; refuseReq st s
        | (.inr m, s) =>
          let out := (List.range (len / 64)).map (fun i =>
            ({ sp := 0, addr := wd (leAt b 16 8 + 64 * i), mask := 2 ^ 512 - 1, val := 0, adds := [], own := 2 ^ 512 - 1 } : OutLine))
          onHead (fun k => { k with pages := m, out := out, total := out.length }) s

/-- The pop of a copy request at its queue's home; a queue of another package answers with `reply`: the packet, nothing where it
is empty, or the status of one that turned the pop away. -/
def execCopyRequestPop (reply : List Byte) (s : State) : Out :=
  .next (match s.core.cp.cmds with
    | k :: _ =>
      if k.kind ≠ .cpyq ∨ k.started = true ∨ k.held = true then s
      else
        let h := hndOf k.arg
        let none_ := fun st => onHead (fun k => { k with started := true, status := st, desc := [] })
        let of := fun st => none_ (if st = qEMPTY then 2 else 3)
        if !h.ok then none_ 3 s
        else if h.pkg ≠ s.ctl.pkgNum then
          (if reply.length = 64 then takeReq reply s else of (if reply.isEmpty then qEMPTY else leAt reply 0 1) s)
        else
          let (st, e, s) := qPop ⟨k.sup, fld k.ttb 63 52⟩ h s
          if st = qOK then takeReq e s else of st s
    | [] => s)

/-- Physical address of a virtual one in the pages a request captured, the class of its leaf, and whether it is remote. -/
def reqPhys (k : CopyCmd) (va : Nat) : Nat × Nat × Bool :=
  let p := mget 0 k.pages (va / 2 ^ 16)
  (p / 8 * 2 ^ 16 + va % 2 ^ 16, p % 4, decide (p / 4 % 2 = 1))

/-- A line of a request landed. -/
def reqLineDone (k : CopyCmd) (o : OutLine) (line : List Byte) : State → State := fun s =>
  let dg := if leAt k.desc 0x28 8 % 2 = 1 then lineHash o.addr.toNat line else 0
  onCore (pmAdd 0x25 1) (onHead (fun k =>
    { k with out := k.out.erase o, sent := k.sent.erase o, digest := k.digest + dg, bytes := k.bytes + 64 }) s)

/-- One line of a copy request (08 R166): a fault of it ends the request refused. -/
def landReq (k : CopyCmd) (o : OutLine) (rem : List Byte) (s : State) : State :=
  let va := o.addr.toNat
  let (a, _, arem) := reqPhys k (leAt k.desc 8 8 + (va - leAt k.desc 16 8))
  let (b, cls, brem) := reqPhys k va
  if retired s a || retired s b then refuseReq 3 s
  else if pairTorn s a then let (st, s) := noticeStatus cPAIRTORN s; refuseReq st s
  else
    let w := whoCore s.core cls
    let v := if pkgOf a = s.ctl.pkgNum then memBytes s.mem a 64 else rem.take 64
    let s := if arem then onCore (pmAdd 0x30 1) s else s
    match engWrite w brem o.addr b (2 ^ 512 - 1) (leNat v) (if pkgOf a = s.ctl.pkgNum then l2Touch w false a s else s) with
    | .bad f => let (st, s) := noticeStatus f.1 s; refuseReq st s
    | .wait s => s
    | .sent p s => lineSent { o with val := leNat v } p s
    | .done s line _ => reqLineDone k o line s

/-! ### Steps of the engine -/

/-- One line of the head command lands (08 R160): `index` chooses among those left; `remote` holds what other packages
answer for source lines of theirs. -/
def execCopyLineLands (index : Nat) (remote : List Byte) (s : State) : Out :=
  .next (match s.core.cp.cmds with
    | [] => s
    | k :: _ =>
      if k.held = true ∨ k.kind = .pref ∨ (k.kind = .cpyq ∧ k.started = false) then s
      else if k.kind = .cpyq then
        (if k.out.isEmpty then s
         else
           let i := index % k.out.length
           landReq k (nth ⟨0, 0, 0, 0, [], 0⟩ k.out i) remote s)
      else if (cdOf k.desc).empty ∨ srcWaits k s = true then s
      else
        match startCmd k remote s with
        | (.inl _, s) => s
        | (.inr k, s) =>
          if k.out.isEmpty then s
          else
            let i := index % k.out.length
            let o := nth ⟨0, 0, 0, 0, [], 0⟩ k.out i
            match landLine k o s with
            | .bad _ => s
            | .wait s => s
            | .sent p s => lineSent o p s
            | .done s line fl => lineDone k o line fl s)

/-- The line of a digest: its bits, at DGA. -/
def digestLine (k : CopyCmd) : OutLine :=
  let a := (cdOf k.desc).dga
  let (m, v) := lineBits (a % 64) (leBytes 8 k.digest.toNat)
  { sp := 0, addr := wd a, mask := m, val := v, adds := [], own := 0 }

/-- The write of the digest of a command whose lines have landed (08 R156). -/
def storeDigest (k : CopyCmd) (s : State) : Landed :=
  let c := cdOf k.desc
  if !c.dig || c.empty || k.kind = .cpyq || decide (k.stage ≠ 0) then .done s [] flNone
  else if c.dsp then
    let r := spRef s (wd c.dga)
    asyncSpad r 8 (fun rank ps s => .done (onCoreAt r.key (asyncBytes s.time rank s.focus ps r.buf r.off (leBytes 8 k.digest.toNat)) s) [] flNone) s
  else landLine k (digestLine k) s

/-- The fault that stops the head command, if one does. -/
def headFault (k : CopyCmd) (remote : List Byte) (s : State) : Option EngFault :=
  if k.kind = .cpyq ∨ k.kind = .pref ∨ (cdOf k.desc).empty = true then none
  else
    match startCmd k remote s with
    | (.inl f, _) => some f
    | (.inr k, s) =>
      if k.out.isEmpty && k.sent.isEmpty then (match storeDigest k s with | .bad f => some f | _ => none)
      else k.out.findSome? (fun o => match landLine k o s with | .bad f => some f | _ => none)

/-- The engine finds a fault, holds the command and reports it late (08 R162). -/
def execCopyLateFault (s : State) : Out :=
  .next (match s.core.cp.cmds with
    | [] => s
    | k :: _ =>
      if k.held then s
      else
        match headFault k [] s with
        | none => s
        | some (c, d, fa) =>
          let s := onHead (fun k => { k with held := true }) s
          onEv (fun e => { e with late := e.late ++ [⟨c, d, fa, k.pc, 13, s.core.iss.npc, 1⟩] }) s)

/-- The lines a prefetch names, brought into the L2 in its class (12 R226); counts lines skipped. So is a line of a retired unit, or one
whose walk meets an error, without a cause (DESIGN CHOICE, log 154: no file says what PREF does there). -/
def prefLines (k : CopyCmd) : List Nat → Nat → State → Nat × State
  | [], n, s => (n, s)
  | l :: r, n, s =>
    match translate s.focus k.ttb false true .rd (wd (l * 64)) s with
    | (.bad _ _ _, s) => prefLines k r (n + 1) s
    | (.ok a e, s) =>
      if isReg a || (Tr.ok a e).rem || retired s a || !isOwn s a || (classWays (l2quota s (l2Key a / 65536)) k.tgt).2 = 0 then
        prefLines k r (n + 1) s
      else prefLines k r n (l2Touch (whoCore s.core k.tgt) false a s)

/-- Flags of a command, into CPYF (02 R31). -/
def setCpyf (f : Flags5) (c : Core) : Core :=
  { c with x := { c.x with fpstat := c.x.fpstat ||| wd (f.toNat * 2 ^ 45) } }

/-- The head command leaves the engine and its record is posted. -/
def retireHead (r : Word) : State → State := onCore (fun c => postEv r { c with cp := { c.cp with cmds := c.cp.cmds.drop 1 } })

/-- What a package's home is told to do with an engine's shadows: publish them (13 R244). -/
def kPublish : Nat := 40

/-- The lines a command sent to other packages are published there: `f` once every such package has answered (13 R243). -/
def publishFar (k : CopyCmd) (f : State → State) (s : State) : State :=
  if !k.far.isEmpty then
    onHead (fun k => { k with far := [], stage := 2 }) (k.far.foldl (fun s p => tell p kPublish s.focus [] s) s)
  else if inFlight s (fun q => match q with | .tell c n a _ => decide (c = s.focus ∧ n = kPublish ∧ a = s.focus) | _ => false) then s
  else f s

/-- A copy command whose digest is stored completes: publication, flags, bits, record (08 R160, 13 Table 13-3). -/
def closeCopy (k : CopyCmd) : State → State :=
  publishFar k (fun s =>
    let c := cdOf k.desc
    let s := publish (fun x => decide (x.owner = s.focus) && !x.bound) s.core.pm.open_ s
    let s := onCore (setCpyf k.flags) s
    let s := if c.nb || c.empty then s else onCore (fun z => putCb k.cb (cbOf z k.cb ||| k.gap) z) s
    retireHead (evRec 0 k.tag (if c.empty then 1 else 0) (if c.nb then 1 else k.cb * 2) k.bytes) s)

/-- A copy command whose lines have landed: its digest is stored, then it completes. -/
def finishCopy (k : CopyCmd) (s : State) : State :=
  match storeDigest k s with
  | .bad _ => s
  | .wait s => s
  | .sent p s => onHead (fun k => { k with stage := 1 }) (lineSent (digestLine k) p s)
  | .done s _ _ =>
    let k := { k with stage := if k.stage = 0 then 1 else k.stage }
    closeCopy k (onHead (fun _ => k) s)

/-- The notice of a served request (08 Table 8-6). -/
def reqNotice (k : CopyCmd) : List Byte :=
  leBytes 8 (leAt k.desc 0x20 8) ++ leBytes 8 (if k.status = 3 then k.arg2.toNat else 0) ++ leBytes 8 k.bytes ++
  leBytes 8 (if leAt k.desc 0x28 8 % 2 = 1 then k.digest.toNat else 0) ++ List.replicate 32 0

/-- The notice of a request can be delivered, or never can be: its record follows (08 R166). -/
def noticeOver (k : CopyCmd) (st : Nat) (s : State) : State :=
  let s := if st = qOK then s else ctlEvent 3 (leAt k.desc 0x18 8) st s
  retireHead (evRec 1 k.tag k.status 0 k.bytes) s

/-- The push of the head request's notice: kept while the queue is full; one that can never be delivered is dropped with an
event (08 R166). A queue of another package is sent it, and the engine waits for the answer. -/
def pushNotice (k : CopyCmd) (s : State) : State :=
  let h := hndOf (wd (leAt k.desc 0x18 8))
  let kept := onHead (fun k => { k with notice := some (wd (leAt k.desc 0x18 8), reqNotice k) })
  if k.desc.isEmpty || decide (leAt k.desc 0x18 8 = 0) then noticeOver k qOK s
  else if !h.ok then noticeOver k qSTALE s
  else if h.pkg ≠ s.ctl.pkgNum then
    (if inFlight s (fun q => match q with | .push (.copy c) _ _ => decide (c = s.focus) | _ => false) then s
     else match deadDir s h.pkg with
       | some d => kept (countDead d s)
       | none => kept (sendPkt h.pkg (.push (.copy s.focus) (leAt k.desc 0x18 8) (askerBytes k.sup (fld k.ttb 63 52) ++ reqNotice k)) s))
  else
    let (st, t) := qPush ⟨k.sup, fld k.ttb 63 52⟩ h (reqNotice k) s
    if st = qFULL then kept s else noticeOver k st t

/-- A copy request is complete. -/
def finishReq (k : CopyCmd) : State → State :=
  publishFar k (fun s => pushNotice k (publish (fun x => decide (x.owner = s.focus) && !x.bound) s.core.pm.open_ s))

/-- The head command of the core in focus completes. -/
def execCopyCommandCompletion (s : State) : Out :=
  .next (match s.core.cp.cmds with
    | [] => s
    | k :: _ =>
      if k.held then s
      else match k.kind with
        | .pref =>
          let lo := k.arg.toNat
          let len := k.arg2.toNat
          let (skip, s) := if len = 0 then (0, s)
            else prefLines k ((List.range ((lo + len - 1) / 64 + 1 - lo / 64)).map (fun i => lo / 64 + i)) 0 s
          let n := if len = 0 then 0 else (lo + len - 1) / 64 + 1 - lo / 64
          retireHead (evRec 4 k.tag (if len = 0 then 1 else if skip = 0 then 0 else 2) 0 ((n - skip) * 64)) s
        | .cpyq => if k.started && k.out.isEmpty && k.sent.isEmpty && k.notice.isNone then finishReq k s else s
        | _ => if (cdOf k.desc).empty || (k.started && k.out.isEmpty && k.sent.isEmpty) then finishCopy k s else s)

/-- The notice of the head request is pushed again. -/
def retryCopyNotice (s : State) : State :=
  match s.core.cp.cmds with
  | k :: _ => if k.notice.isSome then pushNotice k s else s
  | [] => s

/-! ### Answers of other packages (21 R347, 13 R241) -/

/-- A line that is not written by the answer is to be written again once the engine resumes. -/
def lineBack (o : OutLine) (k : CopyCmd) : CopyCmd :=
  { k with sent := k.sent.erase o, out := if k.stage = 0 then k.out ++ [o] else k.out, stage := 0, held := true }

/-- The answer to a line that the copy engine of the core in focus sent: 0 written (`reply` is the line as stored), 2 refused at
a bound line (ENTRY, 13 R241), 1 refused by the package and 3 failed, both recorded as for a store (21 R348). -/
def copyAnswer (va : Word) (refused : Nat) (reply : Nat) (s : State) : State :=
  match s.core.cp.cmds with
  | [] => s
  | k :: _ =>
    match k.sent.find? (fun o => decide (o.addr = va)) with
    | none => s
    | some o =>
      let done := fun line s =>
        if k.kind = .cpyq then reqLineDone k o line s
        else if k.stage = 0 then lineDone k o line flNone s else onHead (fun k => { k with sent := k.sent.erase o }) s
      if refused = 0 then done (leBytes 64 reply) s
      else if refused = 2 then
        (if k.kind = .cpyq then let (st, s) := noticeStatus cENTRY s; refuseReq st (onHead (fun k => { k with sent := k.sent.erase o }) s)
         else onEv (fun e => { e with late := e.late ++ [⟨cENTRY, 0, va, k.pc, 13, s.core.iss.npc, 1⟩] }) (onHead (lineBack o) s))
      else done (leBytes 64 (o.val &&& o.mask)) (fenceFail (decide (refused = 1)) s.focus s)

/-- The answer to a notice of the copy engine of the core in focus: `st` is the queue's, FULL has it pushed again. -/
def noticeAnswer (st : Nat) (s : State) : State :=
  match s.core.cp.cmds with
  | k :: _ => if k.notice.isSome && decide (st ≠ qFULL) then noticeOver k st s else s
  | [] => s

end Sys2Proof.Machine
end

