-- ==== Sys2Proof/Machine/Transc.lean ====
section
/-!
DEFINITION. Machine/Transc.lean: the transcendental functions of 05 R100 and 10 R196, computed in fixed point with 360
bits below the point. No argument of a legal format, of 53 bits at most, brings a value of one of them, where it is not exact and
treated apart, within 2^-200 of itself of a rounding boundary (a DEDUCED reading of "the exact mathematical value rounded", log 11).
-/
namespace Sys2Proof.Machine

/-- Bits below the point. -/
def fxP : Nat := 360

/-- Product of two fixed-point numbers. -/
def fxMul (a b : Nat) : Nat := a * b / 2 ^ fxP

/-- Quotient of two fixed-point numbers. -/
def fxDiv (a b : Nat) : Nat := a * 2 ^ fxP / b

/-- Powers and partial sum of the series z + z³/3 + z⁵/5 + … -/
def atanhSum : Nat → Nat → Nat → Nat → Nat → Nat
  | 0, _, _, _, acc => acc
  | k + 1, zz, pw, n, acc => atanhSum k zz (fxMul pw zz) (n + 2) (acc + pw / n)

/-- artanh of a fixed-point number of at most 1/3. -/
def fxAtanh (z : Nat) : Nat := atanhSum 120 (fxMul z z) z 1 0

/-- ln 2. -/
def fxLn2 : Nat := 2 * fxAtanh (2 ^ fxP / 3)

/-- ln of a fixed-point number in [1, 2). -/
def fxLn (y : Nat) : Nat := 2 * fxAtanh (fxDiv (y - 2 ^ fxP) (y + 2 ^ fxP))

/-- The exponential series by Horner's scheme, `k` terms. -/
def expHorner : Nat → Nat → Nat → Nat
  | 0, _, acc => acc
  | k + 1, y, acc => expHorner k y (2 ^ fxP + fxMul y acc / (k + 1))

/-- Squared `k` times. -/
def fxSquares : Nat → Nat → Nat
  | 0, y => y
  | k + 1, y => fxSquares k (fxMul y y)

/-- e^y for a fixed-point y in [0, 1). -/
def fxExp (y : Nat) : Nat := fxSquares 16 (expHorner 26 (y / 2 ^ 16) (2 ^ fxP))

/-- A signed fixed-point number from a finite value whose magnitude is below 2^256. -/
def toFx (n : Bool) (m : Nat) (e : Int) : Int :=
  let v : Nat := if 0 ≤ e + fxP then m * 2 ^ (e + fxP).toNat else m / 2 ^ (-(e + fxP)).toNat
  if n then -(v : Int) else v

/-- e^v = `y × 2^k` with the fixed-point y in [1, 2), for a signed fixed-point v. -/
def fxExpSplit (v : Int) : Nat × Int :=
  let k := v / (fxLn2 : Int)
  let r := (v - k * (fxLn2 : Int)).toNat
  (fxExp r, k)

/-- Magnitude far above, or far below, every format's range. -/
def hugeN : Num := .fin false 1 100000 true
def tinyN (neg : Bool) : Num := .fin neg 1 (-100000) true

/-- 1 less an amount too small for any rounding to see otherwise. -/
def belowOne (neg : Bool) : Num := .fin neg (2 ^ 80 - 1) (-80) true

/-- 2^x (05 R100, Table 5-4). -/
def exp2N (x : Num) : Num × Flags5 :=
  match x with
  | .nan => (.nan, flNone)
  | .inf n => (if n then .zero false else .inf false, flNone)
  | .fin n m e _ =>
    if m = 0 then (.fin false 1 0 false, flNone)
    else if 14 ≤ (Nat.log2 m : Int) + e then (if n then tinyN false else hugeN, flNone)
    else
      let v := toFx n m e
      let k := v / (2 ^ fxP : Int)
      let f := (v - k * 2 ^ fxP).toNat
      if f = 0 ∧ 0 ≤ e + fxP then (.fin false 1 k false, flNone)
      else if (Nat.log2 m : Int) + e < -300 then (if n then belowOne false else .fin false (2 ^ 80) (-80) true, flNone)
      else (.fin false (fxExp (fxMul f fxLn2)) (k - fxP) true, flNone)

/-- e^x of a finite value, no flags. -/
def expFin (n : Bool) (m : Nat) (e : Int) : Num :=
  if m = 0 then .fin false 1 0 false
  else if 14 ≤ (Nat.log2 m : Int) + e then (if n then tinyN false else hugeN)
  else if (Nat.log2 m : Int) + e < -300 then (if n then belowOne false else .fin false (2 ^ 80) (-80) true)
  else
    let (y, k) := fxExpSplit (toFx n m e)
    .fin false y (k - fxP) true

/-- e^x (05 R100, Table 5-4). -/
def expN (x : Num) : Num × Flags5 :=
  match x with
  | .nan => (.nan, flNone)
  | .inf n => (if n then .zero false else .inf false, flNone)
  | .fin n m e _ => (expFin n m e, flNone)

/-- ln of a finite positive value as a signed fixed-point number. -/
def lnFx (m : Nat) (e : Int) : Int :=
  let lg := Nat.log2 m
  let y := if lg ≤ fxP then m * 2 ^ (fxP - lg) else m / 2 ^ (lg - fxP)
  ((lg : Int) + e) * (fxLn2 : Int) + (fxLn y : Int)

/-- ln x and log2 x (05 R100, Table 5-4); `b2` for base 2. -/
def logN (b2 : Bool) (x : Num) : Num × Flags5 :=
  match x with
  | .nan => (.nan, flNone)
  | .inf n => if n then (.nan, flIV) else (.inf false, flNone)
  | .fin n m e _ =>
    if m = 0 then (.inf true, flDZ)
    else if n then (.nan, flIV)
    else
      let lg := Nat.log2 m
      if m = 2 ^ lg ∧ (b2 = true ∨ (lg : Int) + e = 0) then (.ofInt ((lg : Int) + e), flNone)
      else
        let v := lnFx m e
        let v := if b2 then v * 2 ^ fxP / (fxLn2 : Int) else v
        (.fin (decide (v < 0)) v.natAbs (-(fxP : Int)) true, flNone)

/-- tanh x (05 R100, Table 5-4). -/
def tanhN (x : Num) : Num × Flags5 :=
  match x with
  | .nan => (.nan, flNone)
  | .inf n => (.fin n 1 0 false, flNone)
  | .fin n m e _ =>
    if m = 0 then (.zero n, flNone)
    else
      let lg : Int := (Nat.log2 m : Int) + e
      if 7 ≤ lg then (belowOne n, flNone)
      else if lg < -60 then (.fin n (m * 2 ^ 100 - 1) (e - 100) true, flNone)
      else
        let (y, k) := fxExpSplit (toFx false m (e + 1))
        let t := y * 2 ^ k.toNat
        (.fin n (fxDiv (t - 2 ^ fxP) (t + 2 ^ fxP)) (-(fxP : Int)) true, flNone)

/-- The logistic function of a finite value. -/
def sigmFin (n : Bool) (m : Nat) (e : Int) : Num :=
  if m = 0 then .fin false 1 (-1) false
  else
    let lg : Int := (Nat.log2 m : Int) + e
    if 14 ≤ lg then (if n then tinyN false else belowOne false)
    else if lg < -300 then (if n then .fin false (2 ^ 80 - 1) (-81) true else .fin false (2 ^ 80) (-81) true)
    else
      -- e^-|x| = y × 2^k
      let (y, k) := fxExpSplit (toFx true m e)
      let t := y / 2 ^ (-k).toNat
      if n then .fin false (fxDiv y (2 ^ fxP + t)) (k - fxP) true
      else if t = 0 then belowOne false
      else .fin false (2 ^ (2 * fxP) / (2 ^ fxP + t)) (-(fxP : Int)) true

/-- 1 / (1 + e^−x) (05 R100, Table 5-4). -/
def sigmN (x : Num) : Num × Flags5 :=
  match x with
  | .nan => (.nan, flNone)
  | .inf n => (if n then .zero false else .fin false 1 0 false, flNone)
  | .fin n m e _ => (sigmFin n m e, flNone)

/-- A finite value times a fixed positive magnitude `y × 2^k` known to more bits than any rounding reads. -/
def timesFx (n : Bool) (m : Nat) (e : Int) (y : Num) : Num :=
  match y with
  | .fin _ q k _ => .fin n (m * q) (e + k) true
  | z => z

/-- x / (1 + e^−x) (10 R196, F = 4). -/
def siluN (x : Num) : Num × Flags5 :=
  match x with
  | .nan => (.nan, flNone)
  | .inf n => (if n then .zero true else .inf false, flNone)
  | .fin n m e _ => (if m = 0 then .zero n else timesFx n m e (sigmFin n m e), flNone)

/-! ### GELU (10 R196, F = 5), with 2600 bits below the point -/

def gxP : Nat := 2600
def gxMul (a b : Nat) : Nat := a * b / 2 ^ gxP

/-- The series of arctan(1/n), alternating: terms left, power of 1/n, index, sum so far. -/
def atanInvGo (n : Nat) : Nat → Nat → Nat → Int → Int
  | 0, _, _, acc => acc
  | k + 1, pw, i, acc =>
    atanInvGo n k (pw / (n * n)) (i + 1) (if i % 2 = 0 then acc + (pw / (2 * i + 1) : Nat) else acc - (pw / (2 * i + 1) : Nat))
def atanInv (n : Nat) : Int := atanInvGo n 600 (2 ^ gxP / n) 0 0

/-- π by Machin's formula. -/
def gxPi : Nat := (16 * atanInv 5 - 4 * atanInv 239).toNat

/-- The exponential series by Horner's scheme. -/
def gexpHorner : Nat → Nat → Nat → Nat
  | 0, _, acc => acc
  | k + 1, y, acc => gexpHorner k y (2 ^ gxP + gxMul y acc / (k + 1))
def gxSquares : Nat → Nat → Nat
  | 0, y => y
  | k + 1, y => gxSquares k (gxMul y y)

/-- e^y of a fixed-point y of at most 2048. -/
def gxExp (y : Nat) : Nat := gxSquares 20 (gexpHorner 200 (y / 2 ^ 20) (2 ^ gxP))

/-- Σ x^(2n+1) / (2n+1)!!, `t` the term at hand. -/
def phiSum : Nat → Nat → Nat → Nat → Nat → Nat
  | 0, _, _, _, acc => acc
  | k + 1, xx, t, n, acc => if t = 0 then acc else phiSum k xx (gxMul t xx / (2 * n + 3)) (n + 1) (acc + t)

/-- Φ(x) of a magnitude below 2^6, in fixed point, for x negative or not. -/
def phiFx (neg : Bool) (x : Nat) : Nat :=
  let xx := gxMul x x
  let d := isqrt (2 * gxPi * 2 ^ gxP)
  let g := phiSum 6000 xx x 0 0 * 2 ^ gxP / gxExp (xx / 2) * 2 ^ gxP / d
  if neg then (if g < 2 ^ (gxP - 1) then 2 ^ (gxP - 1) - g else 1) else 2 ^ (gxP - 1) + g

/-- x·Φ(x). Below −54 the product lies under half of the least magnitude of a legal format, 2^-2098; above 54 it lies closer to x than
any rounding sees. -/
def geluN (x : Num) : Num × Flags5 :=
  match x with
  | .nan => (.nan, flNone)
  | .inf n => (if n then .zero true else .inf false, flNone)
  | .fin n m e _ =>
    if m = 0 then (.zero n, flNone)
    else if 6 ≤ (Nat.log2 m : Int) + e ∨ 54 * 2 ^ (-e).toNat ≤ m * 2 ^ e.toNat then
      (if n then tinyN true else timesFx n m e (belowOne false), flNone)
    else
      let v : Nat := if 0 ≤ e + gxP then m * 2 ^ (e + gxP).toNat else m / 2 ^ (-(e + gxP)).toNat
      (timesFx n m e (.fin false (phiFx n v) (-(gxP : Int)) true), flNone)

/-! ### A row of TSOFT (10 R196) -/

/-- The greatest of the finite values. -/
def maxFin (xs : List Num) : Num := xs.foldl (fun a x => if cmpN a x < 0 then x else a) (.inf true)

/-- e^(x − max) of each element. -/
def softTerms (xs : List Num) : List Num :=
  let mx := maxFin xs
  xs.map (fun x => match (addN x mx.negate false).1 with
    | .fin n m e _ => expFin n m e
    | .inf _ => .zero false
    | .nan => .nan)

/-- A positive magnitude in fixed point. -/
def fxOf (x : Num) : Nat :=
  match x with
  | .fin _ m e _ => if 0 ≤ e + fxP then m * 2 ^ (e + fxP).toNat else m / 2 ^ (-(e + fxP)).toNat
  | _ => 0

/-- Element `c` of a row of finite values and −∞, not −∞ only. -/
def softN (xs : List Num) (c : Nat) : Num :=
  let ts := softTerms xs
  let sum := ts.foldl (fun a t => a + fxOf t) 0
  match nth (.zero false) ts c with
  | .fin _ m e st =>
    if m = 0 then .zero false
    else
      let exact := ts.all (fun t => match t with | .fin _ q _ r => !r || decide (q = 0) | _ => true)
      let y := m * 2 ^ 800
      .fin false (y / sum) (e - 800 + fxP) (st || !exact || decide (y % sum ≠ 0))
  | z => z

end Sys2Proof.Machine
end

