-- ==== Sys2Proof/Machine/Flags.lean ====
section
/-!
DEFINITION. Machine/Flags.lean: floating-point lanes: operand decode and result write with the subnormal rule of exposed
mode (02 R33, 05 R96), the flags of a cluster, generators stepped at issue (02 R26, 05 R111), the reduction tree (05 R102).
-/
namespace Sys2Proof.Machine

/-- A subnormal of a float format. -/
def isSubn (f : Fmt) (bits : Nat) : Bool :=
  decide (f.spec ≠ 3) && decide (bits % 2 ^ (f.ew + f.mw) / 2 ^ f.mw = 0) && decide (bits % 2 ^ f.mw ≠ 0)

/-- Operand decode (05 R96 fin), for any element format. -/
def finF (ex : Bool) (f : Fmt) (bits : Nat) : Num :=
  if ex && isSubn f bits then .zero (f.sgnd && decide (2 ^ (f.width - 1) ≤ bits % 2 ^ f.width)) else decodeF f bits

/-- Result write (05 R96 fout), for any element format. -/
def foutF (ex : Bool) (f : Fmt) (bits : Nat) (fl : Flags5) : Nat × Flags5 :=
  if ex && isSubn f bits then (bits / 2 ^ (f.ew + f.mw) * 2 ^ (f.ew + f.mw), fl ||| flUF ||| flNX) else (bits, fl)

/-- FP32 operand and result. -/
def fin32 (ex : Bool) (x : W32) : Num := finF ex fp32 x.toNat
def fout32 (ex : Bool) (r : Nat × Flags5) : W32 × Flags5 :=
  let (b, fl) := foutF ex fp32 r.1 r.2
  (BitVec.ofNat 32 b, fl)

/-- A lane's result: bits, flags, and the lane generator after it. -/
structure LaneR where
  x : W32
  fl : Flags5
  g : W32
  deriving DecidableEq, Repr

/-- An exact result with its flags, rounded to FP32. -/
def round32 (ex : Bool) (rm : Nat) (r : Num × Flags5) (g : W32) : LaneR :=
  let (b, fl, g) := encodeF fp32 r.1 rm g
  let (x, fl) := fout32 ex (b, fl ||| r.2)
  ⟨x, fl, g⟩

/-- The generators of a cluster after its lanes. -/
def setGens (c : Nat) (which : BitVec 16) (rs : List LaneR) (v : VecSt) : VecSt :=
  { v with gen := (List.range 16).foldl (fun m l =>
      if bitAt which l then mput m (16 * c + l) (nth ⟨0, 0, 0⟩ rs l).g else m) v.gen }

/-- Number of active lanes. -/
def activeN (which : BitVec 16) : Nat := popN 16 which.toNat

/-- A floating-point or converting vector instruction: each active lane's result by cluster, lane and generator; flags go
to the cluster's field when the result is written (02 R31). `gen` says that the generators may step; `ops` counts
operations a lane (24 Table 24-2), 0 for an instruction outside the floating-point majors. -/
def vfloat (lat g d : Nat) (gen : Bool) (ops : Nat) (f : Nat → Nat → W32 → LaneR) (s : State) : State :=
  eachCluster (fun c t =>
    let which := rdM s c g
    let rs := (List.range 16).map (fun l =>
      if bitAt which l then f c l (genOf s (16 * c + l)) else ⟨0, 0, genOf s (16 * c + l)⟩)
    let fl := rs.foldl (fun a r => a ||| r.fl) flNone
    let t := if gen then onVec (setGens c which rs) t else t
    let t := if ops = 0 then t else cntEv 0x1B (ops * activeN which) (cntEv 0x1A (activeN which) t)
    emit lat (.fl c fl) (emit lat (.v c d which (rs.map LaneR.x)) t)) s

/-- Source lanes. -/
def vlane (s : State) (c r l : Nat) : W32 := laneOf s.core.vec.v c r l

/-- An arithmetic instruction of majors 0x00–0x03 that rounds by FPSTAT.RM (05 R96, R97): ILLOP for codes 5 to 7. -/
def varith (lat g d ops : Nat) (f : Nat → Nat → Num × Flags5) (s : State) : Out :=
  .next (if 5 ≤ fpRm s then villop s
         else vfloat lat g d (fpRm s = 4) ops (fun c l w => round32 (exposed s) (fpRm s) (f c l) w) s)

/-- A transcendental (05 R100): rounded RNE whatever FPSTAT.RM holds. -/
def vtransc (g d : Nat) (a : Nat) (f : Num → Num × Flags5) (s : State) : Out :=
  .next (vfloat 8 g d false 1 (fun c l w => round32 (exposed s) 0 (f (fin32 (exposed s) (vlane s c a l))) w) s)

/-- Bits of the canonical NaN of FP32. -/
def nan32 : W32 := 0x7FC00000#32

/-- The lesser or greater with −0 below +0 (05 R98). -/
def pick32 (max : Bool) (ex : Bool) (x y : W32) : W32 :=
  let a := fin32 ex x
  let b := fin32 ex y
  if a = .nan ∨ b = .nan then nan32
  else
    let c := cmpN a b
    let less := decide (c < 0) || (decide (c = 0) && a.neg? && !b.neg?)
    let r := if less != max then a else b
    BitVec.ofNat 32 (encodeF fp32 r 0 0).1

/-- The same, giving the other operand when exactly one is NaN (05 R98). -/
def pickN32 (max : Bool) (ex : Bool) (x y : W32) : W32 :=
  let a := fin32 ex x
  let b := fin32 ex y
  if a = .nan then (if b = .nan then nan32 else BitVec.ofNat 32 (encodeF fp32 b 0 0).1)
  else if b = .nan then BitVec.ofNat 32 (encodeF fp32 a 0 0).1
  else pick32 max ex x y

/-! ### Lane reductions (05 R102, R103) -/

/-- One level of the pairwise tree; an absent operand passes the other through. -/
def treeLevel {α : Type} (f : α → α → α) : List (Option α) → List (Option α)
  | some x :: some y :: r => some (f x y) :: treeLevel f r
  | some x :: none :: r => some x :: treeLevel f r
  | none :: y :: r => y :: treeLevel f r
  | r => r

/-- The tree over sixteen lanes. -/
def tree16 {α : Type} (f : α → α → α) (xs : List (Option α)) : Option α :=
  (treeLevel f (treeLevel f (treeLevel f (treeLevel f xs)))).head?.join

/-- Active lanes of a source, absent elsewhere. -/
def laneOpts (s : State) (c g a : Nat) : List (Option W32) :=
  (List.range 16).map (fun l => if bitAt (rdM s c g) l then some (vlane s c a l) else none)

/-- A reduction: the result of each cluster goes to its active lanes; nothing is written where no lane is active. -/
def vreduce (lat g d ops : Nat) (f : Nat → Option (W32 × Flags5)) (s : State) : State :=
  eachCluster (fun c t =>
    match f c with
    | none => t
    | some (x, fl) =>
      let which := rdM s c g
      let t := if ops = 0 then t else cntEv 0x1B (activeN which) (cntEv 0x1A (activeN which) t)
      emit lat (.fl c fl) (emit lat (.v c d which (List.replicate 16 x)) t)) s

/-- One addition of VFRSUM's tree. -/
def sumNode (ex : Bool) (x y : W32 × Flags5) : W32 × Flags5 :=
  let (r, fl) := addN (fin32 ex x.1) (fin32 ex y.1) false
  let l := round32 ex 0 (r, fl) 0
  (l.x, x.2 ||| y.2 ||| l.fl)

end Sys2Proof.Machine
end

