-- ==== Sys2Proof/Machine/Boundary.lean ====
section
/-!
DEFINITION. Machine/Boundary.lean: what a core takes between bundles (19 R318, 16 R286, 03 R58).
-/
namespace Sys2Proof.Machine

/-- FPX (02 R32): XFA and the slot name the operation, XPC the bundle that comes next. -/
def takeFpx (pc : Word) (slot : Nat) (s : State) : State :=
  let n := s.core.iss.npc
  let s := onEv (fun e => { e with fpx := none }) (drain s)
  enter ⟨cFPX, 0, true, false, pc, slot, n, n, 0⟩ s

/-- Cycles until no S12 command of the core is in flight. -/
def flightLeft (c : Core) : Nat := c.mx.flight.foldl (fun m f => if m < f.land + 1 - c.now then f.land + 1 - c.now else m) 0

/-- Every issued result lands, S12 commands among them: a running command retires its accumulators before a pre-emption
is taken (03 R58, 20 R339). -/
def drainAll (s : State) : State :=
  let s := drain s
  if flightLeft s.core = 0 then s else pass (flightLeft s.core) s

/-- The team whose log a pre-emption of the core in focus needs two records of that nobody has reserved: of a PREQ, which the
distributor did not ask for. -/
def preUnasked (s : State) : Option Nat :=
  s.core.task.cont.bind (fun k => if (teamOf s k.team).any (fun x => x.pre.contains s.focus) then none else some k.team)

/-- Has the log of the team room for the pre-emption? Without it the core is not pre-empted, and the request stays (DEDUCED, log 144:
23 R378 says so of the distributor, and 19 R327 has PREQ act as though it had asked). -/
def preMay (s : State) : Bool := (preUnasked s).all (fun t => preRoom s t 1)

/-- A pre-emption is taken (19 R328 step 1): issue stops, results land, a pending WDOG is discarded (16 R285). -/
def startSave (s : State) : State :=
  let s := drainAll s
  let s := match preUnasked s with | some t => preReserve t s.focus s | none => s
  onCore (fun c =>
    let c := pmAdd 0x3A 1 c
    latchesOff { c with st := .save, iss := { c.iss with wait := 0 }, ev := { c.ev with wdog := false, stopped := false, wdogAge := 0, ppAge := 0 } }) s

/-- What a late fault records (03 R56: XNPC names the bundle at which the core was interrupted). -/
def lateRec (f : LateF) (npc : Word) : Entry :=
  ⟨f.cause, f.detail, false, true, f.fa, f.slot, f.pc, npc, if f.who = 2 then f.fpc else npc⟩

/-- The oldest late fault is taken (19 R318). -/
def takeLate (f : LateF) (rest : List LateF) (s : State) : State :=
  let e := lateRec f s.core.iss.npc
  let s := onEv (fun e => { e with late := rest }) (onCore (pmAdd 0x28 1) s)
  if f.cause = cMEMERR then memErr e false true s else enter e s

/-- WDOG (16 R285). -/
def takeWdog (forced : Bool) (s : State) : State :=
  let n := s.core.iss.npc
  enter ⟨cWDOG, b2n forced, true, false, 0, 0, n, n, 0⟩ (onEv (fun e => { e with wdog := false, wdogAge := 0 }) s)

/-- CCREQ (19 R319). -/
def takeCcreq (w : Word) (forced : Bool) (s : State) : State :=
  let n := s.core.iss.npc
  enter ⟨cCCREQ, b2n forced, true, false, w, 0, n, n, 0⟩ (onEv (fun e => { e with ccreq := none, reqAge := 0 }) s)

/-- The items of ranks 2 to 5 at a boundary at user level; `group` a group boundary, `forced` a forced one. -/
def takeItem (group forced : Bool) (s : State) : Option State :=
  let c := s.core
  let g := group || forced
  if c.x.pl then none
  else if c.x.pp && g && preMay s then some (startSave s)
  else
    match c.ev.late with
    | f :: r => some (takeLate f r s)
    | [] =>
      if c.ev.wdog && g then some (takeWdog forced s)
      else match c.ev.ccreq with
        | some w => if g then some (takeCcreq w forced s) else none
        | none => none

/-- Cycles without a group boundary after which one is forced (16 R286). -/
def forceAfter : Nat := 65536

/-- Is a forced boundary due: has any one item waited that long? -/
def forcedDue (c : Core) : Bool :=
  !c.ev.stopped && ((c.ev.wdog && decide (forceAfter ≤ c.ev.wdogAge)) || (c.ev.ccreq.isSome && decide (forceAfter ≤ c.ev.reqAge)) ||
    (c.x.pp && decide (forceAfter ≤ c.ev.ppAge)))

/-- May the bundle about to issue be left for an item that waits for a group boundary? One that has waited already only
where 16 R284 allows it. -/
def leavable (c : Core) : Bool := decide (c.iss.wait = 0 ∨ c.iss.wait = 2) && c.cm.rem.isNone

/-- FPX first, then the items of ranks 2 to 5. A bundle whose access is on its way to another package is not left: the access
is made once (21 R348). -/
def takeFirst (group forced : Bool) (s : State) : Option State :=
  if s.core.cm.rem.isSome then none
  else match s.core.ev.fpx with
    | some (pc, slot) => some (takeFpx pc slot s)
    | none => takeItem group forced s

/-- Does an item of the core wait for a boundary of this kind, at user level? -/
def groupWaits (group forced : Bool) (s : State) : Bool :=
  let c := s.core
  (groupItem { c with x := { c.x with pp := c.x.pp && preMay s } }) && !c.x.pl && (group || forced)

/-- What the boundary before the next bundle takes, if anything (19 Table 19-7). Before an item of a group boundary is taken
every issued result lands (03 R58, 16 R286), and an FPX that this raises ranks first. -/
def boundary (s : State) : Option State :=
  let go := leavable s.core
  let group := s.core.ev.stopped && go
  let forced := forcedDue s.core && go
  takeFirst group forced (if s.core.ev.fpx = none ∧ groupWaits group forced s = true then drain s else s)

/-- What is taken where the bundle at `npc` is to issue from slot `from_`: a bundle re-issued from a later slot is no
boundary, but for the late fault of a command it waits for (16 R283). -/
def lookOut (s : State) : Option State :=
  if s.core.iss.from_ = 0 then boundary s
  else if s.core.iss.wait = 0 ∨ s.core.x.pl = true ∨ s.core.cm.rem.isSome = true then none
  else
    match s.core.ev.late with
    | f :: r => some (takeLate f r s)
    | [] => none

end Sys2Proof.Machine
end

