-- ==== Sys2Proof/Machine/Passes.lean ====
section
/-!
DEFINITION. Machine/Passes.lean: performance counters (24 R384, R385), the path hash (24 R386), measurement passes (24
R387–R389), and the waits of a suspension they share (16 R283).
-/
namespace Sys2Proof.Machine

/-! ### The waits of a suspension (16 R283 steps 1 and 2) -/

/-- Has every S12 instruction, copy command, PREF, Teasel request and memory-side command of the core ended? -/
def quiet (c : Core) : Bool :=
  c.mx.flight.isEmpty && c.cp.cmds.isEmpty && c.th.reqs.isEmpty && decide (c.cm.msOut = 0)

/-- A pre-emption request of a core is withdrawn or cancelled: the records reserved for it are free again (23 R378). -/
def withdrawPre (key : Nat) (s : State) : State :=
  let s := onCoreAt key (fun c => { c with x := { c.x with pp := false } }) s
  match (coreAt s key).task.cont with
  | some k => onTeam k.team (fun x =>
      if x.pre.contains key then { x with pre := x.pre.erase key, logRes := x.logRes - 2 } else x) s
  | none => s

/-- The bundle is held until the core is quiet. A pre-emption request that comes meanwhile is withdrawn: a core that waits so takes
none (16 R283 step 2, `askPreempt`); one that was pending stays. -/
def awaitQuiet (f : State → State) (s : State) : State :=
  if quiet s.core then f s else splitAs 3 0x33 s

/-- Issued results land, and then the core is waited for. -/
def whenQuiet (f : State → State) (s : State) : State := awaitQuiet f (drain s)

/-! ### Captures closed (12 R228, 24 R388) -/

/-- Index entries of captured granules made invalid. -/
def clearIdx (area : Option CapArea) (caps : List (Nat × Nat)) (s : State) : State :=
  match area with
  | none => s
  | some ar => caps.foldl (fun s p => { s with mem := memPut (leBytes 8 0) (own s (ar.base + 8 * p.2)) s.mem }) s

/-- A granule copied back from its slot by writes of the team. -/
def copyBack (w : Who) (ar : CapArea) (gran slot : Nat) (s : State) : State :=
  let src := own s (ar.data + 4096 * slot)
  let old := (List.range 64).map (fun l => memNat s.mem (src + 64 * l) 64)
  (List.range 64).foldl (fun s l => homeWrite w false (gran + 64 * l) (2 ^ 512 - 1) (nth 0 old l) s) (l2Drop gran 4096 s)

/-- The captures of a team's pass on each stack. -/
def passWins (s : State) (t : Nat) : List (Nat × Win) :=
  (List.range 8).filterMap (fun k => (mfind? s.home.mwins (winKey t k)).map (fun w => (k, w)))

def dropPassWins (t : Nat) : State → State := onHome (fun h => { h with mwins := h.mwins.filter (fun p => decide (p.1 / 8 ≠ t)) })

/-- The pass of a team closed without restoring: its captures are discarded, its lines' marks taken away. -/
def discardPass (t : Nat) (s : State) : State :=
  let s := onHome (fun h => { h with l2 := h.l2.map (fun p =>
    (p.1, p.2.map (fun l => { l with mark := l.mark.filter (fun m => decide (m ≠ t)) }))) }) s
  dropPassWins t ((passWins s t).foldl (fun s p => clearIdx (mfind? s.ctl.meas (areaKey (teamAsid s t) p.1)) p.2.caps s) s)

/-- Steps 4 and 5 of MEND for the core in focus: memory restored at the homes, slots freed, own caches invalidated. The
granules restored and whether the pass was BROKEN. -/
def restorePass (t : Nat) (s : State) : (Nat × Bool) × State :=
  let ws := passWins s t
  let n := sumTo ws.length (fun i => (nth (0, Win.new) ws i).2.caps.length)
  let s := onHome (fun h => { h with l2 := h.l2.filterMap (fun p =>
    match p.2.filter (fun l => !l.mark.contains t) with | [] => none | ls => some (p.1, ls)) }) s
  let w : Who := { whoCore s.core 0 with team := some t, meas := false }
  let s := dropPassWins t s
  let s := ws.foldl (fun s p =>
    match mfind? s.ctl.meas (areaKey (teamAsid s t) p.1) with
    | none => s
    | some ar => clearIdx (some ar) p.2.caps (p.2.caps.foldl (fun s c => copyBack w ar c.1 c.2 s) s)) s
  ((n, ws.any (fun p => p.2.broken)), onCm (fun c => { c with tlb := [] }) (rcClear s))

/-! ### Counters (24 R385) -/

def execPmen (g n a : Nat) (s : State) : Out :=
  slotDo g n (fun s => (List.range 4).foldl (fun s i =>
    let v := srNext s (0x034 + i)
    emit 1 (.sr (0x034 + i) ((v &&& ~~~0x100#64) ||| (if bitAt (rdS s a) i then 0x100#64 else 0))) s) s) s

def execPmz (g n a : Nat) (s : State) : Out :=
  slotDo g n (fun s => (List.range 4).foldl (fun s i =>
    if bitAt (rdS s a) i then emit 1 (.sr (0x030 + i) 0) s else s) s) s

def execMph (g n d : Nat) (s : State) : Out := retS g n 1 d s.core.pm.cph s

/-! ### Passes (24 R387, R388) -/

/-- MBEGIN and MEND run interlocked, at user level, on a compute core (24 R384). -/
def passOk (s : State) : Bool := !exposed s && !s.core.x.pl && !s.core.ctl

/-- MBEGIN's status. -/
def beginStatus (s : State) (t : Nat) : Nat :=
  if s.core.pm.open_ then 1
  else if (List.range 8).any (fun k => (mfind? s.ctl.meas (areaKey (teamAsid s t) k)).isNone) then 2
  else if (passWins s t).isEmpty then 0 else 5

/-- A pass opened: captures at every home, hash and counters cleared, counting enabled from the next bundle. -/
def openPass (t : Nat) (ref : Bool) (s : State) : State :=
  let s := onHome (fun h => { h with mwins := (List.range 8).foldl (fun m k => mput m (winKey t k) .new) h.mwins }) s
  let s := onPm (fun p => { p with open_ := true, refp := ref, cph := 0 }) s
  (List.range 4).foldl (fun s i => emit 1 (.sr (0x034 + i) (srNext s (0x034 + i) ||| 0x100#64)) (emit 1 (.sr (0x030 + i) 0) s)) s

def execMbegin (g n d a : Nat) (s : State) : Out :=
  slotDo g n (fun s =>
    if !passOk s || decide ((rdS s a).toNat / 2 ≠ 0) then illop s
    else
      whenQuiet (fun s =>
        let t := teamNum s.core
        let st := beginStatus s t
        emit 1 (.s d (wd st)) (if st = 0 then openPass t (bitAt (rdS s a) 0) s else s)) s) s

/-- The hash stored as the reference, or compared with it: true where they differ. -/
def judgeHash (s : State) : Bool × State :=
  let p := s.core.pm
  match p.ref_ with
  | some r => if p.refp then (false, onPm (fun p => { p with ref_ := some p.cph }) s) else (decide (r ≠ p.cph), s)
  | none => (false, onPm (fun p => { p with ref_ := some p.cph }) s)

/-- Counting disabled at once: events of the MEND bundle are not counted. -/
def stopCounting : State → State := onPm (fun p =>
  { p with sel := (List.range 4).foldl (fun m i => mset 0 m i (mget 0 m i &&& ~~~0x100#64)) p.sel })

def execMend (g n d : Nat) (s : State) : Out :=
  slotDo g n (fun s =>
    if !passOk s then illop s
    else
      whenQuiet (fun s =>
        if !s.core.pm.open_ then emit 1 (.s d 3) s
        else
          let (bad, s) := judgeHash (stopCounting s)
          let s := onPm (fun p => { p with open_ := false, refp := false }) s
          let ((k, broken), s) := restorePass (teamNum s.core) s
          emit 1 (.s d (wd ((if broken then 4 else 0) + 2 ^ 8 * b2n bad + 2 ^ 32 * k))) s) s) s

end Sys2Proof.Machine
end

