-- ==== Sys2Proof/Machine/Sorrel.lean ====
section
/-!
DEFINITION. Machine/Sorrel.lean: Sorrel regions, their arrivals and updates, and in-DRAM copy (14 R255, R260–R271).
-/
namespace Sys2Proof.Machine

/-! ### Acceptance and records (14 R255, R271) -/

/-- A memory-side command is accepted, or turned away with 0. -/
def acceptMs (pd : Nat) (f : State → State) (s : State) : State :=
  if s.core.cm.msOut < 8 ∧ evRoom s.core = true then
    retAccept pd true (f (onCm (fun c => { c with msOut := c.msOut + 1 }) (reserveEv s)))
  else retAccept pd false s

/-- The record of a memory-side command of a core. -/
def endMs (core : Nat) (r : Word) : State → State := onCoreAt core (fun c =>
  postEv r { c with cm := { c.cm with msOut := c.cm.msOut - 1 } })

/-! ### Pages captured at registration or issue (12 R219, 14 R261) -/

/-- A cause, its detail and XFA. -/
abbrev MsFault := Nat × Nat × Word

/-- One page translated for a memory-side agent: PIN = 1 is needed, the register space is refused. -/
def msPage (k : Acq) (user : Bool) (va : Word) (s : State) : (MsFault ⊕ (Nat × Nat)) × State :=
  match translate s.focus s.core.x.ttb true user k va s with
  | (.bad c d fa, s) => (.inl (c, d, fa), s)
  | (.ok a e, s) =>
    if isReg a then (.inl (cPROT, 4, va), s)
    else if e / 2 ^ 8 % 2 = 0 then (.inl (cXLATE, 5, va), s)
    else (.inr (a, leafLow e), s)

/-- The 64 KiB pages that hold [va, va + len): virtual page to 8 × physical page + 4 × REM + class. `n` bounds their number. -/
def msPages (k : Acq) (user : Bool) : Nat → Nat → Nat → SMap Nat → State → (MsFault ⊕ SMap Nat) × State
  | 0, _, _, m, s => (.inr m, s)
  | n + 1, va, len, m, s =>
    if len = 0 then (.inr m, s)
    else
      match msPage k user (wd va) s with
      | (.inl f, s) => (.inl f, s)
      | (.inr (a, c), s) =>
        let z := 2 ^ 16 - va % 2 ^ 16
        msPages k user n (va + z) (len - z) (mput m (va % 2 ^ 64 / 2 ^ 16) (a / 2 ^ 16 * 8 + c)) s

/-- The pages of a range up to the first that cannot be had. -/
def msPagesSome (k : Acq) (user : Bool) : Nat → Nat → Nat → SMap Nat → State → SMap Nat × State
  | 0, _, _, m, s => (m, s)
  | n + 1, va, len, m, s =>
    if len = 0 then (m, s)
    else
      match msPage k user (wd va) s with
      | (.inl _, s) => (m, s)
      | (.inr (a, c), s) =>
        let z := 2 ^ 16 - va % 2 ^ 16
        msPagesSome k user n (va + z) (len - z) (mput m (va % 2 ^ 64 / 2 ^ 16) (a / 2 ^ 16 * 8 + c)) s

/-- Several ranges' pages in turn. -/
def msRanges (k : Acq) (user : Bool) : List (Nat × Nat) → SMap Nat → State → (MsFault ⊕ SMap Nat) × State
  | [], m, s => (.inr m, s)
  | (va, len) :: r, m, s =>
    match msPages k user (len / 2 ^ 16 + 2) va len m s with
    | (.inl f, s) => (.inl f, s)
    | (.inr m, s) => msRanges k user r m s

/-! ### Writes of a memory-side engine (12 R223) -/

/-- Bits of a line written at their home and published at once: the line leaves the L2, copies of it leave the read caches, and
the L2 takes its new contents (13 R244). -/
def msLine (w : Who) (a mask val : Nat) (s : State) : State :=
  homeWrite w true a mask val (rcDropAll (fun l => decide (l = a)) (l2Drop a 64 s))

/-- The home has the L2 write the lines of a range back and drop them before its engine reads them (12 R223). -/
def msReads (a n : Nat) (s : State) : State := l2Drop (lineOf a) (a % 64 + n) s

/-- Bytes of a registered region at a virtual address. -/
def regNat (s : State) (r : Region) (va n : Nat) : Nat := memNat s.mem (r.phys va) n

/-- Who a region's engine is: its writes belong to the team that registered the region (19 R335), and to that team's open pass
(24 R387; DESIGN CHOICE, log 133: the spec does not say for which task of the team an engine acts). -/
def whoRegion (s : State) (r : Region) : Who :=
  { key := 2048 + 4 * stackOf (paOf r.rec_) + (recAt s.mem r.rec_).eng, team := if r.team < 4096 then some r.team else none,
    meas := s.home.mwins.any (fun p => decide (p.1 / 8 = r.team)), cls := r.rcls, dig := true }

/-- Bits by line of virtual addresses, written through a region's pages. -/
def regLines (r : Region) (w : Who) (ls : SMap (Nat × Nat)) (s : State) : State :=
  ls.foldl (fun s p => msLine { w with cls := r.cls (p.1 * 64) } (r.phys (p.1 * 64)) p.2.1 p.2.2 s) s

/-- The same for a block: a line bound to an object waits as a shadow for the engine's release (13 Table 13-3), another is published
with its block. The L2 gives either up (12 R223). -/
def blockLines (r : Region) (w : Who) (ls : SMap (Nat × Nat)) (s : State) : State :=
  ls.foldl (fun s p =>
    let a := r.phys (p.1 * 64)
    let w := { w with cls := r.cls (p.1 * 64) }
    if (boundTo s a).isSome then shadowPut w a p.2.1 p.2.2 (l2Drop a 64 s) else msLine w a p.2.1 p.2.2 s) s

/-- Must a block wait with a line, bound to no object, for room in the shadow store of its stack (13 R244)? -/
def blockWaits (s : State) (r : Region) (w : Who) (ls : SMap (Nat × Nat)) : Bool :=
  ls.any (fun p => (boundTo s (r.phys (p.1 * 64))).isNone && !shadowRoom s w (r.phys (p.1 * 64)))

/-- Bytes of the region's record written. -/
def recPut (r : Region) (o : Nat) (bs : List Byte) (s : State) : State :=
  let m := putBits (8 * (r.rec_ + o)) (8 * bs.length) (leNat bs) []
  m.foldl (fun s p => msLine (whoRegion s r) (p.1 * 64) p.2.1 p.2.2 s) s

/-- A region's 32-bit counter raised, wrapping or saturating. -/
def recCount (r : Region) (o : Nat) (sat : Bool) (s : State) : State :=
  let v := memNat s.mem (r.rec_ + o) 4
  recPut r o (leBytes 4 (if sat && decide (v = 2 ^ 32 - 1) then v else v + 1)) s

/-! ### OPTREG (14 R261) -/

/-- Reserved bits of a record, or a shape the spec calls malformed (14 Table 14-5). -/
def recBad (m : SMap Byte) (a : Nat) : Bool :=
  let c := recAt m a
  decide (nbits c.ctrl 63 48 ≠ 0) || decide (nbits c.ctrl 15 8 ≠ 0) || decide (nbits c.ctrl 5 4 ≠ 0) ||
  decide (c.ctrl / 2 % 2 = 1) || decide (16 ≤ c.ssh) || decide (memNat m (a + 0xC4) 60 ≠ 0) ||
  (c.mxc && (!elemLegal (fmtOf c.mxfw) || decide (8 < c.cbits))) || decide (2 ^ c.ssh < c.bcols) ||
  c.arrays.any (fun p => decide (p.1 % 64 ≠ 0))

/-- Physical pieces of a range in captured pages. -/
def pcsIn (pages : SMap Nat) (va len : Nat) : List (Nat × Nat) :=
  (pagesOfMs va len).map (fun p =>
    let lo := if va < p * 2 ^ 16 then p * 2 ^ 16 else va
    let hi := if va + len < (p + 1) * 2 ^ 16 then va + len else (p + 1) * 2 ^ 16
    (mget 0 pages p / 8 * 2 ^ 16 + lo % 2 ^ 16, hi - lo))
where
  pagesOfMs (va len : Nat) : List Nat :=
    (List.range ((va + len + 2 ^ 16 - 1) / 2 ^ 16 - va / 2 ^ 16)).map (fun i => va / 2 ^ 16 + i)

/-- Do any two of the lists of pieces share a byte? -/
def anyMeet : List (List (Nat × Nat)) → Bool
  | [] => false
  | x :: r => r.any (fun y => pcsMeet x y) || anyMeet r

/-- Pieces made of whole lines. -/
def wholeLines (ps : List (Nat × Nat)) : List (Nat × Nat) := ps.map (fun p => (p.1 / 64 * 64, cdiv (p.1 % 64 + p.2) 64 * 64))

/-- Lines of a registered region: record and arrays. -/
def Region.pcs (s : State) (r : Region) : List (Nat × Nat) :=
  (r.rec_, 256) :: wholeLines ((recAt s.mem r.rec_).arrays.flatMap (fun p => pcsIn r.pages p.1 p.2))

/-- OPTREG's status for a record translated with its arrays; `m` holds the record, and `rem` says that its leaf is remote. -/
def regStatus (s : State) (m : SMap Byte) (a : Nat) (rem : Bool) (pages : SMap Nat) : Nat :=
  let c := recAt m a
  let ps := c.arrays.map (fun p => pcsIn pages p.1 p.2)
  let all := ps.flatten
  let away := fun (x : Nat) => pkgOf x != s.ctl.pkgNum || stackOf (paOf x) != stackOf (paOf a)
  let others := s.home.regions.filter (fun r => decide (r.rec_ ≠ a))
  firstStatus
    [(recBad m a, 1), (rem || away a || all.any (fun p => away p.1) || pages.any (fun p => decide (p.2 / 4 % 2 = 1)), 2),
     (anyMeet ps || others.any (fun r => pcsMeet ((a, 256) :: wholeLines all) (r.pcs s)), 3),
     (decide (64 ≤ (s.home.regions.filter (fun r => decide (stackOf (paOf r.rec_) = stackOf (paOf a)) &&
        decide ((recAt s.mem r.rec_).eng = c.eng))).length), 4),
     (s.home.regions.any (fun r => decide (r.rec_ = a)), 5)]

/-- The fields OPTREG writes, and the region entered. -/
def enterRegion (r : Region) (s : State) : State :=
  let c := recAt s.mem r.rec_
  let seed := memNat s.mem (r.rec_ + 0x6C) 4
  let s := recPut r 0x70 ((List.range 16).flatMap (fun l => leBytes 4 (seedState (wd seed) l).toNat)) s
  let s := recPut r 0xB0 (leBytes 20 0) s
  let s := regLines r (whoRegion s r)
    ((List.range 512).foldl (fun m i => putBits (8 * (c.winb + 64 * i)) 512 (2 ^ 512 - 1) m) []) s
  let s := recPut r 0 (leBytes 8 (c.ctrl / 2 * 2 + 1)) s
  onHome (fun h => { h with regions := h.regions ++ [r] }) s

/-- OPTREG of a record whose bytes are in `m`: the arrays translated, then its status, and the region entered where that is OK. -/
def regRecord (d p low : Nat) (m : SMap Byte) (s : State) : State :=
  match msRanges .wr (!s.core.x.pl) (recAt m p).arrays [] s with
  | (.inl (c, dt, fa), s) => trap c dt fa s
  | (.inr pages, s) =>
    let st := regStatus s m p (decide (4 ≤ low)) pages
    let r : Region := { rec_ := p, rcls := low % 4, pages := pages, team := teamNum s.core, sup := s.core.x.pl }
    retStatus d st (if st = oOK then enterRegion r s else s)

/-- A record on another package is read there: its arrays and its shape are checked before its place is (14 Table 14-5). -/
def execOptreg (g n d a : Nat) (s : State) : Out :=
  slotDo g n (fun s =>
    let va := rdS s a
    let user := !s.core.x.pl
    if va.toNat % 256 ≠ 0 then trap cALIGN 0 va s
    else
      match msPage .wr user va s with
      | (.inl (c, dt, fa), s) => trap c dt fa s
      | (.inr (p, low), s) =>
        if pkgOf p ≠ s.ctl.pkgNum then
          remoteAsk (pkgOf p) (low % 4) 34 p (leBytes 4 256) va (fun r s => regRecord d p low (memPut (leBytes 256 r) p []) s) s
        else if retired s p then trap cMEMERR 1 va s
        else regRecord d p low s.mem s) s

/-! ### OPTCTL (14 R262) -/

/-- Nothing that arrives at a region. -/
def Arr.blank (rec_ : Option Nat) : Arr :=
  { rec_ := rec_, core := none, coll := none, grad := 0, pages := [], data := none, bad := false, blk0 := 0, nblk := 0, seq := 0,
    src := 0, run := none, ctl := none }

/-- Is it the OPTCTL for which the bundle of a core, or a packet, waits? -/
def Arr.heldCtl (key : Nat) (x : Arr) : Bool := x.ctl.any (fun k => decide (k.core = key) && !k.late)

/-- An OPTCTL takes its place among the arrivals of a region; one that waits in its bundle does so once. -/
def queueCtl (a : Nat) (k : CtlOp) (line : List Byte) (s : State) : State :=
  if !k.late && s.home.arrivals.any (fun x => decide (x.rec_ = some a) && x.heldCtl k.core) then s
  else onHome (fun h => { h with arrivals := h.arrivals ++ [{ Arr.blank (some a) with ctl := some k, data := some line }] }) s

/-- The OPTCTL for which the bundle of a core waits is no longer among the arrivals. -/
def dropCtl (key : Nat) : State → State :=
  onHome (fun h => { h with arrivals := h.arrivals.filter (fun x => !x.heldCtl key) })

/-- Is it the turn of a core's OPTCTL: do no arrivals of the region stand before it? -/
def ctlTurn (s : State) (a key : Nat) : Bool :=
  match s.home.arrivals.find? (fun x => decide (x.rec_ = some a)) with
  | some x => x.heldCtl key
  | none => true

/-- What OPTCTL does to a registered region (14 R262): 0 DEREG, 1 SETHP, 2 CLRF. -/
def ctlDo (func : Nat) (line : List Byte) (r : Region) (s : State) : State :=
  if func = 0 then
    onHome (fun h => { h with regions := h.regions.filter (fun x => decide (x.rec_ ≠ r.rec_)) })
      (recPut r 0 (leBytes 8 ((recAt s.mem r.rec_).ctrl / 2 * 2)) s)
  else if func = 1 then recPut r 0x48 (line.take 36) s
  else recPut r 0xB0 (leBytes 16 0) s

/-- The status of an OPTCTL that waited at its home while its core went on (14 R255). -/
def ctlAnswer (k : CtlOp) (st : Nat) : State → State := onCoreAt k.core (fun c =>
  if c.cm.ans.contains (k.d, k.born) then
    let due := k.born + (if c.ctl then Config.devLatCtl else Config.devLat) - 1
    { c with cm := { c.cm with ans := c.cm.ans.erase (k.d, k.born) },
             pend := insPend ⟨if due < c.now then c.now else due, k.born, c.iss.pc, 13, .s k.d (wd st)⟩ c.pend }
  else c)

/-- An OPTCTL on the record at s[a]: it acts in the region's arrival order, and behind an arrival its status lands later, as a load
does; an exposed core freezes meanwhile (06 R118, 14 R255). A region of another package answers for itself. -/
def optctl (func d : Nat) (va : Word) (line : List Byte) (s : State) : State :=
  match transCore .rd va s with
  | (.bad c dt fa, s) => trap c dt fa s
  | (.ok a _, s) =>
    if isReg a then trap cPROT 4 va s
    else if pkgOf a ≠ s.ctl.pkgNum then remoteAsk (pkgOf a) 0 (27 + func) a line va (fun st s => retStatus d (st % 256) s) s
    else
      match s.home.regions.find? (fun r => decide (r.rec_ = a)) with
      | none => retStatus d qNOREG (dropCtl s.focus s)
      | some r =>
        let k := fun late => ({ core := s.focus, func := func, d := d, born := s.core.now, late := late } : CtlOp)
        if ctlTurn s a s.focus then retStatus d qOK (ctlDo func line r (dropCtl s.focus s))
        else if exposed s then hold 0x33 (queueCtl a (k false) line s)
        else onCm (fun c => { c with ans := c.ans ++ [(d, s.core.now)] }) (queueCtl a (k true) line s)

def execDereg (g n d a : Nat) (s : State) : Out :=
  slotDo g n (optctl 0 d (rdS s a) []) s

def execSethp (g n d a r : Nat) (s : State) : Out :=
  slotDo g n (ownLine (rdA s r) 64 (fun bs s =>
    if (bs.drop 36).any (fun b => decide (b ≠ 0)) then illop s
    else optctl 1 d (rdS s a) bs s)) s

/-- CLRF names a line that it does not read (14 R254). -/
def execClrf (g n d a r : Nat) (s : State) : Out :=
  slotDo g n (fun s =>
    ownNamed false false (rdA s r) 64 (optctl 2 d (rdS s a) []) s) s

/-! ### Arrivals (14 R263, R264) -/

/-- First row, rows, first column, columns of a block. -/
def RRec.geom (c : RRec) (b : Nat) : Nat × Nat × Nat × Nat :=
  let i := 16 * (b / c.bcols)
  let j := 16 * (b % c.bcols)
  (i, (if i + 16 ≤ c.rows then 16 else c.rows - i), j, (if j + 16 ≤ c.cols then 16 else c.cols - j))

/-- Elements of a run of blocks. -/
def RRec.count (c : RRec) (b0 n : Nat) : Nat := sumTo n (fun k => let (_, h, _, w) := c.geom (b0 + k); h * w)

/-- The arrival a header describes: its record looked up and its data's pages captured, as many as can be had; of a record on another
package, which tells how many are needed, as many as the blocks could need. `far` is that record. -/
def arrivalOf (h : List Byte) (core tag : Nat) (s : State) : Arr × Option Nat × State :=
  let grad := leAt h 8 8
  let b0 := leAt h 0x10 4
  let nb := leAt h 0x14 4
  let user := !s.core.x.pl
  let (at_, s) := match translate s.focus s.core.x.ttb true user .rd (wd (leAt h 0 8)) s with
    | (.bad _ _ _, s) => (none, s)
    | (.ok a _, s) => (some a, s)
  let rec_ := at_.bind (fun a => (s.home.regions.find? (fun (r : Region) => decide (r.rec_ = a))).map Region.rec_)
  let far := at_.filter (fun a => decide (pkgOf a ≠ s.ctl.pkgNum))
  let len := match rec_ with | some a => 4 * (recAt s.mem a).count b0 nb | none => if far.isSome then 1024 * nb else 0
  let (pages, s) := if grad % 64 ≠ 0 then ([], s) else msPagesSome .rd user (len / 2 ^ 16 + 2) grad len [] s
  ({ Arr.blank rec_ with core := some (core, tag), grad := grad, pages := pages, bad := decide (grad % 64 ≠ 0), blk0 := b0, nblk := nb,
                         seq := leAt h 0x18 4, src := leAt h 0x1C 2 }, far, s)

/-- Kinds of the message that takes an arrival to a region of another package, and of the one that brings its outcome. -/
def kGrad : Nat := 47
def kGradDone : Nat := 48

/-- The record of a memory-side command that ends without effect. -/
def gradRefused (core tag : Nat) : State → State := endMs core (evRec 7 tag 3 0 0)

/-- An arrival leaves for a region of another package, with the pages of its data; where no link leads there it is refused (DESIGN
CHOICE, log 156: 14 Table 14-8 has no status for it). -/
def sendGrad (a : Nat) (x : Arr) (s : State) : State :=
  let tag := (x.core.map Prod.snd).getD 0
  match deadDir s (pkgOf a) with
  | some d => gradRefused s.focus tag (countDead d s)
  | none => sendPkt (pkgOf a) (.tell s.focus kGrad a (leBytes 1 tag ++ leBytes 1 (b2n x.bad) ++ leBytes 8 x.grad ++ leBytes 4 x.blk0 ++
      leBytes 4 x.nblk ++ leBytes 4 x.seq ++ leBytes 2 x.src ++ x.pages.flatMap (fun p => leBytes 8 p.1 ++ leBytes 8 p.2))) s

/-- Is the queue of arrivals at a region full (21 R349)? -/
def arrFull (s : State) (rec_ : Option Nat) : Bool :=
  rec_.isSome && decide (1024 ≤ (s.home.arrivals.filter (fun x => decide (x.rec_ = rec_))).length)

/-- An arrival that finds the region's queue full waits for room there, in the order it was sent (21 R349; log 156). -/
def execOptgrad (g n p _s r t : Nat) (z : State) : Out :=
  slotDo g n (ownLine (rdA z r) 64 (fun h z =>
    let nb := leAt h 0x14 4
    if (h.drop 0x1E).any (fun b => decide (b ≠ 0)) ∨ leAt h 0x1C 2 / 2 ^ 14 ≠ 0 ∨ nb = 0 ∨ 65536 < nb then illop z
    else
      let (x, far, u) := arrivalOf h z.focus t z
      acceptMs p (fun s => match far with
        | some a => sendGrad a x s
        | none => onHome (fun h => { h with arrivals := h.arrivals ++ [x] }) s) u)) z

/-! ### The update (14 R265, R266) -/

/-- A value with the flags of what led to it. -/
abbrev Fv := Num × Flags5

/-- One operation rounded to FP32 by RNE. -/
def rndF (x : Num × Flags5) (fl : Flags5) : Fv :=
  let (b, f) := rneF fp32 x.1
  (decodeF fp32 b, fl ||| x.2 ||| f)
def mulF (x y : Fv) : Fv := rndF (mulN x.1 y.1) (x.2 ||| y.2)
def addF (x y : Fv) : Fv := rndF (addN x.1 y.1 false) (x.2 ||| y.2)
def subF (x y : Fv) : Fv := rndF (addN x.1 y.1.negate false) (x.2 ||| y.2)
def divF (x y : Fv) : Fv := rndF (divN x.1 y.1) (x.2 ||| y.2)
def sqrtF (x : Fv) : Fv := rndF (sqrtN x.1) x.2

/-- Hyperparameters in their order: LR, B1, C1, B2, C2, EPS, WD, BC1, BC2. -/
def hpOf (s : State) (a : Nat) : List Fv :=
  (List.range 9).map (fun k => (decodeF fp32 (memNat s.mem (a + 0x48 + 4 * k) 4), flNone))

/-- One element's update: the new weight and moments. -/
def updElem (adam : Bool) (hp : List Fv) (g w m v : Fv) : Fv × Fv × Fv :=
  let h := fun k => nth (Num.zero false, flNone) hp k
  if adam then
    let m := addF (mulF (h 1) m) (mulF (h 2) g)
    let v := addF (mulF (h 3) v) (mulF (mulF (h 4) g) g)
    let mh := mulF m (h 7)
    let vh := mulF v (h 8)
    let q := addF (sqrtF vh) (h 5)
    let u := divF mh q
    (subF w (mulF (h 0) (addF u (mulF (h 6) w))), m, v)
  else
    let d := addF g (mulF (h 6) w)
    let m := addF (mulF (h 1) m) d
    (subF w (mulF (h 0) m), m, v)

/-- What a block's update builds: bits by line of virtual addresses, new weights in order, generators, flags. -/
structure UpdAcc where
  lines : SMap (Nat × Nat)
  ws : List Num
  gens : List W32
  fl : Flags5
  deriving DecidableEq, Repr

/-- One element of a block, at row i and column j of the matrix, with its gradient. -/
def updOne (s : State) (r : Region) (c : RRec) (hp : List Fv) (i j g : Nat) (a : UpdAcc) : UpdAcc :=
  let o := 4 * (i * c.cols + j)
  let rd := fun b => (decodeF fp32 (regNat s r (b + o) 4), flNone)
  let (w, m, v) := updElem c.adam hp (decodeF fp32 g, flNone) (rd c.mwb) (rd c.m1b) (if c.adam then rd c.m2b else (.nan, flNone))
  let put := fun b (x : Fv) ls => putBits (8 * (b + o)) 32 (rneF fp32 x.1).1 ls
  let ls := put c.mwb w (put c.m1b m a.lines)
  { a with lines := if c.adam then put c.m2b v ls else ls, ws := a.ws ++ [w.1],
           fl := a.fl ||| w.2 ||| m.2 ||| (if c.adam then v.2 else flNone) }

/-- The MX copy of a block rebuilt from its new weights (14 R266). -/
def updMx (c : RRec) (b : Nat) (a : UpdAcc) : UpdAcc :=
  let f := fmtOf c.mxfw
  let (i0, _, j0, w) := c.geom b
  let (sc, fl) := mxScale f a.ws
  let a := { a with fl := a.fl ||| fl, lines := putBits (8 * (c.mxsb + b / c.bcols * 2 ^ c.ssh + b % c.bcols)) 8 sc a.lines }
  (List.range a.ws.length).foldl (fun a k =>
    let (e, fl, g) := mxElem f sc (nth .nan a.ws k) 4 (nth 0 a.gens (k % w))
    { a with lines := putBits (8 * (c.mxeb + (i0 + k / w) * c.mxPitch) + f.cont * (j0 + k % w)) f.cont e a.lines,
             gens := setNth a.gens (k % w) g, fl := a.fl ||| fl }) a

/-- One block: every line it writes, its tags, the generators and flags after it. `gr` gives its gradients in order. -/
def updBlock (s : State) (r : Region) (c : RRec) (hp : List Fv) (b seq : Nat) (gr : Nat → Nat) (gens : List W32) : UpdAcc :=
  let (i0, h, j0, w) := c.geom b
  let a : UpdAcc := { lines := [], ws := [], gens := gens, fl := flNone }
  let a := (List.range (h * w)).foldl (fun a k => updOne s r c hp (i0 + k / w) (j0 + k % w) (gr k) a) a
  let a := if c.mxc then updMx c b a else a
  { a with lines := putBits (8 * (c.tagb + 8 * b)) 64 (seq + seq * 2 ^ 32) a.lines }

/-! ### An arrival performed (14 R264) -/

/-- Objects to which a line of the region's arrays is bound. -/
def regObjs (s : State) (r : Region) : List Obj :=
  objsOver s ((recAt s.mem r.rec_).arrays.flatMap (fun p => pcsIn r.pages p.1 p.2))

/-- Number of a region's engine as a holder of objects: one update of the region is under way at a time. -/
def regHolder (r : Region) : Nat := r.rec_

/-- Lines of an arrival's gradient data. -/
def gradLines (c : RRec) (x : Arr) : List Nat :=
  (List.range (cdiv (4 * c.count x.blk0 x.nblk) 64)).map (fun l =>
    mget 0 x.pages ((x.grad + 64 * l) / 2 ^ 16) / 8 * 2 ^ 16 + (x.grad + 64 * l) % 2 ^ 16)

/-- The lines of the data that lie on other packages. -/
def gradAway (s : State) (c : RRec) (x : Arr) : List Nat := (gradLines c x).filter (fun a => decide (pkgOf a ≠ s.ctl.pkgNum))

/-- The data line by line: own lines from their homes, lines of other packages from what those sent. -/
def gradBytes (s : State) : List Nat → List Byte → List Byte
  | [], _ => []
  | a :: r, remote =>
    if pkgOf a = s.ctl.pkgNum then memBytes s.mem a 64 ++ gradBytes s r remote
    else remote.take 64 ++ gradBytes s r (remote.drop 64)

/-- Gradient `k` of an arrival. -/
def gradAt (x : Arr) (k : Nat) : Nat := leAt (x.data.getD []) (4 * k) 4

/-- Is the arrival's data unreadable: a fault, a page gone or a torn line, a shard of another length, lines of other packages
that did not come? -/
def gradBad (s : State) (c : RRec) (x : Arr) (remote : List Byte) : Bool :=
  x.bad || x.pages.any (fun p => retired s (p.2 / 8 * 2 ^ 16)) ||
  (match x.data with
   | some bs => decide (bs.length ≠ 4 * c.count x.blk0 x.nblk)
   | none => (List.range (cdiv (4 * c.count x.blk0 x.nblk) 64)).any (fun l => (mfind? x.pages ((x.grad + 64 * l) / 2 ^ 16)).isNone) ||
       (gradLines c x).any (pairTorn s) || decide (remote.length ≠ 64 * (gradAway s c x).length))

/-- Is {SRC, SEQ} in the window? -/
def inWindow (s : State) (r : Region) (c : RRec) (x : Arr) : Bool :=
  (List.range 4096).any (fun k => decide (regNat s r (c.winb + 8 * k) 8 = x.seq * 2 ^ 32 + x.src))

/-- The outcome of an arrival reaches its sender: the core's record, on its own package, or the collective. -/
def arrivalDone (x : Arr) (st bytes : Nat) (s : State) : State :=
  let s := match x.core with
    | some (k, tag) =>
      if k < 2 ^ 24 then endMs k (evRec 7 tag st 0 bytes) s
      else tell ((k - 2 ^ 24) / 2 ^ 20) kGradDone (k % 2 ^ 20) (leBytes 1 tag ++ leBytes 1 st ++ leBytes 8 bytes) s
    | none => s
  match x.coll with
  | some id => onNet (fun n => { n with colls := n.colls.map (fun c =>
      if c.id = id ∧ c.at_ = 2 then { c with at_ := 3, status := if st = 1 then 2 else st, bytes := bytes } else c) }) s
  | none => s

/-- An arrival is accepted: its window entry is written, its data and the generators are read. -/
def acceptArr (r : Region) (c : RRec) (x : Arr) (remote : List Byte) (s : State) : Arr × State :=
  let s := ((r.rec_, 256) :: pcsIn r.pages c.winb 32768 ++ (gradLines c x).map (fun a => (a, 64))).foldl (fun s (p : Nat × Nat) => msReads p.1 p.2 s) s
  let data := x.data.getD ((gradBytes s (gradLines c x) remote).take (4 * c.count x.blk0 x.nblk))
  let gens := (List.range 16).map (fun l => (BitVec.ofNat 32 (memNat s.mem (r.rec_ + 0x70 + 4 * l) 4) : W32))
  let wp := memNat s.mem (r.rec_ + 0xC0) 4 % 4096
  let s := regLines r (whoRegion s r) (putBits (8 * (c.winb + 8 * wp)) 64 (x.seq * 2 ^ 32 + x.src) []) s
  ({ x with data := some data, run := some ⟨0, 0, gens, flNone⟩ }, recPut r 0xC0 (leBytes 4 ((wp + 1) % 4096)) s)

/-- The next block of an arrival is updated and published with its tags, once the shadow store has room; the L2 gives up the record
and the block's lines before they are read (12 R223). -/
def nextBlock (r : Region) (c : RRec) (x : Arr) (u : ArrRun) (s : State) : Option (ArrRun × State) :=
  let a := updBlock s r c (hpOf s r.rec_) (x.blk0 + u.done) x.seq (fun k => gradAt x (u.pos + k)) u.gens
  let (_, h, _, w) := c.geom (x.blk0 + u.done)
  if blockWaits s r (whoRegion s r) a.lines then none
  else some (⟨u.done + 1, u.pos + h * w, a.gens, u.fl ||| a.fl⟩, blockLines r (whoRegion s r) a.lines (msReads r.rec_ 256 s))

/-- The end of an arrival: generators and flags written back, the objects released, the count raised. -/
def endArr (r : Region) (c : RRec) (x : Arr) (u : ArrRun) (s : State) : State :=
  let s := recPut r 0x70 (u.gens.flatMap (fun w => leBytes 4 w.toNat)) s
  let s := recPut r 0xBC (leBytes 4 (memNat s.mem (r.rec_ + 0xBC) 4 ||| u.fl.toNat)) s
  let w := whoRegion s r
  let s := (regObjs s r).foldl (fun s o => engRel (regHolder r) w.key w.meas o s) s
  arrivalDone x 0 (4 * c.count x.blk0 x.nblk) (recCount r 0xB0 false s)

/-- An accepted arrival goes on: once its engine holds every object it needs, one block is updated; none is left when it is
over. -/
def goArr (r : Region) (c : RRec) (x : Arr) (u : ArrRun) (s : State) : Option Arr × State :=
  match engAcqAll (regHolder r) (regObjs s r) s with
  | (false, s) => (some x, s)
  | (true, s) =>
    match nextBlock r c x u s with
    | none => (some x, s)
    | some (u, s) => if u.done < x.nblk then (some { x with run := some u }, s) else (none, endArr r c x u s)

/-- Is an arrival refused (14 R263)? So is one whose engine lies outside the instance of an object it would need (DESIGN CHOICE,
log 134). -/
def arrRefused (s : State) (r : Region) (c : RRec) (x : Arr) (remote : List Byte) : Bool :=
  decide (c.blocks < x.blk0 + x.nblk) || gradBad s c x remote || r.pages.any (fun p => retired s (p.2 / 8 * 2 ^ 16)) ||
  (regObjs s r).any (fun o => !engineIn s (some (stackOf (paOf r.rec_))) o)

/-- What comes of an arrival whose turn it is: what is left of it, none when it is over. -/
def arrive (x : Arr) (remote : List Byte) (s : State) : Option Arr × State :=
  match x.rec_.bind (fun a => s.home.regions.find? (fun r => decide (r.rec_ = a))) with
  | none => (none, arrivalDone x 3 0 s)
  | some r =>
    let c := recAt s.mem r.rec_
    match x.run with
    | some u => goArr r c x u s
    | none =>
      if arrRefused s r c x remote then (none, arrivalDone x 3 0 (recCount r 0xB8 true s))
      else if inWindow s r c x then
        (none, arrivalDone x 1 0 (recCount r 0xB4 true ((pcsIn r.pages c.winb 32768).foldl (fun s p => msReads p.1 p.2 s) s)))
      else
        let (x, s) := acceptArr r c x remote s
        goArr r c x (x.run.getD ⟨0, 0, [], flNone⟩) s

/-- The turn of an OPTCTL whose core went on has come. -/
def ctlArrives (x : Arr) (k : CtlOp) (s : State) : State :=
  match x.rec_.bind (fun a => s.home.regions.find? (fun r => decide (r.rec_ = a))) with
  | none => ctlAnswer k qNOREG s
  | some r => ctlAnswer k qOK (ctlDo k.func (x.data.getD []) r s)

/-- The arrival at an index replaced, or gone. -/
def setArr (index : Nat) (x : Option Arr) : State → State := onHome (fun h =>
  { h with arrivals := match x with | some y => setNth h.arrivals index y | none => h.arrivals.eraseIdx index })

/-- An arrival at a region is performed, a block at a time: the index chooses it, which must be the oldest of its region. -/
def execArrival (at_ : Turn) (s : State) : Out :=
  .next (match s.home.arrivals[at_.index]? with
    | none => s
    | some x =>
      if (s.home.arrivals.take at_.index).any (fun y => decide (y.rec_ = x.rec_) && x.rec_.isSome) then s
      else match x.ctl with
        | some k => if k.late then setArr at_.index none (ctlArrives x k s) else s
        | none => let (y, t) := arrive x at_.remote s; setArr at_.index y t)

/-! ### In-DRAM copy (14 R268–R270) -/

/-- The units of a command, translated in order with user permission: ALIGN first, then the pages. -/
def dramUnits : List (Word × Acq) → List (Nat × Nat) → State → (MsFault ⊕ List (Nat × Nat)) × State
  | [], m, s => (.inr m.reverse, s)
  | (va, k) :: r, m, s =>
    match msPage k true va s with
    | (.inl f, s) => (.inl f, s)
    | (.inr p, s) => dramUnits r (p :: m) s

/-- DZERO and DCOPY: the checks of step 4, the leaves of live nodes, acceptance. -/
def dramIssue (pd tag : Nat) (us : List (Word × Acq)) (s : State) : State :=
  match us.find? (fun u => decide (u.1.toNat % 65536 ≠ 0)) with
  | some u => trap cALIGN 0 u.1 s
  | none =>
    match dramUnits us [] s with
    | (.inl (c, d, fa), s) => trap c d fa s
    | (.inr ps, s) =>
      let dst := (nth (0, 0) ps 0).1
      let src := (ps[1]?).map Prod.fst
      let va := ((us[0]?).map Prod.fst).getD 0
      if ps.any (fun p => decide (pkgOf p.1 ≠ s.ctl.pkgNum) || decide (stackOf (paOf p.1) ≠ stackOf (paOf dst))) ||
          decide (src = some dst) then illop s
      else
        aliasCheck 3 va.toNat (va.toNat + 65536) (fun x => wd x) none (fun s =>
          let k : DramCmd := { core := s.focus, tag := tag, dst := dst, src := src, team := teamNum s.core, va := va,
                               pc := s.core.iss.pc, cls := (nth (0, 0) ps 0).2 % 4, written := false }
          acceptMs pd (onHome (fun h => { h with dram := h.dram ++ [k] })) s) s

def execDzero (g n p s t : Nat) (z : State) : Out := slotDo g n (dramIssue p t [(rdS z s, .wr)]) z
def execDcopy (g n p s b t : Nat) (z : State) : Out := slotDo g n (dramIssue p t [(rdS z s, .wr), (rdS z b, .rd)]) z

/-- Is the command refused: an object of the unit not held exclusive, a registered region's line, a unit gone, a torn
line of the source? The last is DESIGN CHOICE (log 154): 14 R267 names the readers of a torn line and no outcome for an in-DRAM
copy, so it ends as any other refused one does, with STATUS REFUSED and a late ENTRY. -/
def dramRefused (s : State) (k : DramCmd) : Bool :=
  s.home.objs.any (fun o => pcsMeet o.pcs [(k.dst, 65536)] && !o.heldBy k.core true) ||
  s.home.regions.any (fun r => pcsMeet (r.pcs s) [(k.dst, 65536)]) || retired s k.dst ||
  (match k.src with
   | some a => retired s a || (List.range 1024).any (fun l => pairTorn s (a + 64 * l))
   | none => false)

/-- One line of the destination: a bound line waits as a shadow for its object's REL, or is written in place where the store is full;
another is written. No L2 takes any of them (13 R244). -/
def dramLine (w : Who) (a val : Nat) (s : State) : State :=
  if (boundTo s a).isSome then
    onHome (fun h => { h with shadows := h.shadows.map (fun x => if x.line = a ∧ x.owner = w.key then { x with dram := true } else x) })
      (shadowPutAs false w a (2 ^ 512 - 1) val s)
  else homeWrite w false a (2 ^ 512 - 1) val s

/-- Must a command wait for room in the shadow store of its stack, with a line bound to no object (13 R244)? -/
def dramWaits (s : State) (k : DramCmd) : Bool :=
  (List.range 1024).any (fun l => (boundTo s (k.dst + 64 * l)).isNone) && !shadowRoom s ⟨k.core, none, false, k.cls, true⟩ k.dst

/-- The destination written, copies and translations from it dropped (14 R270). -/
def dramWrite (k : DramCmd) (s : State) : State :=
  let src := match k.src with
    | some a => (List.range 1024).map (fun l => memNat s.mem (a + 64 * l) 64)
    | none => List.replicate 1024 0
  let s := match k.src with | some a => l2Drop a 65536 s | none => s
  let s := l2Drop k.dst 65536 s
  let s := rcDropAll (fun l => decide (k.dst ≤ l ∧ l < k.dst + 65536)) s
  let c := coreAt s k.core
  let w : Who := { key := k.core, team := if k.team < 4096 then some k.team else none, meas := c.pm.open_, cls := k.cls, dig := true }
  let s := (List.range 1024).foldl (fun s l => dramLine w (k.dst + 64 * l) (nth 0 src l) s) s
  let hit := fun (path : List Nat) => path.any (fun a => decide (paOf k.dst ≤ a ∧ a < paOf k.dst + 65536))
  tinvWhere (fun t => hit t.path) (fun t => hit t.path) s

/-- An in-DRAM command of the package completes. -/
def execInDramCompletion (index : Nat) (s : State) : Out :=
  .next (match s.home.dram[index]? with
    | none => s
    | some k =>
      let s0 := onHome (fun h => { h with dram := h.dram.eraseIdx index }) s
      if dramRefused s k then
        let s := onCoreAt k.core (fun c =>
          { c with ev := { c.ev with late := c.ev.late ++ [⟨cENTRY, 0, k.va, k.pc, 13, k.pc, 0⟩] } }) s0
        endMs k.core (evRec 6 k.tag 3 0 0) s
      else if dramWaits s k then s
      else endMs k.core (evRec 6 k.tag 0 0 65536) (dramWrite k s0))

end Sys2Proof.Machine
end

