-- ==== Sys2Proof/Machine/Stream.lean ====
section
/-!
DEFINITION. Machine/Stream.lean: stream buffers (07 R142–R147).
-/
namespace Sys2Proof.Machine

/-- Latches of an entry as written: the word of 07 Table 7-6. -/
def sbWord (w : Word) : SbCfg :=
  { v := bitAt w 0, base := fld w 38 26 * 64, cnt := fld w 25 18 + 1, sz := (fld w 17 8 + 1) * 64, cons := fld w 6 5,
    prod := fld w 4 3, buf := fld w 2 1, pp := 0, cc := 0 }

/-- Is a configuration word legal (07 R143)? A control core has no buffer a region could lie in. -/
def sbLegal (ctl : Bool) (w : Word) : Bool :=
  let c := sbWord w
  decide (fld w 63 39 = 0) && !bitAt w 7 && decide (c.buf ≠ 3) && !ctl && decide (c.base + c.cnt * c.sz ≤ bufSize c.buf)

/-- An entry at reset: invalid, P = C = 0 (07 R142). The spec gives its other fields no value: a region of one 64-byte slot
at BASE 0 of the W-buffer, producer and consumer at position 0 (DESIGN CHOICE, log 127). XFA of an advance on an entry never
configured (R145) names that BASE. -/
def SbCfg.reset : SbCfg :=
  { v := false, base := 0, cnt := 1, sz := 64, cons := 0, prod := 0, buf := 0, pp := 0, cc := 0 }

/-- Change of an entry: issue cycle and issuing position. -/
def SbChg.when : SbChg → Nat × Nat
  | .advP t b _ => (t, b)
  | .advC t b _ => (t, b)
  | .cfg t b _ => (t, b)

/-- An entry after a change. -/
def SbChg.on (c : SbCfg) : SbChg → SbCfg
  | .advP _ _ n => { c with pp := c.pp + BitVec.ofNat 32 n }
  | .advC _ _ n => { c with cc := c.cc + BitVec.ofNat 32 n }
  | .cfg _ _ w => w

/-- An entry as a core at a position sees it in cycle `now`: its own changes from the next cycle, a mate's after four
(07 R146). -/
def SbEnt.seen (e : SbEnt) (pos now : Nat) : SbCfg :=
  e.chg.foldl (fun c x => let (t, b) := x.when; if (if b = pos then t + 1 else t + 4) ≤ now then x.on c else c) e.base

/-- Changes that every core of the quad sees by `now` taken into the base. They apply in the order they were issued: an
advance of a mate that was judged against the entry before an SBCFG still in flight is applied after it, to the new counters
(DESIGN CHOICE, log 127: 07 R146 says what it is judged against, not what becomes of it). -/
def foldChg (now : Nat) (b : SbCfg) : List SbChg → SbEnt
  | [] => { base := b, chg := [] }
  | x :: r => if x.when.1 + 4 ≤ now then foldChg now (x.on b) r else { base := b, chg := x :: r }

/-- Position of the core in focus in its quad. -/
def myPos (s : State) : Nat := s.core.num % 4
/-- Key of the core at a position of the quad of the core in focus. -/
def quadKey (s : State) (pos : Nat) : Nat := s.core.num / 4 * 4 + pos

/-- An entry of a core of the quad. -/
def sbEnt (s : State) (h : Nat × Nat) : SbEnt :=
  mget { base := .reset, chg := [] } (coreAt s (quadKey s h.1)).sb.ent h.2

/-- The entry as the core in focus sees it. -/
def sbView (s : State) (h : Nat × Nat) : SbCfg := (sbEnt s h).seen (myPos s) s.core.now

/-- Earliest clock of the cores of the quad that run. -/
def quadNow (s : State) : Nat :=
  (List.range 4).foldl (fun m p =>
    let c := coreAt s (quadKey s p)
    if (c.st = .run ∨ c.st = .handler) ∧ c.now < m then c.now else m) s.core.now

/-- A change of an entry. -/
def sbChange (h : Nat × Nat) (x : SbChg) (s : State) : State :=
  let e := sbEnt s h
  let e := foldChg (quadNow s) e.base (e.chg ++ [x])
  onCoreAt (quadKey s h.1) (fun c => { c with sb := { c.sb with ent := mput c.sb.ent h.2 e } }) s

/-- The handle's entry; PROT with XFA 0 where it holds none (07 R145). -/
def withHandle (d : Nat) (f : Nat × Nat → State → State) (s : State) : State :=
  match if s.core.ctl then none else mfind? s.core.sb.hnd d with
  | some h => f h s
  | none => trap cPROT 0 0 s

/-- Scratchpad address of an offset of the entry's buffer as the core in focus names it (07 R144). -/
def sbAddr (s : State) (h : Nat × Nat) (buf off : Nat) : Word :=
  wd ((if h.1 = myPos s then 0 else 2 ^ 24 + h.1 * 2 ^ 22) + buf * 2 ^ 20 + off)

/-- Address of the slot with an index. -/
def SbCfg.slotAt (c : SbCfg) (i : BitVec 32) : Nat := c.base + i.toNat % c.cnt * c.sz
def SbCfg.filled (c : SbCfg) : Nat := (c.pp - c.cc).toNat
def SbCfg.free (c : SbCfg) : Nat := c.cnt - c.filled

def setHandle (d : Nat) (h : Nat × Nat) : State → State := onSb (fun b => { b with hnd := mput b.hnd d h })

def execSbcfg (g n d a : Nat) (s : State) : Out :=
  slotDo g n (fun s =>
    let w := rdS s a
    if sbLegal s.core.ctl w then
      setHandle d (myPos s, d) (sbChange (myPos s, d) (.cfg s.core.now (myPos s) (sbWord w)) s)
    else illop s) s

def execSbatt (g n d a : Nat) (s : State) : Out :=
  slotDo g n (fun s => setHandle d (fld (rdS s a) 1 0, fld (rdS s a) 7 4) s) s

/-- Address of a slot; of an invalid entry, whose fields hold no configuration, a free value (log 40). -/
def sbSlot (g n d a : Nat) (idx : SbCfg → BitVec 32) (s : State) : Out :=
  slotDo g n (withHandle a (fun h s =>
    let c := sbView s h
    if c.v then emit 1 (.a d (sbAddr s h c.buf (c.slotAt (idx c)))) s
    else
      let (k, s) := draw s
      emit 1 (.a d (Config.freeWord k)) s)) s
def execSbadrp (g n d a : Nat) (s : State) : Out := sbSlot g n d a SbCfg.pp s
def execSbadrc (g n d a : Nat) (s : State) : Out := sbSlot g n d a SbCfg.cc s

def execSbrd (g n d a : Nat) (s : State) : Out :=
  slotDo g n (withHandle a (fun h s =>
    let c := sbView s h
    emit 1 (.s d (wd (c.pp.toNat * 2 ^ 32 + c.cc.toNat))) s)) s

/-- Role and range of a wait or an advance on a valid entry (07 R145). -/
def sbRole (h : Nat × Nat) (c : SbCfg) (pos k : Nat) (f : State → State) (s : State) : State :=
  if myPos s ≠ pos then trap cPROT 0 (sbAddr s h c.buf c.base) s else if c.cnt < k then illop s else f s

/-- A wait (07 R145): met, SVIOL WAIT in exposed mode, held in interlocked mode. -/
def sbWait (g n d i : Nat) (pos : SbCfg → Nat) (have_ : SbCfg → Nat) (s : State) : Out :=
  slotDo g n (withHandle d (fun h s =>
    let c := sbView s h
    let k := imm10n s i
    let no := fun s => if exposed s then sviol 3 s else holdAs 2 0x36 s
    if c.v then sbRole h c (pos c) k (fun s => if k ≤ have_ c then s else no s) s else no s)) s
def execSbwaitf (g n d i : Nat) (s : State) : Out := sbWait g n d i SbCfg.cons SbCfg.filled s
def execSbwaite (g n d i : Nat) (s : State) : Out := sbWait g n d i SbCfg.prod SbCfg.free s

/-- An advance (07 R145, R146). -/
def sbAdv (g n d i : Nat) (pos : SbCfg → Nat) (have_ : SbCfg → Nat) (mk : Nat → Nat → Nat → SbChg) (s : State) : Out :=
  slotDo g n (withHandle d (fun h s =>
    let c := sbView s h
    let k := imm10n s i
    let no := trap cPROT 0 (sbAddr s h c.buf c.base)
    if c.v then
      sbRole h c (pos c) k (fun s =>
        if k ≤ have_ c then (if k = 0 then s else sbChange h (mk s.core.now (myPos s) k) s) else no s) s
    else no s)) s
def execSbadvp (g n d i : Nat) (s : State) : Out := sbAdv g n d i SbCfg.prod SbCfg.free .advP s
def execSbadvc (g n d i : Nat) (s : State) : Out := sbAdv g n d i SbCfg.cons SbCfg.filled .advC s

end Sys2Proof.Machine
end

