-- ==== Sys2Proof/Machine/Dist.lean ====
section
/-!
DEFINITION. Machine/Dist.lean: what the distributor keeps of teams and continuations (16 R274–R294): records, notices,
capture windows of teams, free cores and quads, saved contexts (16 R287), holdings of a continuation away from a core (19
R331), the end of a team and its rollback (16 R280, 19 R334–R337).
-/
namespace Sys2Proof.Machine

/-! ### Notices (16 R280, Table 16-6) -/

def noticeBytes (handle : Nat) (st n : Nat) : List Byte :=
  leBytes 4 handle ++ leBytes 4 st ++ leBytes 4 n ++ List.replicate 52 0

/-- A notice kept until it is delivered. -/
def keepNotif (n : Notice) : State → State := onDist (fun d => { d with notices := d.notices ++ [n] })

/-- A notice that can never be delivered is dropped, with an event (16 R280). -/
def lostNotif (n : Notice) (st : Nat) : State → State := ctlEvent 3 (leAt n.bs 0 4) st

/-- A notice pushed for an address space: kept while its queue is full or cannot be reached, dropped with an event when it can
never be delivered. A queue of another package is sent it, and answers. -/
def pushNotif (n : Notice) (s : State) : State :=
  let k := hndOf n.h
  if n.h = 0 then s
  else if !k.ok then lostNotif n qSTALE s
  else if k.pkg ≠ s.ctl.pkgNum then
    match deadDir s k.pkg with
    | some d => keepNotif { n with sent := false } (countDead d s)
    | none => keepNotif { n with sent := true } (sendPkt k.pkg (.push .dist n.h.toNat (askerBytes false n.asid ++ n.bs)) s)
  else
    let (st, t) := qPush ⟨false, n.asid⟩ k n.bs s
    if st = qOK then t else if st = qFULL then keepNotif n s else lostNotif n st s

/-- The notice of a team or of an empty launch. -/
def notify (h : Word) (bs : List Byte) (asid : Nat) (team : Option Nat) : State → State := pushNotif ⟨h, bs, asid, team, false⟩

/-- The oldest notice that waits is pushed again. -/
def retryNotif (s : State) : State :=
  match s.dist.notices.find? (fun n => !n.sent) with
  | none => s
  | some n => pushNotif n (onDist (fun d => { d with notices := d.notices.erase n }) s)

/-- The answer of another package to a notice: a status, or none where the packet failed. -/
def notifAnswer (h : Nat) (bs : List Byte) (st : Option Nat) (s : State) : State :=
  match s.dist.notices.find? (fun n => n.sent && decide (n.h.toNat = h ∧ n.bs = bs)) with
  | none => s
  | some n =>
    let s := onDist (fun d => { d with notices := d.notices.erase n }) s
    match st with
    | none => keepNotif { n with sent := false } s
    | some st => if st = qOK then s else if st = qFULL then keepNotif { n with sent := false } s else lostNotif n st s

/-! ### Windows of a team (19 R334, R335) -/

/-- Stacks on which an ASID has a capture area. -/
def areaStacks (s : State) (asid : Nat) : List Nat :=
  (List.range 8).filter (fun k => (mfind? s.ctl.caps (areaKey asid k)).isSome)

/-- The windows of a team, by stack. -/
def teamWins (s : State) (t : Nat) : List (Nat × Win) :=
  (List.range 8).filterMap (fun k => (mfind? s.home.wins (winKey t k)).map (fun w => (k, w)))

/-- A team's windows closed: their slots are free again. -/
def closeWins (t : Nat) (s : State) : State :=
  let s := (teamWins s t).foldl (fun s p => clearIdx (mfind? s.ctl.caps (areaKey (teamAsid s t) p.1)) p.2.caps s) s
  onHome (fun h => { h with wins := h.wins.filter (fun p => decide (p.1 / 8 ≠ t)) }) s

/-- New windows on every stack on which the team's ASID has an area. -/
def openWins (t : Nat) (s : State) : State :=
  let ks := areaStacks s (teamAsid s t)
  onHome (fun h => { h with wins := ks.foldl (fun m k => mput m (winKey t k) .new) h.wins }) s

/-! ### Cards (16 R274, R290–R292) -/

def Card.p (c : Card) : Nat := if c.size = 0 then 1 else c.size
/-- Is the card dealt in FIXED slots (23 R365, 16 R291)? -/
def Card.fixed (c : Card) : Bool := decide (c.deal = 1) || c.det
/-- Units of dealing within which slots or chunks are counted: gangs of four, or tasks. -/
def Card.units (c : Card) : Nat := if c.gang then c.n / 4 else c.n
/-- Units of FIXED slot i: first and the one after the last. -/
def Card.slotRange (c : Card) (i : Nat) : Nat × Nat := (i * c.units / c.p, (i + 1) * c.units / c.p)
/-- Number of things the distributor deals one at a time: slots under FIXED, units under GUIDED. -/
def Card.deals (c : Card) : Nat := if c.fixed then c.p else c.units

/-- Dimensions from outermost to innermost (16 Table 16-4). -/
def permOrder (p : Nat) : List Nat :=
  nth [2, 1, 0] [[2, 1, 0], [2, 0, 1], [1, 2, 0], [1, 0, 2], [0, 2, 1], [0, 1, 2]] p

/-- Task number of a logical index (16 R292). -/
def Card.task (c : Card) (n : Nat) : Nat :=
  if c.e0 = 0 ∧ c.e1 = 0 ∧ c.e2 = 0 then n
  else
    let e := [c.e0, c.e1, c.e2]
    let w := (permOrder c.perm).reverse.foldl (fun (a : Nat × SMap Nat) d =>
      (a.1 / nth 1 e d, mput a.2 d (a.1 % nth 1 e d))) (n, [])
    mget 0 w.2 0 + c.e0 * mget 0 w.2 1 + c.e0 * c.e1 * mget 0 w.2 2

/-- Argument words of a task (16 R275). -/
def Card.argWords (c : Card) (t : Nat) : List Word :=
  (List.range 6).map (fun j => match c.args[j]? with | some (b, z) => b + wd (t * z) | none => 0)

/-- The fresh continuation of a logical index. -/
def freshCont (tn : Nat) (c : Card) (slot : Option Nat) (ctx n : Nat) : Cont :=
  { pc := c.entry, keep := false, task := c.task n, team := tn, prio := c.prio, det := c.det, ctx := ctx,
    args := c.argWords (c.task n), idx := n, slot := slot, fresh := true, pre := false }

/-! ### The context pool (16 R276, R283, R287) -/

/-- Is a pool slot named by some team's checkpoint? -/
def ckKeeps (s : State) (k : Nat) : Bool := s.dist.teams.any (fun p => p.2.ck.slots.any (fun x => decide (x.1 = k)))

/-- Free slots of the pool. -/
def freeSlots (s : State) : List Nat :=
  match s.dist.pool with
  | none => []
  | some (_, n) => ((List.range n).map (· + 1)).filter (fun k =>
      (match mfind? s.dist.slots k with | none => true | some x => decide (x.st = .free)) && !ckKeeps s k)

/-- Fresh continuations placed and not yet dispatched that will want a slot of their own. -/
def slotWants (s : State) : Nat :=
  (s.dist.toDo.filter (fun p => p.2.fresh && decide (p.2.ctx = 0))).length + (s.dist.quadq.filter (fun q => decide (q.cont.ctx = 0))).length

/-- May `n` more fresh continuations be placed? -/
def poolRoom (s : State) (n : Nat) : Bool := decide (slotWants s + n ≤ (freeSlots s).length)

/-- A pool slot nobody has. -/
def PSlot.free : PSlot := { st := .free, team := 0, ctx := none, cont := none, ret := none, held := [], regs := [], posts := [] }

def slotAt (s : State) (k : Nat) : PSlot := (mfind? s.dist.slots k).getD .free
def putSlot (k : Nat) (x : PSlot) : State → State := onDist (fun d => { d with slots := mput d.slots k x })
/-- A pool slot is free again. -/
def dropSlot (k : Nat) : State → State := onDist (fun d => { d with slots := mdel d.slots k })

/-! ### Free cores (16 R288, R289) -/

/-- Is a core kept by a running gang whose other members have not ended (16 R291)? -/
def gangKeeps (s : State) (k : Nat) : Bool :=
  s.dist.teams.any (fun p => p.2.gangEnd.any (fun e => decide (e.2.1 = some k)))

def coreFree (s : State) (k : Nat) : Bool :=
  decide ((coreAt s k).st = .idle) && !s.dist.toDo.any (fun p => decide (p.1 = k)) && !gangKeeps s k

def quadFree (s : State) (q : Nat) : Nat := ((List.range 4).filter (fun i => coreFree s (4 * q + i))).length
def dieFree (s : State) (d : Nat) : Nat := sumTo 64 (fun q => quadFree s (64 * d + q))

/-- The number with the greatest weight among those that satisfy `p`, the lowest of equals. -/
def bestOf (xs : List Nat) (p : Nat → Bool) (w : Nat → Nat) : Option Nat :=
  (xs.filter p).foldl (fun m x => match m with | none => some x | some y => if w y < w x then some x else some y) none

/-- The quad to place work on: of the die with the most free cores, the quad with the most; four free cores for a gang. -/
def bestQuad (s : State) (gang : Bool) : Option Nat :=
  let ok := fun q => if gang then decide (quadFree s q = 4) else decide (quadFree s q ≠ 0)
  let quads := fun d => (List.range 64).map (fun q => 64 * d + q)
  (bestOf (List.range 4) (fun d => (quads d).any ok) (dieFree s)).bind (fun d => bestOf (quads d) ok (quadFree s))

/-- The free core of lowest position of a quad. -/
def freeOfQuad (s : State) (q : Nat) : Option Nat := ((List.range 4).map (fun i => 4 * q + i)).find? (coreFree s)

/-- A continuation is to be dispatched on a core. -/
def place (k : Nat) (c : Cont) : State → State := onDist (fun d => { d with toDo := d.toDo ++ [(k, c)] })

/-! ### Saved contexts (16 R287) -/

/-- First byte of a pool slot. -/
def slotBase (s : State) (k : Nat) : Nat := own s (((s.dist.pool).map Prod.fst).getD 0 + (k - 1) * 2 ^ 21)

/-- Bytes of a list of numbers, `n` bytes each. -/
def packN (n : Nat) (xs : List Nat) : List Byte := xs.flatMap (leBytes n)

/-- The image of a context: the parts the spec lays out, and bytes it leaves open elsewhere. -/
def ctxImage (d : Nat) (c : Core) : List Byte :=
  let free := fun a n => (List.range n).map (fun i => Config.freeMem d (a + i))
  free 0 0x2000 ++
  packN 4 ((List.range (8 * 48 * 16)).map (fun i => (mget 0 c.vec.v i).toNat)) ++
  packN 2 ((List.range 64).map (fun i => if i % 8 = 0 then 0xFFFF else (mget 0 c.vec.m i).toNat)) ++ free 0x8080 0x80 ++
  packN 4 ((List.range 128).map (fun i => ((mfind? c.vec.gen i).getD (seedState 0 i)).toNat)) ++
  packN 1 ((List.range 1024).map (fun i => ((mfind? c.vec.pat i).getD (BitVec.ofNat 5 (i % 16))).toNat)) ++ free 0x8700 0x4C900 ++
  spadBytes c 0 0 (1024 * c.task.fw) ++ spadBytes c 1 0 (1024 * c.task.fa) ++ spadBytes c 2 0 (1024 * c.task.fc)

/-- Every change to a stream entry taken into it. -/
def settleSb (x : SbSt) : SbSt :=
  { x with ent := x.ent.map (fun p => (p.1, { base := p.2.chg.foldl SbChg.on p.2.base, chg := [] })) }

/-- A context as it is kept: nothing in flight. -/
def asSaved (c : Core) : Core :=
  { c with pend := [], sb := settleSb c.sb, vec := { c.vec with latch := [] },
           cp := { c.cp with evq := c.cp.evq ++ c.cp.evNew.map Prod.snd, evNew := [] }, x := { c.x with pp := false } }

/-- The context of the core at `key` saved to a pool slot by writes of its team (19 R335). -/
def saveCtx (key slot : Nat) (s : State) : State :=
  let (d, s) := draw s
  let c := coreAt s key
  let bs := ctxImage d c
  let w : Who := { whoCore c 0 with dig := false }
  let s := homePuts w false (bs.length / 64 + 2) (slotBase s slot) bs (l2Drop (slotBase s slot) bs.length s)
  putSlot slot { slotAt s slot with ctx := some (asSaved c), held := c.cm.held, regs := c.cm.regs } s

/-- The parts of a context the spec lays out, read back from the slot. -/
def readCtx (s : State) (slot : Nat) (c : Core) : Core :=
  let b := slotBase s slot
  let rd := fun o n => memNat s.mem (b + o) n
  let v : VecSt :=
    { v := (List.range (8 * 48 * 16)).foldl (fun m i => mset 0 m i (BitVec.ofNat 32 (rd (0x2000 + 4 * i) 4))) [],
      m := (List.range 64).foldl (fun m i => if i % 8 = 0 then m else mset 0 m i (BitVec.ofNat 16 (rd (0x8000 + 2 * i) 2))) [],
      latch := [],
      gen := (List.range 128).foldl (fun m i => mput m i (BitVec.ofNat 32 (rd (0x8100 + 4 * i) 4))) [],
      pat := (List.range 1024).foldl (fun m i => mput m i (BitVec.ofNat 5 (rd (0x8300 + i) 1))) [] }
  let w := 1024 * c.task.fw
  let a := 1024 * c.task.fa
  let put := fun b o n (c : Core) => spadWrite b 0 (memBytes s.mem (slotBase s slot + 0x55000 + o) n) c
  put 2 (w + a) (1024 * c.task.fc) (put 1 w a (put 0 0 w { c with vec := v }))

/-! ### Holdings away from a core and back (19 R331) -/

/-- Agents of a continuation get a core, or none. -/
def Agent.at (team slot : Nat) (core : Option Nat) (a : Agent) : Agent :=
  if a.team = team ∧ a.slot = slot then { a with core := core } else a

def Holding.map (f : Agent → Agent) : Holding → Holding
  | .shared hs => .shared (hs.map f)
  | .excl h => .excl (f h)
  | h => h

/-- Objects that a continuation holds. -/
def heldObjs (s : State) (a : Agent) : List Obj := s.home.objs.filter (fun o => o.holds a)

/-- Number under which the shadows of a continuation's copy engine (0) and Teasel (1) stand while it is away from a core. -/
def awayOwner (slot e : Nat) : Nat := 2 ^ 16 + 2 * slot + e

/-- Shadows of two writers pass to two others. -/
def moveShadows (a b a' b' : Nat) : State → State := onHome (fun h =>
  { h with shadows := h.shadows.map (fun x =>
      if x.owner = a then { x with owner := a' } else if x.owner = b then { x with owner := b' } else x) })

/-- Every home's entries of an agent name a core, or none. -/
def rehomeAt (team slot : Nat) (core : Option Nat) : State → State :=
  let f := Agent.at team slot core
  onHome (fun h =>
    { h with objs := h.objs.map (fun o => { o with hold := o.hold.map f, wait := o.wait.map (fun w => (f w.1, w.2)) }),
             queues := h.queues.map (fun p => (p.1, { p.2 with waits := p.2.waits.map (fun w => { w with who := f w.who }) })) })

/-- Packages at which a continuation has holdings, registrations or unpublished lines. -/
def awayPkgs (s : State) (c : Core) (held : List Nat) (regs : List (Nat × Nat)) : List Nat :=
  ((held.map pkgOf ++ regs.map Prod.fst ++ c.cp.cmds.flatMap CopyCmd.far ++ c.th.reqs.flatMap TReq.far).filter
    (fun p => decide (p ≠ s.ctl.pkgNum))).eraseDups

/-- A continuation leaves the core in focus: homes clear the core of its entries, those of other packages on an away notice
(19 R331). What its engines have written and not published stays its own. -/
def goAway (team slot : Nat) (s : State) : State :=
  let key := s.focus
  let s := (awayPkgs s s.core s.core.cm.held s.core.cm.regs).foldl
    (fun s p => tell p kHome key (agentBytes ⟨team, slot, none⟩ ++ leBytes 1 0) s) s
  rehomeAt team slot none (moveShadows key (4096 + key) (awayOwner slot 0) (awayOwner slot 1) s)

/-- Every entry held for waiters of a continuation that runs on a core is delivered (14 R258). -/
def deliverAll (team slot : Nat) (s : State) : State :=
  let mine := fun (a : Agent) => decide (a.team = team ∧ a.slot = slot)
  s.home.queues.foldl (fun s p => p.2.waits.foldl (fun s w => if w.due.isSome && mine w.who then deliverTo mine p.1 s else s) s) s

/-- A continuation comes to a core: homes set the core of its entries and deliver what they hold for it; those of other packages
are sent a re-home message, and its first bundle waits for their answers and deliveries (19 R331). -/
def comeHome (team slot key : Nat) (s : State) : State :=
  let s := moveShadows (awayOwner slot 0) (awayOwner slot 1) key (4096 + key) s
  let s := deliverAll team slot (rehomeAt team slot (some key) s)
  let c := coreAt s key
  asCore key (fun s => (awayPkgs s c c.cm.held c.cm.regs).foldl
    (fun s p => tell p kHome key (agentBytes ⟨team, slot, none⟩ ++ leBytes 1 1) s) s) s

/-- Waiter registrations of agents withdrawn at their homes: an entry already handed over goes back to the head. -/
def dropWaits (p : Agent → Bool) : State → State := onHome (fun h =>
  { h with queues := h.queues.map (fun q =>
      (q.1, { q.2 with ents := (q.2.waits.filter (fun w => p w.who)).filterMap QWait.due ++ q.2.ents,
                       waits := q.2.waits.filter (fun w => !p w.who) })) })

/-- The core that runs a continuation; a core that runs none stands for itself. -/
def whereIs (s : State) (team slot : Nat) : Option Nat :=
  if 0x10000 ≤ team then some (team - 0x10000)
  else ((liveCores s).find? (fun p => match p.2.task.cont with | some k => decide (k.team = team ∧ k.ctx = slot) | none => false)).map Prod.fst

/-- A record posted for a continuation, wherever it is: on its core, in its saved context, or kept for its next dispatch. -/
def postTo (team slot : Nat) (r : Word) (s : State) : State :=
  match whereIs s team slot with
  | some k => onCoreAt k (postEv r) s
  | none =>
    onDist (fun d => { d with slots := d.slots.map (fun p =>
      if p.1 = slot ∧ p.2.team = team then
        (p.1, match p.2.ctx with
              | some c => { p.2 with ctx := some { c with cp := { c.cp with resv := c.cp.resv - 1, evq := c.cp.evq ++ [r] } } }
              | none => { p.2 with posts := p.2.posts ++ [r] })
      else p) }) s

/-- A registration at a queue of another package is over for a continuation, wherever it is. -/
def dropReg (pkg tag team slot : Nat) (s : State) : State :=
  let s := onDist (fun d => { d with slots := d.slots.map (fun p =>
    if p.1 = slot ∧ p.2.team = team then
      (p.1, { p.2 with regs := p.2.regs.erase (pkg, tag),
                       ctx := p.2.ctx.map (fun c => { c with cm := { c.cm with regs := c.cm.regs.erase (pkg, tag) } }) })
    else p) }) s
  match whereIs s team slot with
  | some k => onCoreAt k (fun c => { c with cm := { c.cm with regs := c.cm.regs.erase (pkg, tag) } }) s
  | none => s

/-! ### A core let go -/

/-- A core becomes IDLE: what it ran is gone from it, its own clocks and caches remain, a control-complex request that
waits stays. -/
def idleCore (c : Core) : Core :=
  let r := Core.reset c.num c.ctl
  { r with now := c.now, born := c.born, path := c.path, x := { r.x with wdogr := c.x.wdogr }, ev := { r.ev with ccreq := c.ev.ccreq, work := c.ev.work },
           cm := { c.cm with msOut := 0, held := [], barp := none, rem := none, regs := [], due := 0, ans := [] }, sp := { c.sp with w := [], a := [], c := [], epoch := c.sp.epoch + 1 } }

/-- Answers to lines that the engines of a core sent are no longer waited for. -/
def forgetLines (k : Nat) : State → State := onNet (fun n => { n with pkts := n.pkts.map (fun p => match p.req with
  | .line eng .. => if eng % 4096 = k then { p with req := .other } else p
  | _ => p) })

/-- A halted core stays halted; another becomes IDLE. Its scratchpad keeps its bytes till the next dispatch (16 R277). -/
def releaseCore (k : Nat) (s : State) : State :=
  onHome (fun h => { h with arrivals := h.arrivals.filter (fun x => !x.ctl.any (fun y => decide (y.core = k))) }) (forgetLines k <| onCoreAt k (fun c => let r := { idleCore c with sp := c.sp }
    if c.st = .dhalt then { r with st := .dhalt, x := c.x } else r) s)

/-- Cores that run a continuation of a team. -/
def coresOf (s : State) (t : Nat) : List Nat :=
  (liveCores s).filterMap (fun p => if (p.2.task.cont.map Cont.team) = some t then some p.1 else none)

/-! ### The end of a team, and its rollback (16 R280, 19 R336, R337) -/

/-- An arrival is abandoned: its engine gives up its objects and what it wrote and has not published. -/
def dropArr (x : Arr) (s : State) : State :=
  match x.rec_.bind (fun a => s.home.regions.find? (fun r => decide (r.rec_ = a))), x.run with
  | some r, some _ =>
    let key := (whoRegion s r).key
    onHome (fun h => { h with
      objs := h.objs.map (engGone (regHolder r)),
      shadows := h.shadows.filter (fun y => !(decide (y.owner = key) && (r.pcs s).any (fun p => decide (p.1 ≤ y.line ∧ y.line < p.1 + p.2)))) }) s
  | _, _ => s

/-- Is the arrival one that a task of the team sent, or its collective? -/
def Arr.ofTeam (s : State) (t : Nat) (ks : List Nat) (x : Arr) : Bool :=
  (match x.core with | some (k, _) => ks.contains k | none => false) ||
  (match x.coll with | some id => s.net.colls.any (fun c => decide (c.id = id ∧ c.team = t)) | none => false)

/-- The cores and pool slots of a team whose continuations may have entries at a package: numbers under which they wrote there. -/
def teamWriters (s : State) (t : Nat) : List Nat :=
  (coresOf s t).flatMap (fun k => [k, 4096 + k]) ++
  (s.dist.slots.filter (fun p => decide (p.2.team = t))).flatMap (fun p => [awayOwner p.1 0, awayOwner p.1 1])

/-- Packages at which a team's continuations hold objects, wait, or have unpublished lines. -/
def teamPkgs (s : State) (t : Nat) : List Nat :=
  ((coresOf s t).flatMap (fun k => let c := coreAt s k; awayPkgs s c c.cm.held c.cm.regs) ++
   (s.dist.slots.filter (fun p => decide (p.2.team = t))).flatMap
     (fun p => awayPkgs s (p.2.ctx.getD (Core.reset 0 false)) p.2.held p.2.regs)).eraseDups

/-- The team's entries at other packages are withdrawn without a publication. -/
def withdrawFar (t : Nat) (s : State) : State :=
  (teamPkgs s t).foldl (fun s p => tell p kWithdraw t (leBytes 1 0 ++ (teamWriters s t).flatMap (leBytes 4)) s) s

/-- What the engine holds or waits for at objects for a command is given up. -/
def collGone (id : Nat) : State → State := onHome (fun h => { h with objs := h.objs.map (engGone (collHolder id)) })

/-- Collective commands of a team are abandoned, and the other members told (21 R361). -/
def stopColls (t : Nat) (s : State) : State :=
  let mine := s.net.colls.filter (fun c => decide (c.team = t))
  let s := mine.foldl (fun s c =>
    let s := onCoreAt c.core (fun x => { x with cm := { x.cm with colOut := x.cm.colOut - 1 } }) (collGone c.id s)
    if c.at_ = 3 then s else c.mates.foldl (fun s p => tell p kAbandon c.id (c.sig.flatMap (leBytes 8)) s) s) s
  onNet (fun n => { n with colls := n.colls.filter (fun c => decide (c.team ≠ t)) }) s

/-- What the team's cores, commands and agents have under way is abandoned (19 R336 steps 1 to 3). -/
def stopTeam (t : Nat) (s : State) : State :=
  let ks := coresOf s t
  let s := withdrawFar t s
  let (gone, arrs) := s.home.arrivals.partition (Arr.ofTeam s t ks)
  let s := onHome (fun h => { h with arrivals := arrs }) (gone.foldl (fun s x => dropArr x s) s)
  let s := ks.foldl (fun s k => releaseCore k (onCoreAt k (fun c => { c with ev := { c.ev with ccreq := none } }) s)) s
  let s := onHome (fun h =>
    { h with dram := h.dram.filter (fun x => decide (x.team ≠ t)),
             shadows := h.shadows.filter (fun x => decide (x.team ≠ t)),
             objs := h.objs.map (fun o => grantNext
               { o with hold := (match o.hold with
                          | .shared hs => let r := hs.filter (fun a => decide (a.team ≠ t)); if r.isEmpty then .free else .shared r
                          | .excl a => if a.team = t then .free else .excl a
                          | x => x),
                        wait := o.wait.filter (fun w => decide (w.1.team ≠ t)) }) }) s
  let s := stopColls t (dropWaits (fun a => decide (a.team = t)) s)
  onDist (fun d => { d with toDo := d.toDo.filter (fun p => decide (p.2.team ≠ t)),
                            quadq := d.quadq.filter (fun q => decide (q.cont.team ≠ t)),
                            slots := d.slots.filter (fun p => decide (p.2.team ≠ t)) }) (discardPass t s)

/-- The same members, in whatever order. -/
def sameMems (xs ys : List (Nat × Nat)) : Bool := xs.all (ys.contains ·) && ys.all (xs.contains ·)

/-- The group of a team that ends: the announcements it rests on are gone here, and the other members' packages forget its own. -/
def forgetGroup (t : Nat) (x : Team) (g : Group) (s : State) : State :=
  let s := g.mems.foldl (fun s m => tell m.1 kUngroup g.num (leBytes 4 (t + x.gen * 2 ^ 12)) s) s
  onGrp (fun y => { y with anns := y.anns.filter (fun a => !(decide (a.2.1 = g.num) && sameMems a.2.2 g.mems)) }) s

/-- The team is gone: its windows and meetings are freed and its notice pushed, with which its number is freed. -/
def endTeam (t st : Nat) (s : State) : State :=
  match teamOf s t with
  | none => s
  | some x =>
    let s := closeWins t (stopTeam t s)
    let s := onGrp (fun g => { g with meets := g.meets.filter (fun m => decide (m.team ≠ t)), bars := g.bars.filter (fun b => decide (b.team ≠ t)),
                                      ckMeets := mdel g.ckMeets t, ckBars := mdel g.ckBars t, ckObjs := mdel g.ckObjs t }) s
    let s := match mfind? s.grp.groups t with | some g => forgetGroup t x g s | none => s
    let s := onGrp (fun y => { y with groups := mdel y.groups t }) s
    let s := notify x.card.doneq (noticeBytes (t + x.gen * 2 ^ 12) st x.card.n) x.asid (some t) s
    onDist (fun d => { d with teams := mdel d.teams t }) s

/-- A team whose live count is 0 retires. -/
def retireIfDone (t : Nat) (s : State) : State :=
  match teamOf s t with
  | some x => if x.live = 0 then endTeam t 0 s else s
  | none => s

/-- Does a rollback of the team fail: a BROKEN window, or a unit it wrote in the window gone (19 R337)? -/
def rollFails (s : State) (t : Nat) : Bool :=
  (teamWins s t).any (fun p => p.2.broken || p.2.caps.any (fun c => retired s c.1))

/-- Who restores captured granules: the homes, for no team. -/
def whoBack : Who := { key := 2115, team := none, meas := false, cls := 0, dig := true }

/-- The restored bits of a granule's lines count in the windows of other teams that wrote them (23 R373). -/
def digestBack (gran : Nat) (old : SMap Byte) (s : State) : State :=
  (List.range 64).foldl (fun s i =>
    let a := gran + 64 * i
    let new := memNat s.mem a 64
    let changed := memNat old a 64 ^^^ new
    if changed = 0 then s else digestStep whoBack a changed new s) s

/-- Captured granules and accumulators copied back, the windows reset (19 R336 step 4). Log records stay (23 R377). -/
def restoreWins (t : Nat) (s : State) : State :=
  let wins := teamWins s t
  let s := closeWins t s
  let s := wins.foldl (fun s p =>
    let s := onHome (fun h => { h with accs := p.2.accs.foldl (fun m e => match e.2 with | some v => mput m e.1 v | none => mdel m e.1) h.accs }) s
    match mfind? s.ctl.caps (areaKey (teamAsid s t) p.1) with
    | none => s
    | some ar => p.2.caps.foldl (fun s c =>
        let s := rcDropAll (fun l => decide (c.1 ≤ l ∧ l < c.1 + 4096)) (l2Drop c.1 4096 s)
        let m := memCopy (own s (ar.data + 4096 * c.2)) c.1 4096 s.mem
        let m := (p.2.logs.filter (fun e => decide (c.1 ≤ e.1 ∧ e.1 < c.1 + 4096))).foldl (fun m e => mset 0 m e.1 (memByte s.mem e.1)) m
        digestBack c.1 s.mem { s with mem := m }) s) s
  openWins t s

/-- An object's ranges as the checkpoint has them, without those another object has bound since. The objects the checkpoint restores
with it (`ck`) take their own back and stand in the way of none. -/
def oldRanges (s : State) (ck : List Obj) (o : Obj) : List BRange :=
  o.ranges.filter (fun r => !s.home.objs.any (fun x => !ck.any (fun y => decide (y.line = x.line)) && pcsMeet x.pcs r.pcs))

/-- Objects return to their checkpoint state (19 R336 step 5). -/
def restoreObjs (t : Nat) (s : State) : State :=
  let ck := mget [] s.grp.ckObjs t
  let s := onHome (fun h => { h with objs := h.objs.filter (fun o => !(decide (o.maker = t) && o.inWin)) }) s
  let old := s
  ck.foldl (fun s o =>
    let r := oldRanges old ck o
    match objAt s o.line with
    | some x => putObj { x with ranges := r, rel := o.rel, inWin := false } s
    | none => putObj { o with ranges := r, hold := .free, wait := [], inWin := false } s) s

/-! ### Tiles that a closed round waits for (17 R300) -/

def Meet.is (sc inst mnum : Nat) (m : Meet) : Bool := decide (m.scope = sc ∧ m.inst = inst ∧ m.mnum = mnum)
def meetAtNum (s : State) (sc inst mnum : Nat) : Option Meet := s.grp.meets.find? (Meet.is sc inst mnum)
def putMeet (m : Meet) : State → State := onGrp (fun g =>
  { g with meets := g.meets.map (fun x => if x.is m.scope m.inst m.mnum then m else x) })

/-- Pieces of the tiles that a closed round takes in. -/
def MeetClose.tiles (m : Meet) (c : MeetClose) : List (Nat × Nat × Nat) :=
  ((c.ontime ++ (if m.wgt = 2 then [] else c.fold)).flatMap Contrib.tile).eraseDups

/-- Has a piece been read? -/
def MeetClose.has (c : MeetClose) (a n : Nat) : Bool := c.got.any (fun x => decide (x.1 = a ∧ x.2.1 = n))

/-- Pieces not yet read: they lie on other packages. -/
def MeetClose.missing (m : Meet) (c : MeetClose) : List (Nat × Nat × Nat) := (c.tiles m).filter (fun p => !c.has p.1 p.2.1)

/-- What a request for a piece says beside its address: length, class, the meeting, the round, the team's rollback count. -/
def tileAsk (m : Meet) (c : MeetClose) (p : Nat × Nat × Nat) : List Byte :=
  leBytes 4 p.2.1 ++ leBytes 1 p.2.2 ++ leBytes 1 m.scope ++ leBytes 1 m.inst ++ leBytes 1 m.mnum ++ leBytes 1 m.hgen ++
  leBytes 4 (c.t % 2 ^ 32).toNat ++ leBytes 1 c.epoch

/-- A piece has been read for the closed round that a request names. -/
def tileGot (a : Nat) (ask : List Byte) (bs : List Byte) (s : State) : State :=
  match meetAtNum s (leAt ask 5 1) (leAt ask 6 1) (leAt ask 7 1) with
  | some m =>
    if m.hgen % 256 ≠ leAt ask 8 1 then s
    else putMeet { m with pend := m.pend.map (fun c =>
      if (c.t % 2 ^ 32).toNat = leAt ask 9 4 ∧ c.epoch = leAt ask 13 1 ∧ c.has a bs.length = false then { c with got := c.got ++ [(a, bs.length, bs)] } else c) } s
  | none => s

/-- A piece that cannot be read stands with free values (DESIGN CHOICE, log 146: 17 states no outcome). -/
def tileLost (a : Nat) (ask : List Byte) (s : State) : State :=
  let (k, s) := draw s
  tileGot a ask ((List.range (leAt ask 0 4)).map (fun i => Config.freeMem k (a + i))) s

/-- The pieces on other packages that a closed round lacks are asked for. -/
def askTiles (m : Meet) (c : MeetClose) (s : State) : State :=
  (c.missing m).foldl (fun s p => match deadDir s (pkgOf p.1) with
    | some d => tileLost p.1 (tileAsk m c p) (countDead d s)
    | none => sendPkt (pkgOf p.1) (.tell s.focus kTile p.1 (tileAsk m c p)) s) s

/-- Meetings and barrier keys return to their checkpoint state (17 R305); what a closed round of one waits for is asked for anew. -/
def restoreMeets (t : Nat) (s : State) : State :=
  let epoch := (((mfind? s.dist.teams t).map Team.rolls).getD 0 + 1) % 256
  let ms := (mget [] s.grp.ckMeets t).map (fun m => { m with pend := m.pend.map (fun c => { c with epoch := epoch }) })
  let s := onGrp (fun g =>
    { g with meets := g.meets.filter (fun m => decide (m.team ≠ t)) ++ ms,
             bars := g.bars.filter (fun b => decide (b.team ≠ t)) ++ mget [] g.ckBars t }) s
  ms.foldl (fun s m => m.pend.foldl (fun s c => askTiles m c s) s) s

/-- Steps that a replica's submissions have been judged for: with an outcome (1), or with a rollback and no more (0). -/
def Group.judged (g : Group) : List Byte :=
  g.done.flatMap (fun d => leBytes 4 d.1 ++ leBytes 1 1) ++
  (g.again.filter (fun n => g.done.all (fun d => decide (d.1 ≠ n)))).flatMap (fun n => leBytes 4 n ++ leBytes 1 0)

/-- A team rolled back (19 R336), or ended LOST where that is impossible (19 R337). `lost`: an access of the team met a
lasting error or a retired unit. -/
def rollTeam (t : Nat) (lost : Bool) (s : State) : State :=
  match teamOf s t with
  | none => s
  | some _ =>
    if lost || rollFails s t then endTeam t 2 s
    else
      let s := restoreMeets t (restoreObjs t (restoreWins t (stopTeam t s)))
      let s := (match mfind? s.grp.groups t with
        | some g => g.mems.foldl (fun s m => tell m.1 kUnsubmit m.2 g.judged s) s
        | none => s)
      let s := onGrp (fun g => { g with groups := g.groups.map (fun p =>
        if p.1 = t then (p.1, { p.2 with subs := p.2.subs.filter (fun x => decide (x.1 ≠ s.ctl.pkgNum) || p.2.done.any (fun d => decide (d.1 = x.2.1))) }) else p) }) s
      match teamOf s t with
      | none => s
      | some x =>
        let rolled := fun (r : Nat × Word) => if r.2 = 1 then (r.1, 1 + wd ((x.rolls + 1) % 2 ^ 32 * 2 ^ 32)) else r
        let closed := fun (c : Core) => { c with pm := { c.pm with open_ := false, refp := false, ref_ := none } }
        let s := x.ck.slots.foldl (fun s p => putSlot p.1 { p.2 with ret := p.2.ret.map rolled, ctx := p.2.ctx.map closed } s) s
        onTeam t (fun x => { x with live := x.ck.live, conts := x.ck.conts, back := x.ck.back, nextIdx := x.ck.nextIdx, part := x.ck.part, ready := x.ck.ready,
                                    gangEnd := x.ck.gangEnd.map (fun e => (e.1, none, e.2.2)), rolls := (x.rolls + 1) % 2 ^ 32, ckBusy := none, ckStop := false,
                                    logRes := x.logRes - 2 * x.pre.length, pre := [] }) s

end Sys2Proof.Machine
end

