-- ==== Sys2Proof/Machine/Sched.lean ====
section
/-!
DEFINITION. Machine/Sched.lean: launching, spawning, suspending and ending (16 R278–R284), the distributor's picks and
deals (16 R288–R293), dispatch (16 R277, 19 R330), and the saving of a pre-empted task (19 R328).
-/
namespace Sys2Proof.Machine

/-- The instructions of 16 Table 16-3 run on a compute core, outside a handler (16 R278). -/
def taskOk (s : State) : Bool := !s.core.ctl && !s.core.x.pl

/-- The continuation the core in focus runs, with its team. -/
def myTask (s : State) : Option (Cont × Team) :=
  s.core.task.cont.bind (fun c => (teamOf s c.team).map (fun t => (c, t)))

/-! ### The scheduler log (23 R377, R378) -/

/-- Room for `k` records, or LOGFULL with XFA = LIMIT. -/
def logNeed (t k : Nat) (f : State → State) (s : State) : State :=
  match logFree s t, logD s t 0 with
  | some n, some d => if n < k then trap cLOGFULL 0 (wd d.limit) s else f s
  | _, _ => f s

/-- Records reserved for a team's deals, where its log is on. -/
def dealReserve (t k : Nat) (s : State) : State :=
  if (logD s t 0).isSome then onTeam t (fun x => { x with dealRes := x.dealRes + k }) s else s

/-- A PICK record: a reserved one where there is one. -/
def logPick (t prio task w2 : Nat) (s : State) : State :=
  onTeam t (fun x => { x with logRes := x.logRes - 1 }) (logSched t 2 prio task w2 0 s)

/-- A DEAL record: a reserved one where there is one. -/
def logDeal (t prio task w2 : Nat) (s : State) : State :=
  onTeam t (fun x => { x with dealRes := x.dealRes - 1 }) (logSched t 1 prio task w2 0 s)

/-! ### LAUNCH (16 R279) -/

/-- The fields of a card. -/
def cardOf (b : List Byte) (args : List (Word × Nat)) : Card :=
  let ctrl := leAt b 0x14 4
  let spad := leAt b 0x18 4
  { entry := wd (leAt b 0 8), narg := ctrl % 8, n := leAt b 0x10 4, det := decide (ctrl / 2 ^ 8 % 2 = 1),
    gang := decide (ctrl / 2 ^ 9 % 2 = 1), prio := ctrl / 2 ^ 6 % 4, deal := ctrl / 2 ^ 4 % 4, fw := spad % 2 ^ 10,
    fa := spad / 2 ^ 10 % 2 ^ 10, fc := spad / 2 ^ 20 % 2 ^ 9, size := leAt b 0x1C 4, e0 := leAt b 0x20 4,
    e1 := leAt b 0x24 4, e2 := leAt b 0x28 4, perm := leAt b 0x2C 4,
    after := if leAt b 0x34 4 % 2 = 1 then some (leAt b 0x30 4) else none, doneq := wd (leAt b 0x38 8), args := args }

/-- A card the distributor calls malformed (16 Table 16-5), its argument table apart. -/
def cardBad (b : List Byte) : Bool :=
  let c := cardOf b []
  let ctrl := leAt b 0x14 4
  decide (2 ^ 24 ≤ c.n) || decide (ctrl / 2 ^ 10 ≠ 0) || decide (ctrl / 8 % 2 = 1) || decide (leAt b 0x18 4 / 2 ^ 29 ≠ 0) ||
  decide (2 ^ 24 ≤ c.size) || decide (2 ^ 24 ≤ c.e0) || decide (2 ^ 24 ≤ c.e1) || decide (2 ^ 24 ≤ c.e2) || decide (6 ≤ c.perm) ||
  decide (leAt b 0x34 4 / 2 ≠ 0) || decide (c.entry.toNat % 4 ≠ 0) || decide (c.narg ≠ 0 ∧ leAt b 8 8 % 16 ≠ 0) || decide (c.narg = 7) ||
  decide (2 ≤ c.deal) || decide (512 < c.fw ∨ 512 < c.fa ∨ 256 < c.fc) || (c.fixed && decide ((if c.gang then 256 else 1024) < c.p)) ||
  (!decide (c.e0 = 0 ∧ c.e1 = 0 ∧ c.e2 = 0) && decide (c.e0 * c.e1 * c.e2 ≠ c.n)) || (c.gang && decide (c.n % 4 ≠ 0))

/-- The argument table: its records, or a fault. Records on other packages come from `rem`. -/
def readArgs (user : Bool) (key : Nat) (ttb : Word) (rem : List Byte) : Nat → Nat → State → Option (List (Word × Nat × Nat)) × State
  | 0, _, s => (some [], s)
  | n + 1, va, s =>
    match translate key ttb false user .rd (wd va) s with
    | (.bad _ _ _, s) => (none, s)
    | (.ok a _, s) =>
      if isReg a || retired s a then (none, s)
      else
        let b := if pkgOf a = s.ctl.pkgNum then memBytes s.mem a 16 else rem.take 16
        match readArgs user key ttb (rem.drop 16) n (va + 16) s with
        | (some r, s) => (some ((wd (leAt b 0 8), leAt b 8 4, leAt b 12 4) :: r), s)
        | (none, s) => (none, s)

/-- The address and class of a part of the argument table that lies on another package. -/
def argsAway (user : Bool) (key : Nat) (ttb : Word) (n va : Nat) (s : State) : Option (Nat × Nat) :=
  (List.range n).findSome? (fun j =>
    match (translate key ttb false user .rd (wd (va + 16 * j)) s).1 with
    | .ok a e => if pkgOf a ≠ s.ctl.pkgNum then some (a, leafCls e) else none
    | .bad _ _ _ => none)

/-- The lines of the argument table in own device memory, read through their L2s (12 R223). -/
def argReads (w : Nat → Who) (user : Bool) (key : Nat) (ttb : Word) (n va : Nat) (s : State) : State :=
  (List.range (cdiv (va % 64 + 16 * n) 64)).foldl (fun s i =>
    match (translate key ttb false user .rd (wd (lineOf va + 64 * i)) s).1 with
    | .ok a e => if pkgOf a = s.ctl.pkgNum then l2Touch (w (leafCls e)) false a s else s
    | .bad _ _ _ => s) s

/-- Records a launch reserves beside its own (23 Table 23-9). -/
def launchRes (c : Card) : Nat :=
  if c.n = 0 then 0 else if c.fixed then c.p else cdiv c.units c.p

/-- The new team of a card. -/
def newTeam (gen asid : Nat) (c : Card) (log : Option Nat) : Team :=
  { gen := gen, card := c, asid := asid, live := c.n, conts := 0, back := [], nextIdx := 0, trig := [], trigd := false, ready := [],
    gangEnd := [], rolls := 0, log := log, logRes := 0, dealRes := 0, pre := [], part := [],
    ck := { ready := [], back := [], nextIdx := 0, live := c.n, conts := 0, slots := [], gangEnd := [], part := [] },
    ckBusy := none, ckStop := false }

/-- A free team number, round-robin; a retired team's number is free once its notice is delivered (16 R280). -/
def freeTeam (s : State) : Option Nat :=
  ((List.range 4096).map (fun i => (s.dist.nextTeam + i) % 4096)).find? (fun t =>
    (mfind? s.dist.teams t).isNone && s.dist.notices.all (fun n => decide (n.team ≠ some t)))

/-- Has the reserved part no room for one more team or continuation (25 R398)? Its records are not laid out: how many a size
holds beyond one for each compute core is left open (DESIGN CHOICE, log 137). -/
def rsvFull (s : State) : Bool :=
  decide (1024 + Config.rsvRoom s.ctl.rsvsz ≤ s.dist.teams.length + sumTo s.dist.teams.length (fun i =>
    match s.dist.teams[i]? with | some p => p.2.conts | none => 0))

/-- The checks of 16 Table 16-5 in order: status and handle, and the state after them. -/
def launch (asid : Nat) (log : Option Nat) (b : List Byte) (args : Option (List (Word × Nat × Nat))) (s : State) : Nat × Nat × State :=
  let c := cardOf b ((args.getD []).map (fun p => (p.1, p.2.1)))
  match if cardBad b then none else args with
  | none => (4, 0, s)
  | some rs =>
    if rs.any (fun r => decide (r.2.1 = 0)) then (4, 0, s)
    else if rs.any (fun r => decide (2 ^ 24 ≤ r.2.2 ∨ r.2.2 < c.n)) then (2, 0, s)
    else if c.n = 0 then (1, 0, notify c.doneq (noticeBytes 0 1 0) asid none s)
    else
      match if rsvFull s then none else freeTeam s with
      | none => (3, 0, s)
      | some t =>
        let gen := mget 0 s.dist.gens t
        let s := onDist (fun d => { d with teams := mput d.teams t (newTeam gen asid c log), gens := mset 0 d.gens t ((gen + 1) % 65536),
                                           nextTeam := (t + 1) % 4096 }) s
        (0, t + gen * 2 ^ 12, dealReserve t (launchRes c) (openWins t s))

/-- LAUNCH once card and table are read. The team has the ASID of the launching task's TTB (25 R397). -/
def launchFrom (d : Nat) (va : Word) (b : List Byte) (args : Option (List (Word × Nat × Nat))) (s : State) : State :=
  match myTask s with
  | none => illop s
  | some (k, x) =>
    let c := cardOf b []
    let asid := fld s.core.x.ttb 63 52
    let (st0, _, _) := launch asid x.log b args s
    let go := fun s =>
      let s := if st0 ≤ 1 then logSched k.team 0 k.prio k.task va.toNat (if st0 = 0 then (launch asid x.log b args s).2.1 else 0) s else s
      let (st, h, s) := launch asid x.log b args s
      retDev d (wd (st + h * 2 ^ 32)) s
    if st0 ≤ 1 then logNeed k.team (1 + launchRes c) go s else go s

/-- What another package answers, kept for the bundle, beside its code lines, so that a second access of the instruction may
follow. -/
def keptAsk (pkg cls kind addr : Nat) (va : Word) (n : Nat) (f : List Byte → State → State) (s : State) : State :=
  match mfind? s.core.iss.got (2 ^ 66 + addr) with
  | some x => f x s
  | none => remoteAsk pkg cls kind addr [] va (fun r s => f (leBytes n r) (gotLine (2 ^ 66 + addr) (leBytes n r) s)) s

def execLaunch (g n d a : Nat) (s : State) : Out :=
  slotDo g n (fun s =>
    let va := rdA s a
    let ttb := s.core.x.ttb
    let table := fun (read : State → State) (b rem : List Byte) s =>
      let n := leAt b 0x14 4 % 8
      let (args, s) := readArgs true s.focus ttb rem n (leAt b 8 8) s
      launchFrom d va b args (if args.isSome then argReads (whoCore s.core) true s.focus ttb n (leAt b 8 8) (read s) else read s)
    let withCard := fun (read : State → State) (b : List Byte) s =>
      match argsAway true s.focus ttb (leAt b 0x14 4 % 8) (leAt b 8 8) s with
      | some (a, c) => remoteAsk (pkgOf a) c 33 a [] va (fun r s => table read b (leBytes 96 r) s) s
      | none => table read b [] s
    if !taskOk s then illop s
    else if va.toNat % 64 ≠ 0 then trap cALIGN 0 va s
    else
      match transCore .rd va s with
      | (.bad c dt fa, s) => trap c dt fa s
      | (.ok p e, s) =>
        if isReg p then trap cPROT 4 va s
        else if retired s p then trap cMEMERR 1 va s
        else if pkgOf p ≠ s.ctl.pkgNum then
          keptAsk (pkgOf p) (leafCls e) 32 p va 64 (withCard id) s
        else withCard (l2Touch (whoCore s.core (leafCls e)) false p) (memBytes s.mem p 64) s) s

/-! ### TRIGGER and SPAWN (16 R281, R282) -/

/-- A task of a team is marked triggered. -/
def markTrig (t task : Nat) : State → State := onTeam t (fun x =>
  let tr := if x.trig.contains task then x.trig else x.trig ++ [task]
  { x with trig := tr, trigd := x.trigd || decide (x.card.n ≤ tr.length) })

def execTrigger (g n : Nat) (s : State) : Out :=
  slotDo g n (fun s =>
    if !taskOk s then illop s
    else match s.core.task.cont with
      | some c => releaseAll (markTrig c.team c.task) s
      | none => s) s

def execSpawn (g n d a b : Nat) (s : State) : Out :=
  slotDo g n (fun s =>
    match taskOk s, myTask s with
    | true, some (k, x) =>
      let pc := rdA s a
      if pc.toNat % 4 ≠ 0 then trap cALIGN 0 pc s
      else if 2 ^ 20 ≤ x.conts ∨ rsvFull s = true then retStatus d 2 s
      else
        logNeed k.team 2 (fun s =>
          let c : Cont := { k with pc := pc, keep := false, ctx := 0, args := (List.range 6).map (fun i => rdS s (b + i)), slot := none, fresh := true, pre := false }
          let s := logReserve k.team 1 (logSched k.team 3 k.prio k.task 0 0 s)
          retStatus d 0 (onTeam k.team (fun x => { x with live := x.live + 1, conts := x.conts + 1, ready := x.ready ++ [c] }) s)) s
    | _, _ => illop s) s

/-! ### Continuation records (16 Table 16-2) -/

def recordBytes (c : Cont) : List Byte :=
  leBytes 8 (c.pc.toNat % 2 ^ 57 / 4 * 4 + 2 * b2n c.keep) ++
  leBytes 8 (c.task * 2 ^ 40 + c.team * 2 ^ 28 + c.prio * 2 ^ 26 + b2n c.det * 2 ^ 25 + c.ctx * 2 ^ 12) ++
  c.args.flatMap (fun w => leBytes 8 w.toNat)

/-- The continuation a record names; `old` tells what the record does not hold. -/
def recordCont (b : List Byte) (old : Cont) : Cont :=
  let w := leAt b 0 8
  let i := leAt b 8 8
  { old with pc := sextW 57 (w % 2 ^ 57 / 4 * 4), keep := decide (w / 2 % 2 = 1), task := i / 2 ^ 40 % 2 ^ 24, team := i / 2 ^ 28 % 2 ^ 12,
             prio := i / 2 ^ 26 % 4, det := decide (i / 2 ^ 25 % 2 = 1), ctx := i / 2 ^ 12 % 2 ^ 12,
             args := (List.range 6).map (fun j => wd (leAt b (16 + 8 * j) 8)), fresh := false }

/-- A continuation joins its team's ready queues. -/
def pushReady (c : Cont) : State → State := onTeam c.team (fun x => { x with ready := x.ready ++ [c] })

def execResume (g n d a : Nat) (s : State) : Out :=
  slotDo g n (fun s =>
    if !taskOk s then illop s
    else
      ownLine (rdA s a) 64 (fun b s =>
        let slot := leAt b 8 8 / 2 ^ 12 % 2 ^ 12
        let x := slotAt s slot
        match x.cont with
        | some old =>
          let c := recordCont b old
          if (teamOf s c.team).isSome ∧ slot ≠ 0 ∧ x.team = c.team ∧ x.st = .suspended then
            logNeed c.team 1 (fun s =>
              let s := logSched c.team 6 c.prio c.task 0 0 s
              retStatus d 0 (pushReady c (putSlot slot { x with st := .ready, cont := some c } s))) s
          else retStatus d 1 s
        | none => retStatus d 1 s) s) s

/-! ### Suspensions (16 R283) -/

/-- A suspension instruction may go on: outside a handler, on a compute core, with no loop (16 R278, R283). -/
def suspOk (s : State) : Bool := taskOk s && s.core.sc.loops.isEmpty

/-- The counts of a suspending bundle and of its cycle, which the saved context holds. -/
def countSusp (s : State) : State :=
  let cyc := addCnt 0x3C 1 (addCnt 0x3F 1 (if s.core.cp.cmds.isEmpty then [] else [(0x39, 1)]))
  onCore (applyCnt false (addCnt 0x12 (b2n (bitAt s.core.iss.hdr 14)) (addCnt 0x0E 1 (addCnt 0 1 (cyc.foldl (fun m p => addCnt p.1 p.2 m) s.core.iss.cnt))))) s

/-- The continuation as a suspension leaves it. -/
def suspCont (keep : Bool) (k : Cont) (s : State) : Cont :=
  { k with pc := s.core.iss.seq, keep := keep, args := if keep then k.args else (List.range 6).map (fun i => rdS s (i + 1)) }

/-- The state kept, the holdings sent away and the core let go; the record is placed by the caller. -/
def suspend (keep : Bool) (st : SlotKind) (c : Cont) (ret : Option (Nat × Word)) (s : State) : State :=
  let s := goAway c.team c.ctx (withdrawPre s.focus (countSusp s))
  let s := if keep then saveCtx s.focus c.ctx s
    else
      let s := if s.core.pm.open_ then discardPass c.team s else s
      putSlot c.ctx { slotAt s c.ctx with ctx := none, held := s.core.cm.held, regs := s.core.cm.regs } s
  let s := putSlot c.ctx { slotAt s c.ctx with st := st, team := c.team, cont := some c, ret := ret } s
  releaseCore s.focus (if keep then s else onCore (fun x => { x with sp := (idleCore x).sp }) s)

/-- SUSP and SUSP.K. -/
def suspDo (keep : Bool) (g n d b : Nat) (s : State) : Out :=
  slotDo g n (fun s =>
    let h := hndOf (rdS s b)
    match suspOk s && h.ok, myTask s with
    | true, some (k, _) =>
      whenQuiet (fun s =>
        logNeed k.team 2 (fun s =>
          let c := suspCont keep k s
          let done := fun st s =>
            if st = qOK then suspend keep .suspended c (some (d, 0)) (logReserve k.team 1 (logSched k.team 4 k.prio k.task 0 0 s))
            else retStatus d st s
          if h.pkg ≠ s.ctl.pkgNum then
            releaseAt true (remoteAsk h.pkg 0 16 (rdS s b).toNat (meBytes s.core ++ recordBytes c) 0 (fun st s => done (st % 256) s)) s
          else
            let (st, s) := qPush (askerOf s.core) h (recordBytes c) s
            done st s) s) s
    | _, _ => illop s) s

def execSusp (g n d b : Nat) (s : State) : Out := suspDo false g n d b s
def execSuspK (g n d b : Nat) (s : State) : Out := suspDo true g n d b s

/-- YIELD and YIELD.K. -/
def yieldDo (keep : Bool) (g n : Nat) (s : State) : Out :=
  slotDo g n (fun s =>
    match suspOk s, myTask s with
    | true, some (k, _) =>
      whenQuiet (fun s =>
        logNeed k.team 2 (fun s =>
          let c := suspCont keep k s
          pushReady c (suspend keep .ready c none (logReserve k.team 1 (logSched k.team 5 k.prio k.task 0 0 s)))) s) s
    | _, _ => illop s) s

def execYield (g n : Nat) (s : State) : Out := yieldDo false g n s
def execYieldK (g n : Nat) (s : State) : Out := yieldDo true g n s

/-! ### END (16 R283, R290, R291) -/

/-- A pool slot that its last continuation's end frees, kept for the next of its FIXED slot. -/
def keepPool (ctx team : Nat) : State → State := putSlot ctx { PSlot.free with st := .ready, team := team }

/-- Undealt units with one given back, in ascending order. -/
def insUnit (u : Nat) (back : List Nat) : List Nat :=
  let lo := back.takeWhile (fun v => decide (v < u))
  if back.contains u then back else lo ++ u :: back.drop lo.length

/-- The next task of a FIXED slot, on the core whose task ended, with the pool slot it freed where no checkpoint names
that. After a task that was pre-empted the rest of the slot is undealt again, to be dealt by a pick, and keeps that pool slot (16
R290). -/
def nextOfSlot (key : Nat) (k : Cont) (c : Card) (i : Nat) (s : State) : State :=
  let (_, hi) := c.slotRange i
  if k.idx + 1 < hi then
    let ctx := if ckKeeps s k.ctx then 0 else k.ctx
    let s := if ctx = 0 then s else keepPool ctx k.team s
    if k.pre then onTeam k.team (fun x => { x with back := insUnit i x.back, part := mput x.part i (k.idx + 1, ctx) }) s
    else
      onTeam k.team (fun x => { x with conts := x.conts + 1 }) (place key (freshCont k.team c (some i) ctx (k.idx + 1)) s)
  else s

/-- A member of a gang of a FIXED slot has ended: with the fourth the slot's next gang starts on the quad. -/
def nextOfGang (key : Nat) (k : Cont) (c : Card) (i : Nat) (s : State) : State :=
  let g := k.idx / 4
  let (_, hi) := c.slotRange i
  let ctx := if ckKeeps s k.ctx then 0 else k.ctx
  let keep := fun ctx s => if ctx = 0 then s else keepPool ctx k.team s
  match teamOf s k.team with
  | none => s
  | some x =>
    let es := x.gangEnd ++ [(k.idx, some key, if g + 1 < hi then ctx else 0)]
    let mine := es.filter (fun e => decide (e.1 / 4 = g))
    let s := if g + 1 < hi then keep ctx s else s
    if mine.length < 4 then onTeam k.team (fun x => { x with gangEnd := es }) s
    else
      let s := onTeam k.team (fun x => { x with gangEnd := es.filter (fun e => decide (e.1 / 4 ≠ g)) }) s
      if g + 1 < hi then
        onTeam k.team (fun x => { x with conts := x.conts + 4 }) (mine.foldl (fun s e =>
          place (key / 4 * 4 + e.1 % 4) (freshCont k.team c (some i) e.2.2 (e.1 + 4)) s) s)
      else s

/-- A task has ended on the core in focus; the stream entries it hosts stay till the core's next dispatch (16 R277, R283). -/
def endTask (k : Cont) (x : Team) (s : State) : State :=
  let key := s.focus
  let me := agentOf key s.core
  let s := if s.core.pm.open_ then (restorePass k.team s).2 else s
  let s := markTrig k.team k.task s
  let s := dropWaits (fun a => a.same me) s
  let s := (heldObjs s me).foldl (fun s o => releaseObj me key o s) s
  let s := (awayPkgs s s.core s.core.cm.held s.core.cm.regs).foldl
    (fun s p => tell p kWithdraw k.team (leBytes 1 1 ++ agentBytes me) s) s
  let ent := s.core.sb.ent
  let s := onCoreAt key (fun c => { c with sb := { c.sb with ent := ent } })
    (releaseCore key (dropSlot k.ctx (logSched k.team 7 k.prio k.task 0 0 s)))
  let s := onTeam k.team (fun x => { x with live := x.live - 1, conts := x.conts - 1 }) s
  let s := match k.slot with
    | some i => if x.card.gang then nextOfGang key k x.card i s else nextOfSlot key k x.card i s
    | none => s
  retireIfDone k.team s

def execEndTask (g n : Nat) (s : State) : Out :=
  slotDo g n (fun s =>
    match suspOk s, myTask s with
    | true, some (k, x) => whenQuiet (releaseAll (logNeed k.team 1 (endTask k x))) s
    | _, _ => illop s) s

/-- WFE (16 R284). -/
def execWfe (g n : Nat) (s : State) : Out :=
  slotDo g n (fun s =>
    if !taskOk s || exposed s then illop s
    else if s.core.cp.evq.isEmpty then holdAs 2 0x36 s else s) s

/-! ### Picks (16 R288) -/

/-- May a team be dealt: its predecessor has triggered or retired (16 R280)? -/
def eligible (s : State) (x : Team) : Bool :=
  match x.card.after with
  | none => true
  | some h =>
    match if h / 2 ^ 28 = 0 then teamOf s (h % 4096) else none with
    | some y => decide (y.gen ≠ h / 2 ^ 12 % 65536) || y.trigd
    | none => true

/-- First logical index still undealt of a slot. -/
def Team.slotFrom (x : Team) (i : Nat) : Nat := ((mfind? x.part i).map Prod.fst).getD (x.card.slotRange i).1

/-- The pool slot kept for the rest of a FIXED slot, 0 for none. -/
def Team.slotCtx (x : Team) (i : Nat) : Nat := ((mfind? x.part i).map Prod.snd).getD 0

/-- Undealt units in order: chunks' units, or FIXED slots that hold any. -/
def Team.units (x : Team) : List Nat :=
  let us := x.back ++ (List.range (x.card.deals - x.nextIdx)).map (· + x.nextIdx)
  if x.card.fixed then us.filter (fun i => decide (x.slotFrom i < (x.card.slotRange i).2)) else us

/-- Is no member of a gang on its way off a core? -/
def gangStill (s : State) (c : Cont) : Bool :=
  !(liveCores s).any (fun p => (p.2.x.pp || decide (p.2.st = .save)) &&
    (match p.2.task.cont with | some k => decide (k.team = c.team ∧ k.idx / 4 = c.idx / 4) | none => false))

/-- Ready continuations of a team at a level that could be dispatched. -/
def readyAt (s : State) (x : Team) (l : Nat) : List Cont :=
  x.ready.filter (fun c => decide (c.prio = l) && (!c.fresh || poolRoom s 1) && (!x.card.gang || gangStill s c))

/-- May the team's next unit be dealt? It waits for the pool, but for one that keeps a slot of it. -/
def canDeal (s : State) (x : Team) (l : Nat) : Bool :=
  decide (x.card.prio = l) && eligible s x && !x.units.isEmpty &&
  (decide (x.card.fixed = true ∧ x.slotCtx (nth 0 x.units 0) ≠ 0) || poolRoom s (if x.card.gang then 4 else 1))

def hasWork (s : State) (x : Team) (l : Nat) : Bool :=
  !x.ckStop && (!(readyAt s x l).isEmpty || canDeal s x l)

/-- The level and teams a pick serves among those that satisfy `ok`: aged levels first, without deterministic teams. -/
def pickLevel (s : State) (ok : Nat × Team → Bool) : Option (Nat × List Nat) :=
  let at_ := fun l => s.dist.teams.filter (fun p => ok p && hasWork s p.2 l)
  let cand := (List.range 4).filter (fun l => !(at_ l).isEmpty)
  let aged := cand.filter (fun l => decide (mget 0 s.dist.age l = 64) && (at_ l).any (fun p => !p.2.card.det))
  match aged with
  | l :: _ => some (l, ((at_ l).filter (fun p => !p.2.card.det)).map Prod.fst)
  | [] => match cand with | l :: _ => some (l, (at_ l).map Prod.fst) | [] => none

/-- AGE after a pick of level `l`. -/
def ageAfter (s : State) (ok : Nat × Team → Bool) (l : Nat) : SMap Nat :=
  let up := (List.range 4).filter (fun k => decide (l < k) && s.dist.teams.any (fun p => ok p && hasWork s p.2 k))
  mset 0 (up.foldl (fun m k => mset 0 m k (if mget 0 m k < 64 then mget 0 m k + 1 else 64)) s.dist.age) l 0

/-- The next of the teams after the last served. -/
def nextTeamOf (last : Nat) (ts : List Nat) : Option Nat :=
  match ts.find? (fun t => decide (last < t)) with | some t => some t | none => ts.head?

/-- The ready continuation a pick takes: the oldest, or of a deterministic team the lowest TASK's oldest. -/
def firstReady (det : Bool) : List Cont → Option Cont
  | [] => none
  | c :: r => some (if det then r.foldl (fun m x => if x.task < m.task then x else m) c else c)

/-- A ready continuation taken out of its queue and placed; the pick is logged. -/
def placeReady (k : Nat) (c : Cont) (s : State) : State :=
  let s := logPick c.team c.prio c.task (k + c.ctx * 2 ^ 10) s
  place k c (onTeam c.team (fun x => { x with ready := x.ready.erase c }) s)

/-- Members of a gang, one for each position. -/
def gangOf (c : Cont) (cs : List Cont) : List Cont :=
  let ms := cs.filter (fun x => decide (x.idx / 4 = c.idx / 4))
  (List.range 4).filterMap (fun p => ms.find? (fun x => decide (x.idx % 4 = p)))

def pickReady (x : Team) (l : Nat) (s : State) : State :=
  match firstReady x.card.det (readyAt s x l), bestQuad s x.card.gang with
  | some c, some q =>
    if x.card.gang then (gangOf c (readyAt s x l)).foldl (fun s c => placeReady (4 * q + c.idx % 4) c s) s
    else match freeOfQuad s q with | some k => placeReady k c s | none => s
  | _, _ => s

/-! ### Deals (16 R289–R291) -/

/-- Units of a chunk. -/
def chunkSize (s : State) (x : Team) : Nat :=
  let rem := x.units.length
  let f := if x.card.gang then ((List.range 256).filter (fun q => decide (quadFree s q = 4))).length
           else sumTo 4 (fun d => mget 0 s.dist.freeRep d)
  let half := cdiv rem (2 * (if f = 0 then 1 else f))
  let want := if half < x.card.p then x.card.p else half
  if rem < want then rem else want

/-- Undealt units after some are dealt. -/
def Team.without (x : Team) (us : List Nat) : Team :=
  { x with back := x.back.filter (fun u => !us.contains u), nextIdx := us.foldl (fun m u => if m ≤ u then u + 1 else m) x.nextIdx }

/-- A deal recorded: units gone, tasks counted, the log written. -/
def noteDeal (t : Nat) (x : Team) (us : List Nat) (first count q : Nat) (s : State) : State :=
  let s := logDeal t x.card.prio (x.card.task first) (first + count * 2 ^ 24 + q * 2 ^ 48) s
  onTeam t (fun x => { x.without us with conts := x.conts + count }) s

/-- A gang at the head of a quad's tasks takes its four cores together. -/
def startGang (q : Nat) (c : Cont) (s : State) : State :=
  if quadFree s q = 4 then
    let ms := (s.dist.quadq.filter (fun x => decide (x.quad = q ∧ x.cont.team = c.team ∧ x.cont.idx / 4 = c.idx / 4))).map QTask.cont
    let s := onDist (fun d => { d with quadq := d.quadq.filter (fun x => !decide (x.quad = q ∧ x.cont.team = c.team ∧ x.cont.idx / 4 = c.idx / 4)) }) s
    ms.foldl (fun s m => place (4 * q + m.idx % 4) m s) s
  else s

/-- A free core of a quad takes the quad's next task. -/
def takeQuad (key : Nat) (s : State) : State :=
  match s.dist.quadq.find? (fun x => decide (x.quad = key / 4)) with
  | none => s
  | some x =>
    if ((teamOf s x.cont.team).map (fun t => t.card.gang)) = some true then startGang (key / 4) x.cont s
    else if coreFree s key then
      place key x.cont (onDist (fun d => { d with quadq := d.quadq.erase x }) s)
    else s

/-- A quad hands its tasks to its free cores, one at a time (16 R289). -/
def handOut (q : Nat) (s : State) : State :=
  (List.range 4).foldl (fun s p => takeQuad (4 * q + p) s) s

/-- A chunk goes to a quad, which hands out its tasks. -/
def dealChunk (t : Nat) (x : Team) (q : Nat) (s : State) : State :=
  let us := x.units.take (chunkSize s x)
  let ns := if x.card.gang then us.flatMap (fun u => (List.range 4).map (fun p => 4 * u + p)) else us
  let s := noteDeal t x us (nth 0 ns 0) ns.length q s
  handOut q (onDist (fun d => { d with quadq := d.quadq ++ ns.map (fun n => ⟨q, freshCont t x.card none 0 n, s.time⟩) }) s)

/-- A slot goes to one core, or to the four of a quad. -/
def dealSlot (t : Nat) (x : Team) (q : Nat) (s : State) : State :=
  match x.units with
  | [] => s
  | i :: _ =>
    let lo := x.slotFrom i
    let hi := (x.card.slotRange i).2
    if x.card.gang then
      (List.range 4).foldl (fun s p => place (4 * q + p) (freshCont t x.card (some i) 0 (4 * lo + p)) s)
        (onTeam t (fun x => { x with conts := x.conts + 4 - (4 * (hi - lo)) }) (noteDeal t x [i] (4 * lo) (4 * (hi - lo)) q s))
    else
      match freeOfQuad s q with
      | some k => place k (freshCont t x.card (some i) (x.slotCtx i) lo) (onTeam t (fun x => { x with conts := x.conts + 1 - (hi - lo), part := mdel x.part i }) (noteDeal t x [i] lo (hi - lo) q s))
      | none => s

/-- May a deal's record be written? A deal without log room is held, with an event. -/
def dealRoom (s : State) (t : Nat) (x : Team) : Bool :=
  match logFree s t with | some n => decide (0 < x.dealRes) || decide (0 < n) | none => true

def pickDeal (t : Nat) (x : Team) (s : State) : State :=
  match bestQuad s x.card.gang with
  | none => s
  | some q => if dealRoom s t x then (if x.card.fixed then dealSlot t x q s else dealChunk t x q s) else ctlEvent 4 t 0 s

/-- One pick with a core free. -/
def pickOne (s : State) : State :=
  let ok := fun (p : Nat × Team) => (bestQuad s p.2.card.gang).isSome
  match pickLevel s ok with
  | none => s
  | some (l, ts) =>
    match nextTeamOf (mget 4096 s.dist.rr l) ts with
    | none => s
    | some t =>
      match teamOf s t with
      | none => s
      | some x =>
        let s1 := onDist (fun d => { d with age := ageAfter s ok l, rr := mput d.rr l t }) s
        if (readyAt s x l).isEmpty then pickDeal t x s1 else pickReady x l s1

/-! ### Pre-emption requests (16 R293) -/

/-- A request reaches a core; a suspension under way withdraws it. Two records, PREEMPT and the later PICK, are reserved for it
where the team's log is on (23 R378). -/
def askPreempt (k : Nat) (s : State) : State :=
  match (coreAt s k).task.cont with
  | none => s
  | some c =>
    if (coreAt s k).iss.wait = 3 ∨ (coreAt s k).x.pp = true then s
    else
      onCoreAt k (fun c => { c with x := { c.x with pp := true } }) (preReserve c.team k s)

/-- Cores that a request for the work on core `k` goes to: that core, or those of its quad that run the gang's team. -/
def preCores (s : State) (k : Nat) (c : Cont) : List Nat :=
  match teamOf s c.team with
  | some x =>
    if x.card.gang then ((List.range 4).map (fun i => k / 4 * 4 + i)).filter (fun j => decide ((coreAt s j).task.cont.map Cont.team = some c.team))
    else [k]
  | none => []

/-- The core to pre-empt for work at level `l`. -/
def victim (s : State) (l : Nat) : Option (Nat × Cont) :=
  (liveCores s).foldl (fun m p =>
    match p.2.task.cont with
    | some c =>
      if (p.2.st = .run ∨ p.2.st = .handler) ∧ p.2.x.pp = false ∧ l < c.prio ∧ preRoom s c.team (preCores s p.1 c).length = true then
        (match m with
         | none => some (p.1, c)
         | some (k, d) => if d.prio < c.prio ∨ (d.prio = c.prio ∧ k < p.1) then some (p.1, c) else m)
      else m
    | none => m) none

/-- A pick that finds no free core asks for one. -/
def pickPreempt (s : State) : State :=
  match pickLevel s (fun _ => true) with
  | none => s
  | some (l, _) =>
    match victim s l with
    | none => s
    | some (k, c) => (preCores s k c).foldl (fun s j => askPreempt j s) s

def execPick (s : State) : Out :=
  .next (let s := (s.dist.quadq.map QTask.quad).foldl (fun s q => handOut q s) s
    if (List.range 1024).any (coreFree s) then pickOne s else pickPreempt s)

def execFreeCoreReport (die : Nat) (s : State) : Out :=
  .next (if die < 4 then onDist (fun d => { d with freeRep := mset 0 d.freeRep die (dieFree s die) }) s else s)

/-- Tasks of chunks that no core has taken within 4,096 cycles are undealt again; a gang returns whole. -/
def execUntakenTasksReturn (s : State) : Out :=
  .next (let (old, rest) := s.dist.quadq.partition (fun q => decide (q.since + 4096 ≤ s.time))
    let s := onDist (fun d => { d with quadq := rest }) s
    old.foldl (fun s q => onTeam q.cont.team (fun x =>
      { x with conts := x.conts - 1, back := insUnit (if x.card.gang then q.cont.idx / 4 else q.cont.idx) x.back }) s) s)

/-! ### Dispatch (16 R277, 19 R330, R331) -/

/-- The registers every dispatch sets (19 R314, 16 R285, 25 R397); COUNT is reloaded from INTERVAL. -/
def dispatchX (b : SupBlk) (key : Nat) (x : XRegs) : XRegs :=
  { x with ttb := b.ttb &&& ~~~0xFFF#64, xbase := b.xbase &&& ~~~3#64, xsp := b.xspb + wd key * b.xsps,
           wdogr := setFld x.wdogr 63 32 (fld x.wdogr 31 0) }

/-- Registrations of a continuation that stand: each has an event-queue entry reserved (14 R258). -/
def standing (s : State) (team slot : Nat) (regs : List (Nat × Nat)) : Nat :=
  regs.length + sumTo s.home.queues.length (fun i => match s.home.queues[i]? with
    | some q => (q.2.waits.filter (fun w => decide (w.who.team = team ∧ w.who.slot = slot))).length
    | none => 0)

/-- A core as a continuation starts on it with KEEP = 0. -/
def freshCore (c : Core) (k : Cont) : Core :=
  let r := idleCore c
  let ss := ((List.range 6).map (fun i => (i + 1, nth 0 k.args i))) ++ [(7, wd k.task), (8, wd k.team)]
  { r with sc := { r.sc with s := ss.foldl (fun m p => mset 0 m p.1 p.2) [] } }

/-- A core with a saved context restored (KEEP = 1). -/
def restoredCore (s : State) (c saved : Core) (slot : Nat) (task : TaskSt) : Core :=
  let r := idleCore c
  let m := { saved with num := c.num, ctl := c.ctl, now := c.now, born := c.born, path := c.path, iss := { Iss.reset with parts := saved.iss.parts }, sp := r.sp, task := task,
                        x := saved.x, ev := { saved.ev with ccreq := c.ev.ccreq, wdogAge := 0, reqAge := 0, ppAge := 0, stopped := false, work := c.ev.work },
                        cm := { saved.cm with rc := [], tlb := c.cm.tlb, msOut := 0, colOut := c.cm.colOut, rem := none } }
  readCtx s slot m

/-- The footprint of a team's tasks with the continuation a core runs. -/
def taskSt (x : Team) (k : Cont) : TaskSt := { cont := some k, fw := x.card.fw, fa := x.card.fa, fc := x.card.fc }

/-- The pool slot a continuation runs with: its own, or a free one (which one is left open). -/
def takeSlot (k : Cont) (s : State) : Option Nat × State :=
  if k.ctx ≠ 0 then (some k.ctx, s)
  else
    match freeSlots s with
    | [] => (none, s)
    | f :: r => let (d, s) := draw s; (some (nth f (f :: r) (Config.freeNat d % (r.length + 1))), s)

/-- A continuation starts on a core. -/
def dispatchOn (key : Nat) (k : Cont) (x : Team) (slot : Nat) (s : State) : State :=
  let old := slotAt s slot
  let c := { coreAt s key with now := if (coreAt s key).now < s.time then s.time else (coreAt s key).now }
  let k := { k with ctx := slot, fresh := false }
  let t := taskSt x k
  let c1 := if k.keep then restoredCore s c (old.ctx.getD (idleCore c)) slot t
    else let f := freshCore c k; { f with cp := { f.cp with resv := standing s k.team slot old.regs, evq := old.posts } }
  let zs := match old.ret with | some (d, v) => if d = 0 then c1.sc.s else mset 0 c1.sc.s d v | none => c1.sc.s
  let c1 := { c1 with st := .run, task := t, iss := { Iss.reset with npc := k.pc, parts := c1.iss.parts }, sc := { c1.sc with s := zs },
                      x := dispatchX (supOf s x.asid) key c1.x, cm := { c1.cm with rc := [], held := old.held, regs := old.regs, due := 0 } }
  comeHome k.team slot key (putSlot slot { PSlot.free with st := .running, team := k.team, cont := some k, held := old.held, regs := old.regs }
    (setCoreAt key c1 s))

/-- A core starts the continuation placed on it, or takes one of its quad's tasks and starts that; none before START (25
R399). -/
def execDispatch (core : Nat) (s : State) : Out :=
  .next (if s.ctl.run = false then s else
    let s := if core < 1024 ∧ s.dist.toDo.all (fun p => decide (p.1 ≠ core)) then takeQuad core s else s
    match s.dist.toDo.find? (fun p => decide (p.1 = core)) with
    | none => s
    | some (_, k) =>
      match teamOf s k.team with
      | none => s
      | some x =>
        if (coreAt s core).st ≠ .idle ∨ x.ckStop = true then s
        else
          match takeSlot k s with
          | (none, s) => s
          | (some slot, s) => dispatchOn core k x slot (onDist (fun d => { d with toDo := d.toDo.erase (core, k) }) s))

/-! ### A pre-empted task (19 R328) -/

/-- A pending request is taken at a STOP boundary, or at a forced one. -/
def execPreemption (s : State) : Out :=
  .next (let c := s.core
    if c.st = .run ∧ c.x.pp = true ∧ c.x.pl = false ∧ c.iss.from_ = 0 ∧ leavable c = true ∧
        (c.ev.stopped || forcedDue c) = true then (boundary s).getD s else s)

/-- Has every command of the core ended or been held by a late fault, and every line sent to another package been answered? -/
def saveReady (c : Core) : Bool :=
  c.mx.flight.isEmpty && (c.cp.cmds.isEmpty || c.cp.cmds.any CopyCmd.held) && (c.th.reqs.isEmpty || c.th.reqs.any TReq.held) &&
  c.cp.cmds.all (fun k => k.sent.isEmpty) && c.th.reqs.all (fun r => r.sent.isEmpty) && decide (c.cm.msOut = 0)

/-- The PREEMPT record of a core's task, from the two records reserved for it, of which one is left for the PICK (23 R378). A log that
was off when the core stopped has no record. -/
def logPreempt (key : Nat) (c : Cont) (s : State) : State :=
  if (teamOf s c.team).any (fun x => x.pre.contains key) then
    onTeam c.team (fun x => { x with pre := x.pre.erase key, logRes := x.logRes - 1 }) (logSched c.team 8 c.prio c.task (key + c.ctx * 2 ^ 10) 0 s)
  else s

def execSaveComplete (s : State) : Out :=
  .next (match decide (s.core.st = .save) && saveReady s.core, s.core.task.cont with
    | true, some k =>
      let c := { k with pc := s.core.iss.npc, keep := true, pre := true }
      let key := s.focus
      let s := saveCtx key c.ctx (goAway c.team c.ctx s)
      let s := logPreempt key c (putSlot c.ctx { slotAt s c.ctx with st := .ready, team := c.team, cont := some c } s)
      let s := onTeam c.team (fun x => { x with gangEnd := x.gangEnd.map (fun e =>
        if c.slot.isSome ∧ e.1 / 4 = c.idx / 4 then (e.1, none, e.2.2) else e) }) s
      releaseCore key (pushReady c s)
    | _, _ => s)

/-! ### Steps of a core's clock -/

/-- The earliest result in flight lands: time passes on the core. In exposed mode results land by issue cycles alone (06 R118), in the
steps that issue. -/
def execResultLands (s : State) : Out :=
  .next (if issuesExposed s then s else match s.core.pend with | p :: _ => pass (p.due + 1 - s.core.now) s | [] => s)

/-- The earliest S12 command in flight lands, in exposed mode too only as bundles issue. -/
def execS12Landing (s : State) : Out :=
  .next (if issuesExposed s then s else match s.core.mx.flight with
    | f :: r => pass (r.foldl (fun m x => if x.land < m then x.land else m) f.land + 1 - s.core.now) s
    | [] => s)

/-- The last cycle of the watchdog's count passes. -/
def execWatchdogExpiry (s : State) : Out :=
  .next (if s.core.st = .run ∧ s.core.x.pl = false ∧ fld s.core.x.wdogr 63 32 = 1 then idleFor 1 s else s)

/-- A forced boundary (16 R286). -/
def execForcedBoundary (s : State) : Out :=
  .next (if s.core.st = .run ∧ s.core.x.pl = false ∧ s.core.iss.from_ = 0 ∧ leavable s.core = true ∧
      forcedDue s.core = true then (boundary s).getD s else s)

end Sys2Proof.Machine
end

