-- ==== Sys2Proof/Machine/Meetings.lean ====
section
/-!
DEFINITION. Machine/Meetings.lean: plain barriers (17 R296, R297) and meetings: creation, arrivals, closes, results (17
R298–R305), the meeting log (23 R376–R378).
-/
namespace Sys2Proof.Machine

/-! ### Statuses (17 Table 17-2) and instances -/

def mBUSY : Nat := 1
def mFULL : Nat := 2
def mSTALE : Nat := 3
def mSCOPE : Nat := 4
def mAHEAD : Nat := 5
def mMEMBER : Nat := 6
def mMALFORMED : Nat := 7
def mMISMATCH : Nat := 8
def mNOTPIN : Nat := 9

/-- Meetings, and barrier keys with an open episode, of an instance: levels 0 .quad, 1 .die, 2 .pkg, 3 .pod. -/
def netSize (lv : Nat) : Nat := nth 256 [16, 64, 256, 256] lv

/-- The instance of a compute core at a level (17 Table 17-4). -/
def netInst (num lv : Nat) : Nat := if lv = 0 then num / 4 else if lv = 1 then num / 256 else 0

/-! ### Barriers -/

/-- Cores of an instance, by scope code 1 .core to 5 .pod. -/
def barMax (sc : Nat) : Nat := nth 0 [0, 1, 4, 256, 1024, 2 ^ 24] sc

def BarSt.is (lv team inst : Nat) (b : BarSt) : Bool := decide (b.scope = lv ∧ b.team = team ∧ b.inst = inst)

/-- The state of a key. -/
def barAt (s : State) (lv team inst : Nat) : BarSt := (s.grp.bars.find? (BarSt.is lv team inst)).getD ⟨lv, team, inst, 0, 0, 0⟩

def putBar (b : BarSt) : State → State := onGrp (fun g =>
  { g with bars := b :: g.bars.filter (fun x => !x.is b.scope b.team b.inst) })

/-- The status word of BAR: status and episode number. -/
def barWord (st epi : Nat) : Word := wd (st + epi % 2 ^ 32 * 2 ^ 32)

/-- A key after one more arrival of its open episode, or of a fresh one with count `n`. -/
def BarSt.arrive (n : Nat) (b : BarSt) : BarSt :=
  if b.got + 1 = n then { b with epi := b.epi + 1, n := 0, got := 0 } else { b with n := n, got := b.got + 1 }

/-- Why an arrival at a key is turned away: FULL, MISMATCH. -/
def barRefusal (s : State) (b : BarSt) (n : Nat) : Option Nat :=
  if b.got = 0 then
    (if netSize b.scope ≤ (s.grp.bars.filter (fun x => decide (x.scope = b.scope ∧ x.inst = b.inst ∧ x.got ≠ 0))).length
     then some mFULL else none)
  else if b.n ≠ n then some mMISMATCH else none

/-- BAR on the recorded episode: OK with the acquire once it is complete, else BUSY or a wait. -/
def barLook (try_ : Bool) (d lv inst epi : Nat) (s : State) : State :=
  if epi < (barAt s lv (teamNum s.core) inst).epi then
    retDev d (barWord 0 epi) (rcClear (onCm (fun c => { c with barp := none }) s))
  else if try_ then retDev d (barWord mBUSY epi) s else splitAs 2 0x36 s

/-- An arrival of the core in focus, then BAR on its episode. -/
def barArrive (try_ : Bool) (d lv n : Nat) (s : State) : State :=
  let inst := netInst s.core.num lv
  let b := barAt s lv (teamNum s.core) inst
  match barRefusal s b n with
  | some st => retDev d (barWord st b.epi) s
  | none => barLook try_ d lv inst b.epi (onCm (fun c => { c with barp := some (lv, inst, b.epi) }) (putBar (b.arrive n) s))

/-- The release in front of an arrival. BAR waits for it; BAR.T, which never holds, answers BUSY and has not arrived. -/
def barRelease (try_ : Bool) (d lv : Nat) (f : State → State) (s : State) : State :=
  if lv ≠ 3 then f s
  else if try_ then
    releaseElse (fun s => retDev d (barWord mBUSY (barAt s lv (teamNum s.core) (netInst s.core.num lv)).epi) s) f s
  else releasePod f s

/-- BAR and BAR.T. -/
def barrier (try_ : Bool) (g n d b sc : Nat) (s : State) : Out :=
  slotDo g n (fun s =>
    let k := (rdS s b).toNat % 2 ^ 32
    if s.core.ctl || decide (k = 0) || decide (barMax sc < k) || (!try_ && exposed s) then illop s
    else
      match s.core.cm.barp with
      | some (lv, inst, epi) => if sc = 1 ∨ lv ≠ sc - 2 then illop s else barLook try_ d lv inst epi s
      | none =>
        if sc = 1 then (if quiet s.core then retDev d 0 s else if try_ then retDev d (wd mBUSY) s else splitAs 2 0x36 s)
        else barRelease try_ d (sc - 2) (barArrive try_ d (sc - 2) k) s) s

def execBar (g n d b s : Nat) (z : State) : Out := barrier false g n d b s z
def execBarT (g n d b s : Nat) (z : State) : Out := barrier true g n d b s z

/-! ### Handles (17 Table 17-4) -/

def meetHandle (pkg sc inst hgen mnum : Nat) : Nat :=
  2 ^ 63 + pkg * 2 ^ 34 + sc * 2 ^ 32 + inst * 2 ^ 24 + hgen % 256 * 2 ^ 8 + mnum

/-- Reserved bits, V = 0, or a number beyond the table of the scope. -/
def meetBad (h : Word) : Bool :=
  !bitAt h 63 || decide (fld h 62 48 ≠ 0) || decide (fld h 23 16 ≠ 0) || decide (netSize (fld h 33 32) ≤ fld h 7 0)

/-- The meeting a handle names for the core in focus, or the status that turns it away. -/
def findMeet (s : State) (h : Word) : Meet ⊕ Nat :=
  let sc := fld h 33 32
  if fld h 47 34 ≠ s.ctl.pkgNum ∨ fld h 31 24 ≠ netInst s.core.num sc then .inr mSCOPE
  else
    match meetAtNum s sc (fld h 31 24) (fld h 7 0) with
    | none => .inr mSTALE
    | some m =>
      if m.hgen % 256 ≠ fld h 15 8 then .inr mSTALE else if m.team ≠ teamNum s.core then .inr mSCOPE else .inl m

/-- An instruction on a meeting: ILLOP for a bad handle, then the status, then `f`. -/
def withMeet (d h : Nat) (f : Meet → State → State) (s : State) : State :=
  match findMeet s (rdS s h) with
  | .inr st => retStatus d st s
  | .inl m => f m s

/-! ### MTCFG (17 R298) -/

/-- Fields of the first word of a descriptor (17 Table 17-3). -/
structure MeetD where
  sc : Nat
  tile : Bool
  cw : Nat
  op : Nat
  wgt : Nat
  l : Nat
  k : Nat
  n : Nat
  deriving DecidableEq, Repr

def meetD (w : Nat) : MeetD :=
  { sc := nbits w 33 32, tile := decide (w / 2 ^ 30 % 2 = 1), cw := nbits w 29 25, op := nbits w 24 22, wgt := nbits w 21 20,
    l := nbits w 19 16, k := nbits w 13 8 + 1, n := nbits w 5 0 + 1 }

/-- A descriptor that breaks 17 Table 17-3, its result's package apart. With DET = 1 k is n, whatever KM1 holds. -/
def meetMalformed (b : List Byte) (det : Bool) : Bool :=
  let w := leAt b 0 8
  let d := meetD w
  decide (nbits w 63 34 ≠ 0) || decide (w / 2 ^ 31 % 2 = 1) || decide (nbits w 15 14 ≠ 0) || decide (nbits w 7 6 ≠ 0) ||
  decide (leAt b 8 8 / 2 ^ 20 ≠ 0) || decide (leAt b 0x18 40 ≠ 0) || decide (5 ≤ d.op) || decide (d.wgt = 3) || (!det && decide (d.n < d.k)) ||
  (if d.tile || decide (d.op = 0) then decide (d.cw ≠ 0) else decide (d.cw = 0 ∨ 16 < d.cw)) ||
  (if d.tile then decide (d.op = 0) || decide (leAt b 0x10 8 % 64 ≠ 0)
   else decide (leAt b 8 8 ≠ 0) || decide (leAt b 0x10 8 ≠ 0))

/-- A range translated once for the networks: its pieces with their classes, or none for a fault or PIN = 0 (12 R219). -/
def netPieces (k : Acq) : Nat → Nat → Nat → List (Nat × Nat × Nat) → State → Option (List (Nat × Nat × Nat)) × State
  | 0, _, _, ps, s => (some ps.reverse, s)
  | n + 1, va, len, ps, s =>
    if len = 0 then (some ps.reverse, s)
    else
      match msPage k (!s.core.x.pl) (wd va) s with
      | (.inl _, s) => (none, s)
      | (.inr (a, c), s) =>
        let z := 2 ^ 16 - va % 2 ^ 16
        let z := if len < z then len else z
        netPieces k n (va + z) (len - z) ((a, z, c % 4) :: ps) s

/-- Numbers free in an instance: no live meeting has them and no checkpoint records them (17 R305). -/
def freeMeets (s : State) (sc inst : Nat) : List Nat :=
  (List.range (netSize sc)).filter (fun k =>
    (meetAtNum s sc inst k).isNone && !s.grp.ckMeets.any (fun p => p.2.any (Meet.is sc inst k)))

/-- Key of a meeting number's generation. -/
def meetKey (sc inst mnum : Nat) : Nat := sc * 2 ^ 16 + inst * 2 ^ 8 + mnum

/-- A meeting just created. -/
def newMeet (d : MeetD) (team inst mnum hgen : Nat) (det : Bool) (tile : Option TileOut) : Meet :=
  { team := team, scope := d.sc, inst := inst, mnum := mnum, hgen := hgen, n := d.n, k := if det then d.n else d.k, lag := d.l,
    wgt := d.wgt, op := d.op, cw := d.cw, tile := tile, t := 0, rs := List.replicate d.n 0, as_ := List.replicate d.n (-1),
    ontime := [], fold := [], pend := [], res := List.replicate d.cw 0, resCnt := 0, resDrop := 0, resFl := 0 }

/-- Does the issuing task run with DET = 1? -/
def taskDet (s : State) : Bool := (s.core.task.cont.map Cont.det).getD false

/-- The meeting created under the lowest free number, and its handle. -/
def createMeet (d : Nat) (x : MeetD) (tile : Option TileOut) (s : State) : State :=
  let inst := netInst s.core.num x.sc
  match freeMeets s x.sc inst with
  | [] => retStatus d mFULL s
  | num :: _ =>
    let gen := mget 0 s.grp.mgen (meetKey x.sc inst num) + 1
    let m := newMeet x (teamNum s.core) inst num gen (taskDet s) tile
    retDev d (wd (meetHandle s.ctl.pkgNum x.sc inst gen num))
      (onGrp (fun g => { g with meets := g.meets ++ [m], mgen := mset 0 g.mgen (meetKey x.sc inst num) gen }) s)

def execMtcfg (g n d r : Nat) (s : State) : Out :=
  slotDo g n (fun s =>
    if s.core.ctl then illop s
    else
      ownLine (rdA s r) 64 (fun b s =>
        let x := meetD (leAt b 0 8)
        let els := leAt b 8 8 + 1
        if meetMalformed b (taskDet s) then retStatus d mMALFORMED s
        else if !x.tile then createMeet d x none s
        else
          match netPieces .wr (els * 4 / 2 ^ 16 + 2) (leAt b 0x10 8) (els * 4) [] s with
          | (none, s) => retStatus d mNOTPIN s
          | (some ps, s) =>
            if ps.any (fun p => decide (pkgOf p.1 ≠ s.ctl.pkgNum)) then retStatus d mMALFORMED s
            else createMeet d x (some ⟨els, ps⟩) s) s) s

/-! ### Combining a round (17 R300) -/

/-- One word weighted by its lag. -/
def weigh (op wgt lag : Nat) (x : W32) : W32 × Flags5 :=
  if wgt = 1 ∧ lag ≠ 0 then
    if op = 1 then
      let (r, f) := rneF fp32 (scaleN (decodeF fp32 x.toNat) (-(lag : Int)))
      (BitVec.ofNat 32 r, f)
    else if op = 2 then (x.sshiftRight lag, flNone)
    else (x, flNone)
  else (x, flNone)

/-- A later word combined into the accumulator. -/
def combine1 (op : Nat) (acc x : W32) : W32 × Flags5 :=
  if op = 1 then
    let (y, f) := addN (decodeF fp32 acc.toNat) (decodeF fp32 x.toNat) false
    let (r, h) := rneF fp32 y
    (BitVec.ofNat 32 r, f ||| h)
  else if op = 2 then (acc + x, flNone)
  else (pick32 (decide (op = 3)) false acc x, flNone)

/-- Words of one position in order, each with its lag: the combination and its flags. -/
def combineAt (op wgt : Nat) (xs : List (W32 × Nat)) : W32 × Flags5 :=
  match xs.map (fun p => weigh op wgt p.2 p.1) with
  | [] => (0, flNone)
  | (a, f) :: r => r.foldl (fun (z : W32 × Flags5) y => let c := combine1 op z.1 y.1; (c.1, z.2 ||| y.2 ||| c.2)) (a, f)

/-- Contributions in a fixed order: by tag, then by member. -/
def sortContribs (xs : List Contrib) : List Contrib :=
  xs.foldr (fun x ys =>
    let lo := ys.takeWhile (fun y => decide (y.tag < x.tag ∨ (y.tag = x.tag ∧ y.mem < x.mem)))
    lo ++ x :: ys.drop lo.length) []

/-- Contributions taken into the round, each with its lag: dropped ones left out. -/
def Meet.taken (m : Meet) : List (Contrib × Nat) :=
  (sortContribs m.ontime).map (fun c => (c, 0)) ++
  (if m.wgt = 2 then [] else (sortContribs m.fold).map (fun c => (c, (m.t - c.tag).toNat)))

/-- Bytes of a tile, from the pieces read for the close. -/
def tileBytes (got : List (Nat × Nat × List Byte)) (pcs : List (Nat × Nat × Nat)) : List Byte :=
  pcs.flatMap (fun p => ((got.find? (fun x => decide (x.1 = p.1 ∧ x.2.1 = p.2.1))).map (fun x => x.2.2)).getD [])

/-- A contribution's words as they stood at the close. -/
def Contrib.words (got : List (Nat × Nat × List Byte)) (n : Nat) (c : Contrib) : List W32 :=
  if c.tile.isEmpty then c.x
  else
    let b := tileBytes got c.tile
    (List.range n).map (fun i => BitVec.ofNat 32 (leAt b (4 * i) 4))

/-- Words per contribution. -/
def Meet.width (m : Meet) : Nat := match m.tile with | some t => t.n | none => m.cw

/-- The round's combination, position by position, and its flags. -/
def Meet.combine (got : List (Nat × Nat × List Byte)) (m : Meet) : List W32 × Flags5 :=
  let xs := m.taken.map (fun p => (p.1.words got m.width, p.2))
  let rs := (List.range m.width).map (fun i => combineAt m.op m.wgt (xs.map (fun p => (nth 0 p.1 i, p.2))))
  (rs.map Prod.fst, rs.foldl (fun f r => f ||| r.2) flNone)

/-! ### A close (17 R299, R301) -/

/-- Does the round close: k members on time and no mandatory member missing? -/
def Meet.closes (m : Meet) : Bool := decide (m.k ≤ m.ontime.length) && m.as_.all (fun a => decide (m.t - a ≤ m.lag))

/-- A_m as it stood when the round opened: one less than the tag a member of the round arrived for. -/
def Meet.openA (m : Meet) (i : Nat) : Int :=
  match (m.ontime ++ m.fold).find? (fun c => decide (c.mem = i)) with
  | some c => c.tag - 1
  | none => nth (-1) m.as_ i

/-- Bitmap of members. -/
def memberBits (cs : List Contrib) : Nat := maskOf 64 (fun i => cs.any (fun c => decide (c.mem = i)))

/-- The record of a close (23 Table 23-8). -/
def meetRec (s : State) (m : Meet) (fl : Flags5) : List Byte :=
  let late := memberBits m.fold
  leBytes 8 (3 * 2 ^ 60 + epochOf s m.team * 2 ^ 48 + m.team * 2 ^ 36 + (m.n - 1) * 2 ^ 30 + (m.k - 1) * 2 ^ 24 + m.lag * 2 ^ 20 +
    m.wgt * 2 ^ 18) ++
  leBytes 8 (meetHandle s.ctl.pkgNum m.scope m.inst m.hgen m.mnum) ++
  leBytes 8 ((m.t % 2 ^ 32).toNat + fl.toNat * 2 ^ 32) ++
  leBytes 8 (memberBits m.ontime) ++ leBytes 8 (if m.wgt = 2 then 0 else late) ++ leBytes 8 (if m.wgt = 2 then late else 0) ++
  leBytes 8 (maskOf m.n (fun i => decide ((m.lag : Int) < m.t - m.openA i))) ++ leBytes 8 0 ++
  leBytes 32 (m.fold.foldl (fun a c => a + (m.t - c.tag).toNat % 16 * 16 ^ c.mem) 0)

/-- Who writes for a network: a tile result, a collective. `meas`: the task it acts for has a pass open. -/
def whoNet (team cls : Nat) (meas : Bool) : Who :=
  { key := 2112, team := if team < 4096 then some team else none, meas := meas, cls := cls, dig := true }

/-- May an engine of XD write the line? A bound line it does not hold, a region's, or a retired unit's refuses. -/
def netMay (s : State) (key a : Nat) : Bool := !writeRefused s key a && !retired s a

/-- The lines of pieces read through the L2s in front of their stacks (12 R223). -/
def netReads (w : Who) (ps : List (Nat × Nat × Nat)) (s : State) : State :=
  ps.foldl (fun s p => (List.range (cdiv (p.1 % 64 + p.2.1) 64)).foldl (fun s i => l2Touch { w with cls := p.2.2 } false (p.1 + 64 * i) s) s) s

/-- Bytes put into pieces, published: copies dropped, lines taken into the L2 in the class of their page. -/
def netPut (w : Who) : List (Nat × Nat × Nat) → List Byte → State → State
  | [], _, s => s
  | (a, n, c) :: r, bs, s =>
    let w := { w with cls := c }
    let s := rcDropAll (fun l => decide (a / 64 * 64 ≤ l ∧ l < a + n)) s
    let s := (List.range (n / 64 + 2)).foldl (fun s i =>
      let l := a / 64 * 64 + 64 * i
      let lo := if l < a then a else l
      let hi := if a + n < l + 64 then a + n else l + 64
      if lo < hi ∧ netMay s w.key l then homePut w true lo ((bs.drop (lo - a)).take (hi - lo)) s else s) s
    netPut w r (bs.drop n) s

/-- The round that the meeting's open round becomes when it closes; of its tiles the pieces in own memory are read. -/
def Meet.closeOf (m : Meet) (s : State) : MeetClose :=
  let c : MeetClose := { t := m.t, as_ := m.as_, ontime := m.ontime, fold := m.fold, epoch := epochOf s m.team, meas := s.core.pm.open_, got := [] }
  { c with got := ((c.tiles m).filter (fun p => decide (pkgOf p.1 = s.ctl.pkgNum))).map (fun p => (p.1, p.2.1, memBytes s.mem p.1 p.2.1)) }

/-- The meeting with its open round closed: the next round is open. -/
def Meet.shut (m : Meet) (c : MeetClose) : Meet := { m with t := m.t + 1, ontime := [], fold := [], pend := m.pend ++ [c] }

/-- The meeting as it stood when a round closed. -/
def Meet.asClosed (m : Meet) (c : MeetClose) : Meet := { m with t := c.t, as_ := c.as_, ontime := c.ontime, fold := c.fold }

/-- The meeting with the result of its oldest closed round out. -/
def Meet.close (m : Meet) (c : MeetClose) (res : List W32) (fl : Flags5) : Meet :=
  { m with pend := m.pend.drop 1, res := if m.tile.isSome then [] else res, resCnt := (m.asClosed c).taken.length,
           resDrop := if m.wgt = 2 then c.fold.length else 0, resFl := fl }

/-- The result of a closed round comes out: tile result, log, latest result. -/
def publishRound (m : Meet) (c : MeetClose) (s : State) : State :=
  let (res, fl) := (m.asClosed c).combine c.got
  let s := match m.tile with
    | some t => netPut (whoNet m.team 0 c.meas) t.pcs (res.flatMap (fun x => leBytes 4 x.toNat)) s
    | none => s
  putMeet (m.close c res fl) (logWrite m.team 1 (fun _ => meetRec s (m.asClosed c) fl) s)

/-- Closed rounds of a meeting come out in order, each once its tiles are read. -/
def publishRounds : Nat → Nat → Nat → Nat → State → State
  | 0, _, _, _, s => s
  | k + 1, sc, inst, mnum, s =>
    match meetAtNum s sc inst mnum with
    | none => s
    | some m =>
      match m.pend with
      | [] => s
      | c :: _ => if (c.missing m).isEmpty then publishRounds k sc inst mnum (publishRound m c s) else s

/-- The open round of a meeting closes. The network turns to the next arrival at once; the result waits for the tiles of other
packages (17 R300, R303: MTARR does not). -/
def closeRound (m : Meet) (s : State) : State :=
  let c := m.closeOf s
  let s := netReads (whoNet m.team 0 c.meas) (c.tiles m) s
  publishRounds (m.pend.length + 1) m.scope m.inst m.mnum (askTiles (m.shut c) c (putMeet (m.shut c) s))

/-- Another package has answered a request for a piece, or has not. -/
def tileAnswer (a : Nat) (ask : List Byte) (r : Option Nat) (s : State) : State :=
  let sc := leAt ask 5 1
  let s := match r with | some v => tileGot a ask (leBytes (leAt ask 0 4) v) s | none => tileLost a ask s
  publishRounds (((meetAtNum s sc (leAt ask 6 1) (leAt ask 7 1)).map (fun m => m.pend.length)).getD 0) sc (leAt ask 6 1) (leAt ask 7 1) s

/-- Closed rounds of a team's meetings whose records are still to be written. -/
def closesDue (s : State) (t : Nat) : Nat := ((s.grp.meets.filter (fun m => decide (m.team = t))).map (fun m => m.pend.length)).sum

/-! ### MTARR (17 R299, R303) -/

/-- The status that turns an arrival away. -/
def Meet.refuses (m : Meet) (i : Nat) : Option Nat :=
  if m.n ≤ i then some mMEMBER else if nth 0 m.rs i = m.t + 1 then some mAHEAD else none

/-- The meeting after member `i`'s arrival. -/
def Meet.arrive (m : Meet) (i : Nat) (x : List W32) (tile : List (Nat × Nat × Nat)) : Meet :=
  let c : Contrib := { mem := i, tag := nth 0 m.rs i, x := x, tile := tile }
  let m1 := if c.tag = m.t then { m with ontime := m.ontime ++ [c] } else { m with fold := m.fold ++ [c] }
  { m1 with as_ := setNth m.as_ i m.t, rs := setNth m.rs i (m.t + 1) }

/-- An arrival performed at the network. -/
def meetArrive (d : Nat) (m0 : Meet) (i : Nat) (x : List W32) (tile : List (Nat × Nat × Nat)) (s : State) : State :=
  match m0.refuses i with
  | some st => retStatus d st s
  | none =>
    let m := m0.arrive i x tile
    if m.closes then
      match logFull s m.team 1 (96 * (1 + closesDue s m.team)) with
      | some lim => trap cLOGFULL 0 lim s
      | none => retStatus d 0 (cntEv 0x22 1 (closeRound m s))
    else retStatus d 0 (cntEv 0x22 1 (putMeet m s))

/-- The tile of an arrival: translated on pinned pages, read when the round closes. -/
def tileArrive (d : Nat) (m : Meet) (i n : Nat) (va : Word) (s : State) : State :=
  if va.toNat % 64 ≠ 0 then retStatus d mNOTPIN s
  else
    match netPieces .rd (n * 4 / 2 ^ 16 + 2) va.toNat (n * 4) [] s with
    | (none, s) => retStatus d mNOTPIN s
    | (some ps, s) => meetArrive d m i [] ps s

def execMtarr (g n d h r m : Nat) (s : State) : Out :=
  slotDo g n (fun s =>
    let ea := rdA s r
    let i := (rdS s m).toNat
    if s.core.ctl || meetBad (rdS s h) then illop s
    else
      ownNamed true false ea 64 (fun s =>
        withMeet d h (fun x s =>
          releaseAt (decide (x.scope = 3)) (fun s =>
            if x.op = 0 then meetArrive d x i [] [] s
            else
              ownLine ea 64 (fun b s =>
                match x.tile with
                | none => meetArrive d x i ((List.range x.cw).map (fun j => BitVec.ofNat 32 (leAt b (4 * j) 4))) [] s
                | some t => if (x.refuses i).isSome then meetArrive d x i [] [] s else tileArrive d x i t.n (wd (leAt b 0 8)) s) s) s) s) s) s

/-! ### MTWAIT (17 R304) -/

/-- The round after the latest whose result is out. -/
def Meet.out (m : Meet) : Int := m.t - m.pend.length

/-- Has that round passed the tag, as a signed difference? -/
def Meet.met (m : Meet) (t : Word) : Bool := decide (0 < sgn 32 ((m.out - (t.toNat : Int)) % 2 ^ 32).toNat)

/-- The status word with the latest result's counts, flags and tag. -/
def Meet.word (m : Meet) : Word :=
  wd (m.resCnt * 2 ^ 8 + m.resFl.toNat * 2 ^ 16 + m.resDrop % 256 * 2 ^ 21 + ((m.out - 1) % 2 ^ 32).toNat * 2 ^ 32)

/-- The latest result returned: the acquire, the line, the word. -/
def meetResult (d : Nat) (ea : Word) (m : Meet) (s : State) : State :=
  if m.cw = 0 then retDev d m.word (rcClear s)
  else
    spadGo 0 true ea 64 [(0, 64)] none (fun p s =>
      takePort 1 64 none (fun q s =>
        let bs := m.res.flatMap (fun x => leBytes 4 x.toNat)
        retDev d m.word (rcClear (spadStore { p with q := q } 0 (bs ++ List.replicate (64 - bs.length) 0) s))) s) s

/-- MTWAIT and MTWAIT.T. -/
def meetWait (try_ : Bool) (g n d h r t : Nat) (s : State) : Out :=
  slotDo g n (fun s =>
    let ea := rdA s r
    if s.core.ctl || meetBad (rdS s h) then illop s
    else
      ownNamed true true ea 64 (fun s =>
        withMeet d h (fun m s =>
          if m.met (rdS s t) then meetResult d ea m s
          else if try_ then retStatus d mBUSY s
          else if exposed s then illop s
          else holdAs 2 0x36 s) s) s) s

def execMtwait (g n d h r t : Nat) (s : State) : Out := meetWait false g n d h r t s
def execMtwaitT (g n d h r t : Nat) (s : State) : Out := meetWait true g n d h r t s

/-! ### MTTAG and MTDEL (17 R305) -/

def execMttag (g n d h m : Nat) (s : State) : Out :=
  slotDo g n (fun s =>
    let i := (rdS s m).toNat
    if s.core.ctl || meetBad (rdS s h) then illop s
    else
      withMeet d h (fun x s =>
        if x.n ≤ i then retStatus d mMEMBER s
        else retDev d (wd ((x.out % 2 ^ 32).toNat + (nth 0 x.rs i % 2 ^ 32).toNat * 2 ^ 32)) s) s) s

def execMtdel (g n d h : Nat) (s : State) : Out :=
  slotDo g n (fun s =>
    if s.core.ctl || meetBad (rdS s h) then illop s
    else
      withMeet d h (fun x s =>
        retStatus d 0 (onGrp (fun g => { g with meets := g.meets.filter (fun y => !y.is x.scope x.inst x.mnum) }) s)) s) s

end Sys2Proof.Machine
end

