-- ==== Sys2Proof/Machine/Replay.lean ====
section
/-!
DEFINITION. Machine/Replay.lean: phase sets, kernel digests and replica groups (23 R369–R374).
-/
namespace Sys2Proof.Machine

/-- PHASE, DIGEST and RCMP run interlocked, on a compute core (23 R369). -/
def replayOk (s : State) : Bool := !s.core.ctl && !exposed s

/-! ### Phases (23 R370) -/

/-- An entry of PHASE's line (23 Table 23-3), where its V bit is set. -/
def phaseEnt (e : Nat) : Option PhaseR :=
  if e / 2 ^ 7 % 2 = 1 then
    some { buf := nbits e 6 5, lo := nbits e 43 24, hi := nbits e 43 24 + nbits e 63 44 + 1, agent := nbits e 1 0, wr := decide (e / 16 % 2 = 1) }
  else none

/-- Reserved bits, BUF = 3, a range past the end of its buffer. -/
def phaseEntBad (e : Nat) : Bool :=
  decide (nbits e 23 8 ≠ 0) || decide (nbits e 3 2 ≠ 0) ||
  (match phaseEnt e with | some r => decide (r.buf = 3 ∨ bufSize r.buf < r.hi) | none => false)

/-- The lowest byte two entries dispute. -/
def phaseMeet (x y : PhaseR) : Option Word :=
  if x.agent ≠ y.agent ∧ x.buf = y.buf ∧ (x.wr = true ∨ y.wr = true) then (meetAt x.lo x.hi y.lo y.hi).map (spadAddr x.buf) else none

/-- The lowest disputed address of a list of entries. -/
def phaseDispute : List PhaseR → Option Word
  | [] => none
  | x :: r => (leastOpt ((r.map (phaseMeet x) ++ [phaseDispute r]).map (fun w => w.map BitVec.toNat))).map wd

/-- Has the region checker room for the ranges beside those of live nodes (10 R199)? -/
def phaseRoom (c : Core) (rs : List PhaseR) : Bool :=
  decide ((heldRanges c ++ rs.map (fun p => (p.buf, p.lo, p.hi))).eraseDups.length ≤ 64)

def setPhase (rs : List PhaseR) : State → State := onCore (fun c => { c with phase := rs })

def execPhase (g n d r : Nat) (s : State) : Out :=
  slotDo g n (fun s =>
    if !replayOk s then illop s
    else
      ownNamed true false (rdA s r) 64 (fun s =>
        awaitQuiet (ownLine (rdA s r) 64 (fun b s =>
          let es := (List.range 8).map (fun i => leAt b (8 * i) 8)
          let rs := es.filterMap phaseEnt
          if es.any phaseEntBad then illop s
          else
            match phaseDispute rs with
            | some fa => trap cPHASECONF 0 fa s
            | none => if phaseRoom s.core rs then retStatus d 0 (setPhase rs s) else retStatus d 1 s)) s) s) s

def execPhaseEnd (g n : Nat) (s : State) : Out :=
  slotDo g n (fun s => if !replayOk s then illop s else awaitQuiet (setPhase []) s) s

/-! ### DIGEST (23 R373) -/

/-- The sum of the homes' digests of a team. -/
def teamDigest (s : State) (t : Nat) : Word := (teamWins s t).foldl (fun d p => d + p.2.digest) 0

/-- Has every home an open window of the team that is not BROKEN? -/
def winsWhole (s : State) (t : Nat) : Bool :=
  (List.range 8).all (fun k => (mfind? s.ctl.caps (areaKey (teamAsid s t) k)).isSome && (teamWins s t).any (fun p => decide (p.1 = k) && !p.2.broken))

def execDigest (g n d e : Nat) (s : State) : Out :=
  slotDo g n (fun s =>
    if !replayOk s then illop s
    else
      awaitQuiet (fun s =>
        let t := teamNum s.core
        emit Config.devLat (predBit e (winsWhole s t)) (retDev d (teamDigest s t) s)) s) s

/-! ### Replicas (23 R374) -/

def groupOf (s : State) (t : Nat) : Option Group := mfind? s.grp.groups t
def putGroup (t : Nat) (g : Group) : State → State := onGrp (fun x => { x with groups := mput x.groups t g })

/-- Has every other member's package announced the group with the same members? -/
def Group.complete (s : State) (g : Group) : Bool :=
  g.mems.all (fun m => decide (m.1 = s.ctl.pkgNum) || s.grp.anns.any (fun a => decide (a.1 = m.1 ∧ a.2.1 = g.num) && sameMems a.2.2 g.mems))

/-- A member's first submission for a step. -/
def Group.sub (g : Group) (pkg step : Nat) : Option Word := (g.subs.find? (fun x => decide (x.1 = pkg ∧ x.2.1 = step))).map (fun x => x.2.2)

/-- The outcome of a step, once there is one. -/
def Group.outcome (g : Group) (step : Nat) : Option Nat := (g.done.find? (fun x => decide (x.1 = step))).map Prod.snd

/-- One submission of each member for a step taken away. -/
def Group.without (g : Group) (step : Nat) : Group :=
  { g with subs := g.mems.foldl (fun xs m => xs.eraseP (fun x => decide (x.1 = m.1 ∧ x.2.1 = step))) g.subs }

/-- The replica is rolled back for a step; at a step already rolled back for its team ends FAULT, and the control complex
is told the packages suspected. -/
def replicaBack (t step : Nat) (g : Group) (suspect : List Nat) (s : State) : State :=
  if g.again.contains step then ctlEvent 5 step (suspect.foldl (fun a p => a * 2 ^ 14 + p) 0) (endTeam t 3 s)
  else rollTeam t false (putGroup t { g with again := g.again ++ [step] } s)

/-- The outcome of a step, when every member has submitted it (23 Table 23-4). -/
def replicaJudge (t step : Nat) (s : State) : State :=
  match groupOf s t with
  | none => s
  | some g =>
    let ds := g.mems.filterMap (fun m => (g.sub m.1 step).map (fun d => (m.1, d)))
    let votes := fun (d : Word) => (ds.filter (fun p => decide (p.2 = d))).length
    match if g.complete s && decide (ds.length = g.mems.length) && (g.outcome step).isNone then g.sub s.ctl.pkgNum step else none with
    | none => s
    | some mine =>
      let settleAs := fun k => putGroup t { g with done := g.done ++ [(step, k)] } s
      if votes mine = ds.length then settleAs 0
      else
        match ds.find? (fun p => decide (2 ≤ votes p.2)) with
        | some (_, d) =>
          if mine = d then settleAs 1 else replicaBack t step g ((ds.filter (fun p => decide (p.2 ≠ d))).map Prod.fst) s
        | none => replicaBack t step (g.without step) (ds.map Prod.fst) s

/-- A submission counts, and is judged. -/
def replicaSubmit (t pkg step : Nat) (x : Word) (s : State) : State :=
  match groupOf s t with
  | none => s
  | some g => replicaJudge t step (putGroup t { g with subs := g.subs ++ [(pkg, step, x)] } s)

def execRcmp (g n d a b : Nat) (s : State) : Out :=
  slotDo g n (fun s =>
    let t := teamNum s.core
    let step := (rdS s b).toNat % 2 ^ 32
    if !replayOk s then illop s
    else
      match groupOf s t with
      | none => retStatus d 2 s
      | some r =>
        match r.outcome step with
        | some k => retStatus d k s
        | none =>
          if !r.complete s || (r.sub s.ctl.pkgNum step).isSome then holdAs 2 0x36 s
          else
            let s := (r.mems.filter (fun m => decide (m.1 ≠ s.ctl.pkgNum))).foldl
              (fun s m => tell m.1 35 m.2 (leBytes 4 step ++ leBytes 8 (rdS s a).toNat) s) s
            let s := replicaSubmit t s.ctl.pkgNum step (rdS s a) s
            match (groupOf s t).bind (fun r => r.outcome step), s.core.task.cont with
            | some k, _ => retStatus d k s
            | none, some _ => holdAs 2 0x36 s
            | none, none => s) s

end Sys2Proof.Machine
end

