-- ==== Sys2Proof/Machine/Collect.lean ====
section
/-!
DEFINITION. Machine/Collect.lean: the package collective engine (21 R350–R359, R361): acceptance, rings, reductions,
deliveries, notices and records; the pushing again of notices that found their queue full.
-/
namespace Sys2Proof.Machine

/-! ### Acceptance (21 R352) -/

/-- Reserved fields, DT, RK, LEN, P and DOPT that raise ILLOP (21 R352 item 1). Kinds: 0 RSCAT, 1 AGATH, 2 ARED, 3 SEND, 4
RECV. -/
def clBad (s : State) (k : Nat) (d : List Byte) : Bool :=
  let c := leAt d 0 8
  let p := leAt d 0x2C 2
  decide (nbits c 63 10 ≠ 0) || decide (c / 2 ^ 8 % 2 = 1) || decide (nbits c 3 2 ≠ 0) || decide (leAt d 0x3C 4 ≠ 0) ||
  decide (leAt d 0x48 56 ≠ 0) || decide (clPeer d / 2 ^ 14 ≠ 0) || decide (clDt d = 3) || decide (4 ≤ clRk d) ||
  decide (clLen d % (64 * (if k = 2 then clP s d else 1)) ≠ 0) || decide (2 ^ 32 < clLen d) ||
  (if 3 ≤ k then decide (clDt d ≠ 2 ∨ clRk d ≠ 0 ∨ p ≠ 0) || clDopt d
   else if clRk d = 0 then decide (p < 2 ∨ 1024 < p) else decide (p ≠ 0)) ||
  (decide (k = 0 ∨ k = 2) && decide (clDt d = 2)) ||
  (clDopt d && (decide (k ≠ 0 ∨ clDt d ≠ 0) || decide (clNblk d = 0 ∨ 65536 < clNblk d)))

/-- Bytes written at DST. -/
def clOut (s : State) (k : Nat) (d : List Byte) : Nat :=
  if k = 3 then 0 else if k = 1 then clP s d * clLen d else if clDopt d then 256 else clLen d

/-- Ranges a command translates, in the order they are checked. -/
def clRanges (s : State) (k : Nat) (d : List Byte) : List (Acq × Nat × Nat) :=
  [(.rd, clSrc d, if k = 4 then 0 else if k = 0 then clP s d * clLen d else clLen d), (.wr, clDst d, clOut s k d),
   (.rd, clRlist d, if clRk d = 0 ∧ k < 3 then 2 * clP s d else 0)]

/-- Every range's pages in turn: virtual page to 8 × physical page + 4 × REM + class. -/
def clAll (user : Bool) : List (Acq × Nat × Nat) → SMap Nat → State → (MsFault ⊕ SMap Nat) × State
  | [], m, s => (.inr m, s)
  | (k, va, len) :: r, m, s =>
    match msPages k user (len / 2 ^ 16 + 2) va len m s with
    | (.inl f, s) => (.inl f, s)
    | (.inr m, s) => clAll user r m s

/-- A command the engine accepts, or turns away with 0 (21 R352). -/
def clAccept (pd k tag : Nat) (d : List Byte) (pages : SMap Nat) (s : State) : State :=
  if s.core.cm.colOut < 8 ∧ s.net.colls.length < 256 ∧ evRoom s.core = true then
    let c : Coll := { id := s.net.nextColl, core := s.focus, team := teamNum s.core, slot := (s.core.task.cont.map Cont.ctx).getD 0,
                      sup := s.core.x.pl, kind := k, tag := tag, desc := d, pages := pages, ring := [], at_ := 0, status := 0, flags := flNone, bytes := 0, notes := [], data := none }
    let s := onCm (fun c => { c with colOut := c.colOut + 1 }) (reserveEv s)
    retAccept pd true (onNet (fun n => { n with colls := n.colls ++ [c], nextColl := n.nextColl + 1 }) s)
  else retAccept pd false s

/-- The instructions of majors 0x30 to 0x34. -/
def collIssue (k : Nat) (g n p r t : Nat) (s : State) : Out :=
  slotDo g n (fun s =>
    if s.core.ctl then illop s
    else
      ownLine (rdA s r) 128 (fun d s =>
        if clBad s k d then illop s
        else
          match clAll (!s.core.x.pl) (clRanges s k d) [] s with
          | (.inl (c, dt, fa), s) => trap c dt fa s
          | (.inr m, s) =>
            if m.any (fun p => decide (pkgOf (p.2 / 8 * 2 ^ 16) ≠ s.ctl.pkgNum)) then illop s else clAccept p k t d m s) s) s

def execRscat (g n p r t : Nat) (s : State) : Out := collIssue 0 g n p r t s
def execAgath (g n p r t : Nat) (s : State) : Out := collIssue 1 g n p r t s
def execAred (g n p r t : Nat) (s : State) : Out := collIssue 2 g n p r t s
def execSend (g n p r t : Nat) (s : State) : Out := collIssue 3 g n p r t s
def execRecv (g n p r t : Nat) (s : State) : Out := collIssue 4 g n p r t s

/-! ### Rings (21 R353) -/

/-- Pieces of a virtual range in a command's pages: (first byte, bytes, class of the leaf). -/
def clPcs (pages : SMap Nat) (va len : Nat) : List (Nat × Nat × Nat) :=
  (List.range (len / 2 ^ 16 + 2)).filterMap (fun i =>
    let p := va / 2 ^ 16 + i
    let x := mget 0 pages (p % 2 ^ 48)
    let lo := if i = 0 then va else p * 2 ^ 16
    let hi := if va + len < (p + 1) * 2 ^ 16 then va + len else (p + 1) * 2 ^ 16
    if lo < hi then some (x / 8 * 2 ^ 16 + lo % 2 ^ 16, hi - lo, x % 4) else none)

/-- Pieces without their classes. -/
def plainPcs (ps : List (Nat × Nat × Nat)) : List (Nat × Nat) := ps.map (fun p => (p.1, p.2.1))

/-- Bytes of a virtual range. -/
def clBytes (s : State) (c : Coll) (va len : Nat) : List Byte := (clPcs c.pages va len).flatMap (fun p => memBytes s.mem p.1 p.2.1)

/-- The packages of a ring in order; of SEND and RECV, the peer. -/
def clRing (s : State) (c : Coll) : List Nat :=
  if 3 ≤ c.kind then [clPeer c.desc]
  else if clRk c.desc = 0 then
    let b := clBytes s c (clRlist c.desc) (2 * clP s c.desc)
    (List.range (clP s c.desc)).map (fun i => leAt b (2 * i) 2)
  else
    let d := clRk c.desc - 1
    let w := 32 ^ d
    (List.range (extentOf s d)).map (fun i => s.ctl.pkgNum - coordOf s.ctl.pkgNum d * w + i * w)

/-- A repeated package, or the own package missing. -/
def ringBad (s : State) (r : List Nat) : Bool := decide (r.eraseDups.length ≠ r.length) || !r.contains s.ctl.pkgNum

/-- Position of the own package. -/
def ringPos (s : State) (r : List Nat) : Nat := (r.takeWhile (fun x => decide (x ≠ s.ctl.pkgNum))).length

def collAt (s : State) (id : Nat) : Option Coll := s.net.colls.find? (fun c => decide (c.id = id))
def putColl (c : Coll) : State → State := onNet (fun n => { n with colls := n.colls.map (fun x => if x.id = c.id then c else x) })

/-- A command over with a status that published nothing; what the engine held for it is given up. -/
def collOver (c : Coll) (st : Nat) (s : State) : State :=
  collGone c.id (putColl { c with at_ := 3, status := st, bytes := 0, notes := [] } s)

/-- Is an earlier command on the same ring and channel not over (21 R361)? -/
def clBehind (s : State) (c : Coll) : Bool :=
  (s.net.colls.takeWhile (fun x => decide (x.id ≠ c.id))).any (fun x =>
    decide (x.at_ ≠ 3 ∧ clChan x.desc = clChan c.desc ∧ clRing s x = clRing s c ∧ (3 ≤ c.kind ↔ 3 ≤ x.kind) ∧ (3 ≤ c.kind → x.kind = c.kind)))

/-! ### Matching (21 R353, R357) -/

/-- The offer of member `m` that a command meets. Of SEND and RECV it is the oldest of the other kind on the channel; else the
oldest on the channel with the same ring, or one whose ring no command of this package has. -/
def offerOf (s : State) (c : Coll) (m : Nat) : Option (List Nat) :=
  let os := (s.net.offers.filter (fun o => decide (o.1 = m ∧ nth 0 o.2 1 = clChan c.desc))).map Prod.snd
  let ring := fun (o : List Nat) => o.drop 4
  if 3 ≤ c.kind then os.find? (fun o => decide (nth 0 o 0 = 7 - c.kind))
  else
    let os := os.filter (fun o => decide (nth 0 o 0 < 3))
    match os.find? (fun o => decide (ring o = c.ring)) with
    | some o => some o
    | none => os.find? (fun o => !s.net.colls.any (fun x => decide (x.at_ ≠ 3 ∧ x.kind < 3 ∧ clChan x.desc = clChan c.desc ∧ clRing s x = ring o)))

/-- Does an offer agree with a command? SEND and RECV agree in LEN. -/
def offerFits (c : Coll) (o : List Nat) : Bool := if 3 ≤ c.kind then decide (nth 0 o 2 = clLen c.desc) else decide (o = c.sig)

/-- The other members of a command. -/
def clOthers (s : State) (c : Coll) : List Nat := c.mates.filter (fun m => decide (3 ≤ c.kind ∨ m ≠ s.ctl.pkgNum))

/-- The engine's first packet of a running command: to the next member of the ring, or a SEND's message to its peer. -/
def clSend (c : Coll) (s : State) : State :=
  let s := putColl { c with at_ := 1 } s
  let nxt := if c.kind = 3 then some (clPeer c.desc)
    else if c.kind = 4 ∨ c.ring.length < 2 ∨ clLen c.desc = 0 then none else c.ring[(ringPos s c.ring + 1) % c.ring.length]?
  match nxt with
  | none => s
  | some p =>
    match deadDir s p with
    | some d => collOver c 6 (countDead d s)
    | none =>
      if c.kind = 3 then
        let key := p * 2 ^ 32 + clChan c.desc
        let n := mget 0 s.net.mailTo key
        sendPkt p (.mail c.id (clChan c.desc) n (clBytes s c (clSrc c.desc) (clLen c.desc)))
          (onNet (fun x => { x with mailTo := mset 0 x.mailTo key (n + 1) }) (netReads (whoNet c.team 0 false) (clPcs c.pages (clSrc c.desc) (clLen c.desc)) s))
      else sendPkt p (.coll c.id) s

/-- A command whose members have all issued theirs runs; where one differs in what the matching compares, it is over. -/
def clMatch (c : Coll) (s : State) : State :=
  let ms := clOthers s c
  let os := ms.filterMap (fun m => (offerOf s c m).map (fun o => (m, o)))
  if os.length < ms.length then s
  else
    let s := onNet (fun n => { n with offers := os.foldl (fun xs o => xs.erase o) n.offers }) s
    if os.all (fun o => offerFits c o.2) then clSend c s else collOver c 5 s

/-- A line of the pieces that no engine may write or read: a registered region's, a retired unit's. -/
def clGone (s : State) (wr : Bool) (ps : List (Nat × Nat)) : Bool :=
  ps.any (fun p => retired s p.1) || (wr && s.home.regions.any (fun r => pcsMeet (r.pcs s) (wholeLines ps)))

/-- A torn line among the pieces read. -/
def clTorn (s : State) (ps : List (Nat × Nat)) : Bool :=
  ps.any (fun p => (List.range (cdiv (p.1 % 64 + p.2) 64)).any (fun i => pairTorn s (p.1 / 64 * 64 + 64 * i)))

/-- Pieces of a command's source. -/
def clSourcePcs (c : Coll) : List (Nat × Nat × Nat) :=
  clPcs c.pages (clSrc c.desc) (if c.kind = 4 then 0 else if c.kind = 0 then c.ring.length * clLen c.desc else clLen c.desc)
def clSource (c : Coll) : List (Nat × Nat) := plainPcs (clSourcePcs c)

/-- The command `id` starts: it is offered to the other members, and runs once they have offered theirs; with `join` the offers
it waits for are looked at again. -/
def execCollectiveStart (id : Nat) (join : Bool) (s : State) : Out :=
  .next (match collAt s id with
    | none => s
    | some c =>
      if join then (if c.at_ = 4 then clMatch c s else s)
      else if c.at_ ≠ 0 ∨ clBehind s c = true then s
      else
        let c := { c with ring := clRing s c }
        let src := clSource c
        if (c.kind < 3 && ringBad s c.ring) || (c.kind = 3 && (clGone s false src || clTorn s src)) then collOver c 3 s
        else
          match (clOthers s c).findSome? (deadDir s) with
          | some d => collOver c 6 (countDead d s)
          | none =>
            let c := { c with at_ := 4 }
            let s := if c.kind < 3 ∧ clRk c.desc = 0 then netReads (whoNet c.team 0 false) (clPcs c.pages (clRlist c.desc) (2 * clP s c.desc)) s else s
            clMatch c ((clOthers s c).foldl (fun s m => sendPkt m (.offer c.id c.sig) s) (putColl c s)))

/-- A member abandons a command (21 R361): those of this package that it had joined, or would have, are over. -/
def clAbandon (src : Nat) (sig : List Nat) (s : State) : State :=
  let k := nth 0 sig 0
  let s := onNet (fun n => { n with offers := n.offers.erase (src, sig) }) s
  match s.net.colls.find? (fun c => decide (c.at_ ≠ 3 ∧ clChan c.desc = nth 0 sig 1) &&
      (if 3 ≤ k then decide (c.kind = 7 - k ∧ clPeer c.desc = src) else decide (c.kind < 3) && decide (clRing s c = sig.drop 4))) with
  | some c => collOver c 3 s
  | none => s

/-- A failure or a refusal reaches the commands that sent a packet. -/
def clFail (p : Coll → Bool) (st : Nat) (s : State) : State :=
  (s.net.colls.filter (fun c => p c && decide (c.at_ ≠ 3))).foldl (fun s c => collOver c st s) s

/-- The message of a SEND of another package, met by the oldest RECV that its command matched: the answer, or none while there
is no such RECV. -/
def clMail (src chan num : Nat) (data : List Byte) (s : State) : Option (Nat × State) :=
  let key := src * 2 ^ 32 + chan
  if num < mget 0 s.net.mailFrom key then some (0, s)
  else
    (s.net.colls.find? (fun c => decide (c.kind = 4 ∧ c.at_ = 1 ∧ clPeer c.desc = src ∧ clChan c.desc = chan ∧ c.data = none ∧
        clLen c.desc = data.length))).map (fun c =>
      (0, putColl { c with data := some data } (onNet (fun n => { n with mailFrom := mset 0 n.mailFrom key (num + 1) }) s)))

/-! ### What a command delivers (21 R354–R357) -/

/-- One element summed in ring order, the own term last. -/
def sumElem (int : Bool) (xs : List W32) : W32 × Flags5 := combineAt (if int then 2 else 1) 0 (xs.map (fun x => (x, 0)))

/-- Shards summed element by element. -/
def sumShards (int : Bool) (n : Nat) (xs : List (List Byte)) : List Byte × Flags5 :=
  (List.range (n / 4)).foldl (fun (a : List Byte × Flags5) e =>
    let r := sumElem int (xs.map (fun x => BitVec.ofNat 32 (leAt x (4 * e) 4)))
    (a.1 ++ leBytes 4 r.1.toNat, a.2 ||| r.2)) ([], flNone)

/-- `n` slices of `z` bytes. -/
def slices (z n : Nat) (b : List Byte) : List (List Byte) := (List.range n).map (fun i => (b.drop (z * i)).take z)

/-- A delivery: offset in DST, bytes, package it came from. -/
abbrev Deliv := Nat × List Byte × Nat

/-- Bytes the other members give a command: of RSCAT, each member's terms of the own shard, in ring order from the next
member; of AGATH, their shards in order of position; of ARED, terms and then reduced shards; of RECV, the message. -/
def clRemote (c : Coll) : Nat :=
  let p := c.ring.length
  let z := clLen c.desc
  if c.kind = 0 ∨ c.kind = 1 then (p - 1) * z else if c.kind = 2 then 2 * ((p - 1) * (z / p)) else if c.kind = 4 then z else 0

/-- Shards of every position, the own one put at `q`. -/
def withOwn (q : Nat) (own : List Byte) (others : List (List Byte)) : List (List Byte) := others.take q ++ own :: others.drop q

/-- What a command delivers, and the flags of its reduction. -/
def clDeliver (s : State) (c : Coll) (remote : List Byte) : List Deliv × Flags5 :=
  let p := c.ring.length
  let q := ringPos s c.ring
  let z := clLen c.desc
  let prev := nth 0 c.ring ((q + p - 1) % p)
  let int := decide (clDt c.desc = 1)
  if c.kind = 0 then
    let (b, f) := sumShards int z (slices z (p - 1) remote ++ [clBytes s c (clSrc c.desc + q * z) z])
    ([(0, b, prev)], f)
  else if c.kind = 1 then
    let xs := withOwn q (clBytes s c (clSrc c.desc) z) (slices z (p - 1) remote)
    ((List.range p).map (fun j => (j * z, nth [] xs j, nth 0 c.ring j)), flNone)
  else if c.kind = 2 then
    let y := z / p
    let (b, f) := sumShards int y (slices y (p - 1) remote ++ [clBytes s c (clSrc c.desc + q * y) y])
    let xs := withOwn q b (slices y (p - 1) (remote.drop ((p - 1) * y)))
    ((List.range p).map (fun j => (j * y, nth [] xs j, if j = q then prev else nth 0 c.ring j)), f)
  else if c.kind = 4 then ([(0, remote, clPeer c.desc)], flNone)
  else ([], flNone)

/-- A delivery notice (21 Table 21-4). -/
def clNotice (c : Coll) (src bytes : Nat) : List Byte :=
  leBytes 4 (clChan c.desc) ++ leBytes 2 src ++ leBytes 2 0 ++ leBytes 8 bytes ++ List.replicate 48 0

/-- Notices of deliveries, where the command asks for them. -/
def clNotes (c : Coll) (ds : List Deliv) : List (List Byte) :=
  if clNq c.desc = 0 then [] else ds.map (fun d => clNotice c d.2.2 d.2.1.length)

/-- Has the task that issued a command a measurement pass open (24 R387)? -/
def taskMeasured (s : State) (team slot : Nat) : Bool :=
  (liveCores s).any (fun p => p.2.pm.open_ && (match p.2.task.cont with | some k => decide (k.team = team ∧ k.ctx = slot) | none => false)) ||
  (decide ((slotAt s slot).team = team) && (match (slotAt s slot).ctx with | some c => c.pm.open_ | none => false))

/-- The deliveries written and published, and the objects released that the engine holds meanwhile. -/
def clWrite (c : Coll) (ds : List Deliv) (os : List Obj) (s : State) : State :=
  let w : Who := { whoNet c.team 0 (taskMeasured s c.team c.slot) with key := collHolder c.id }
  let s := ds.foldl (fun s d => netPut w (clPcs c.pages (clDst c.desc + d.1) d.2.1.length) d.2.1 s) s
  os.foldl (fun s o => engRel (collHolder c.id) w.key w.meas o s) s

/-! ### Notices and the record (21 R358, R359) -/

/-- The record of a command. -/
def clRecord (c : Coll) : Word :=
  wd (8 * 2 ^ 60 + c.tag % 256 * 2 ^ 52 + c.status % 16 * 2 ^ 48 + c.flags.toNat * 2 ^ 43 + c.bytes % 2 ^ 43)

/-- A command that is over pushes its notices, oldest first, and posts its record when none is left. A queue of another package is
sent a notice, and answers. -/
def clFinish : Nat → Coll → State → State
  | 0, _, s => s
  | k + 1, c, s =>
    match c.notes with
    | [] =>
      let s := onNet (fun n => { n with colls := n.colls.filter (fun x => decide (x.id ≠ c.id)) }) s
      let s := onCoreAt c.core (fun x => { x with cm := { x.cm with colOut := x.cm.colOut - 1 } }) s
      postTo c.team c.slot (clRecord c) s
    | b :: r =>
      let h := hndOf (clNq c.desc)
      let c' := { c with notes := r }
      let asid := teamAsid s c.team
      if h.ok && decide (h.pkg ≠ s.ctl.pkgNum) then
        (if inFlight s (fun q => match q with | .push (.coll i) _ _ => decide (i = c.id) | _ => false) then s
         else match deadDir s h.pkg with
           | some d => countDead d s
           | none => sendPkt h.pkg (.push (.coll c.id) (clNq c.desc).toNat (askerBytes c.sup asid ++ b)) s)
      else
        let (st, t) := if h.ok then qPush ⟨c.sup, asid⟩ h b s else (qSTALE, s)
        if st = qFULL then s
        else if st = qOK then clFinish k c' (putColl c' t)
        else clFinish k c' (putColl c' (ctlEvent 3 (clChan c.desc) st s))

def clOver (c : Coll) (s : State) : State := clFinish (c.notes.length + 1) c s

/-- The answer of another package to a command's notice: FULL has it pushed again. -/
def clNoticeAnswer (id st : Nat) (s : State) : State :=
  match collAt s id with
  | none => s
  | some c =>
    if st = qFULL ∨ c.at_ ≠ 3 then s
    else
      let c := { c with notes := c.notes.drop 1 }
      clOver c (putColl c (if st = qOK then s else ctlEvent 3 (clChan c.desc) st s))

/-- A shard delivered to the region whose record is at DST (21 R356). -/
def clRegion (c : Coll) (b : List Byte) (fl : Flags5) (s : State) : State :=
  let q := ringPos s c.ring
  let p := c.ring.length
  let a := (nth (0, 0, 0) (clPcs c.pages (clDst c.desc) 1) 0).1
  let rec_ := (s.home.regions.find? (fun r => decide (r.rec_ = a))).map Region.rec_
  let prev := nth 0 c.ring ((q + p - 1) % p)
  let x : Arr := { Arr.blank rec_ with coll := some c.id, data := some b, blk0 := leAt c.desc 0x30 4 + q * clNblk c.desc,
                                       nblk := clNblk c.desc, seq := leAt c.desc 0x38 4, src := prev }
  let notes := if clNq c.desc = 0 then [] else [clNotice c prev b.length]
  if arrFull s rec_ then s
  else onHome (fun h => { h with arrivals := h.arrivals ++ [x] }) (putColl { c with at_ := 2, flags := fl, notes := notes } s)

/-- Must a delivery wait for room in a shadow store, with a line bound to no object (13 R244)? -/
def netWaits (s : State) (key : Nat) (ps : List (Nat × Nat)) : Bool :=
  ps.any (fun p => !shadowRoom s ⟨key, none, false, 0, true⟩ p.1 &&
    (List.range (cdiv (p.1 % 64 + p.2) 64)).any (fun i => (boundTo s (lineOf p.1 + 64 * i)).isNone))

/-- A command's deliveries written once the engine holds every object of the destination. One whose object's instance does not
hold the engine is refused (DESIGN CHOICE, log 134). -/
def clPublish (c : Coll) (ds : List Deliv) (fl : Flags5) (s : State) : State :=
  let ps := plainPcs (ds.flatMap (fun d => clPcs c.pages (clDst c.desc + d.1) d.2.1.length))
  let os := objsOver s ps
  if clGone s true ps || os.any (fun o => !engineIn s none o) then collOver c 3 s
  else
    match engAcqAll (collHolder c.id) os s with
    | (false, s) => s
    | (true, s) =>
      if netWaits s (collHolder c.id) ps then s else
      let c' := { c with at_ := 3, status := 0, flags := fl, bytes := (ds.map (fun d => d.2.1.length)).sum, notes := clNotes c ds }
      clOver c' (putColl c' (clWrite c ds (os.map (fun o => (objAt s o.line).getD o)) s))

/-- A command with what the other members gave it is delivered; a SEND waits for its peer's answer, a RECV for the message. -/
def clRun (c : Coll) (remote : List Byte) (s : State) : State :=
  let remote := if c.kind = 4 then c.data.getD [] else remote
  if inFlight s (fun q => match q with | .coll k => decide (k = c.id) | _ => false) || decide (remote.length ≠ clRemote c ∨ c.kind = 3) then s
  else
    let src := clSource c
    if clGone s false src || clTorn s src then collOver c 3 s
    else if clLen c.desc = 0 then let c := { c with at_ := 3, status := 1 }; clOver c (putColl c s)
    else
      let (ds, fl) := clDeliver s c remote
      let s := netReads (whoNet c.team 0 false) (clSourcePcs c) s
      if clDopt c.desc then clRegion c ((ds.map (fun d => d.2.1)).flatten) fl s else clPublish c ds fl s

/-- The command `id` completes: `remote` is what the other members gave it. One that is over posts its record. -/
def execCollectiveCompletion (id : Nat) (remote : List Byte) (s : State) : Out :=
  .next (match collAt s id with
    | none => s
    | some c =>
      if c.at_ = 1 then clRun c remote s
      else if c.at_ = 3 then clOver (if c.status = 0 then c else { c with notes := [] }) s
      else s)

/-! ### Notices pushed again (08 R166, 16 R280, 21 R358) -/

/-- The notice pushed again: 0 the distributor's oldest, 1 the copy engine's of the core in focus, 2 + k a command's of the
collective engine. -/
def execNoticePushRetry (which : Nat) (s : State) : Out :=
  .next (if which = 0 then retryNotif s
    else if which = 1 then retryCopyNotice s
    else match collAt s (which - 2) with
      | some c => if c.at_ = 3 ∧ c.notes ≠ [] then clOver c s else s
      | none => s)

end Sys2Proof.Machine
end

