-- ==== Sys2Proof/Machine/Fetch.lean ====
section
/-!
DEFINITION. Machine/Fetch.lean: fetching words of code through a core's instruction path (03 R55, R59, 04 R87).
-/
namespace Sys2Proof.Machine

/-- A fetched line of code, a fault's cause, detail and address, or nothing yet: the line comes from another package (12 R222). -/
inductive Fetched where
  | ok (l : List Byte)
  | bad (cause detail : Nat) (fa : Word)
  | wait
  deriving DecidableEq, Repr

/-- The line as the path brings it: a kept copy that differs from memory is the old contents or the new. A line the path
has not kept comes from the L2 with its new contents (DESIGN CHOICE, log 7: the rule allows the old ones too). -/
def pathFill (cls a : Nat) (s : State) : List Byte × State :=
  let now := memBytes s.mem a 64
  let keep := fun s => l2Touch (whoCore s.core cls) false a (onCore (fun c => { c with path := { lines := mput c.path.lines a now } }) s)
  match mfind? s.core.path.lines a with
  | none => (now, keep s)
  | some old =>
    if old = now then (old, s)
    else
      let (d, s) := draw s
      if Config.freeBool d then (old, s) else (now, keep s)

/-- The line at a home of this package: through the path, or, behind a leaf with REM = 1, from its home and kept nowhere
(12 R222). -/
def codeLine (far : Bool) (cls a : Nat) (s : State) : List Byte × State :=
  if far then (memBytes s.mem a 64, l2Touch (whoCore s.core cls) false a (onCore (pmAdd 0x30 1) s)) else pathFill cls a s

/-- The word at an address of a line. -/
def wordIn (a : Nat) (l : List Byte) : W32 := BitVec.ofNat 32 (leNat ((l.drop (a % 64)).take 4))

/-- The line of code that holds a virtual address. A line of another package is asked for as a load is; where that fails, the fetch
faults with LINK (DESIGN CHOICE, log 132: 21 R348 names no fetch). -/
def fetchLine (va : Word) (s : State) : Fetched × State :=
  match transCore .fetch va s with
  | (.bad c d fa, s) => (.bad c d fa, s)
  | (.ok a e, s) =>
    let l := lineOf a
    if isReg a then (.bad cPROT 4 va, s)
    else if retired s a then (.bad cMEMERR 1 va, s)
    else
      match mfind? s.core.iss.got l with
      | some x => (.ok x, s)
      | none =>
        if pkgOf a = s.ctl.pkgNum then
          let (x, s) := codeLine (Tr.ok a e).rem (leafCls e) l s
          (.ok x, gotLine l x s)
        else
          match askFar (pkgOf a) (leafCls e) 0 l [64] s with
          | (.got r, s) => (.ok (leBytes 64 r), gotLine l (leBytes 64 r) s)
          | (.failed, s) => (.bad cLINK 0 va, s)
          | (.wait, s) => (.wait, s)

/-- Bytes of a bundle from its header (03 R41). -/
def bundleLen (h : W32) : Nat := 4 + 4 * popN 14 h.toNat

/-- The address after a bundle. -/
def seqOf (pc : Word) (h : W32) : Word := pc + wd (bundleLen h)

/-- Does a loop's body contain an address (04 R86)? -/
def LoopEnt.has (l : LoopEnt) (a : Word) : Bool := decide (l.first ≤ a) && decide (a ≤ l.last)

/-- A word of code, or why there is none. -/
inductive WordGot where
  | ok (w : W32)
  | bad (cause detail : Nat) (fa : Word)
  | wait
  deriving DecidableEq, Repr

/-- A word of a bundle at `pc`: in a line that an active loop whose body holds the bundle has kept (04 R87), so that a line is one and
the same for every bundle of the body (03 R59); or in one that is fetched and kept there. -/
def fetchCode (pc va : Word) (s : State) : WordGot × State :=
  match (s.core.sc.loops.filterMap (fun l => if l.has pc then mfind? l.code (va.toNat / 64) else none)).head? with
  | some x => (.ok (wordIn va.toNat x), s)
  | none =>
    match fetchLine va s with
    | (.ok x, s) =>
      (.ok (wordIn va.toNat x), onSc (fun c => { c with loops := c.loops.map (fun l =>
        if l.has pc then { l with code := mput l.code (va.toNat / 64) x } else l) }) s)
    | (.bad c d fa, s) => (.bad c d fa, s)
    | (.wait, s) => (.wait, s)

/-- The slot words of a bundle, or why there are none. -/
inductive SlotsGot where
  | ok (ws : List (Nat × W32))
  | bad (cause detail : Nat) (fa : Word)
  | wait
  deriving DecidableEq, Repr

/-- The slot words of a bundle in ascending order from slot `j`: (slot, word). -/
def fetchSlots (pc : Word) (h : W32) : Nat → Nat → Word → List (Nat × W32) → State → SlotsGot × State
  | 0, _, _, ws, s => (.ok ws.reverse, s)
  | k + 1, j, va, ws, s =>
    if bitAt h j then
      match fetchCode pc va s with
      | (.ok w, s) => fetchSlots pc h k (j + 1) (va + 4) ((j, w) :: ws) s
      | (.bad c d fa, s) => (.bad c d fa, s)
      | (.wait, s) => (.wait, s)
    else fetchSlots pc h k (j + 1) va ws s

/-- The last of the bundles of a body, its header, and the addresses of them all in order; or why they are not known (04 R84). -/
inductive BodyEnd where
  | ok (last : Word) (h : W32) (starts : List Word)
  | tooLong
  | bad (cause detail : Nat) (fa : Word)
  | wait
  deriving DecidableEq, Repr

/-- The last bundle of a body of `n + 1` bundles that starts at `a`, after those in `pre`; `lim` is the enclosing body's last bundle. The
headers come as those of any bundle do: a later iteration of an enclosing body has kept them (04 R87). -/
def bodyEnd (lim : Option Word) (pre : List Word) : Nat → Word → State → BodyEnd × State
  | n, a, s =>
    match fetchCode a a s with
    | (.bad c d fa, s) => (.bad c d fa, s)
    | (.wait, s) => (.wait, s)
    | (.ok h, s) =>
      match n with
      | 0 => (.ok a h (pre ++ [a]), s)
      | m + 1 => if lim = some a then (.tooLong, s) else bodyEnd lim (pre ++ [a]) m (seqOf a h) s

end Sys2Proof.Machine
end

