-- ==== Sys2Proof/Machine/Control.lean ====
section
/-!
DEFINITION. Machine/Control.lean: control transfers, loops and the timing mode, slot 0 (04 R82–R89, 06 R126).
-/
namespace Sys2Proof.Machine

def setNpc (a : Word) : State → State := onIss (fun i => { i with npc := a })
def setLoops (ls : List LoopEnt) : State → State := onSc (fun c => { c with loops := ls })
def setLc (k : Nat) (x : Word) : State → State := onSc (fun c => { c with lc := mset 0 c.lc k x })

/-- MODE once the entry at depth `d` has left the loop stack (06 R126): the switched loop's exit restores TM. -/
def modeAfterPop (d : Nat) (m : BitVec 8) : BitVec 8 :=
  if bitAt m 3 && decide (fld m 6 4 = d) then (m &&& 0x06) ||| (if bitAt m 7 then 1 else 0) else m

/-- The entry at depth `d` left the stack: a switched loop restores its mode from the next bundle. -/
def popMode (d : Nat) (s : State) : State :=
  let m := modeNext s
  if modeAfterPop d m = m then s else emit 1 (.mode (modeAfterPop d m)) s

/-- The end step of an iteration for the bundle at `x` (04 R85): innermost first, `pre` the entries kept so far. -/
def endGo (x : Word) : List LoopEnt → List LoopEnt → State → State
  | _, [], s => s
  | pre, l :: r, s =>
    if l.last = x then
      if 1 < (rdLc s l.k).toNat then setNpc l.first (setLc l.k (rdLc s l.k - 1) (cntEv 0x11 1 s))
      else endGo x pre r (popMode (r.length + 1) (setLoops (pre.reverse ++ r) (setLc l.k 0 s)))
    else endGo x (l :: pre) r s

/-- The end steps for the bundle address `x`. -/
def endSteps (x : Word) (s : State) : State := endGo x [] s.core.sc.loops s

/-- Loops a taken transfer to `t` ends (04 R86), innermost first, up to the first body that contains the target. -/
def exitGo (t : Word) : List LoopEnt → State → State
  | [], s => s
  | l :: r, s => if l.has t then s else exitGo t r (popMode (r.length + 1) (setLoops r s))

def exitLoops (t : Word) (s : State) : State := exitGo t s.core.sc.loops s

/-- Is the bundle in progress the last of an active body (04 R85)? -/
def inLastBundle (s : State) : Bool := s.core.sc.loops.any (fun l => l.last = s.core.iss.pc)

/-- A taken transfer to `t` (04 R83), counted (24 Table 24-2). -/
def transfer (t : Word) (s : State) : State :=
  exitLoops t (cntEv 0x10 1 (onIss (fun i => { i with npc := t, taken := true }) s))

/-- A control transfer: in a body's last bundle ILLOP (04 R85). -/
def xfer (g n : Nat) (f : State → State) (s : State) : Out := slotDo g n (need (!inLastBundle s) f) s

/-- A transfer to a register's address: ALIGN when it is not a multiple of 4 (04 R83). -/
def indirect (t : Word) (f : State → State) (s : State) : State :=
  if t.toNat % 4 ≠ 0 then trap cALIGN 0 t s else transfer t (f s)

/-- The return address written to a14. -/
def linkA14 (s : State) : State := emit 1 (.a 14 s.core.iss.seq) s

def execBr (g n disp : Nat) (s : State) : Out := xfer g n (transfer (brTarget s disp)) s
def execCall (g n disp : Nat) (s : State) : Out := xfer g n (fun s => transfer (brTarget s disp) (linkA14 s)) s
def execJmp (g n a : Nat) (s : State) : Out := xfer g n (indirect (rdA s a) id) s
def execCallr (g n a : Nat) (s : State) : Out := xfer g n (indirect (rdA s a) linkA14) s
def execRet (g n : Nat) (s : State) : Out := xfer g n (indirect (rdA s 14) id) s

/-- MODE after a LOOP that starts a body at depth `d` (06 R126). -/
def modeAtLoop (d : Nat) (m : BitVec 8) : BitVec 8 :=
  if bitAt m 1 then BitVec.ofNat 8 (b2n (bitAt m 2) + 8 + 16 * d + 128 * b2n (bitAt m 0)) else m

/-- LOOP with its checks of step 4 passed and the body's last bundle found (04 R84). -/
def startLoop (k : Nat) (cnt : Word) (first last : Word) (h : W32) (starts : List Word) (s : State) : State :=
  let s0 := setLc k cnt s
  if cnt = 0 then
    let t := seqOf last h
    endSteps last (cntEv 0x10 1 (onIss (fun i => { i with npc := t, taken := true }) s0))
  else
    let d := s.core.sc.loops.length + 1
    let s := setLoops (⟨k, first, last, starts.length, [], starts⟩ :: s.core.sc.loops) s0
    if bitAt (modeNext s) 1 then emit 1 (.mode (modeAtLoop d (modeNext s))) s else s

/-- Bundles of the innermost enclosing body that follow the bundle in progress; none is given where no loop is active, and those beyond
its address where that is no bundle's start. -/
def remaining (s : State) : Option Nat :=
  s.core.sc.loops.head?.map (fun l => (l.starts.filter (fun a => decide (s.core.iss.pc < a))).length)

/-- LOOP (04 R84, 06 R126). -/
def execLoop (g n d a i : Nat) (s : State) : Out :=
  slotDo g n (fun s =>
    let ls := s.core.sc.loops
    let cnt := rdS s a
    let lim := ls.head?.map LoopEnt.last
    if ls.any (fun l => l.k = d) || lim = some s.core.iss.pc || inLastBundle s ||
        (remaining s).any (fun k => decide (k < (imm10n s i))) || (cnt ≠ 0 && bitAt (modeNext s) 1 && bitAt (modeNext s) 3) then illop s
    else
      let n := imm10n s i
      let first := s.core.iss.seq
      match bodyEnd lim [] (n - 1) first s with
      | (.tooLong, s) => illop s
      | (.bad c dt fa, s) => trap c dt fa s
      | (.wait, s) => hold 0x33 s
      | (.ok last h starts, s) => startLoop d cnt first last h starts s) s

def execMtlc (g n d a : Nat) (s : State) : Out := slotDo g n (setLc d (rdS s a)) s
def execMflc (g n d a : Nat) (s : State) : Out := retS g n 1 d (rdLc s a) s

/-- LMODE m (04 R89): the mode from the next bundle, an armed switch cancelled; m = 0 is ILLOP on a control core (25 R392). -/
def execLmode (g n m : Nat) (s : State) : Out :=
  slotDo g n (fun s =>
    if s.core.ctl then need (decide (m = 1)) id s
    else emit 1 (.mode ((modeNext s &&& 0xF8) ||| BitVec.ofNat 8 (m % 2))) s) s

/-- LMODE.L m (04 R89): a switch armed for the next LOOP. -/
def execLmodeL (g n m : Nat) (s : State) : Out :=
  slotDo g n (fun s =>
    if s.core.ctl then need (decide (m = 1)) id s
    else emit 1 (.mode ((modeNext s &&& 0xF9) ||| BitVec.ofNat 8 (2 + 4 * (m % 2)))) s) s

end Sys2Proof.Machine
end

