-- ==== Sys2Proof/Machine/Issue.lean ====
section
/-!
DEFINITION. Machine/Issue.lean: the issue of a bundle (03 R60): what the boundary before it takes, the fetch of its words,
the holds of interlocked mode, its slots in order through the meaning `ex` of an instruction, and what ends it.
-/
namespace Sys2Proof.Machine

/-! ### Fetch (03 R40–R42, R55) -/

/-- Held cycles counted and passed. -/
def holdFor (k ev : Nat) (s : State) : State :=
  if k = 0 then s
  else
    let s := onCore (pmAdd 0x33 k) s
    pass k (if ev = 0x33 then s else onCore (pmAdd ev k) s)

/-- A fetch has not returned: an exposed core freezes (06 R118), an interlocked one is held. -/
def fetchWait (s : State) : State := if exposed s then freeze 1 s else holdFor 1 0x33 s

/-- The bundle in progress, where its lower slots have committed. -/
def waitingPart (s : State) : Option Part := s.core.iss.parts.find? (fun p => decide (p.pl = s.core.x.pl ∧ p.pc = s.core.iss.pc))

/-- The header is known: the rest of the bundle is fetched, or a header fault is raised. Of the two, an illegal header or a
class the core does not decode comes before a fetch fault on a slot word (for VB so in 03 R60; for the classes of a control
core DESIGN CHOICE, log 126: the spec gives no order). -/
def fetchRest (pc : Word) (h : W32) (s : State) : State :=
  let s := onIss (fun i => { i with hdr := h, seq := seqOf pc h }) s
  if bitAt h 15 && fld h 11 4 ≠ 1 then headerFault cILLOP 0 pc s
  else if s.core.ctl && fld h 13 4 ≠ 0 then headerFault cILLOP 0 pc s
  else
    match fetchSlots pc h 14 0 (pc + 4) [] s with
    | (.bad c d fa, s) => headerFault c d fa s
    | (.wait, s) => fetchWait s
    | (.ok ws, s) =>
      onIss (fun i => match waitingPart s with
        | some p => { i with words := ws, busy := true, npc := p.npc, taken := p.taken, cnt := p.cnt }
        | none => { i with words := ws, busy := true, npc := if i.from_ = 0 then i.seq else s.core.x.xnpc }) s

/-- The bundle at which the core continues is fetched and made the bundle in progress. Lines fetched for it stay its own while
it waits (03 R59). -/
def fetchBundle (s : State) : State :=
  let pc := s.core.iss.npc
  let s := onIss (fun i => { i with pc := pc, hdr := 0, words := [], seq := pc, slot := 14, busy := false, trapped := false,
                                    held := none, taken := false, cnt := [], roll := none,
                                    got := if i.wait = 0 ∧ s.core.cm.rem = none then [] else i.got, qs := [], early := none, split := false,
                                    parts := i.parts.filter (fun p => decide (p.pl = s.core.x.pl → p.pc = pc)) }) s
  match hitAt s 14 with
  | some e => meetError e s
  | none =>
  match fetchCode pc pc s with
  | (.bad c d fa, s) => headerFault c d fa s
  | (.wait, s) => fetchWait s
  | (.ok h, s) => fetchRest pc h s

/-- Has a home of another package still to answer the core's re-home message, or to deliver what it held for the continuation (19
R331)? -/
def homing (s : State) : Bool :=
  decide (0 < s.core.cm.due) || inFlight s (fun r => match r with
    | .tell k kd _ d => decide (k = s.focus ∧ kd = kHome) && decide (d[8]? = some 1)
    | _ => false)

/-- Is a status of OPTCTL still to come from its home (14 R255)? Nothing that waits for results issued goes on meanwhile. -/
def unanswered (s : State) : Bool := !s.core.cm.ans.isEmpty

/-- A cycle in which the core waits for such a status. -/
def waitAnswer (s : State) : State := onIss (fun i => { i with busy := false }) (fetchWait s)

/-- The first part of a bundle's issue (03 R60): the boundary's item, or the fetch. A core that runs nothing lets a cycle
pass. -/
def execIssueBundle (s : State) : Out :=
  if s.ctl.halted then .fault .halted
  else if s.core.st = .run ∨ s.core.st = .handler then
    if homing s then .next (onIss (fun i => { i with busy := false }) (pass 1 s)) else
    if exposed s && unanswered s then .next (waitAnswer s) else
    match lookOut s with
    | some t => .next (if unanswered s then waitAnswer s else onIss (fun i => { i with busy := false }) t)
    | none => let t := fetchBundle s; .next (if t.core.iss.trapped && unanswered s then waitAnswer s else t)
  else .next (onIss (fun i => { i with busy := false }) (pass 1 s))

noncomputable section

/-! ### Registers a slot names (03 R48, R54, 06 R121) -/

/-- A register: file (0 s, 1 a, 2 p, 7 v, 8 m), cluster, number. -/
abbrev RegId := Nat × Nat × Nat

/-- One register of a file; files no lower slot can write, and s0, p0 and m0, are left out (03 R54). -/
def regIn (f : RFile) (cl n : Nat) : List RegId :=
  match f with
  | .s => if n = 0 then [] else [(0, 0, n)]
  | .a => [(1, 0, n)]
  | .p => if n = 0 then [] else [(2, 0, n)]
  | .v => [(7, cl, n)]
  | .m => if n = 0 then [] else [(8, cl, n)]
  | _ => []

/-- Cluster distance of an XCOPY source. -/
def ringK (limm : Nat) : Instr → Nat
  | .xcopy _ _ _ _ i => immBits limm i % 8
  | _ => 0

/-- Registers read by explicit fields and the guard, in one cluster. A field that names several registers in a row (s[b+1] of
BIND, s[M+1] of TMAP) reads all of them (DESIGN CHOICE, log 126: 03 R54 does not say). -/
def readsIn (limm cl : Nat) (i : Instr) : List RegId :=
  i.ops.flatMap (fun o => match o.role with
    | .gp => regIn .p 0 o.val
    | .gm => regIn .m cl o.val
    | .rd f | .rw f => regIn f cl o.val
    | .va | .vb => regIn .v cl o.val
    | .vx => regIn .v ((cl + ringK limm i) % 8) o.val
    | .areg => regIn .a 0 o.val
    | .span f k => (List.range k).flatMap (fun j => regIn f cl (o.val + j))
    | _ => [])

/-- Registers read though no field names them: RET's a14, and p1 to p7 of PRD (04 R78, R83). -/
def alsoReads : Instr → List RegId
  | .ret _ _ => [(1, 0, 14)]
  | .prd _ _ _ => (List.range 7).map (fun k => (2, 0, k + 1))
  | _ => []

/-- Registers written by explicit fields, in one cluster; PWR writes p1 to p7 (04 R78). -/
def writesIn (cl : Nat) (i : Instr) : List RegId :=
  i.ops.flatMap (fun o => match o.role with
    | .wr f | .rw f => regIn f cl o.val
    | _ => []) ++
  (match i with | .pwr _ _ _ => (List.range 7).map (fun k => (2, 0, k + 1)) | _ => [])

/-- Implicit register results: the return address of CALL and CALLR (04 R83). -/
def alsoWrites : Instr → List RegId
  | .call _ _ _ | .callr _ _ _ => [(1, 0, 14)]
  | _ => []

/-- Clusters of a slot. -/
def slotClusters (h : W32) (j : Nat) : List Nat := if bitAt h 15 then List.range 8 else [j - 4]
def slotReads (h : W32) (j : Nat) (i : Instr) : List RegId := (slotClusters h j).flatMap (fun c => readsIn (fld h 31 16) c i)
def slotWrites (h : W32) (j : Nat) (i : Instr) : List RegId := (slotClusters h j).flatMap (fun c => writesIn c i)

/-- Registers a result in flight will write. -/
def Land.regs : Land → List RegId
  | .s r _ => [(0, 0, r)]
  | .a r _ => [(1, 0, r)]
  | .p w _ => (List.range 8).filterMap (fun k => if bitAt w k then some (2, 0, k) else none)
  | .v c r _ _ => [(7, c, r)]
  | .m c r _ _ => [(8, c, r)]
  | _ => []

/-! ### Bank ports (06 R122, R123) -/

/-- A slot with its decoded word. -/
abbrev Slot := Nat × Option Instr

/-- Is a held operand served by its latch (03 R46)? -/
def latchHit (s : State) (cl pos reg : Nat) : Bool :=
  match mfind? s.core.vec.latch (2 * cl + pos) with
  | some l => l.valid && decide (l.reg = reg)
  | none => false

/-- Hold bits of a word. -/
def holdBits (i : Instr) : Bool × Bool :=
  i.ops.foldl (fun h o => match o.role with | .ha => (decide (o.val = 1), h.2) | .hb => (h.1, decide (o.val = 1)) | _ => h)
    (false, false)

/-- Latched vector operands of a word in one cluster: (position, source cluster, register). -/
def latchOps (limm cl : Nat) (i : Instr) : List (Nat × Nat × Nat) :=
  i.ops.filterMap (fun o => match o.role with
    | .va => some (0, cl, o.val)
    | .vb => some (1, cl, o.val)
    | .vx => some (0, (cl + ringK limm i) % 8, o.val)
    | _ => none)

/-- Bank reads of a word in one cluster, positions a, b, c: (source cluster, register), each register once. -/
def bankReads (s : State) (limm cl : Nat) (i : Instr) : List (Nat × Nat) :=
  let (ha, hb) := holdBits i
  let ab := (latchOps limm cl i).filterMap (fun p =>
    if (if p.1 = 0 then ha else hb) && latchHit s cl p.1 (48 * p.2.1 + p.2.2) then none else some p.2)
  let c := i.ops.filterMap (fun o => match o.role with | .rw .v => some (cl, o.val) | _ => none)
  (ab ++ c).eraseDups

/-- Bank reads of a slot, in order: (executing cluster, source cluster, register). -/
def slotBankReads (s : State) (h : W32) (x : Slot) : List (Nat × Nat × Nat) :=
  match x.2 with
  | some i =>
    if 4 ≤ x.1 ∧ x.1 ≤ 11 then
      (slotClusters h x.1).flatMap (fun c => (bankReads s (fld h 31 16) c i).map (fun r => (c, r)))
    else []
  | none => []

/-- Two reads that want the same bank. -/
def sameBank (x y : Nat × Nat × Nat) : Bool := decide (x.2.1 = y.2.1 ∧ x.2.2 % 6 = y.2.2 % 6)

/-- Largest number of reads one bank serves. -/
def bankLoad (rs : List (Nat × Nat × Nat)) : Nat :=
  rs.foldl (fun m x => let k := (rs.filter (sameBank x)).length; if m < k then k else m) 0

/-- The executing cluster of the first read of a slot beyond a bank's two ports, after the reads before it. -/
def bankOver : List (Nat × Nat × Nat) → List (Nat × Nat × Nat) → Option Nat
  | _, [] => none
  | before, x :: r => if 2 ≤ (before.filter (sameBank x)).length then some x.1 else bankOver (before ++ [x]) r

/-! ### Holds of interlocked mode (06 R121, R123) -/

/-- Registers the slots read or write. -/
def slotRegs (h : W32) (xs : List Slot) : List RegId := xs.flatMap (fun x => match x.2 with
  | some i => slotReads h x.1 i ++ alsoReads i ++ slotWrites h x.1 i ++ alsoWrites i
  | none => [])

/-- Cycles until no register the slots read or write is in flight. -/
def regHold (s : State) (h : W32) (xs : List Slot) : Nat :=
  let rs := slotRegs h xs
  let due := s.core.pend.foldl (fun m p => if p.eff.regs.any (fun r => rs.contains r) && decide (m < p.due + 1) then p.due + 1 else m) s.core.now
  due - s.core.now

/-- A bundle with matrix or vector work, or one beside S12 commands in flight, marks the power controller's window of 1,000
cycles (25 R403). -/
def noteWork (xs : List Slot) (s : State) : State :=
  if xs.any (fun x => decide (4 ≤ x.1 ∧ x.1 ≤ 12)) || !s.core.mx.flight.isEmpty then
    onEv (fun e => { e with work := s.core.now / 1000 + 1 }) s
  else s

/-- Issue cycles withheld at this bundle, whatever it holds: a core with matrix or vector work in the window leaves out the last T
of every 64 (25 R403), from the first such work on (DEDUCED, log 126: nothing tells of it before). -/
def withheld (s : State) : Nat :=
  if s.core.ev.work = s.core.now / 1000 + 1 ∧ 64 - fld s.ctl.pwr 5 0 ≤ s.core.now % 64 then 64 - s.core.now % 64 else 0

/-- The power controller withholds issue. -/
def throttle (s : State) : State :=
  let k := withheld s
  if k = 0 then s else if exposed s then freezeAs 0x31 k s else pass k (onCore (pmAdd 0x31 k) s)

/-- The holds before a bundle's slots run; the power controller has the last word on the cycle. The banks serve a bundle's reads
once, however long it waits for other things (06 R123). -/
def issueHolds (h : W32) (xs : List Slot) (s : State) : State :=
  let s := noteWork xs s
  if exposed s then throttle s
  else
    let s := holdFor (regHold s h xs) 0x33 s
    throttle (if s.core.iss.wait = 0 then holdFor (cdiv (bankLoad (xs.flatMap (slotBankReads s h))) 2 - 1) 0x34 s else s)

/-! ### Checks of a slot before its meaning (03 R51, R54, R113; 04 R85) -/

/-- ILLOP at the slot in progress; a broadcast word names its lowest cluster. -/
def slotIllop (s : State) : State :=
  if 4 ≤ s.core.iss.slot ∧ s.core.iss.slot ≤ 11 then villop s else illop s

/-- Instructions that must stand alone in their bundle (19 R321, R333, 16 R283, 24 R384). -/
def aloneI : Instr → Bool
  | .xret _ _ | .ckpt _ _ _ | .susp _ _ _ _ | .suspK _ _ _ _ | .yield _ _ | .yieldK _ _ | .endTask _ _
  | .mbegin _ _ _ _ | .mend _ _ _ => true
  | _ => false

/-- Instructions no broadcast word may hold (05 R112, R115). -/
def noBroadcast : Instr → Bool
  | .vpld _ _ _ _ | .vext _ _ _ _ _ | .vm2s _ _ _ => true
  | _ => false

/-- Pattern bank a word uses, and whether it writes it (05 R113). -/
def patUse (limm : Nat) : Instr → Option (Nat × Bool)
  | .vpld _ _ _ i => some (immBits limm i % 64 / 32, true)
  | .vshuf _ _ _ _ i => some (immBits limm i % 64 / 32, false)
  | _ => none

/-- Do two words clash on a pattern bank's port? -/
def patClash : Option (Nat × Bool) → Option (Nat × Bool) → Bool
  | some (b, w), some (c, v) => decide (b = c) && (w || v)
  | _, _ => false

/-- Step 1 of 03 R52 for a decoded word, given the words of the lower slots of the bundle. -/
def step1 (h : W32) (lower : List Slot) (j : Nat) (i : Instr) : Bool :=
  let low := lower.filterMap (fun x => x.2.map (fun k => (x.1, k)))
  let ws := low.flatMap (fun x => slotWrites h x.1 x.2)
  !(slotReads h j i).any (fun r => ws.contains r) &&
  !(aloneI i && decide (popN 14 h.toNat ≠ 1)) && !(noBroadcast i && bitAt h 15) &&
  !low.any (fun x => patClash (patUse (fld h 31 16) x.2) (patUse (fld h 31 16) i))

/-- Latches after a word has read its operands (03 R46). -/
def setLatches (s0 : State) (h : W32) (j : Nat) (i : Instr) (s : State) : State :=
  if 4 ≤ j ∧ j ≤ 11 then
    (slotClusters h j).foldl (fun s c => (latchOps (fld h 31 16) c i).foldl (fun s p =>
      onVec (fun v => { v with latch := mput v.latch (2 * c + p.1) ⟨48 * p.2.1 + p.2.2, rdV s0 p.2.1 p.2.2, true⟩ }) s) s) s
  else s

/-! ### Write ports (06 R124) -/

/-- The cluster in which a result just issued lands in a bank's cycle that an earlier one has. An arithmetic word with no
active lane takes its write port all the same; a reduction, a vector load and a gather with none write nothing and take none
(DESIGN CHOICE, log 126: the spec does not say). -/
def writeClash (s t : State) : Option Nat :=
  let new := t.core.pend.filter (fun p => decide (p.born = s.core.now ∧ p.slot = t.core.iss.slot ∧ p.pc = t.core.iss.pc))
  (new.filterMap (fun p => match p.eff with
    | .v c r _ _ => if bankTaken s.core c r p.due then some c else none
    | _ => none)).head?

/-! ### Counting and ending a bundle -/

/-- The slot the bundle in progress starts with: the one that waits with those below it committed, or the one XRET names. -/
def firstSlot (s : State) : Nat := match waitingPart s with | some p => p.slot | none => s.core.iss.from_

/-- Must the bundle wait for a status that its home has not answered: does it touch the register, or leave the program? -/
def answerHold (s : State) (h : W32) (xs : List Slot) : Bool :=
  unanswered s && (s.core.cm.ans.any (fun a => (slotRegs h xs).contains (0, 0, a.1)) || xs.any (fun x => x.2.any aloneI))

/-- No bundle of a level waits in part. -/
def Iss.whole (pl : Bool) (i : Iss) : Iss := { i with parts := i.parts.filter (fun p => decide (p.pl ≠ pl)) }

/-- The bundle in progress is held: the state as it stood before its slots, with what the waiting slot registered; a
cycle passes. -/
def heldBundle (ev : Nat) (s : State) : State :=
  let s := onIss (fun i => { i with npc := i.pc, busy := false, held := none, cnt := [], qs := [], early := none, split := false,
                                    wait := if i.wait = 0 then 1 else i.wait }) s
  if exposed s then freeze 1 s else holdFor 1 ev s

/-- Is it a register result, which no slot of its own bundle sees (03 R54)? -/
def Land.isReg : Land → Bool
  | .st _ _ _ _ | .stw _ _ _ | .ack | .pp => false
  | _ => true

/-- Slot `j` waits for what slots below it did: they have committed in `t`, but their register results are those of the bundle, which
has not issued. -/
def heldPart (ev j : Nat) (pl : Bool) (t : State) : State :=
  let mine := fun (p : Pend) => decide (p.born = t.core.now ∧ p.pc = t.core.iss.pc) && p.eff.isReg
  let t := onCore (fun c =>
    { c with pend := c.pend.filter (fun p => !mine p),
             iss := { c.iss.whole pl with parts := ⟨c.iss.pc, pl, j, c.iss.npc, c.iss.taken, c.iss.cnt, c.pend.filter mine⟩ ::
                        (c.iss.whole pl).parts } }) t
  heldBundle ev t

/-- A handler was entered, or the core left its program, in this bundle: its counts and its cycle count at the level and in
the mode it issued at (24 R382); `s0` is the state before it. -/
def endTrapped (s0 s : State) : State :=
  let pl := s0.core.x.pl
  let cnt := addCnt 0x3B (if exposed s0 then 1 else 0) (addCnt 0x0E 1 s.core.iss.cnt)
  let st := if s.core.st = .run ∨ s.core.st = .handler then s0.core.st else s.core.st
  passAs pl st 1 (onIss (fun i => { i.whole pl with busy := false, trapped := false, cnt := [], wait := 0 }) (onCore (applyCnt pl cnt) s))

/-- What the accesses of the bundle take of the ports in its issue cycle. -/
def portsUsed (s : State) : State :=
  let u := s.core.iss.cnt.filterMap (fun p => if 0x100 ≤ p.1 ∧ p.1 < 0x200 then some (p.1 - 0x100, p.2) else none)
  if u.isEmpty then s else onCore (noteCycle s.core.now u []) s

/-- Every slot has committed. The first bundle in exposed mode is held until every register result has landed; S12 commands in
flight do not hold it, since exposed cycles count register results (DEDUCED, log 152: 06 R126 says every result). -/
def endBundle (pl : Bool) (h : W32) (s : State) : State :=
  let stop := bitAt h 14
  let ex := exposed s
  let k := 1 + b2n s.core.iss.taken
  let cnt := addCnt 0x3B (if ex then k else 0) (addCnt 0x12 (b2n stop) (addCnt 0x0E 1 s.core.iss.cnt))
  let s := onCore (applyCnt pl cnt) s
  let s := if pl then s else onEv (fun e => if stop then { e with stopped := true, wdogAge := 0, reqAge := 0, ppAge := 0 } else { e with stopped := false }) s
  let s := pass k (onIss (fun i => { i.whole pl with busy := false, cnt := [], wait := 0 }) (portsUsed s))
  if !ex && exposed s then drain s else s

/-! ### The slots -/

/-- The path hash after slot 0 (24 R386). -/
def cphStep (pl : Bool) (s : State) : State :=
  let i := s.core.iss
  if s.core.pm.open_ && !pl && decide (i.npc ≠ i.seq) then
    onPm (fun p => { p with cph := fmix64 ((p.cph ^^^ i.npc) + i.pc) }) s
  else s

/-- Guard predicate and inversion of a word, none for a vector word. -/
def guardOf (i : Instr) : Option (Nat × Nat) :=
  match i.ops with
  | ⟨.gp, _, g⟩ :: ⟨.neg, _, n⟩ :: _ => some (g, n)
  | _ => none

/-- A slot that committed is counted (24 Table 24-2). -/
def countSlot (s0 : State) (j : Nat) (i : Instr) (s : State) : State :=
  match guardOf i with
  | some (g, n) => if guardOk g n s0 then cntEv j 1 s else cntEv 0x0F 1 s
  | none => cntEv j 1 s

/-- How a slot ended: committed, held under an event, or gone to a handler or away. -/
inductive SlotEnd where
  | done (s : State)
  | held (ev : Nat) (s : State)
  | gone (s : State)
  | stop (o : Out)

/-- Has the core left the bundle: a handler, a halt, a suspension? -/
def leftBundle (s : State) : Bool := s.core.iss.trapped || !(decide (s.core.st = .run) || decide (s.core.st = .handler))

/-- The cause a slot recorded last: the second of a double fault. -/
def lastCause (s : State) : Nat := (if s.core.st = .dhalt then s.core.x.cause2 else s.core.x.cause).toNat % 256

/-- Is the cause one of steps 3 and 4 (03 R52)? Those come before an access is made and can meet an error. -/
def beforeAccess (c : Nat) : Bool := [cILLOP, cPRIV, cSVIOL, cALIAS, cPHASECONF, cLOGFULL].contains c

/-- One slot: step 1, the bank ports of exposed mode, its meaning, the write ports. A word that asks for a read port too many
raises SVIOL before its own checks of step 4 are made; one whose result meets a taken write port raises it after them (DESIGN
CHOICE, log 126: 03 R52 gives the causes of step 4 no order), but before any fault of step 5. -/
def runSlot (ex : Instr → State → Out) (h : W32) (lower : List Slot) (before : List (Nat × Nat × Nat)) (x : Slot)
    (s : State) : SlotEnd :=
  let s := onIss (fun i => { i with slot := x.1 }) s
  match x.2 with
  | none => .gone (slotIllop s)
  | some i =>
    if !step1 h lower x.1 i then .gone (slotIllop s)
    else
      match if exposed s then bankOver before (slotBankReads s h x) else none with
      | some c => .gone (trapCl cSVIOL 1 s.core.iss.pc (some c) s)
      | none =>
        let hit := if (guardOf i).all (fun p => guardOk p.1 p.2 s) then hitAt s x.1 else none
        match ex i s with
        | .next t =>
          if t.core.iss.trapped then
            (match hit with
             | some e => if beforeAccess (lastCause t) then .gone t else .gone (meetError e s)
             | none => .gone t)
          else match t.core.iss.held with
            | some ev => .held ev t
            | none =>
              match writeClash s t with
              | some c => if exposed s then .gone (trapCl cSVIOL 1 s.core.iss.pc (some c) s) else .held 0x34 s
              | none =>
                match hit with
                | some e => .gone (meetError e s)
                | none =>
                  let t := setLatches s h x.1 i (countSlot s x.1 i t)
                  if leftBundle t then .gone t else .done t
        | o => .stop o

/-- The end of slot 0: the end step of an iteration (04 R85) and the path hash. -/
def slotZeroEnd (pl : Bool) (s : State) : State := cphStep pl (endSteps s.core.iss.pc s)

/-- The slots from `xs` on; `s0` is the state before the bundle, kept for a hold; `fin` ends it once every slot has
committed. A hold for a write port leaves the core at the boundary before the bundle (20 R339). A slot that waits for what
lower slots of its bundle did waits alone. -/
def runSlots (ex : Instr → State → Out) (h : W32) (pl : Bool) (s0 : State) (fin : State → Out) :
    List Slot → List Slot → List (Nat × Nat × Nat) → State → Out
  | [], _, _, s => fin s
  | x :: r, lower, before, s =>
    match runSlot ex h lower before x s with
    | .done t =>
      runSlots ex h pl s0 fin r (lower ++ [x]) (before ++ slotBankReads s h x) (if x.1 = 0 then slotZeroEnd pl t else t)
    | .gone t =>
      .next (if unanswered s0 then heldBundle 0x33 (onIss (fun i => { i with slot := x.1, wait := 2 }) s0) else endTrapped s0 t)
    | .stop o => o
    | .held ev t =>
      if t.core.iss.split && lower.any (fun y => decide (firstSlot s0 ≤ y.1)) then .next (heldPart ev x.1 pl t)
      else
      let s1 := onIss (fun i => { i with slot := x.1 }) s0
      let w1 := onIss (fun i => { i with wait := 2 }) s1
      .next (heldBundle ev (match x.2 with
        | some i => (match ex i s1 with | .next t => if t.core.iss.held.isSome then t else w1 | _ => w1)
        | none => w1))

/-- The slots `xs` of the bundle in progress from the state before it; `all` are its slots, `j0` the first that runs. -/
def runFrom (ex : Instr → State → Out) (h : W32) (j0 : Nat) (all : List Slot) (fin : Bool → State → Out) (s0 : State) : Out :=
  let xs := all.filter (fun x => decide (j0 ≤ x.1))
  let s := onCore (fun c => { rejoin c with iss := { (rejoin c).iss with from_ := 0, pm0 := some c.pm.pmc } }) s0
  let s := if j0 = 0 ∧ xs.all (fun x => x.1 ≠ 0) then slotZeroEnd s.core.x.pl s else s
  runSlots ex h s.core.x.pl s0 (fin s.core.x.pl) xs (all.filter (fun x => decide (x.1 < j0))) [] s

/-- Cycles the bundle waits until its last access is served (07 R132). -/
def portWait (s : State) : Nat := s.core.iss.qs.foldl (fun m q => if m < q then q else m) 0

/-- Stores of the bundle in progress with the cycles they are served in. -/
def servedStores (s : State) : List StRec :=
  s.core.pend.filterMap (fun p => match p.eff with
    | .st b off q x => if p.born = s.core.now then some ⟨q, b, off, x⟩ else none
    | _ => none)

/-- The stores that bundle `t` makes in held cycles, each to land in its own (07 R132). -/
def heldStores (t : State) (c : Core) : Core :=
  { c with pend := (t.core.pend.filter (fun p => match p.eff with
      | .st _ _ q _ => decide (p.born = t.core.now ∧ q < portWait t)
      | _ => false)).foldl (fun ps p => match p.eff with
        | .st _ _ q _ => insPend { p with due := p.born + q } ps
        | _ => ps) c.pend }

/-- What the boundary takes in front of a bundle that was held and has not issued (02 R32, 20 R339): `s` is the state before
the holds, `t` after them. -/
def heldLook (j0 : Nat) (s t : State) : Option State :=
  if j0 = 0 ∧ t.core.now ≠ s.core.now then boundary (onIss (fun i => { i with npc := i.pc, busy := false }) t) else none

/-- The slots of the bundle in progress, from the slot it starts with. Where the ports cannot serve every access at once,
the bundle issues in the cycle that serves the last one, with each load's data as of its own cycle. -/
def runBundle (ex : Instr → State → Out) (s : State) : Out :=
  let h := s.core.iss.hdr
  let j0 := firstSlot s
  let all : List Slot := s.core.iss.words.map (fun p => (p.1, decodeSlot p.1 (fld h 31 16) p.2.toNat))
  let xs := all.filter (fun x => decide (j0 ≤ x.1))
  if answerHold s h xs then .next (heldBundle 0x33 (onIss (fun i => { i with wait := 2 }) s)) else
  let s0 := issueHolds h xs s
  let look := fun (f : Out) s t => match heldLook j0 s t with
    | some u => .next (if unanswered s then onIss (fun i => { i with npc := i.pc, busy := false }) t else onIss (fun i => { i with busy := false }) u)
    | none => f
  let last := fun pl t => .next (endBundle pl h t)
  look (runFrom ex h j0 all (fun pl t =>
      if portWait t = 0 then last pl t
      else
        let s1 := throttle (holdFor (portWait t) 0x35 (onCore (heldStores t)
          (onIss (fun i => { i with early := some ⟨t.core.iss.qs, servedStores t, s0.core.sp, portWait t⟩ }) s0)))
        look (runFrom ex h j0 all last s1) s0 s1) s0) s s0

end

end Sys2Proof.Machine
end

