-- ==== Sys2Proof/Machine/Matrix.lean ====
section
/-!
DEFINITION. Machine/Matrix.lean: the eager matrix instructions of S12 (spec 09).
-/
namespace Sys2Proof.Machine

/-! ### Planes -/

def planeOf (c : Core) (p : Nat) : Plane := if p = 0 then c.mx.p0 else c.mx.p1

/-- Does a cell hold an element of the loaded tile? -/
def Plane.has (p : Plane) (row col : Nat) : Bool := decide (row < p.rows) && decide (col < p.cols)

/-- Value of a cell with its block's scale (09 R168, R172). -/
def Plane.value (p : Plane) (row col : Nat) : Num :=
  let f := fmtOf p.fmt
  let x := mget 0 p.cells (128 * row + col)
  if p.mx then mxScaled f (mget 127 p.scales (8 * (row / 16) + col / 16)).toNat x else decodeF f x

/-- The core as S12 and the engines' issue see its buffers: stores of the lower slots made (09 R175, 03 R53). -/
def withStores (c : Core) : Core :=
  c.pend.foldl (fun c p => match p.eff with | .st b off _ x => spadWrite b off x c | _ => c) c

/-- Reader of a buffer from a byte offset. -/
def bufRd (c : Core) (b base : Nat) (o : Nat) : Byte := spadByte c b (base % 2 ^ 20 + o)

/-- A plane loaded from the rows and columns of a tile from (r0, c0) up (09 R177): at most 128 × 128, the rest zero. -/
def loadPlane (c : Core) (t : TD) (w : W32) (r0 c0 : Nat) : Plane :=
  let f := fmtOf w
  let rows := if t.rows - r0 < 128 then t.rows - r0 else 128
  let cols := if t.cols - c0 < 128 then t.cols - c0 else 128
  let b := t.base / 2 ^ 20 % 4
  let cells := (List.range rows).foldl (fun m i => (List.range cols).foldl (fun m j =>
    mset 0 m (128 * i + j) (bitsAt (bufRd c b t.base) (t.bitOff f.cont (r0 + i) (c0 + j)) f.cont)) m) []
  let scales := if t.mx then
      (List.range (cdiv rows 16)).foldl (fun m i => (List.range (cdiv cols 16)).foldl (fun m j =>
        mset 127 m (8 * i + j) (bufRd c (t.sbase / 2 ^ 20 % 4) t.sbase (t.scaleOff (r0 / 16 + i) (c0 / 16 + j)))) m) []
    else []
  { cells := cells, scales := scales, rows := rows, cols := cols, fmt := w, mx := t.mx, loaded := true }

/-! ### Addresses and ranges -/

/-- Does a plain address with `n` bytes lie in one of the buffers, clear of the arena (09 R177, R178, R180; 10 R190)? -/
def ownRange (s : State) (bufs : List Nat) (ea n : Nat) : Bool :=
  decide (ea / 2 ^ 20 < 3) && bufs.contains (ea / 2 ^ 20) && decide (ea % 2 ^ 20 + n ≤ bufSize (ea / 2 ^ 20)) &&
  !arenaHit s.core (ea / 2 ^ 20) (ea % 2 ^ 20) (ea % 2 ^ 20 + n)

/-- First address of a descriptor that breaks the rule. -/
def tdRefused (s : State) (bufs : List Nat) (t : TD) (cs : Nat) (sc : Bool) : Option Word :=
  if !ownRange s bufs t.base (t.bytes cs) then some (wd t.base)
  else if sc && !ownRange s bufs t.sbase t.sbytes then some (wd t.sbase) else none

/-- Buffer ranges a tile's elements, and its scales, lie in. -/
def tdRanges (t : TD) (cs : Nat) (sc : Bool) : List (Nat × Nat × Nat) :=
  let a := t.base % 2 ^ 20
  let b := t.sbase % 2 ^ 20
  (t.base / 2 ^ 20, a, a + t.bytes cs) :: (if sc then [(t.sbase / 2 ^ 20, b, b + t.sbytes)] else [])

/-- The byte runs a tile's elements, and its scales, lie in. -/
def tdRuns (t : TD) (cs : Nat) (sc : Bool) : List (Nat × Nat × Nat) :=
  let run := fun (base : Nat) (r : Nat × Nat) => (base / 2 ^ 20, base % 2 ^ 20 + r.1, base % 2 ^ 20 + r.1 + r.2)
  (t.runs cs).map (run t.base) ++ (if sc then t.sruns.map (run t.sbase) else [])

/-! ### Hazards (09 R175, R176; 23 R371; 10 R205; 07 R133) -/

/-- What a command needs and touches: the array, the drain path, planes; ranges read and written; runs read and
written. -/
structure S12Need where
  arr : Bool
  drain : Bool
  planes : List Nat
  rd : List (Nat × Nat × Nat)
  wr : List (Nat × Nat × Nat)
  rdRuns : List (Nat × Nat × Nat)
  wrRuns : List (Nat × Nat × Nat)
  deriving DecidableEq, Repr

def triMeet (xs ys : List (Nat × Nat × Nat)) : Bool :=
  xs.any (fun a => ys.any (fun b => decide (a.1 = b.1) && (meetAt a.2.1 a.2.2 b.2.1 b.2.2).isSome))

/-- Does a command in flight stand in the way (09 R175)? -/
def s12Busy (s : State) (k : S12Need) : Bool :=
  s.core.mx.flight.any (fun f =>
    (k.arr && decide (s.core.now < f.arrayTill)) || (k.drain && decide (s.core.now < f.drainTill)) ||
    f.planeTill.any (fun p => k.planes.contains p.1 && decide (s.core.now < p.2)) ||
    triMeet f.writes (k.rd ++ k.wr) || triMeet f.reads k.wr)

/-- Does Teasel hold the matrix unit (09 R176)? -/
def teaselHolds (c : Core) : Bool := c.th.reqs.any (fun r => r.busy)

/-- The ownership hazard of every S12 instruction (09 R176). -/
def mown (f : State → State) (s : State) : State :=
  if teaselHolds s.core then (if exposed s then sviol 4 s else holdAs 2 0x33 s) else f s

/-- Does an accepted CPYA's destination share a bank with a written range (07 R133)? -/
def cpyaInFlight (s : State) (wr : List (Nat × Nat × Nat)) : Bool :=
  s.core.cp.cmds.any (fun k =>
    decide (k.kind = .cpya) && !(cdOf k.desc).empty &&
    (let (lo, hi) := (cdOf k.desc).dstBounds 32
     wr.any (fun w => decide (w.1 = 2) && banksMeet (lo.toNat % 2 ^ 20) (hi.toNat % 2 ^ 20) w.2.1 w.2.2)))

/-- The last checks of a command, in order: ownership, hazards, phase sets, pending sources, add-on-writes. -/
def s12Gate (k : S12Need) (f : State → State) (s : State) : State :=
  mown (fun s =>
    if s12Busy s k then (if exposed s then illop s else holdAs 2 0x33 s)
    else
      let ph := fun wr (r : Nat × Nat × Nat) => (phaseBad s.core 2 wr r.1 r.2.1 r.2.2).map (fun x => spadAddr r.1 x)
      match (k.rdRuns.findSome? (ph false)).orElse (fun _ => k.wrRuns.findSome? (ph true)) with
      | some fa => trap cPHASECONF 0 fa s
      | none =>
        match k.wrRuns.findSome? (fun r => (hazardAt s.core r.1 r.2.1 r.2.2).map (fun x => spadAddr r.1 x)) with
        | some fa =>
          if exposed s then trap cALIAS 0 fa s
          else
            hold 0x33 (askForce s.focus ((k.wrRuns.flatMap (fun r => hazardNodes s.core r.1 r.2.1 r.2.2)).eraseDups) s)
        | none => if exposed s && cpyaInFlight s k.wr then sviol 2 s else f s) s

/-- A command in flight. -/
def flyS12 (k : S12Cmd) : State → State := onMx (fun m => { m with flight := m.flight ++ [k] })

/-- Bits by line as writes of a buffer. -/
def spWrites (buf : Nat) (m : SMap (Nat × Nat)) : List SpWrite := m.map (fun p => ⟨buf, 64 * p.1, p.2.1, p.2.2⟩)

/-- Banks of the lines of a range, as ports from `base`. -/
def bankPorts (base lo hi t0 t1 : Nat) : List (Nat × Nat × Nat) := (cBanks lo hi).map (fun k => (base + k, t0, t1))

def tdReg (s : State) (n : Nat) : TD := tdOf (rdTd s n)

/-! ### WLOAD, WSEL (09 R177) -/

def execWload (g n t p : Nat) (s : State) : Out :=
  slotDo g n (fun s =>
    let d := tdReg s t
    let w := ftabWord s d.fmt
    let cs := (fmtOf w).cont
    if bufSize 0 ≤ d.base then trap cPROT 0 (wd d.base) s
    else if d.mx && decide (bufSize 0 ≤ d.sbase) then trap cPROT 0 (wd d.sbase) s
    else if 128 < d.rows ∨ 128 < d.cols ∨ d.shapeOk cs = false ∨ d.scaleOk (ftabWord s d.sfmt) = false then illop s
    else if !elemLegal (fmtOf w) then illop s
    else
      match tdRefused s [0] d cs d.mx with
      | some fa => trap cPROT 0 fa s
      | none =>
        let need : S12Need := { arr := false, drain := false, planes := [p], rd := tdRanges d cs d.mx, wr := [],
                                rdRuns := tdRuns d cs d.mx, wrRuns := [] }
        s12Gate need (fun s =>
          let now := s.core.now
          let lat := 8 * cs + 6
          flyS12 { land := now + lat - 1, arrayTill := 0, drainTill := 0, planeTill := [(p, now + lat)], reads := need.rd,
                   writes := [], ports := [(0, now, now + 8 * cs)], out := [],
                   plane := [(p, loadPlane (withStores s.core) d w 0 0)], hist := [], isH := false, flags := flNone } s) s) s

def execWsel (g n p : Nat) (s : State) : Out := slotDo g n (mown (onMx (fun m => { m with act := p }))) s

/-! ### The MMA family (09 R178, R179) -/

/-- Cycles of A per row and slice, and slices of B (09 R169). -/
def bitsA (f : Fmt) : Nat := if f.spec = 3 then b2n f.sgnd + f.mw else f.mw + 1
def slicesB (f : Fmt) : Nat := if f.spec = 3 then cdiv (b2n f.sgnd + f.mw) 18 else cdiv (f.mw + 2) 18

/-- The format the active plane will have: its own, or that of a load in flight (09 Table 9-5 check 3). -/
def activeFmt (c : Core) : Option W32 :=
  let a := c.mx.act
  let inFly := c.mx.flight.findSome? (fun f =>
    if f.planeTill.any (fun p => decide (p.1 = a ∧ c.now < p.2)) then
      (f.plane.find? (fun p => decide (p.1 = a))).map (fun p => p.2.fmt) else none)
  match inFly with
  | some w => some w
  | none => if (planeOf c a).loaded then some (planeOf c a).fmt else none

/-- The (A, B) pairs of a segment for one element of the result. A cell beyond the loaded tile contributes a zero product,
whatever its block's scale and the A element are (09 R179). -/
def segPairs (orient : Bool) (xs : List Num) (p : Plane) (n : Nat) : List (Num × Num) :=
  (List.range 128).map (fun k =>
    let x := nth (.zero false) xs k
    let (i, j) := if orient then (n, k) else (k, n)
    if p.has i j then (x, p.value i j) else (.zero x.neg?, .zero false))

/-- What the checks of 09 Table 9-5 need. -/
structure MmaArgs where
  a : TD
  c : TD
  w : TD
  aw : W32
  cw : W32
  ww : W32
  pw : W32
  nseg : Nat
  deriving DecidableEq, Repr

def mmaArgs (s : State) (ta tw tc : Nat) : MmaArgs :=
  let a := tdReg s ta
  let c := tdReg s tc
  let w := tdReg s tw
  { a := a, c := c, w := w, aw := ftabWord s a.fmt, cw := ftabWord s c.fmt, ww := ftabWord s w.fmt,
    pw := (activeFmt s.core).getD 0, nseg := cdiv a.cols 128 }

/-- Check 1 of 09 Table 9-5: the first address refused. -/
def mmaProt (s : State) (m : MmaArgs) : Option Word :=
  ((tdRefused s [1] m.a (fmtOf m.aw).cont m.a.mx).orElse (fun _ => tdRefused s [2] m.c (fmtOf m.cw).cont false)).orElse
    (fun _ => if m.nseg ≤ 1 then none else tdRefused s [0] m.w (fmtOf m.ww).cont m.w.mx)

/-- Checks 2 to 5. -/
def mmaLegal (s : State) (orient : Bool) (m : MmaArgs) : Bool :=
  let shape := fun (t : TD) (w : W32) => t.shapeOk (fmtOf w).cont && t.scaleOk (ftabWord s t.sfmt)
  let ca := (fmtOf m.aw).cont
  let cp := (fmtOf m.pw).cont
  decide (m.a.rows ≤ 128) && decide (m.c.cols ≤ 128) && decide (m.a.cols ≤ 2048) && decide (m.c.rows = m.a.rows) &&
  shape m.a m.aw && shape m.c m.cw && (decide (m.nseg ≤ 1) || shape m.w m.ww) &&
  (activeFmt s.core).isSome && elemLegal (fmtOf m.aw) && decide (m.cw = accWord ca cp) &&
  (decide (m.nseg ≤ 1) ||
    (decide ((if orient then m.w.cols else m.w.rows) = 128 * m.nseg) && decide ((if orient then m.w.rows else m.w.cols) ≤ 128) &&
     decide (contClass (fmtOf m.ww).cont = contClass cp) && elemLegal (fmtOf m.ww)))

/-- The planes of the segments: the active one, then the sub-tiles of TW. -/
def mmaPlanes (c : Core) (orient : Bool) (m : MmaArgs) : List Plane :=
  planeOf c c.mx.act :: (List.range (m.nseg - 1)).map (fun g =>
    if orient then loadPlane c m.w m.ww 0 (128 * (g + 1)) else loadPlane c m.w m.ww (128 * (g + 1)) 0)

/-- The result tile: bits by line of the C-buffer, and flags. -/
def mmaResult (c : Core) (orient zero : Bool) (m : MmaArgs) : SMap (Nat × Nat) × Flags5 :=
  let fa := fmtOf m.aw
  let cp := (fmtOf m.pw).cont
  let acc := accFmt fa.cont cp
  let ps := mmaPlanes c orient m
  let cbase := 8 * (m.c.base % 2 ^ 20)
  let val := fun i k => if k < m.a.cols then
      m.a.value fa (bufRd c 1 m.a.base) (bufRd c 1 m.a.sbase) i k else .zero false
  (List.range m.a.rows).foldl (fun r i =>
    let xs := (List.range (128 * m.nseg)).map (val i)
    (List.range m.c.cols).foldl (fun (r : SMap (Nat × Nat) × Flags5) n =>
      let off := m.c.bitOff (fmtOf m.cw).cont i n
      let c0 := if zero then 0 else bitsAt (bufRd c 2 m.c.base) off acc.cont
      let segs := ((List.range m.nseg).zip ps).map (fun g => segPairs orient ((xs.drop (128 * g.1)).take 128) g.2 n)
      let (b, fl) := accSegs acc (accWindow fa.cont cp) segs c0 flNone
      (putBits (cbase + off) acc.cont b r.1, r.2 ||| fl)) r) ([], flNone)

/-- An MMA-family instruction. `orient` is the C orientation, `zero` the forms that take the accumulator as +0. Three points are the
model's (DESIGN CHOICE, log 154). All operands are read at issue, so that a store or copy line made meanwhile to what an instruction
in flight reads is never seen, where 09 R175 lets each line be seen or not. Of several segments each takes the slice count s of the
active plane's captured format (09 R174 has one s in T). The loaded bits and captured formats of planes loaded for later segments, the
last two where there are three or more, change at the end of the array interval (09 R179 names no cycle). -/
def mma (orient zero : Bool) (g n a w c : Nat) (s : State) : Out :=
  slotDo g n (fun s =>
    let m := mmaArgs s a w c
    match mmaProt s m with
    | some fa => trap cPROT 0 fa s
    | none =>
      if !mmaLegal s orient m then illop s
      else
        let pl := s.core.mx.act
        let ccs := (fmtOf m.cw).cont
        let cr := tdRanges m.c ccs false
        let multi := decide (1 < m.nseg)
        let wr := if multi then tdRanges m.w (fmtOf m.ww).cont m.w.mx else []
        let need : S12Need :=
          { arr := true, drain := false, planes := if multi then [pl, 1 - pl] else [pl],
            rd := tdRanges m.a (fmtOf m.aw).cont m.a.mx ++ wr ++ (if zero then [] else cr), wr := cr,
            rdRuns := tdRuns m.a (fmtOf m.aw).cont m.a.mx ++ (if multi then tdRuns m.w (fmtOf m.ww).cont m.w.mx else []) ++
              (if zero then [] else tdRuns m.c ccs false),
            wrRuns := tdRuns m.c ccs false }
        s12Gate need (fun s =>
          let now := s.core.now
          let z := withStores s.core
          let t0 := m.a.rows * bitsA (fmtOf m.aw) * slicesB (fmtOf m.pw)
          let wl := 8 * (fmtOf m.ww).cont
          let t := if multi && decide (t0 < wl + 6) then wl + 6 else t0
          let arr := m.nseg * t
          let lat := arr + 12
          let (out, fl) := mmaResult z orient zero m
          let lo := m.c.base % 2 ^ 20
          let hi := lo + m.c.bytes ccs
          let ports := (2, now, now + arr) :: bankPorts 32 lo hi (now + arr) (now + lat) ++
            (if zero then [] else bankPorts 16 lo hi now (now + 12)) ++
            (List.range (m.nseg - 1)).map (fun g => (0, now + g * t, now + g * t + wl))
          let ps := mmaPlanes z orient m
          let last := m.nseg - 1
          let newPl := (if multi then [((pl + last) % 2, nth .reset ps last)] else []) ++
            (if 3 ≤ m.nseg then [((pl + last - 1) % 2, nth .reset ps (last - 1))] else [])
          let s := onMx (fun x => { x with act := (pl + last) % 2 }) s
          let s := cntEv 0x1C (m.a.rows * m.c.cols * m.a.cols) s
          let s := flyS12 { land := now + arr - 1, arrayTill := now + arr, drainTill := 0,
                            planeTill := need.planes.map (fun p => (p, now + arr)), reads := [], writes := [], ports := [],
                            out := [], plane := newPl, hist := [], isH := false, flags := flNone } s
          flyS12 { land := now + lat - 1, arrayTill := 0, drainTill := 0, planeTill := [], reads := need.rd, writes := cr,
                   ports := ports, out := spWrites 2 out, plane := [], hist := [], isH := false, flags := fl } s) s) s

def execMmaR (g n a w c : Nat) (s : State) : Out := mma false false g n a w c s
def execMmaC (g n a w c : Nat) (s : State) : Out := mma true false g n a w c s
def execMmazR (g n a w c : Nat) (s : State) : Out := mma false true g n a w c s
def execMmazC (g n a w c : Nat) (s : State) : Out := mma true true g n a w c s

/-! ### MDRAIN (09 R180–R182) -/

/-- State of drain-column generator `n` (02 R28). -/
def gcolOf (c : Core) (n : Nat) : W32 := (mfind? c.mx.gcol n).getD (seedState 0 n)

/-- Histogram bin of a value (09 R182). -/
def histBin (hbase : Int) (v : Num) : Nat :=
  match v with
  | .nan => 31
  | .inf _ => 31
  | .fin _ m _ _ =>
    if m = 0 then 0
    else
      let k := log2N v - hbase + 16
      if k < 1 then 1 else if 30 < k then 30 else k.toNat

/-- What a drain makes: element bits, scale bits, generators, flags. -/
structure DrainAcc where
  bits : SMap (Nat × Nat)
  gcol : SMap W32
  fl : Flags5
  deriving DecidableEq, Repr

/-- Each element in column order with ascending rows. -/
def colOrder (rows cols : Nat) : List (Nat × Nat) := (List.range cols).flatMap (fun n => (List.range rows).map (fun m => (m, n)))

/-- A block's scale byte and flags from the values of its elements. -/
def blockScale (f : Fmt) (rows cols : Nat) (val : Nat → Nat → Num) (bi bj : Nat) : Nat × Flags5 :=
  mxScale f ((List.range 16).flatMap (fun i => (List.range 16).filterMap (fun j =>
    if 16 * bi + i < rows ∧ 16 * bj + j < cols then some (val (16 * bi + i) (16 * bj + j)) else none)))

/-- A tile of values written through a descriptor at a base offset, element (m, n) rounded with generator `n`: encoded,
or quantised with the scales given. -/
def drainBits (t : TD) (f : Fmt) (base rm : Nat) (sc : Option (Nat → Nat → Nat)) (val : Nat → Nat → Num) (gc : Nat → W32)
    (a : DrainAcc) : DrainAcc :=
  (colOrder t.rows t.cols).foldl (fun a p =>
    let g := (mfind? a.gcol p.2).getD (gc p.2)
    let (b, fl, g1) := match sc with
      | none => encodeF f (val p.1 p.2) rm g
      | some k => mxElem f (k (p.1 / 16) (p.2 / 16)) (val p.1 p.2) rm g
    { bits := putBits (8 * base + t.bitOff f.cont p.1 p.2) f.cont b a.bits,
      gcol := if rm = 4 then mput a.gcol p.2 g1 else a.gcol, fl := a.fl ||| fl }) a

/-- Scale bytes of a tile by line, and their flags. -/
def drainScales (t : TD) (f : Fmt) (base : Nat) (val : Nat → Nat → Num) : SMap (Nat × Nat) × Flags5 :=
  (List.range (cdiv t.rows 16)).foldl (fun r bi => (List.range (cdiv t.cols 16)).foldl
    (fun (r : SMap (Nat × Nat) × Flags5) bj =>
      let (b, fl) := blockScale f t.rows t.cols val bi bj
      (putBits (8 * (base + t.scaleOff bi bj)) 8 b r.1, r.2 ||| fl)) r) ([], flNone)

def execMdrain (g n t s r f : Nat) (z : State) : Out :=
  slotDo g n (fun z =>
    let d := tdReg z t
    let c := tdReg z s
    let dw := ftabWord z d.fmt
    let cw := ftabWord z c.fmt
    let df := fmtOf dw
    let cf := fmtOf cw
    let fz := decide (f % 2 = 1)
    let fh := decide (f / 2 % 2 = 1)
    let fq := decide (f / 4 % 2 = 1)
    let rm := if r = 7 then fpRm z else r
    match (tdRefused z [2] c cf.cont false).orElse (fun _ => tdRefused z [0, 1] d df.cont fq) with
    | some fa => trap cPROT 0 fa z
    | none =>
      if 128 < c.rows ∨ 128 < c.cols ∨ ¬(cw = fp32Word ∨ cw = fp64Word) ∨ c.shapeOk cf.cont = false ∨ d.rows ≠ c.rows ∨
          d.cols ≠ c.cols ∨ d.shapeOk df.cont = false ∨ elemLegal df = false ∨ d.mx ≠ fq ∨
          (fq = true ∧ d.scaleOk (ftabWord z d.sfmt) = false) ∨ 4 < rm ∨ (fq = true ∧ ¬(rm = 0 ∨ rm = 4)) then illop z
      else
        let cr := tdRanges c cf.cont false
        let dr := tdRanges d df.cont fq
        let need : S12Need :=
          { arr := false, drain := true, planes := [], rd := cr, wr := dr ++ (if fz then cr else []),
            rdRuns := tdRuns c cf.cont false,
            wrRuns := tdRuns d df.cont fq ++ (if fz then tdRuns c cf.cont false else []) }
        s12Gate need (fun z =>
          let now := z.core.now
          let k := withStores z.core
          let lat := c.rows + (if fq then 26 else 10)
          let v := fun i j => decodeF cf (bitsAt (bufRd k 2 c.base) (c.bitOff cf.cont i j) cf.cont)
          let x := fun i j => scaleN (v i j) (sgn 8 k.mx.dscl.toNat)
          let sc := if fq then some (fun bi bj => (blockScale df d.rows d.cols x bi bj).1) else none
          let a := drainBits d df (d.base % 2 ^ 20) rm sc x (gcolOf k) { bits := [], gcol := k.mx.gcol, fl := flNone }
          let (sb, sf) := if fq then drainScales d df (d.sbase % 2 ^ 20) x else ([], flNone)
          let hist := if fh then
              (List.range 32).map (fun b => ((colOrder c.rows c.cols).filter (fun p =>
                decide (histBin (sgn 8 k.mx.hbase.toNat) (v p.1 p.2) = b))).length)
            else []
          let zero := if fz then
              (colOrder c.rows c.cols).foldl (fun m p => putBits (8 * (c.base % 2 ^ 20) + c.bitOff cf.cont p.1 p.2) cf.cont 0 m) []
            else []
          let lo := c.base % 2 ^ 20
          let ports := (if d.base / 2 ^ 20 = 1 then 1 else 0, now + 2, now + lat) ::
            bankPorts 16 lo (lo + c.bytes cf.cont) (now + 2) (now + lat)
          let z := onMx (fun m => { m with gcol := a.gcol }) (cntEv 0x1D (c.rows * c.cols) z)
          flyS12 { land := now + lat - 1, arrayTill := 0, drainTill := now + lat, planeTill := [], reads := cr,
                   writes := need.wr, ports := ports,
                   out := spWrites (d.base / 2 ^ 20) a.bits ++ spWrites (d.sbase / 2 ^ 20) sb ++ spWrites 2 zero,
                   plane := [], hist := hist, isH := fh, flags := a.fl ||| sf } z) z) z

/-! ### MSCALE, MHIST (09 R181, R182) -/

def execMscale (g n a : Nat) (s : State) : Out :=
  slotDo g n (mown (fun s => onMx (fun m =>
    { m with dscl := (rdS s a).setWidth 8, hbase := BitVec.ofNat 8 (fld (rdS s a) 15 8) }) s)) s

def execMhist (g n d a : Nat) (s : State) : Out :=
  slotDo g n (mown (fun s =>
    if !exposed s && s.core.mx.flight.any (fun f => f.isH) then hold 0x33 s
    else
      let k := fld (rdS s a) 4 0
      emit 1 (.s d ((mget 0 s.core.mx.hist k).setWidth 64)) (onMx (fun m => { m with hist := mset 0 m.hist k 0 }) s))) s

end Sys2Proof.Machine
end

