-- ==== Sys2Proof/Machine/Thunk.lean ====
section
/-!
DEFINITION. Machine/Thunk.lean: the thunk table: tile values, the arena, recording of nodes, and the S13 instructions on
them (10 R186–R200, R202, R203, R207, R208). The work itself is in Teasel.lean.
-/
namespace Sys2Proof.Machine

/-! ### Nodes -/

/-- The slot word a node keeps: its major, guard, destination, first source and bits [8:0]. -/
def tileWord (maj g n d a low : Nat) : W32 := BitVec.ofNat 32 (maj * 2 ^ 26 + g * 2 ^ 23 + n * 2 ^ 22 + d * 2 ^ 16 + a * 2 ^ 9 + low)

def TNode.maj (n : TNode) : Nat := fld n.word 31 26
def TNode.low (n : TNode) : Nat := fld n.word 8 0

def nodeOf (c : Core) (q : Nat) : Option TNode := c.th.nodes.find? (fun n => decide (n.seq = q))

/-- A tile value; one never touched is UNDEF with no home. -/
def tvOf (c : Core) (k : Nat) : TVal := (mfind? c.th.tv k).getD ⟨.undef, none⟩
def putTv (k : Nat) (v : TVal) (c : Core) : Core :=
  { c with th := { c.th with tv := mset ⟨.undef, none⟩ c.th.tv k v } }

/-- Nodes a node refers to. -/
def TNode.refs (n : TNode) : List Nat := n.srcs.filterMap (fun x => match x with | .node q => some q | _ => none)

/-- Live nodes among the table's, latest first (10 R193): a node refers to earlier ones only. -/
def liveGo : List TNode → List Nat → List TNode
  | [], _ => []
  | n :: r, roots => if roots.contains n.seq then n :: liveGo r (n.refs ++ roots) else liveGo r roots

/-- Nodes that tile values name or accepted work uses. -/
def nodeRoots (c : Core) : List Nat :=
  c.th.tv.filterMap (fun p => match p.2.st with | .pend q => some q | _ => none) ++
  c.th.reqs.flatMap (fun r => (match r.src with | .node q => [q] | _ => []) ++ r.pre)

/-- Nodes that ceased to be live are freed with their blocks (10 R193). -/
def freeNodes (c : Core) : Core :=
  { c with th := { c.th with nodes := (liveGo c.th.nodes.reverse (nodeRoots c)).reverse } }

/-! ### Sources -/

def srcShape (c : Core) (x : TSrc) : Nat × Nat :=
  match x with
  | .node q => match nodeOf c q with | some n => (n.rows, n.cols) | none => (1, 1)
  | .leaf d _ => let t := tdOf d; (t.rows, t.cols)

/-- Format word and MX mark of a source. -/
def srcFmt (c : Core) (x : TSrc) : W32 × Bool :=
  match x with
  | .node q => match nodeOf c q with | some n => (n.fmt, n.mx) | none => (fp32Word, false)
  | .leaf d f => (f, (tdOf d).mx)

/-- The source a value stands for: its current node, or its home; none when UNDEF. -/
def TVal.src (v : TVal) : Option TSrc :=
  match v.st with
  | .undef => none
  | .pend q => some (.node q)
  | .homed => v.home.map (fun h => .leaf h.1 h.2)

/-- A source field (10 R189): the source it names, and the descriptor when it names one. -/
def srcField (s : State) (x : Nat) : Option TSrc × Option TD :=
  if x < 64 then ((tvOf s.core x).src, none)
  else
    let d := rdTd s (x % 16)
    let t := tdOf d
    (some (.leaf d (ftabWord s t.fmt)), some t)

/-- Checks of R192 step 2 on a descriptor. -/
def leafOk (s : State) (t : TD) : Bool :=
  decide (t.resv = 0) && t.shapeOk (fmtOf (ftabWord s t.fmt)).cont && t.scaleOk (ftabWord s t.sfmt)

/-- Does a plain address with `n` bytes lie in one of the core's own buffers? -/
def inOwn (ea n : Nat) : Bool := decide (ea / 2 ^ 20 < 3) && decide (ea % 2 ^ 20 + n ≤ bufSize (ea / 2 ^ 20))

/-- The first byte of runs from an address (offset, bytes, ascending) that lies in none of the core's own buffers. -/
def runsProt (ea : Nat) (runs : List (Nat × Nat)) : Option Word :=
  if 3 ≤ ea / 2 ^ 20 then some (wd ea)
  else
    let left := bufSize (ea / 2 ^ 20) - ea % 2 ^ 20
    (runs.find? (fun r => decide (left < r.1 + r.2))).map (fun r => wd (ea + if left < r.1 then r.1 else left))

/-- Check of R192 step 3: the first offending address. -/
def leafProt (s : State) (t : TD) : Option Word :=
  if t.virt then none
  else (runsProt t.base (t.runs (fmtOf (ftabWord s t.fmt)).cont)).orElse
    (fun _ => if t.mx then runsProt t.sbase t.sruns else none)

/-- Checks of R192 steps 2 and 3 on a descriptor, in order, and R17 on the element format it captures; then `f`. -/
def leafChecked (t : TD) (f : State → State) (s : State) : State :=
  if !leafOk s t then illop s
  else
    match leafProt s t with
    | some fa => trap cPROT 0 fa s
    | none => if elemLegal (fmtOf (ftabWord s t.fmt)) then f s else illop s

/-! ### The arena (10 R190) -/

def arenaOn (c : Core) : Bool := bitAt c.th.arenaA 0
/-- Ranges of two arena words, in KiB: (buffer, start, size). -/
def arenaKib (a b : Word) : List (Nat × Nat × Nat) :=
  [(1, fld a 10 1, fld a 20 11), (2, fld a 29 21, fld a 38 30), (0, fld b 9 0, fld b 19 10)]

/-- Is every part of the old range in the new one of its buffer? -/
def keepsRange (o : Nat × Nat × Nat) (ns : List (Nat × Nat × Nat)) : Bool :=
  decide (o.2.2 = 0) || ns.any (fun r => decide (r.1 = o.1 ∧ r.2.1 ≤ o.2.1 ∧ o.2.1 + o.2.2 ≤ r.2.1 + r.2.2))

/-- Does TCFG accept the words? -/
def arenaLegal (c : Core) (a b : Word) : Bool :=
  let foot := fun k => if k = 0 then c.task.fw else if k = 1 then c.task.fa else c.task.fc
  let ns := arenaKib a b
  decide (fld a 63 39 = 0) && decide (fld b 63 20 = 0) &&
  ns.all (fun r => decide (r.2.2 = 0) || (decide ((r.2.1 + r.2.2) * 1024 ≤ bufSize r.1) && decide (r.2.1 + r.2.2 ≤ foot r.1))) &&
  ((c.th.nodes.isEmpty && c.th.reqs.isEmpty) || !arenaOn c ||
   (bitAt a 0 && (arenaKib c.th.arenaA c.th.arenaB).all (fun o => keepsRange o ns)))

def execTcfg (g n a b : Nat) (s : State) : Out :=
  slotDo g n (fun s =>
    let x := rdS s a
    let y := rdS s b
    need (arenaLegal s.core x y) (onTh (fun t => { t with arenaA := x, arenaB := y })) s) s

def execTseed (g n a : Nat) (s : State) : Out := slotDo g n (onTh (fun t => { t with seed := (rdS s a).setWidth 32 })) s

/-- Bytes of a cached block of a node. -/
def blkBytes (w : W32) : Nat := 32 * (fmtOf w).cont
/-- Bytes of the A range that cached blocks take. -/
def arenaUsed (c : Core) : Nat := c.th.nodes.foldl (fun k n => k + n.blks.length * blkBytes n.fmt) 0

/-! ### Homes, dropping, state (10 R207, R208) -/

def execThome (g n d b : Nat) (s : State) : Out :=
  slotDo g n (fun s =>
    let h := rdTd s b
    let t := tdOf h
    let v := tvOf s.core d
    let pend := match v.st with | .pend _ => true | _ => false
    if pend && !arenaOn s.core then illop s
    else
      leafChecked t (fun s =>
        let home := some (h, ftabWord s t.fmt)
        match v.st with
        | .pend q =>
          if srcShape s.core (.node q) = (t.rows, t.cols) then onCore (putTv d { v with home := home }) s else illop s
        | _ => onCore (putTv d ⟨.homed, home⟩) s) s) s

def execThomex (g n d : Nat) (s : State) : Out :=
  slotDo g n (fun s =>
    let v := tvOf s.core d
    onCore (putTv d ⟨match v.st with | .homed => .undef | x => x, none⟩) s) s

def execTdrop (g n d : Nat) (s : State) : Out := slotDo g n (onCore (fun c => freeNodes (putTv d ⟨.undef, none⟩ c))) s

/-- TSTAT's result (10 Table 10-7). -/
def tstatWord (c : Core) (v : TVal) : Word :=
  let asz := fld c.th.arenaA 20 11 * 1024
  let k := heldRanges c
  wd (c.th.nodes.length + 2 ^ 8 * (c.th.reqs.filter (fun r => decide (r.kind ≤ 1))).length + 2 ^ 16 * (k.length % 256) +
    2 ^ 24 * ((asz - arenaUsed c) / 1024) + 2 ^ 34 * fld c.th.arenaA 38 30 +
    2 ^ 43 * (match v.st with | .undef => 0 | .pend _ => 1 | .homed => 2) + 2 ^ 45 * b2n v.home.isSome)

def execTstat (g n d v : Nat) (s : State) : Out := retS g n 1 d (tstatWord s.core (tvOf s.core v)) s

/-! ### Descriptors (10 R188) -/

/-- A core access of slot 13 to 32 bytes of the own A-buffer on port AE, checked. -/
def tdAccess (wr : Bool) (ea : Word) (f : SpRef → State → State) (s : State) : State := ownAccess wr ea 32 f s

def execTdcfg (g n t r : Nat) (s : State) : Out :=
  slotDo g n (fun s => tdAccess false (rdA s r) (fun p => spadLoad p 32 (fun bs =>
    onMx (fun m => { m with td := mset 0 m.td t (BitVec.ofNat 256 (leNat bs)) }))) s) s

def execTdsav (g n t r : Nat) (s : State) : Out :=
  slotDo g n (fun s => tdAccess true (rdA s r) (fun p => spadStore p 0 (leBytes 32 (rdTd s t).toNat)) s) s

/-! ### Recording (10 R192–R200) -/

/-- What an operation makes of its sources: result shape, format word, MX mark, rounding mode, map words; none is ILLOP. -/
structure TRes where
  rows : Nat
  cols : Nat
  fmt : W32
  mx : Bool
  mode : Nat
  map0 : Word
  map1 : Word
  deriving DecidableEq, Repr

/-- A result of a shape in the class format of the sources. -/
def plainRes (rows cols : Nat) (w : W32) : TRes := ⟨rows, cols, w, false, 0, 0, 0⟩

/-- The evictable node with the lowest sequence number and its value (10 R199). -/
def evictable (c : Core) : Option (Nat × Nat) :=
  let cand := c.th.tv.filterMap (fun p =>
    match p.2.st, p.2.home with
    | .pend q, some h =>
      let same := decide (srcFmt c (.node q) = (h.2, (tdOf h.1).mx))
      if same || !c.th.nodes.any (fun n => n.refs.contains q) then some (q, p.1) else none
    | _, _ => none)
  cand.foldl (fun m x => match m with | none => some x | some y => if x.1 < y.1 then some x else some y) none

/-- Blocks of the rows [r0, r0 + rows) and columns [c0, c0 + cols), in row-major order. -/
def blocksOf (r0 rows c0 cols : Nat) : List (Nat × Nat) :=
  (List.range ((r0 + rows - 1) / 16 + 1 - r0 / 16)).flatMap (fun i =>
    (List.range ((c0 + cols - 1) / 16 + 1 - c0 / 16)).map (fun j => (r0 / 16 + i, c0 / 16 + j)))

/-- An eviction asked of Teasel (10 R200). -/
def askEvict (q tv : Nat) (s : State) : State :=
  onCore (fun c =>
    if c.th.reqs.any (fun r => decide (r.kind = 2)) then c
    else
      let (rows, cols) := srcShape c (.node q)
      let r := { newReq 2 c s with src := .node q, rows := rows, cols := cols, region := (tvOf c tv).home, tv := tv,
                                   todo := blocksOf 0 rows 0 cols, total := 0 }
      { c with th := { c.th with reqs := c.th.reqs ++ [r] } }) s

/-- Is there a node and room in the checker (10 R199)? -/
def tableRoom (c : Core) (srcs : List TSrc) : Bool :=
  let new := srcs.flatMap (fun x => match x with | .leaf d f => leafRanges d f | _ => [])
  decide (c.th.nodes.length < 128) && decide ((heldRanges c ++ phaseRanges c ++ new).eraseDups.length ≤ 64)

/-- The node recorded; the destination value names it (10 R192). -/
def putNode (word : W32) (d : Nat) (srcs : List TSrc) (r : TRes) (s : State) : State :=
  onCore (fun c =>
    let sr := decide (r.mode = 4)
    let nd : TNode := { seq := c.th.nextSeq, word := word, pc := c.iss.pc, srcs := srcs, map0 := r.map0, map1 := r.map1,
                        rows := r.rows, cols := r.cols, fmt := r.fmt, mx := r.mx, mode := r.mode,
                        seed := if sr then c.th.seed else 0, blks := [], perm := false }
    let th := { c.th with nodes := c.th.nodes ++ [nd], nextSeq := c.th.nextSeq + 1,
                          seed := if sr then c.th.seed + 1 else c.th.seed }
    let c := { c with th := th }
    freeNodes (putTv d { tvOf c d with st := .pend nd.seq } c)) (cntEv 0x1F 1 s)

/-- A tile instruction: its sources checked, its result given by `f` from the sources' shapes and formats, its node
recorded (10 R192); `word` is its slot word. -/
def record (word : W32) (d : Nat) (xs : List Nat) (f : List (Nat × Nat) → List W32 → Option TRes) (s : State) : State :=
  let fs := xs.map (srcField s)
  let srcs := fs.filterMap Prod.fst
  let tds := fs.filterMap Prod.snd
  if !arenaOn s.core || srcs.length != fs.length || !tds.all (leafOk s) then illop s
  else
    match tds.findSome? (leafProt s) with
    | some fa => trap cPROT 0 fa s
    | none =>
      let fm := srcs.map (fun x => (srcFmt s.core x).1)
      if !fm.all (fun w => elemLegal (fmtOf w)) then illop s
      else
        match f (srcs.map (srcShape s.core)) fm with
        | none => illop s
        | some r =>
          let homeOk := match (tvOf s.core d).home with
            | some h => let t := tdOf h.1; decide (t.rows = r.rows ∧ t.cols = r.cols)
            | none => true
          if !homeOk then illop s
          else if tableRoom s.core srcs then putNode word d srcs r s
          else if s.core.th.reqs.any (fun r => decide (r.kind = 2)) then hold 0x33 s
          else
            match evictable s.core with
            | some (q, tv) => hold 0x33 (askEvict q tv (drain s))
            | none => trap cTOVF 0 s.core.iss.pc s

/-- The class format of one or two source formats (10 R194). -/
def classWord (ws : List W32) : W32 :=
  match ws with
  | [a] => accWord (fmtOf a).cont (fmtOf a).cont
  | a :: b :: _ => accWord (fmtOf a).cont (fmtOf b).cont
  | [] => fp32Word

/-- A source's shape of a one-source operation, and the class format. -/
def unary (f : Nat → Nat → W32 → Option TRes) (sh : List (Nat × Nat)) (ws : List W32) : Option TRes :=
  match sh with
  | [(r, c)] => f r c (classWord ws)
  | _ => none

def execTmm (g n d a b o : Nat) (s : State) : Out :=
  slotDo g n (record (tileWord 0x12 g n d a (4 * b + o)) d [a, b] (fun sh ws =>
    match sh with
    | [(r1, c1), (r2, c2)] =>
      let (m, k) := if o = 2 then (c1, r1) else (r1, c1)
      let (k2, nn) := if o = 1 then (c2, r2) else (r2, c2)
      if o ≤ 2 ∧ k = k2 then some (plainRes m nn (classWord ws)) else none
    | _ => none)) s

/-- TADD and TMUL: the shape of b by MB. -/
def binRes (m : Nat) (sh : List (Nat × Nat)) (ws : List W32) : Option TRes :=
  match sh with
  | [(r, c), b] =>
    if b = (if m = 0 then (r, c) else if m = 1 then (c, r) else if m = 2 then (1, c) else (r, 1)) then
      some (plainRes r c (classWord ws))
    else none
  | _ => none
def execTadd (g n d a b m : Nat) (s : State) : Out :=
  slotDo g n (record (tileWord 0x13 g n d a (4 * b + m)) d [a, b] (binRes m)) s
def execTmul (g n d a b m : Nat) (s : State) : Out :=
  slotDo g n (record (tileWord 0x14 g n d a (4 * b + m)) d [a, b] (binRes m)) s

def execTact (g n d a f : Nat) (s : State) : Out :=
  slotDo g n (record (tileWord 0x15 g n d a f) d [a] (unary (fun r c w =>
    if f ≤ 6 then some (plainRes r c w) else none))) s

def execTcvt (g n d a f r : Nat) (s : State) : Out :=
  let w := ftabWord s f
  let rm := if r = 7 then fpRm s else r
  slotDo g n (record (tileWord 0x16 g n d a (8 * f + r)) d [a] (unary (fun rows cols _ =>
    if elemLegal (fmtOf w) = true ∧ rm ≤ 4 then some ⟨rows, cols, w, false, rm, 0, 0⟩ else none))) s

def execTqnt (g n d a f r : Nat) (s : State) : Out :=
  let w := ftabWord s f
  let rm := if r = 7 then fpRm s else r
  slotDo g n (record (tileWord 0x17 g n d a (8 * f + r)) d [a] (unary (fun rows cols _ =>
    if elemLegal (fmtOf w) = true ∧ (fmtOf w).cont ≤ 8 ∧ (rm = 0 ∨ rm = 4) then some ⟨rows, cols, w, true, rm, 0, 0⟩
    else none))) s

def execTred (g n d a x o : Nat) (s : State) : Out :=
  slotDo g n (record (tileWord 0x18 g n d a (8 * x + o)) d [a] (unary (fun r c w =>
    if 2 < o then none else some (if x = 0 then plainRes 1 c w else plainRes r 1 w)))) s

def execTtopk (g n d a k x : Nat) (s : State) : Out :=
  slotDo g n (record (tileWord 0x19 g n d a (2 * k + x)) d [a] (unary (fun r c w =>
    if k + 1 ≤ c ∧ k + 1 ≤ 256 then some (plainRes r (k + 1) w) else none))) s

def execTsoft (g n d a : Nat) (s : State) : Out :=
  slotDo g n (record (tileWord 0x1A g n d a 0) d [a] (unary (fun r c w => some (plainRes r c w)))) s

def execTmap (g n d a m : Nat) (s : State) : Out :=
  let x := rdS s m
  let y := rdS s (m + 1)
  slotDo g n (record (tileWord 0x1B g n d a (8 * m)) d [a] (unary (fun _ _ w =>
    if fld x 63 48 = 0 ∧ fld y 63 32 = 0 then some ⟨fld y 15 0 + 1, fld y 31 16 + 1, w, false, 0, x, y⟩ else none))) s

/-! ### TFORCE and TSTORE (10 R202, R203) -/

/-- Acceptance of a request: its predicate, its bits cleared, its record reserved (08 R157). -/
def acceptReq (pd cb span : Nat) (r : TReq) (s : State) : State :=
  if (s.core.th.reqs.filter (fun r => decide (r.kind ≤ 1))).length < 8 ∧ evRoom s.core = true then
    let s := onTh (fun t => { t with reqs := t.reqs ++ [r] }) (reserveEv s)
    retAccept pd true (onCore (fun c => putCb cb (cbOf c cb &&& ~~~lowBits span) c) s)
  else retAccept pd false s

/-- A window of a value: the value's source with the window in its shape and at most 256 blocks (10 R202). -/
def windowOf (s : State) (v : Nat) (r0 rows c0 cols : Nat) : Option TSrc :=
  (tvOf s.core v).src.bind (fun x =>
    let (r, c) := srcShape s.core x
    if r0 + rows ≤ r ∧ c0 + cols ≤ c ∧ (blocksOf r0 rows c0 cols).length ≤ 256 then some x else none)

/-- Blocks a request has to see computed: none of a HOMED value. -/
def todoOf (x : TSrc) (r0 rows c0 cols : Nat) : List (Nat × Nat) :=
  match x with
  | .node _ => blocksOf r0 rows c0 cols
  | .leaf _ _ => []

def execTforce (g n p v t c k : Nat) (s : State) : Out :=
  slotDo g n (fun s =>
    let d := tdOf (rdTd s t)
    if !arenaOn s.core || decide (d.resv ≠ 0) then illop s
    else
      match windowOf s v d.row0 d.rows d.col0 d.cols with
      | none => illop s
      | some x =>
        let n := (blocksOf d.row0 d.rows d.col0 d.cols).length
        acceptReq p c n { newReq 0 s.core s with tag := k, cb := c, src := x, r0 := d.row0, c0 := d.col0, rows := d.rows,
                                                 cols := d.cols, todo := todoOf x d.row0 d.rows d.col0 d.cols, total := n,
                                                 preSet := true } s) s

/-- Chunks of 512 bytes that a region's elements lie in (08 R159). -/
def regionSpan (t : TD) (cs : Nat) : Nat := (t.base + t.bytes cs - 1) / 512 + 1 - t.base / 512

/-- First byte of a plain region that lies in an arena range. -/
def regionArena (c : Core) (region : BitVec 256 × W32) : Option Word :=
  if (tdOf region.1).virt then none
  else (leafRanges region.1 region.2).findSome? (fun r =>
    (leastOpt ((arenaRanges c).map (fun a => if a.1 = r.1 then meetAt r.2.1 r.2.2 a.2.1 a.2.2 else none))).map (spadAddr r.1))

/-- A store of a window of a value into a region whose descriptor has been checked. -/
def giveStore (p v c k : Nat) (region : BitVec 256 × W32) (r0 c0 : Nat) (s : State) : State :=
  let t := tdOf region.1
  let cs := (fmtOf region.2).cont
  match windowOf s v r0 t.rows c0 t.cols with
  | none => illop s
  | some x =>
    match regionArena s.core region with
    | some fa => trap cPROT 0 fa s
    | none =>
      if 256 < regionSpan t cs then illop s
      else
        acceptReq p c (regionSpan t cs)
          { newReq 1 s.core s with tag := k, cb := c, src := x, r0 := r0, c0 := c0, rows := t.rows, cols := t.cols,
                                   region := some region, todo := todoOf x r0 t.rows c0 t.cols, total := regionSpan t cs } s

def execTstore (g n p v t c k : Nat) (s : State) : Out :=
  slotDo g n (fun s =>
    let d := rdTd s t
    let w := tdOf d
    if arenaOn s.core then leafChecked w (giveStore p v c k (d, ftabWord s w.fmt) w.row0 w.col0) s else illop s) s

def execTstoreH (g n p v c k : Nat) (s : State) : Out :=
  slotDo g n (fun s =>
    match (tvOf s.core v).home with
    | some h => if arenaOn s.core then giveStore p v c k h 0 0 s else illop s
    | none => illop s) s

end Sys2Proof.Machine
end

