-- ==== Sys2Proof/Machine/Teasel.lean ====
section
/-!
DEFINITION. Machine/Teasel.lean: the demand engine: which block comes next, a block's values, writing a region, late
faults, completion (10 R194–R206).
-/
namespace Sys2Proof.Machine

/-! ### Maps and demand (10 R194, R201) -/

/-- A box of positions: first and last row, first and last column. -/
abbrev Box := Int × Int × Int × Int

/-- Affine map words of TMAP: offset and factors of rows, then of columns. -/
def mapRow (w : Word) (i j : Int) : Int := sgn 16 (fld w 15 0) + sgn 4 (fld w 35 32) * i + sgn 4 (fld w 39 36) * j
def mapCol (w : Word) (i j : Int) : Int := sgn 16 (fld w 31 16) + sgn 4 (fld w 43 40) * i + sgn 4 (fld w 47 44) * j

/-- Least and greatest of an affine function over a box of results. -/
def affineBox (f : Int → Int → Int) (i0 i1 j0 j1 : Int) : Int × Int :=
  let xs := [f i0 j0, f i0 j1, f i1 j0, f i1 j1]
  (xs.foldl (fun a x => if x < a then x else a) (f i0 j0), xs.foldl (fun a x => if a < x then x else a) (f i0 j0))

/-- The positions of source `k`, of shape R × C, that block (bi, bj) of a node reads, before clipping (10 Table 10-4). -/
def mapBox (n : TNode) (k R C bi bj : Nat) : Box :=
  let last := fun (b m : Nat) => if 16 * b + 15 < m then 16 * b + 15 else m - 1
  let i0 : Int := (16 * bi : Nat)
  let i1 : Int := (last bi n.rows : Nat)
  let j0 : Int := (16 * bj : Nat)
  let j1 : Int := (last bj n.cols : Nat)
  let r : Int := (R : Int) - 1
  let c : Int := (C : Int) - 1
  let o := n.low % 4
  if n.maj = 0x12 then
    if k = 0 then (if o = 2 then (0, r, i0, i1) else (i0, i1, 0, c))
    else (if o = 1 then (j0, j1, 0, c) else (0, r, j0, j1))
  else if n.maj = 0x13 ∨ n.maj = 0x14 then
    if k = 0 ∨ o = 0 then (i0, i1, j0, j1)
    else if o = 1 then (j0, j1, i0, i1) else if o = 2 then (0, 0, j0, j1) else (i0, i1, 0, 0)
  else if n.maj = 0x18 then (if n.low / 8 % 2 = 0 then (0, r, j0, j1) else (i0, i1, 0, c))
  else if n.maj = 0x19 ∨ n.maj = 0x1A then (i0, i1, 0, c)
  else if n.maj = 0x1B then
    let (a, b) := affineBox (mapRow n.map0) i0 i1 j0 j1
    let (d, e) := affineBox (mapCol n.map0) i0 i1 j0 j1
    (a, b, d, e)
  else (i0, i1, j0, j1)

/-- Blocks of a source that a block needs (10 R201). -/
def needBlocks (c : Core) (n : TNode) (k bi bj : Nat) : List (Nat × Nat) :=
  let (R, C) := srcShape c (nth (.node 0) n.srcs k)
  let (a, b, d, e) := mapBox n k R C bi bj
  let r0 := a.toNat
  let c0 := d.toNat
  let r1 := if b < R then b else (R : Int) - 1
  let c1 := if e < C then e else (C : Int) - 1
  if (r0 : Int) ≤ r1 ∧ (c0 : Int) ≤ c1 then blocksOf r0 (r1.toNat + 1 - r0) c0 (c1.toNat + 1 - c0) else []

def blkKey (b : Nat × Nat) : Nat := 65536 * b.1 + b.2
def TNode.has (n : TNode) (b : Nat × Nat) : Bool := (mfind? n.blks (blkKey b)).isSome

/-- Is a block computed? A node that is gone has nothing left to compute. -/
def blkDone (c : Core) (q : Nat) (b : Nat × Nat) : Bool := match nodeOf c q with | some n => n.has b | none => true

/-- Node sources of a node with their positions. -/
def TNode.nodeSrcs (n : TNode) : List (Nat × Nat) :=
  ((List.range n.srcs.length).zip n.srcs).filterMap (fun p => match p.2 with | .node q => some (p.1, q) | _ => none)

/-- A step of a demand (10 R201): a leaf source to be staged for a block, or a block to be computed. -/
inductive TAct where
  | stage (q : Nat) (b : Nat × Nat) (k : Nat)
  | compute (q : Nat) (b : Nat × Nat)
  deriving DecidableEq, Repr

/-- Is a leaf source of a block staged? -/
def stagedAt (r : TReq) (q : Nat) (b : Nat × Nat) (k : Nat) : Option Staged :=
  r.stg.find? (fun x => decide (x.node = q ∧ x.blk = blkKey b ∧ x.src = k))

/-- The next step for a block of a node: its sources in the order written, then the block itself (10 R201). -/
def nextAct : Nat → Core → TReq → Nat → Nat × Nat → Option TAct
  | 0, _, _, _, _ => none
  | k + 1, c, r, q, b =>
    match nodeOf c q with
    | none => none
    | some n =>
      if n.has b then none
      else
        (((List.range n.srcs.length).zip n.srcs).findSome? (fun p =>
          match p.2 with
          | .node x => (needBlocks c n p.1 b.1 b.2).findSome? (fun y => nextAct k c r x y)
          | .leaf _ _ => if (stagedAt r q b p.1).isSome then none else some (.stage q b p.1))).orElse
          (fun _ => some (.compute q b))

/-- Computed blocks that the demand of a block still has to consume. -/
def pinned : Nat → Core → Nat → Nat × Nat → List (Nat × Nat)
  | 0, _, _, _ => []
  | k + 1, c, q, b =>
    match nodeOf c q with
    | none => []
    | some n =>
      if n.has b then [(q, blkKey b)]
      else n.nodeSrcs.flatMap (fun x => (needBlocks c n x.1 b.1 b.2).flatMap (fun y => pinned k c x.2 y))

/-! ### Values of sources -/

/-- A source as values and, for a region of the same format, as bits and scale bytes. -/
structure SrcRd where
  val : Nat → Nat → Num
  raw : Nat → Nat → Nat
  sc : Nat → Nat → Nat

def noSrc : SrcRd := ⟨fun _ _ => .zero false, fun _ _ => 0, fun _ _ => 127⟩

/-- The block of a node that holds an element. -/
def TNode.blk (n : TNode) (i j : Nat) : TBlk := (mfind? n.blks (65536 * (i / 16) + j / 16)).getD ⟨[], 127⟩

/-- A node's computed blocks; a position outside its shape reads +0. -/
def nodeRd (n : TNode) : SrcRd :=
  let f := fmtOf n.fmt
  let raw := fun i j => nth 0 (n.blk i j).els (16 * (i % 16) + j % 16)
  { val := fun i j => if i < n.rows ∧ j < n.cols then
      (if n.mx then mxScaled f (n.blk i j).scale (raw i j) else decodeF f (raw i j)) else .zero false,
    raw := raw, sc := fun bi bj => (n.blk (16 * bi) (16 * bj)).scale }

/-- A leaf read through a reader of bytes by address. -/
def leafRd (d : BitVec 256) (w : W32) (rd : Nat → Byte) : SrcRd :=
  let t := tdOf d
  let f := fmtOf w
  let at_ := fun base o => rd ((base + o) % 2 ^ 64)
  { val := fun i j => if i < t.rows ∧ j < t.cols then t.value f (at_ t.base) (at_ t.sbase) i j else .zero false,
    raw := fun i j => bitsAt (at_ t.base) (t.bitOff f.cont i j) f.cont,
    sc := fun bi bj => (at_ t.sbase (t.scaleOff bi bj)).toNat }

/-- Elements of a block within a shape. -/
def blkElems (R C : Nat) (b : Nat × Nat) : List (Nat × Nat) :=
  (List.range 16).flatMap (fun i => (List.range 16).filterMap (fun j =>
    if 16 * b.1 + i < R ∧ 16 * b.2 + j < C then some (16 * b.1 + i, 16 * b.2 + j) else none))

/-- Byte runs (first byte, byte after) of the elements and scales of blocks of a leaf, as addresses. -/
def leafBytes (d : BitVec 256) (w : W32) (bs : List (Nat × Nat)) : List (Nat × Nat) :=
  let t := tdOf d
  let cs := (fmtOf w).cont
  bs.flatMap (fun b => (blkElems t.rows t.cols b).map (fun p =>
      let o := t.bitOff cs p.1 p.2
      (t.base + o / 8, t.base + (o + cs - 1) / 8 + 1)) ++
    (if t.mx then [(t.sbase + t.scaleOff b.1 b.2, t.sbase + t.scaleOff b.1 b.2 + 1)] else []))

/-- A leaf read from lines staged for it. -/
def stagedRd (d : BitVec 256) (w : W32) (m : SMap (List Byte)) : SrcRd := leafRd d w (fun a => nth 0 (mget [] m (a / 64)) (a % 64))

/-- Blocks of a leaf read, line by line: a fault, or the lines. A scratchpad leaf is checked against the phase (23 R371). -/
def readLeaf (d : BitVec 256) (w : W32) (bs : List (Nat × Nat)) (r : TReq) (rem : List Byte) (s : State) :
    (EngFault ⊕ SMap (List Byte)) × State :=
  let runs := leafBytes d w bs
  let ls := (runs.flatMap (fun p => [p.1 % 2 ^ 64 / 64, (p.2 - 1) % 2 ^ 64 / 64])).foldl
    (fun m l => if m.contains l then m else m ++ [l]) []
  if (tdOf d).virt then readLines s.focus r.ttb r.sup ls rem [] s
  else
    let bad := if s.core.phase.isEmpty then none else
      runs.findSome? (fun p => (phaseBad s.core 3 false (p.1 / 2 ^ 20 % 4) (p.1 % 2 ^ 20) (p.1 % 2 ^ 20 + (p.2 - p.1))).map
        (fun x => spadAddr (p.1 / 2 ^ 20 % 4) x))
    match bad with
    | some fa => (.inl (cPHASECONF, 0, fa), s)
    | none => (.inr (ls.foldl (fun m l => mput m l (spadBytes s.core (l * 64 / 2 ^ 20 % 4) (l * 64 % 2 ^ 20) 64)) []), s)

/-- The sources of a block: nodes' blocks, and leaves as staged. -/
def srcsOf (c : Core) (r : TReq) (n : TNode) (b : Nat × Nat) : List SrcRd :=
  ((List.range n.srcs.length).zip n.srcs).map (fun p =>
    match p.2 with
    | .node q => match nodeOf c q with | some m => nodeRd m | none => noSrc
    | .leaf d w => match stagedAt r n.seq b p.1 with | some x => stagedRd d w x.lines | none => noSrc)

/-! ### Operations (10 R195–R198) -/

/-- The greater or lesser as VFMAX and VFMIN choose (05 R98). -/
def pickN (max : Bool) (x y : Num) : Num :=
  if x = .nan ∨ y = .nan then .nan
  else
    let c := cmpN x y
    let less := decide (c < 0) || (decide (c = 0) && x.neg? && !y.neg?)
    if less != max then x else y

/-- The exact sum of elements with the specials of 02 R38 and no C (10 R196). -/
def sumAll (xs : List Num) : Num × Flags5 :=
  let pos := xs.any (fun x => decide (x = .inf false))
  let neg := xs.any (fun x => decide (x = .inf true))
  if pos && neg then (.nan, flIV)
  else if xs.any (fun x => decide (x = .nan)) then (.nan, flNone)
  else if pos || neg then (.inf neg, flNone)
  else
    let t := xs.foldl (fun a x => dyAdd a (dyOf x)) (0, 0)
    if t.1 = 0 then (.zero (xs.all (fun x => x.isZero && x.neg?)), flNone)
    else (.fin (decide (t.1 < 0)) t.1.natAbs t.2 false, flNone)

/-- TACT's function (10 R196). -/
def actN (f : Nat) (x : Num) : Num × Flags5 :=
  let pos := decide (x ≠ .nan) && !x.neg? && !x.isZero
  if x = .nan then (.nan, flNone)
  else if f = 0 then (if pos then x else .zero false, flNone)
  else if f = 1 then sigmN x
  else if f = 2 then tanhN x
  else if f = 3 then expN x
  else if f = 4 then siluN x
  else if f = 5 then geluN x
  else (if pos then .fin false 1 0 false else .zero false, flNone)

/-- TSOFT's element `j` of a row. -/
def softAt (xs : List Num) (j : Nat) : Num × Flags5 :=
  let infs := (xs.filter (fun x => decide (x = .inf false))).length
  if xs.any (fun x => decide (x = .nan)) then (.nan, flNone)
  else if 0 < infs then
    (if nth .nan xs j = .inf false then divN (.fin false 1 0 false) (.ofInt infs) else (.zero false, flNone))
  else if xs.all (fun x => decide (x = .inf true)) then (.nan, flIV)
  else (softN xs j, flNone)

/-- Does (i, x) rank above (j, y) (10 R198)? -/
def ranksAbove (p q : Nat × Num) : Bool :=
  match p.2, q.2 with
  | .nan, .nan => decide (p.1 < q.1)
  | .nan, _ => true
  | _, .nan => false
  | x, y => let c := cmpN x y; decide (0 < c) || (decide (c = 0) && decide (p.1 < q.1))

/-- The elements of the first `k` ranks. -/
def topK : Nat → List (Nat × Num) → List (Nat × Num)
  | 0, _ => []
  | _, [] => []
  | k + 1, p :: r =>
    let b := r.foldl (fun b q => if ranksAbove q b then q else b) p
    b :: topK k ((p :: r).filter (fun q => decide (q.1 ≠ b.1)))

/-- Element (m, n) of a product by segments of 128 k (10 R195). -/
def productAt (ca cb o K : Nat) (a b : SrcRd) (m n : Nat) : Nat × Flags5 :=
  let nseg := cdiv K 128
  let pair := fun k => if k < K then
      (if o = 2 then a.val k m else a.val m k, if o = 1 then b.val n k else b.val k n) else (.zero false, .zero false)
  accSegs (accFmt ca cb) (accWindow ca cb)
    ((List.range nseg).map (fun g => (List.range 128).map (fun k => pair (128 * g + k)))) 0 flNone

/-- Element (i, j) of a node's result with its flags; TQNT apart. `sh` and `fm` are the sources' shapes and formats. -/
def elemAt (n : TNode) (sh : List (Nat × Nat)) (fm : List W32) (rs : List SrcRd) (i j : Nat) : Nat × Flags5 :=
  let f := fmtOf n.fmt
  let a := nth noSrc rs 0
  let b := nth noSrc rs 1
  let (R, C) := nth (1, 1) sh 0
  let put := fun (r : Num × Flags5) => let (x, fl) := rneF f r.1; (x, fl ||| r.2)
  let row := (List.range C).map (fun k => a.val i k)
  let o := n.low % 4
  if n.maj = 0x12 then
    productAt (fmtOf (nth 0 fm 0)).cont (fmtOf (nth 0 fm 1)).cont o (if o = 2 then R else C) a b i j
  else if n.maj = 0x13 ∨ n.maj = 0x14 then
    let y := if o = 0 then b.val i j else if o = 1 then b.val j i else if o = 2 then b.val 0 j else b.val i 0
    put (if n.maj = 0x13 then addN (a.val i j) y false else mulN (a.val i j) y)
  else if n.maj = 0x15 then put (actN (n.low % 16) (a.val i j))
  else if n.maj = 0x16 then
    let (x, fl, _) := encodeF f (a.val i j) n.mode (seedState (n.seed.setWidth 64) (65536 * i + j))
    (x, fl)
  else if n.maj = 0x18 then
    let xs := if n.low / 8 % 2 = 0 then (List.range R).map (fun k => a.val k j) else row
    if n.low % 8 = 0 then put (sumAll xs)
    else put (match xs with | x :: r => r.foldl (pickN (decide (n.low % 8 = 1))) x | [] => .nan, flNone)
  else if n.maj = 0x19 then
    let (c, x) := nth (0, .nan) (topK (j + 1) ((List.range C).zip row)) j
    put (if n.low % 2 = 1 then .ofInt c else x, flNone)
  else if n.maj = 0x1A then put (softAt row j)
  else
    let r := mapRow n.map0 i j
    let c := mapCol n.map0 i j
    put (if 0 ≤ r ∧ r < R ∧ 0 ≤ c ∧ c < C then a.val r.toNat c.toNat else .zero false, flNone)

/-- Block (bi, bj) of a node (10 R194–R198) and its flags. -/
def blockVals (c : Core) (n : TNode) (rs : List SrcRd) (b : Nat × Nat) : TBlk × Flags5 :=
  let ps := blkElems n.rows n.cols b
  let fill := fun (xs : List ((Nat × Nat) × Nat)) => (List.range 256).map (fun k =>
    match xs.find? (fun x => decide (x.1 = (16 * b.1 + k / 16, 16 * b.2 + k % 16))) with | some x => x.2 | none => 0)
  if n.maj = 0x17 then
    let f := fmtOf n.fmt
    let v := fun p : Nat × Nat => (nth noSrc rs 0).val p.1 p.2
    let (sc, fl0) := mxScale f (ps.map v)
    let xs := ps.map (fun p => (p, mxElem f sc (v p) n.mode (seedState (n.seed.setWidth 64) (65536 * p.1 + p.2))))
    (⟨fill (xs.map (fun x => (x.1, x.2.1))), sc⟩, xs.foldl (fun a x => a ||| x.2.2.1) fl0)
  else
    let sh := n.srcs.map (srcShape c)
    let fm := n.srcs.map (fun x => (srcFmt c x).1)
    let xs := ps.map (fun p => (p, elemAt n sh fm rs p.1 p.2))
    (⟨fill (xs.map (fun x => (x.1, x.2.1))), 127⟩, xs.foldl (fun a x => a ||| x.2.2) flNone)

/-! ### The head request -/

def onReq (f : TReq → TReq) : State → State := onTh (fun t =>
  { t with reqs := match t.reqs with | r :: q => f r :: q | [] => [] })

def onNode (q : Nat) (f : TNode → TNode) (c : Core) : Core :=
  { c with th := { c.th with nodes := c.th.nodes.map (fun n => if n.seq = q then f n else n) } }

/-- Every block of a node, in order. -/
def allBlocks (c : Core) (q : Nat) : List (Nat × Nat) :=
  match nodeOf c q with | some n => blocksOf 0 n.rows 0 n.cols | none => []
def wholeDone (c : Core) (q : Nat) : Bool := (allBlocks c q).all (blkDone c q)

/-- Pending nodes whose source ranges meet a region (10 R203). -/
def regionNodes (c : Core) (d : BitVec 256) (w : W32) : List Nat :=
  ((leafRanges d w).flatMap (fun r => hazardNodes c r.1 r.2.1 r.2.2)).eraseDups

/-- Is the block of the value that a request stands for computed? -/
def todoDone (c : Core) (r : TReq) (b : Nat × Nat) : Bool := match r.src with | .node q => blkDone c q b | .leaf _ _ => true

/-- Bits of a force set for blocks `k` of the window (10 R202). -/
def setForceBits (r : TReq) (lo n : Nat) (c : Core) : Core :=
  if r.kind = 0 then (List.range n).foldl (fun c i => putCb r.cb (cbOf c r.cb ||| BitVec.ofNat 256 (2 ^ (lo + i))) c) c else c

/-- The head request with everything done taken off: nodes to force are looked up; forced nodes release their leaves and
keep their blocks (10 R203, R205); computed blocks of the window set their bits, and are kept for the region. -/
def teaselNorm (s : State) : State :=
  match s.core.th.reqs with
  | [] => s
  | r :: _ =>
    let pre := match r.region with
      | some g => if r.preSet then r.pre else regionNodes s.core g.1 g.2
      | none => r.pre
    let done := pre.takeWhile (wholeDone s.core)
    let left := pre.drop done.length
    let s := onCore (fun c => done.foldl (fun c q => onNode q (fun n => { n with perm := true }) c) c) s
    if !left.isEmpty then onReq (fun r => { r with pre := left, preSet := true }) s
    else
      let k := (r.todo.takeWhile (todoDone s.core r)).length
      let s := onCore (setForceBits r (r.total - r.todo.length) k) s
      let kept := match r.src with
        | .node q => match nodeOf s.core q with
          | some n => if r.region.isNone then r.kept
              else (r.todo.take k).foldl (fun m b => match mfind? n.blks (blkKey b) with | some x => mput m (blkKey b) x | none => m) r.kept
          | none => r.kept
        | .leaf _ _ => r.kept
      onReq (fun r => { r with pre := left, preSet := true, todo := r.todo.drop k, kept := kept }) s

/-- The next step of the head request, with the node forced and the block demanded. -/
def nextWork (c : Core) (r : TReq) : Option (Nat × (Nat × Nat) × TAct) :=
  let go := fun q b => (nextAct 130 c r q b).map (fun x => (q, b, x))
  match r.pre with
  | q :: _ => (allBlocks c q).findSome? (go q)
  | [] =>
    match r.todo, r.src with
    | b :: _, .node q => go q b
    | _, _ => none

/-- Bytes the W range must hold while block `b` of a product is computed: its B operand, unless that lies in the
W-buffer (10 R190, R201). -/
def stageNeed (c : Core) (n : TNode) (b : Nat × Nat) : Nat :=
  let x := nth (.node 0) n.srcs 1
  let inW := match x with | .leaf d _ => let t := tdOf d; !t.virt && decide (t.base / 2 ^ 20 = 0) | .node _ => false
  if inW then 0 else (needBlocks c n 1 b.1 b.2).length * blkBytes (srcFmt c x).1

/-- Cached blocks given up, lowest first, until the A range has room for one more (10 R201); `whole` is a node that must stay
whole. -/
def makeRoom (c : Core) (pins : List (Nat × Nat)) (whole : Option Nat) (need limit : Nat) : Core :=
  let cand := c.th.nodes.flatMap (fun n =>
    if n.perm || decide (some n.seq = whole) then [] else (n.blks.map (fun p => (n.seq, p.1))).filter (fun p => !pins.contains p))
  cand.foldl (fun c p =>
    if arenaUsed c + need ≤ limit then c else onNode p.1 (fun n => { n with blks := mdel n.blks p.2 }) c) c

/-- A unit of Teasel's work: nothing to do, a fault with the bundle it is reported for, a wait, or done. -/
inductive TUnit where
  | none
  | bad (f : EngFault) (pc : Word)
  | wait
  | did (s : State)

/-- Planes that a product's block loads lose their loaded bit (09 R176). -/
def takePlanes (multi : Bool) (m : MatSt) : MatSt :=
  let off := fun (p : Plane) => { p with loaded := false }
  { m with p0 := if m.act = 1 ∨ multi = true then off m.p0 else m.p0,
           p1 := if m.act = 0 ∨ multi = true then off m.p1 else m.p1 }

/-- A leaf source of a block staged. -/
def stageUnit (r : TReq) (rem : List Byte) (q : Nat) (b : Nat × Nat) (k : Nat) (s : State) : TUnit :=
  match nodeOf s.core q with
  | none => .none
  | some n =>
    match nth (.node 0) n.srcs k with
    | .node _ => .none
    | .leaf d w =>
      match readLeaf d w (needBlocks s.core n k b.1 b.2) r rem s with
      | (.inl f, _) => .bad f n.pc
      | (.inr m, s) => .did (onReq (fun r => { r with stg := r.stg ++ [⟨q, blkKey b, k, m⟩] }) s)

/-- First byte of an arena range that a phase keeps from Teasel's reads or writes (23 R371). Where in its ranges Teasel puts a block
the spec does not say, so the whole range counts (DESIGN CHOICE, log 130). -/
def arenaPhase (c : Core) (wr : Bool) (k : Nat) : Option Word :=
  let (b, lo, n) := nth (0, 0, 0) (arenaKib c.th.arenaA c.th.arenaB) k
  (phaseBad c 3 wr b (lo * 1024) ((lo + n) * 1024)).map (spadAddr b)

/-- One block computed (10 R201, R206). -/
def computeUnit (r : TReq) (top : Nat) (want : Nat × Nat) (q : Nat) (b : Nat × Nat) (s : State) : TUnit :=
  match nodeOf s.core q with
  | none => .none
  | some n =>
    let mm := decide (n.maj = 0x12)
    if mm && !r.busy && !s.core.mx.flight.isEmpty then .wait
    else
      let rs := srcsOf s.core r n b
      let kib := fun (k : Nat) => (nth (0, 0, 0) (arenaKib s.core.th.arenaA s.core.th.arenaB) k)
      let size := fun k => (kib k).2.2 * 1024
      let full := fun k => TUnit.bad (cARENA, 0, spadAddr (kib k).1 ((kib k).2.1 * 1024)) n.pc
      match (if mm then [2, 1, 0] else [0]).findSome? (arenaPhase s.core true) with
      | some fa => .bad (cPHASECONF, 0, fa) n.pc
      | none =>
        if mm && decide (size 2 < stageNeed s.core n b) then full 2
        else if mm && decide (size 1 < blkBytes n.fmt) then full 1
        else
          let c := makeRoom s.core (pinned 130 s.core top want) (if r.pre.isEmpty then none else some top) (blkBytes n.fmt) (size 0)
          if size 0 < arenaUsed c + blkBytes n.fmt then full 0
          else
            let (v, fl) := blockVals s.core n rs b
            let sh := srcShape s.core (nth (.node 0) n.srcs 0)
            let multi := mm && decide (128 < (if n.low % 4 = 2 then sh.1 else sh.2))
            let c := onNode q (fun n => { n with blks := mput n.blks (blkKey b) v }) c
            let c := pmAdd 0x20 1 (if mm then { c with mx := takePlanes multi c.mx } else c)
            .did (onReq (fun r =>
                { r with blocks := r.blocks + 1, busy := r.busy || mm, flags := r.flags ||| fl,
                         stg := r.stg.filter (fun x => decide (x.node ≠ q ∨ x.blk ≠ blkKey b)) })
              { s with core := c })

/-! ### Regions (10 R203) -/

/-- The lines of a region with the window of a source, and flags. -/
def regionLines (r : TReq) (g : BitVec 256 × W32) (src : W32 × Bool) (x : SrcRd) : List OutLine × Flags5 :=
  let t := tdOf g.1
  let f := fmtOf g.2
  let same := decide (src = (g.2, t.mx)) && (!t.mx || decide (r.r0 % 16 = 0 ∧ r.c0 % 16 = 0))
  let val := fun i j => x.val (r.r0 + i) (r.c0 + j)
  let sc := fun bi bj => if same then (x.sc (r.r0 / 16 + bi) (r.c0 / 16 + bj), flNone)
    else blockScale f t.rows t.cols val bi bj
  let (bits, fl) := ((List.range t.rows).flatMap (fun i => (List.range t.cols).map (fun j => (i, j)))).foldl
    (fun (m : SMap (Nat × Nat) × Flags5) p =>
      let (b, fl) := if same then (x.raw (r.r0 + p.1) (r.c0 + p.2) % 2 ^ f.width, flNone)
        else if t.mx then
          let (b, fl, _) := mxElem f (sc (p.1 / 16) (p.2 / 16)).1 (val p.1 p.2) 0 0
          (b, fl)
        else rneF f (val p.1 p.2)
      (putBits (8 * t.base + t.bitOff f.cont p.1 p.2) f.cont b m.1, m.2 ||| fl)) ([], flNone)
  let (sb, fl) := if t.mx then
      ((List.range (cdiv t.rows 16)).flatMap (fun i => (List.range (cdiv t.cols 16)).map (fun j => (i, j)))).foldl
        (fun (m : SMap (Nat × Nat) × Flags5) p =>
          let (b, f) := sc p.1 p.2
          (putBits (8 * (t.sbase + t.scaleOff p.1 p.2)) 8 b m.1, m.2 ||| f)) ([], fl)
    else ([], fl)
  ((mergeLines sb bits).map (fun p =>
    ({ sp := if t.virt then 0 else 1, addr := wd (p.1 * 64), mask := p.2.1, val := p.2.2, adds := [],
       own := (mget (0, 0) bits p.1).1 } : OutLine)), fl)

/-- Chunk of a line in the span of a TSTORE's region, if it lies there (08 R159). -/
def regionChunk (g : BitVec 256 × W32) (total : Nat) (o : OutLine) : Option Nat :=
  let lo := (tdOf g.1).base / 512
  let l := o.addr.toNat / 512
  if lo ≤ l ∧ l - lo < total then some (l - lo) else none

/-- The bundle that a fault on a request's region names: the TSTORE, or the one that recorded the evicted node (10 Table
10-6). -/
def regionPc (c : Core) (r : TReq) : Word :=
  match r.kind, r.src with
  | 2, .node q => match nodeOf c q with | some n => n.pc | none => r.pc
  | _, _ => r.pc

/-- The lines of a request's region worked out. -/
def planUnit (r : TReq) (g : BitVec 256 × W32) (rem : List Byte) (s : State) : TUnit :=
  let fin := fun (x : SrcRd) (s : State) =>
    let (out, fl) := regionLines r g (srcFmt s.core r.src) x
    TUnit.did (onReq (fun r => { r with planned := true, out := out, gap := chunkGap r.total (out.map (regionChunk g r.total)),
                                        flags := r.flags ||| fl }) s)
  match r.src with
  | .node q =>
    match if r.kept.isEmpty then none else arenaPhase s.core false 0 with
    | some fa => .bad (cPHASECONF, 0, fa) (regionPc s.core r)
    | none => fin (match nodeOf s.core q with | some n => nodeRd { n with blks := r.kept } | none => noSrc) s
  | .leaf d w =>
    match readLeaf d w (blocksOf r.r0 r.rows r.c0 r.cols) r rem s with
    | (.inl f, _) => .bad f r.pc
    | (.inr m, s) => fin (stagedRd d w m) s

/-- Who writes for Teasel: its shadows are kept apart from the copy engine's. -/
def teaselWho (s : State) (cls : Nat) : Who := { whoCore s.core cls with key := 4096 + s.focus }

/-- A region line landed: its chunk's bit is set once no line of the chunk is left (10 R203, 08 R159, R160). -/
def regionLanded (r : TReq) (g : BitVec 256 × W32) (o : OutLine) (s : State) : State :=
  let s := onReq (fun r => { r with out := r.out.erase o, sent := r.sent.erase o }) s
  match if r.kind = 1 then regionChunk g r.total o else none with
  | none => s
  | some n =>
    if ((r.out ++ r.sent).filter (fun x => decide (regionChunk g r.total x = some n))).length ≤ 1 then
      onCore (fun z => putCb r.cb (cbOf z r.cb ||| BitVec.ofNat 256 (2 ^ n)) z) s
    else s

/-- One line of a region written. -/
def landUnit (r : TReq) (g : BitVec 256 × W32) (s : State) : TUnit :=
  match r.out with
  | [] => .none
  | o :: _ =>
    if o.sp = 0 then
      match engTrans s.focus r.ttb r.sup .wr o.addr s with
      | (.inl f, _) => .bad f (regionPc s.core r)
      | (.inr (a, e), s) =>
        match engWrite (teaselWho s (leafCls e)) (Tr.ok a e).rem o.addr a o.mask o.val s with
        | .bad f => .bad f (regionPc s.core r)
        | .wait _ => .wait
        | .sent p s => .did (onReq (fun r => { r with out := r.out.erase o, sent := r.sent ++ [o],
                                                      far := if r.far.contains p then r.far else r.far ++ [p] }) s)
        | .done s _ _ => .did (regionLanded r g o s)
    else
      let b := o.addr.toNat / 2 ^ 20 % 4
      let off := o.addr.toNat % 2 ^ 20
      let bad := if s.core.phase.isEmpty then none else
        (byteRuns 0 (maskBytes o.mask) (leBytes 64 o.val)).findSome? (fun p =>
          phaseBad s.core 3 true b (off + p.1) (off + p.1 + p.2.length))
      match bad with
      | some x => .bad (cPHASECONF, 0, spadAddr b x) (regionPc s.core r)
      | none =>
        if asyncRoom s.time s.core (ownPorts b off 64) then
          .did (regionLanded r g o (onCore (asyncPut s.time 3 s.focus (ownPorts b off 64) b off o.mask o.val) s))
        else .wait

/-- The next unit of the head request. -/
def teaselUnit (r : TReq) (rem : List Byte) (s : State) : TUnit :=
  match nextWork s.core r with
  | some (_, _, .stage q b k) => stageUnit r rem q b k s
  | some (top, want, .compute q b) => computeUnit r top want q b s
  | none =>
    match r.region with
    | none => .none
    | some g => if r.planned then landUnit r g s else planUnit r g rem s

/-! ### Steps -/

/-- One block is computed, or one line of a region written. `remote` holds lines of other packages that are read. -/
def execTeaselBlockComputed (remote : List Byte) (s : State) : Out :=
  let s := teaselNorm s
  .next (match s.core.th.reqs with
    | [] => s
    | r :: _ =>
      if r.held then s
      else
        match teaselUnit r remote s with
        | .did t => teaselNorm t
        | _ => s)

/-- A fault found in the work at hand: it is held, and reported late (10 R206). -/
def execTeaselLateFault (s : State) : Out :=
  let s := teaselNorm s
  .next (match s.core.th.reqs with
    | [] => s
    | r :: _ =>
      if r.held then s
      else
        match teaselUnit r [] s with
        | .bad (c, d, fa) pc =>
          let s := onReq (fun r => { r with held := true, busy := false }) s
          onEv (fun e => { e with late := e.late ++ [⟨c, d, fa, pc, 13, r.fpc, 2⟩] }) s
        | _ => s)

/-- The head request leaves; nodes only it used are freed. -/
def dropReq : State → State := onCore (fun c => freeNodes { c with th := { c.th with reqs := c.th.reqs.drop 1 } })

/-- A value evicted: HOMED, where it still names the evicted node, and every node that referred to its node reads its home (10
R200). Its ranges are entered in the checker also past 64 (DESIGN CHOICE, log 154: 10 R199 and R200 do not say what a full checker
does then). -/
def evictDone (r : TReq) (g : BitVec 256 × W32) : State → State := onCore (fun c =>
  let v := tvOf c r.tv
  let c := match v.st, r.src with
    | .pend q, .node e => if q = e then putTv r.tv { v with st := .homed } c else c
    | _, _ => c
  let swap := fun (x : TSrc) => if x = r.src then .leaf g.1 g.2 else x
  pmAdd 0x26 1 { c with th := { c.th with nodes := c.th.nodes.map (fun n => { n with srcs := n.srcs.map swap }) } })

/-- Bits a request sets at its end: those of a TFORCE of a value that has no block to compute, and the chunks of a TSTORE that no
line of it lies in (10 R202, 08 R160). -/
def endBits (r : TReq) : BitVec 256 :=
  if r.kind = 0 then (match r.src with | .leaf _ _ => lowBits r.total | .node _ => 0) else r.gap

/-- The head request completes (10 R204). -/
def closeTeasel (r : TReq) (s : State) : State :=
  let s := publish (fun x => decide (x.owner = 4096 + s.focus) && !x.bound) s.core.pm.open_ s
  let s := onCore (setMatf r.flags) s
  if r.kind ≤ 1 then
    let s := onCore (fun c => putCb r.cb (cbOf c r.cb ||| endBits r) c) s
    let st := if r.kind = 0 ∧ r.blocks = 0 then 1 else 0
    dropReq (onCore (postEv (evRec (2 + r.kind) r.tag st (r.cb * 2) r.blocks)) s)
  else if r.kind = 2 then dropReq (match r.region with | some g => evictDone r g s | none => s)
  else dropReq (onCore (pmAdd 0x27 1) s)

/-- The head request completes, once the lines it sent to other packages are published there (13 Table 13-3). -/
def finishTeasel (r : TReq) (s : State) : State :=
  if !r.far.isEmpty then
    onReq (fun r => { r with far := [], told := true }) (r.far.foldl (fun s p => tell p kPublish (4096 + s.focus) [] s) s)
  else if inFlight s (fun q => match q with | .tell c n a _ => decide (c = s.focus ∧ n = kPublish ∧ a = 4096 + s.focus) | _ => false) then s
  else closeTeasel r s

/-- The answer to a line of a region that Teasel of the core in focus sent to another package, as for the copy engine. -/
def teaselAnswer (va : Word) (refused : Nat) (s : State) : State :=
  match s.core.th.reqs with
  | [] => s
  | r :: _ =>
    match r.sent.find? (fun o => decide (o.addr = va)), r.region with
    | some o, some g =>
      if refused = 2 then
        onEv (fun e => { e with late := e.late ++ [⟨cENTRY, 0, va, regionPc s.core r, 13, r.fpc, 2⟩] })
          (onReq (fun r => { r with sent := r.sent.erase o, out := r.out ++ [o], held := true, busy := false }) s)
      else
        regionLanded r g o (if refused = 0 then s else fenceFail (decide (refused = 1)) s.focus s)
    | _, _ => s

def execTeaselRequestCompletion (s : State) : Out :=
  let s := teaselNorm s
  .next (match s.core.th.reqs with
    | [] => s
    | r :: _ =>
      if r.held || !r.pre.isEmpty || !r.todo.isEmpty || (r.region.isSome && (!r.planned || !r.out.isEmpty || !r.sent.isEmpty)) then s
      else finishTeasel r s)

end Sys2Proof.Machine
end

