-- ==== Sys2Proof/Machine/Links.lean ====
section
/-!
DEFINITION. Machine/Links.lean: torus links and flits (21 R342–R346), packets and their end-to-end acknowledgement (21 R347,
R348), what another package's request does at this package's homes (12 R222, 13 R251–R253), and link status (21 R360).
-/
namespace Sys2Proof.Machine

/-! ### LNKST (21 R360) -/

/-- The status word of a link. -/
def linkWord (s : State) (i : Nat) : Word :=
  if 12 ≤ i then 0
  else let l := linkAt s i; wd (l.st + 4 * b2n (recov s) + l.efail * 2 ^ 16 + l.retry * 2 ^ 32)

def execLnkst (g n d a : Nat) (s : State) : Out :=
  slotDo g n (fun s => if s.core.ctl then illop s else retDev d (linkWord s (fld (rdS s a) 3 0)) s) s

/-! ### What comes of a packet (21 R345, R347, R348) -/

/-- RECOV changes once nothing is in flight (21 R346). -/
def drained (s : State) : State :=
  match s.ctl.podNext with
  | some v => if netQuiet s then onCtl (fun c => { c with podcfg := v, podNext := none }) s else s
  | none => s

/-- A packet is no longer in flight. -/
def dropPkt (dst eseq : Nat) (s : State) : State :=
  drained (onNet (fun n => { n with pkts := n.pkts.filter (fun p => !decide (p.dst = dst ∧ p.eseq = eseq)) }) s)

/-- Is the packet the last access its core asked for? -/
def lastAsk (s : State) (p : Pkt) : Bool :=
  match p.req with
  | .ask c _ _ _ _ =>
    match (s.net.pkts.filter (fun q => match q.req with | .ask d _ _ _ _ => decide (d = c) | _ => false)).getLast? with
    | some q => decide (q = p)
    | none => false
  | _ => false

/-- The reply of an access its core waits for, or none when it failed. -/
def answer (core : Nat) (r : Option Nat) : State → State := onCoreAt core (fun c =>
  if c.cm.rem = some none then { c with cm := { c.cm with rem := some (some r) } } else c)

/-- A continuation's re-home message is answered with the number of entries its home will deliver. -/
def homeAnswer (core : Nat) (data : List Byte) (n : Nat) (s : State) : State :=
  if data[8]? = some 1 ∧ whereIs s (leAt data 0 4) (leAt data 4 4) = some core then
    onCoreAt core (fun c => { c with cm := { c.cm with due := c.cm.due + n } }) s
  else s

/-- What an answer means to the requester of a packet that is gone. `st`: 0 done, 1 refused by the package, 2 refused at a bound
line, 3 failed. A failed message that nobody waits for with a register is lost, but a publication's, which is recorded as a failed
store is. -/
def tellDone (last : Bool) (req : PktReq) (st reply : Nat) (s : State) : State :=
  match req with
  | .store c _ _ _ by_ =>
    if st = 0 then s
    else
      match st, by_ with
      | 2, some (pc, va) => onCoreAt c (fun c => { c with ev := { c.ev with late := c.ev.late ++ [⟨cENTRY, 0, va, pc, 3, pc, 0⟩] } }) s
      | _, _ => fenceFail (decide (st ≠ 3)) c s
  | .line eng _ va _ _ _ => asCore (eng % 4096) (if eng < 4096 then copyAnswer va st reply else teaselAnswer va st) s
  | .ask c _ _ _ _ => if last then answer c (if st = 0 then some reply else none) s else s
  | .tell c k a data =>
    if k = kHome ∧ st = 0 then homeAnswer c data reply s
    else if k = kTile then tileAnswer a data (if st = 0 then some reply else none) s
    else if k = kGrad then (if st = 0 then s else gradRefused c (leAt data 0 1) s)
    else if k = kPublish ∧ st ≠ 0 then fenceFail (decide (st ≠ 3)) c s else s
  | .push (.copy c) _ _ => if st = 0 then asCore c (noticeAnswer reply) s else s
  | .push .dist h data => notifAnswer h (data.drop 3) (if st = 0 then some reply else none) s
  | .push (.coll id) _ _ => if st = 0 then clNoticeAnswer id reply s else s
  | .offer id _ => if st = 0 then s else clFail (fun c => decide (c.id = id)) (if st = 3 then 6 else 3) s
  | .mail id _ _ data => clFail (fun c => decide (c.id = id)) (if st = 0 then b2n data.isEmpty else if st = 3 then 6 else 3) s
  | .coll id => if st = 0 then s else clFail (fun c => decide (c.id = id)) (if st = 3 then 6 else 3) s
  | .grad .. | .other => s

/-- A packet is over: it is no longer in flight, and its requester is told. -/
def packetOver (p : Pkt) (st reply : Nat) (s : State) : State := tellDone (lastAsk s p) p.req st reply (dropPkt p.dst p.eseq s)

/-- A packet declared failed: EFAIL counts on the links given. -/
def failPkt (links : List Nat) (p : Pkt) (s : State) : State := packetOver p 3 0 (links.foldl (fun s k => countFail k s) s)

/-- A packet sent again, or failed at once where no link is up for it. -/
def resend (p : Pkt) (s : State) : State :=
  match deadDir s p.dst with
  | some d => failPkt [2 * d, 2 * d + 1] p s
  | none => routePkt p.dst p.eseq s

def execRetransmission (index : Nat) (s : State) : Out :=
  .next (match s.net.pkts[index]? with
    | none => s
    | some p =>
      if p.again < 3 ∧ p.last + 16384 ≤ s.time then
        resend p (onNet (fun n => { n with pkts := n.pkts.map (fun q =>
          if q = p then { q with again := p.again + 1, last := s.time } else q) }) s)
      else s)

def execPacketDeclaredFailed (index : Nat) (s : State) : Out :=
  .next (match s.net.pkts[index]? with
    | none => s
    | some p => if p.first + 131072 ≤ s.time then failPkt p.via.toList p s else s)

/-- The acknowledgement of a packet: `refused` is 1 for a refusal of the package, 2 for one at a bound line. -/
def execEndToEndAck (dst eseq refused reply : Nat) (s : State) : Out :=
  .next (match s.net.pkts.find? (fun p => decide (p.dst = dst ∧ p.eseq = eseq)) with
    | none => s
    | some p => packetOver p (if refused < 2 then refused else 2) reply s)

/-! ### Flits (21 R343, R344) -/

/-- Is the flit whole, of 64 bytes, with a good CRC? -/
def flitGood (f : List Byte) : Bool := decide (f.length = 64) && decide (leAt f 60 4 = crc32c (f.take 60))
def flitType (f : List Byte) : Nat := leAt f 0 2 / 2 ^ 12
def flitSeq (f : List Byte) : Nat := leAt f 0 2 % 2 ^ 12
/-- The LSEQ an ACK or a NAK answers. -/
def flitAns (f : List Byte) : Nat := leAt f 2 2 % 2 ^ 12

/-- An ACK (2) or NAK (3) flit is sent. -/
def replyFlit (k ty seq : Nat) (s : State) : State :=
  let l := linkKept s k
  putLink k { l with replies := l.replies ++ [flitOf ty 0 (leBytes 2 seq)] } s

/-- A flit that fails its CRC: the one the link was to bring next, which is answered with NAK. -/
def lostFlit (k : Nat) (s : State) : State :=
  let l := linkKept s k
  replyFlit k 3 l.pos (putLink k { l with pos := (l.pos + 1) % 4096, nak := true } s)

/-- A flit received on a link that is up. -/
def onFlit (ty k : Nat) (f : List Byte) (g : State → State) (s : State) : State :=
  if (linkAt s k).st ≠ 0 then s
  else if !flitGood f then lostFlit k s
  else if flitType f = ty then g s else s

/-- A DATA or MARKER flit: accepted in order, or acknowledged again when it was accepted before. A gap is answered with one NAK; the
flits on their way behind it bring no other, unless the sender has begun again and left the missing one out once more (DEDUCED, log
157: 21 R344 has one NAK for a gap). -/
def takeFlit (k : Nat) (f : List Byte) (g : State → State) (s : State) : State :=
  let l := linkKept s k
  let q := flitSeq f
  let nxt := (q + 1) % 4096
  if q = l.rx then replyFlit k 2 q (g (putLink k { l with rx := nxt, pos := nxt, nak := false } s))
  else if 2048 ≤ (q + 4096 - l.rx) % 4096 then replyFlit k 2 q s
  else if l.nak && decide ((q + 4096 - l.pos) % 4096 < 2048) then putLink k { l with pos := nxt } s
  else replyFlit k 3 l.rx (putLink k { l with pos := nxt, nak := true } s)

/-- The payload of an accepted flit waits for the rest of its packet. -/
def keepPayload (k : Nat) (f : List Byte) (s : State) : State :=
  let l := linkKept s k
  putLink k { l with inb := l.inb ++ [(f.drop 2).take 58] } s

/-- A flush marker gathered at its destination, by its source, or passed on towards it (13 R253). Where several links lead on it takes
one (DESIGN CHOICE, log 157: no file says how a marker goes on). -/
def takeMarker (pl : List Byte) (s : State) : State :=
  let (src, dst) := Config.markRef pl
  if dst = s.ctl.pkgNum then onNet (fun n => { n with markers := mset 0 n.markers src (mget 0 n.markers src + 1) }) s
  else match chooseLink s src dst with
    | (some k, s) => putFlits k 4 (markerRef src dst) [pl] s
    | (none, s) => s

def execFlitData (link : Nat) (flit : List Byte) (s : State) : Out :=
  .next (onFlit 1 link flit (takeFlit link flit (keepPayload link flit)) s)
def execFlitMarker (link : Nat) (flit : List Byte) (s : State) : Out :=
  .next (onFlit 4 link flit (takeFlit link flit (takeMarker ((flit.drop 2).take 58))) s)

/-- Every flit up to the one answered is acknowledged. -/
def execFlitAck (link : Nat) (flit : List Byte) (s : State) : Out :=
  .next (onFlit 2 link flit (fun s =>
    let l := linkKept s link
    let rest := l.unack.dropWhile (fun x => decide (x.seq ≠ flitAns flit))
    if rest.isEmpty then s else drained (putLink link { l with unack := rest.drop 1 } s)) s)

/-- A packet, an acknowledgement or a marker that a link held is put on another. -/
def reroute (marker : Bool) (r : PRef) (s : State) : State :=
  if marker then
    (match chooseLink s r.frm r.to_ with
     | (some k, s) => putFlits k 4 r [markerPayload r] s
     | (none, s) => s)
  else if r.frm = s.ctl.pkgNum ∧ r.ack = false then
    (match s.net.pkts.find? (fun p => decide (p.dst = r.to_ ∧ p.eseq = r.eseq)) with
     | some p => resend p s
     | none => s)
  else (routeRef r s).2

/-- A link goes DOWN: what it held is routed as though newly sent. -/
def linkDown (k st : Nat) (s : State) : State :=
  let l := linkKept s k
  let refs := (l.unack.map (fun x => (decide (flitType x.bytes = 4), x.ref))).eraseDups
  refs.foldl (fun s r => reroute r.1 r.2 s) (putLink k { l with st := st, unack := [] } s)

def execFlitNak (link : Nat) (flit : List Byte) (s : State) : Out :=
  .next (onFlit 3 link flit (fun s =>
    let l := linkKept s link
    let done := l.unack.takeWhile (fun x => decide (x.seq ≠ flitAns flit))
    match l.unack.drop done.length with
    | [] => s
    | x :: r =>
      if x.again then linkDown link 2 s
      else
        let n := l.retry + r.length + 1
        putLink link { l with unack := done ++ { x with again := true } :: r, retry := if n < 65536 then n else 65535 } s) s)

def execLinkTrained (link : Nat) (s : State) : Out :=
  .next (if (linkAt s link).st = 1 then putLink link { linkKept s link with st := 0, tx := 0, rx := 0, pos := 0, nak := false } s else s)

/-! ### Requests of other packages at the homes of this one -/

/-- Who a core or an engine of another package is. -/
def farWho (key cls : Nat) : Who := { key := key, team := none, meas := false, cls := cls, dig := true }
/-- A continuation of another package on a core there. -/
def farAgent (src core : Nat) (data : List Byte) : Agent := ⟨farKey src (leAt data 0 4), leAt data 4 4, some (farKey src core)⟩

/-- What a request comes to: a refusal, a reply and the state after it; or none, while it is held at the home. -/
abbrev Far := Option (Nat × Nat × State)

def farOk (r : Nat) (s : State) : Far := some (0, r, s)
def farNo (s : State) : Far := some (1, 0, s)

/-- Is a byte one of this package's device memory that is there? -/
def farHere (s : State) (a : Nat) : Bool := isOwn s a && !retired s a

/-- The reads that bytes of memory ask of the L2. -/
def farReads (w : Who) (a n : Nat) (s : State) : State :=
  (List.range (cdiv (a % 64 + n) 64)).foldl (fun s i => l2Touch w false (a + 64 * i) s) s

/-- Bytes read for another package. -/
def farRead (key cls a n : Nat) (s : State) : Far :=
  if !farHere s a || pairTorn s a then farNo s else farOk (memNat s.mem a n) (farReads (farWho key cls) a n s)

/-- A posted store (13 R241, R251). -/
def farStore (src core cls a : Nat) (bs : List Byte) (s : State) : Far :=
  if !farHere s a then farNo s
  else if writeRefused s (farKey src core) a then some (2, 0, s)
  else farOk 0 (homePut (farWho (farKey src core) cls) true a bs s)

/-- A line written by an engine: put in a shadow till its package publishes it, or its object is released; held while there is no
room for one (13 R243, R244). The reply is the line as it will stand. -/
def farLine (src eng cls a mask val : Nat) (s : State) : Far :=
  let w := farWho (farKey src eng) cls
  if !farHere s a then farNo s
  else if writeRefused s (farKey src (eng % 4096)) a then some (2, 0, s)
  else if (boundTo s a).isNone && !shadowRoom s w a then none
  else farOk (mixBits mask val (memNat s.mem a 64)) (shadowPut w a mask val s)

/-- An atomic (13 R248). -/
def farAtom (key cls k a : Nat) (data : List Byte) (s : State) : Far :=
  let b := wd (leAt data 0 8)
  let d := wd (leAt data 8 8)
  let det := decide (leAt data 16 1 % 2 = 1)
  if !farHere s a || (decide (k = 13) && pairTorn s a) then farNo s
  else if k ≠ 13 ∧ writeRefused s key a = true then farOk (2 ^ 64) s
  else if decide (k = 11) && det && accFull s a then none
  else
    let (h, s) := if leAt data 16 1 / 2 % 2 = 1 then nextHseq a s else (0, s)
    let (x, s) := atomAt (farWho key cls) det k a b d s
    farOk (x % 2 ^ 64 + h * 2 ^ 66) s

/-- The asker a queue request names. -/
def farAsker (data : List Byte) : Asker := ⟨decide (leAt data 0 1 ≠ 0), leAt data 1 2⟩

/-- QPOP and QPOP.B of another package. -/
def farPop (src core : Nat) (blk : Bool) (h : Nat) (data : List Byte) (s : State) : Far :=
  let h := hndOf (wd h)
  let (st, e, t) := qPop (farAsker data) h s
  if st = qOK then farOk (leNat e * 256) t
  else
    match mfind? s.home.queues h.key with
    | some q =>
      if !blk || decide (st ≠ qEMPTY) then farOk st s
      else if 64 ≤ q.waits.length then farOk qNOROOM s
      else
        let w : QWait := { who := farAgent src core (data.drop 3), off := leAt data 11 4, tag := leAt data 15 1, due := none }
        farOk qPENDING (putQueue h.key { q with waits := q.waits ++ [w] } s)
    | none => farOk st s

/-- The release of an object by a continuation of another package on the core with key `key`: its engines' shadows are published. -/
def farRel (a : Agent) (key : Nat) (o : Obj) (s : State) : State :=
  putObj (grantNext { o with rel := o.rel + 1, hold := o.hold.less a }) (publish (objShadow key o) false s)

/-- Pieces of a range as a request gives them. -/
def farPcs (data : List Byte) : List (Nat × Nat) :=
  (List.range (data.length / 16)).map (fun i => (leAt data (16 * i) 8, leAt data (16 * i + 8) 8))

/-- BIND on an object of this package. -/
def farBind (src core line sc : Nat) (pin : Bool) (ps : List (Nat × Nat)) (s : State) : Far :=
  let old := objAt s line
  let full := match old with
    | some o => decide (8 ≤ o.ranges.length)
    | none => decide (16384 ≤ (s.home.objs.filter (fun o => decide (stackOf (paOf o.line) = stackOf (paOf line)))).length)
  let st := firstStatus
    [(!pin, oNOTPIN),
     (match old with | some o => decide (sc ≠ o.scope) || instAt src o.scope core != some o.inst | none => (instAt src sc core).isNone, oSCOPE),
     (s.home.objs.any (fun o => o.ranges.any (fun r => pcsMeet r.pcs ps)), oOVERLAP), (full, oFULL)]
  if st ≠ oOK then farOk st s
  else
    let o := match old with
      | some o => { o with ranges := o.ranges ++ [⟨0, 0, ps⟩] }
      | none => { line := line, scope := sc, inst := (instAt src sc core).getD 0, ranges := [⟨0, 0, ps⟩], hold := .free, wait := [],
                  rel := 0, maker := 4096, inWin := true }
    farOk oOK (dropPcs ps (putObj o s))

/-- An operation on an object of this package (13 R236–R239): the agent, then scope and pinning, then BIND's pieces. -/
def farObj (src core kind line : Nat) (data : List Byte) (s : State) : Far :=
  let sc := leAt data 8 1 % 8
  let pin := decide (leAt data 8 1 / 8 % 2 = 1)
  let me := farAgent src core data
  if !farHere s line then farNo s
  else if kind = 20 then farBind src core line sc pin (farPcs (data.drop 9)) s
  else
    match objAt s line with
    | none => farOk (if pin then oNOTBOUND else oNOTPIN) s
    | some o =>
      let away := instAt src o.scope core != some o.inst
      if kind = 21 then
        let st := firstStatus [(!pin, oNOTPIN), (away, oSCOPE), (decide (o.hold ≠ .free), oHELD)]
        farOk st (if st = oOK then onHome (fun h => { h with objs := h.objs.filter (fun x => decide (x.line ≠ line)) }) s else s)
      else if kind = 26 then
        let st := firstStatus [(!pin, oNOTPIN), (decide (sc ≠ o.scope) || away, oSCOPE), (!o.holds me, oNOTHELD)]
        farOk st (if st = oOK then farRel me (farKey src core) o s else s)
      else
        let x := decide ((kind - 22) % 2 = 1)
        let st := firstStatus [(!pin, oNOTPIN), (decide (sc ≠ o.scope) || away, oSCOPE)]
        if st ≠ oOK then farOk st s
        else if o.holds me then farOk oOK s
        else if o.wait.any (fun w => w.1.same me) then none
        else
          match if o.wait.isEmpty then grantTo me x o.hold else none with
          | some h => farOk oOK (putObj { o with hold := h } s)
          | none => if 24 ≤ kind then farOk oBUSY s else none

/-- A blocking ACQ or an OPTCTL takes its place in the order of its home while its packet is held there. -/
def farWait (src core kind a : Nat) (data : List Byte) (s : State) : State :=
  if 27 ≤ kind then queueCtl a ⟨farKey src core, kind - 27, 0, 0, false⟩ data s
  else
    match objAt s a with
    | some o =>
      if decide (kind = 22 ∨ kind = 23) && !o.wait.any (fun w => w.1.same (farAgent src core data)) then
        putObj { o with wait := o.wait ++ [(farAgent src core data, decide (kind = 23))] } s
      else s
    | none => s

/-- An OPTCTL of another package, in its place among the region's arrivals (14 R262). -/
def farOptctl (key kind a : Nat) (data : List Byte) (s : State) : Far :=
  match s.home.regions.find? (fun r => decide (r.rec_ = a)) with
  | none => farOk qNOREG (dropCtl key s)
  | some r =>
    if !ctlTurn s a key then none
    else
      farOk qOK (ctlDo (kind - 27) data r (dropCtl key s))

/-- An access a core of another package waits for. -/
def farAsk (src core cls kind addr : Nat) (data : List Byte) (s : State) : Far :=
  let key := farKey src core
  if kind = 0 then farRead key cls addr (leAt data 0 1) s
  else if kind ≤ 14 then farAtom key cls kind addr data s
  else if kind = 16 then let (st, s) := qPush (farAsker data) (hndOf (wd addr)) (data.drop 3) s; farOk st s
  else if kind = 17 ∨ kind = 18 then farPop src core (decide (kind = 18)) addr data s
  else if 20 ≤ kind ∧ kind ≤ 26 then farObj src core kind addr data s
  else if 27 ≤ kind ∧ kind ≤ 29 then farOptctl key kind addr data s
  else if 32 ≤ kind ∧ kind ≤ 34 then farRead key cls addr (if kind = 32 then 64 else if kind = 33 then 96 else leAt data 0 4) s
  else farNo s

/-! ### Messages of other packages -/

/-- An entry delivered by another package's queue to a waiter here, held while the waiter is on no core (14 R258). -/
def farDelivery (src : Nat) (data : List Byte) (s : State) : Far :=
  let team := leAt data 0 4
  let slot := leAt data 4 4
  let tag := leAt data 12 1
  match whereIs s team slot with
  | none => none
  | some k =>
    farOk 0 (onCoreAt k (fun c =>
      let c := postEv (evRec 5 tag 0 0 64) (rcFilter (fun _ => true) (asyncBytes s.time 4 4096 (ownPorts 1 (leAt data 8 4) 64) 1 (leAt data 8 4) ((data.drop 13).take 64) c))
      { c with cm := { c.cm with due := c.cm.due - 1, regs := c.cm.regs.erase (src, tag) } }) s)

/-- Away and re-home messages: the second is answered with the number of entries held, which are then delivered (19 R331). -/
def farHome (src core : Nat) (data : List Byte) (s : State) : Far :=
  let team := farKey src (leAt data 0 4)
  let slot := leAt data 4 4
  let on := farKey src core
  let off := fun e => farKey src (awayOwner slot e)
  if leAt data 8 1 = 0 then farOk 0 (rehomeAt team slot none (moveShadows on (4096 + on) (off 0) (off 1) s))
  else
    let n := (s.home.queues.flatMap (fun q => q.2.waits.filter (fun w => w.due.isSome && decide (w.who.team = team ∧ w.who.slot = slot)))).length
    farOk n (deliverAll team slot (rehomeAt team slot (some on) (moveShadows (off 0) (off 1) on (4096 + on) s)))

/-- A holding without the agents of a team. -/
def Holding.lessTeam (t : Nat) : Holding → Holding
  | .shared hs => let r := hs.filter (fun a => decide (a.team ≠ t)); if r.isEmpty then .free else .shared r
  | .excl a => if a.team = t then .free else .excl a
  | h => h

/-- What a continuation that has ended, or a whole team that is rolled back, has at this package is withdrawn: the first releases
its objects, the second leaves nothing behind (16 R283, 19 R336). -/
def farWithdraw (src core team : Nat) (data : List Byte) (s : State) : State :=
  if leAt data 0 1 = 1 then
    let me := farAgent src core (data.drop 1)
    (heldObjs s me).foldl (fun s o => farRel me (farKey src core) o s) (dropWaits (fun a => a.same me) s)
  else
    let t := farKey src team
    let keys := (List.range ((data.length - 1) / 4)).map (fun i => farKey src (leAt data (1 + 4 * i) 4))
    let (gone, arrs) := s.home.arrivals.partition (fun x => x.core.any (fun c => keys.contains c.1))
    let s := onHome (fun h => { h with arrivals := arrs }) (gone.foldl (fun s x => dropArr x s) s)
    onHome (fun h =>
      { h with shadows := h.shadows.filter (fun x => !keys.contains x.owner),
               objs := h.objs.map (fun o => grantNext { o with hold := o.hold.lessTeam t, wait := o.wait.filter (fun w => decide (w.1.team ≠ t)) }) })
      (dropWaits (fun a => decide (a.team = t)) s)

/-- Submissions of a member for a step that stand after its rollback; `judged` says what has been judged there. One that this package
has yet to judge counts; one of a step judged here too is the member's next (DEDUCED, log 155). -/
def Group.standing (g : Group) (judged : List (Nat × Bool)) (src step : Nat) : List (Nat × Nat × Word) :=
  let us := g.subs.filter (fun u => decide (u.1 = src ∧ u.2.1 = step))
  if g.done.any (fun d => decide (d.1 = step)) || judged.contains (step, true) then us
  else if judged.contains (step, false) && !g.again.contains step then us.take 1 else []

/-- A replica's submissions for steps it has not had judged are withdrawn (23 R374). -/
def farUnsubmit (src t : Nat) (data : List Byte) : State → State := onGrp (fun x =>
  let judged := (List.range (data.length / 5)).map (fun i => (leAt data (5 * i) 4, decide (leAt data (5 * i + 4) 1 = 1)))
  { x with groups := x.groups.map (fun p =>
    if p.1 = t then
      let (mine, others) := p.2.subs.partition (fun u => decide (u.1 = src))
      (p.1, { p.2 with subs := others ++ (mine.map (fun u => u.2.1)).eraseDups.flatMap (p.2.standing judged src) })
    else p) })

/-- A member's announcement of a group, in the place of its own earlier one (25 R396). -/
def farAnnounce (src num : Nat) (ms : List (Nat × Nat)) : State → State := onGrp (fun g =>
  { g with anns := g.anns.filter (fun a => !(decide (a.1 = src ∧ a.2.1 = num) && a.2.2.any (fun m => decide (m.1 = src) && ms.contains m))) ++
      [(src, num, ms)] })

/-- A member's team is gone: what it announced of a group that no team here has is forgotten. -/
def farUngroup (src num handle : Nat) : State → State := onGrp (fun g =>
  { g with anns := g.anns.filter (fun a => !(decide (a.1 = src ∧ a.2.1 = num) && a.2.2.contains (src, handle)) ||
      g.groups.any (fun p => decide (p.2.num = num) && sameMems a.2.2 p.2.mems)) })

/-- An arrival that a core of another package sent to a region here (14 R263). -/
def farArrival (src core a : Nat) (data : List Byte) (s : State) : Far :=
  let r := (s.home.regions.find? (fun r => decide (r.rec_ = a))).map Region.rec_
  let ps := data.drop 24
  if arrFull s r then none
  else farOk 0 (onHome (fun h => { h with arrivals := h.arrivals ++
    [{ Arr.blank r with core := some (farKey src core, leAt data 0 1), bad := decide (leAt data 1 1 ≠ 0), grad := leAt data 2 8,
                        blk0 := leAt data 10 4, nblk := leAt data 14 4, seq := leAt data 18 4, src := leAt data 22 2,
                        pages := (List.range (ps.length / 16)).map (fun i => (leAt ps (16 * i) 8, leAt ps (16 * i + 8) 8)) }] }) s)

/-- A message, by its kind. -/
def farTell (src core kind addr : Nat) (data : List Byte) (s : State) : Far :=
  if kind = kDeliver then farDelivery src data s
  else if kind = 35 then farOk 0 (replicaSubmit (addr % 4096) src (leAt data 0 4) (wd (leAt data 4 8)) s)
  else if kind = 36 then
    farOk 0 (farAnnounce src addr ((List.range (data.length / 6)).map (fun i => (leAt data (6 * i) 2, leAt data (6 * i + 2) 4))) s)
  else if kind = kUngroup then farOk 0 (farUngroup src addr (leAt data 0 4) s)
  else if kind = kUnsubmit then farOk 0 (farUnsubmit src (addr % 4096) data s)
  else if kind = kPublish then farOk 0 (publish (fun x => decide (x.owner = farKey src addr) && !x.bound) false s)
  else if kind = kHome then farHome src core data s
  else if kind = kWithdraw then farOk 0 (farWithdraw src core addr data s)
  else if kind = kStale then
    farOk 0 (postTo (leAt data 0 4) (leAt data 4 4) (evRec 5 addr 4 0 0) (dropReg src addr (leAt data 0 4) (leAt data 4 4) s))
  else if kind = kMarker then
    (let n := mget 0 s.net.markers src
     if n < leAt data 0 2 then none else farOk 0 (onNet (fun x => { x with markers := mset 0 x.markers src (n - leAt data 0 2) }) s))
  else if kind = kTile then farRead (farKey src core) (leAt data 4 1) addr (leAt data 0 4) s
  else if kind = kGrad then farArrival src core addr data s
  else if kind = kGradDone then
    farOk 0 (if (coreAt s addr).cm.msOut = 0 then s else endMs addr (evRec 7 (leAt data 0 1) (leAt data 1 1) 0 (leAt data 2 8)) s)
  else if kind = kAbandon then farOk 0 (clAbandon src ((List.range (data.length / 8)).map (fun i => leAt data (8 * i) 8)) s)
  else farOk 0 s

/-- A further copy of the final packet of a shard, which becomes an arrival of its own (21 R347, R356). -/
def farGrad (rec_ blk0 nblk seq src : Nat) (data : List Byte) (s : State) : Far :=
  let r := (s.home.regions.find? (fun r => decide (r.rec_ = rec_))).map Region.rec_
  if arrFull s r then none
  else farOk 0 (onHome (fun h => { h with arrivals := h.arrivals ++
    [{ Arr.blank r with data := some data, blk0 := blk0, nblk := nblk, seq := seq, src := src }] }) s)

/-- What a packet asks for, performed at its home. -/
def farReq (src : Nat) (req : PktReq) (s : State) : Far :=
  match req with
  | .store c cls a bs _ => farStore src c cls a bs s
  | .line eng cls _ a mask val => farLine src eng cls a mask val s
  | .ask c cls k a data => farAsk src c cls k a data s
  | .tell c k a data => farTell src c k a data s
  | .push _ h data => let (st, s) := qPush (farAsker data) (hndOf (wd h)) (data.drop 3) s; farOk st s
  | .grad a b n q p data => farGrad a b n q p data s
  | .offer _ sig => farOk 0 (onNet (fun n => { n with offers := n.offers ++ [(src, sig)] }) s)
  | .mail _ chan num data => (clMail src chan num data s).map (fun r => (0, r))
  | .coll _ | .other => farOk 0 s

/-- The line a request names, none for one that names no location. -/
def reqLine : PktReq → Option Nat
  | .store _ _ a _ _ => some (a / 64)
  | .line _ _ _ a _ _ => some (a / 64)
  | .ask _ _ k a _ => if k ≤ 14 then some (a / 64) else none
  | _ => none

/-- Is every copy of the packet performed (21 R347)? -/
def everyCopy : PktReq → Bool
  | .grad .. => true
  | _ => false

/-- Does the collective engine consume the packet itself (21 R347)? -/
def forEngine : PktReq → Bool
  | .offer .. | .mail .. | .coll _ => true
  | _ => false

/-! ### Packets by number (21 R347, 13 R253) -/

def Seen.new : Seen := { low := 0, more := [], wait := [], eng := [] }

/-- Does an ESEQ come before another? -/
def eseqBefore (a b : Nat) : Bool := decide (2 ^ 31 ≤ (a + 2 ^ 32 - b) % 2 ^ 32)

/-- Has a packet come? -/
def Seen.had (v : Seen) (e : Nat) : Bool := eseqBefore e v.low || v.more.contains e

/-- The numbers that have come in a row. -/
def Seen.close : Nat → Seen → Seen
  | 0, v => v
  | k + 1, v => if v.more.contains v.low then Seen.close k { v with low := (v.low + 1) % 2 ^ 32, more := v.more.erase v.low } else v

/-- A packet has come. -/
def Seen.put (e : Nat) (v : Seen) : Seen :=
  if v.had e then v else Seen.close (v.more.length + 1) { v with more := e :: v.more }

/-- Nothing older than a packet is waited for any longer. -/
def Seen.past (e : Nat) (v : Seen) : Seen :=
  if eseqBefore v.low e then Seen.close (v.more.length + 1) { v with low := e, more := v.more.filter (fun x => !eseqBefore x e) } else v

/-- Must a packet that names a line wait, so that its source's accesses to a location keep their order: for an older one that may yet
come, or for an older one to the line that has come and waits itself? What has not come within 131,072 cycles is declared failed at
its source. -/
def Seen.behind (v : Seen) (e line since now : Nat) : Bool :=
  decide (line ≠ 0) && ((eseqBefore v.low e && decide (now < since + 131072)) ||
    v.wait.any (fun w => eseqBefore w.1 e && decide (w.2.2 = line)))

/-- An end-to-end acknowledgement leaves for the source of a packet. -/
def sendAck (src eseq r v : Nat) (s : State) : State :=
  (routeRef ⟨s.ctl.pkgNum, src, eseq, true⟩ (onNet (fun n => { n with acks := n.acks ++ [(src, eseq, r, v)] }) s)).2

/-- A packet for this package: a duplicate is acknowledged again and discarded, at a home by its ESEQ, at the collective engine within
its window (21 R347). It is performed, or held at its home; the first part of the answer says which. -/
def takePacket (src eseq : Nat) (req : PktReq) (s : State) : Bool × State :=
  let v := (mfind? s.net.seen src).getD .new
  let line := ((reqLine req).map (· + 1)).getD 0
  let held := v.wait.find? (fun w => decide (w.1 = eseq))
  let twice := if everyCopy req then false else if forEngine req then v.eng.contains eseq else v.had eseq && held.isNone
  let since := (held.map (fun w => w.2.1)).getD s.time
  let v := v.put eseq
  let keep := fun v s => onNet (fun n => { n with seen := mput n.seen src v }) s
  let hold_ := (false, keep { v with wait := v.wait.filter (fun w => decide (w.1 ≠ eseq)) ++ [(eseq, since, line)] } s)
  if twice then
    match s.net.acks.find? (fun a => decide (a.1 = src ∧ a.2.1 = eseq)) with
    | some a => (true, sendAck src eseq a.2.2.1 a.2.2.2 s)
    | none => (true, sendAck src eseq 0 0 s)
  else if v.behind eseq line since s.time then hold_
  else
    match farReq src req s with
    | some (r, x, s) =>
      let v := { (if line = 0 then v else v.past eseq) with wait := v.wait.filter (fun w => decide (w.1 ≠ eseq)) }
      (true, sendAck src eseq r x (keep (if forEngine req then { v with eng := (eseq :: v.eng).take 4096 } else v) s))
    | none => hold_

/-- Payloads of a link that made up a packet are taken from it. -/
def usePayloads (k pos n : Nat) (s : State) : State :=
  let l := linkKept s k
  putLink k { l with inb := l.inb.take pos ++ l.inb.drop (pos + n) } s

/-- A packet has arrived with its last flit: the `n` payloads from `pos` on that the link has accepted make it up. No file lays a
packet out, so what it says is an input. One for another package goes on towards it (21 R345). -/
def execPacketArrival (at_ : PktAt) (head : PktHead) (req : PktReq) (s : State) : Out :=
  let used := usePayloads at_.link at_.pos at_.n
  .next (
    if at_.n = 0 ∨ (linkKept s at_.link).inb.length < at_.pos + at_.n then s
    else if head.dst ≠ s.ctl.pkgNum then (routeRef ⟨head.src, head.dst, head.eseq, false⟩ (used s)).2
    else
      match takePacket head.src head.eseq req s with
      | (true, s) => used s
      | (false, s) => match req with | .ask c _ k a data => farWait head.src c k a data s | _ => s)

end Sys2Proof.Machine
end

