-- ==== Sys2Proof/Machine/Loads.lean ====
section
/-!
DEFINITION. Machine/Loads.lean: scalar loads and stores (07 R136–R138), vector loads, stores, gathers and scatters
(07 R139–R141).
-/
namespace Sys2Proof.Machine

/-- How a loaded number becomes a register value: sign or zero extension of `8n` bits. -/
def extLoad (sg : Bool) (n : Nat) (bs : List Byte) : Word := if sg then sextW (8 * n) (leNat bs) else wd (leNat bs)

/-- A result of a device-memory load (06 R118). -/
def emitDev (e : Land) (s : State) : State := emit (if s.core.ctl then Config.devLatCtl else Config.devLat) e s

/-- A device-memory load of slot 3. -/
def ldDev (g n sz r o : Nat) (mk : List Byte → Land) (s : State) : Out :=
  slotDo g n (fun s => loadDev (memAddr s r o sz) sz (fun bs s => emitDev (mk bs) (cntEv 0x13 1 s)) s) s

/-- A device-memory store of slot 3. -/
def stDev (g n sz r o : Nat) (x : Word) (s : State) : Out :=
  slotDo g n (fun s => storeDev (memAddr s r o sz) (leBytes sz x.toNat) (cntEv 0x14 1) s) s

def execLdb (g n d r o : Nat) (s : State) : Out := ldDev g n 1 r o (fun bs => .s d (extLoad true 1 bs)) s
def execLdbu (g n d r o : Nat) (s : State) : Out := ldDev g n 1 r o (fun bs => .s d (extLoad false 1 bs)) s
def execLdh (g n d r o : Nat) (s : State) : Out := ldDev g n 2 r o (fun bs => .s d (extLoad true 2 bs)) s
def execLdhu (g n d r o : Nat) (s : State) : Out := ldDev g n 2 r o (fun bs => .s d (extLoad false 2 bs)) s
def execLdw (g n d r o : Nat) (s : State) : Out := ldDev g n 4 r o (fun bs => .s d (extLoad true 4 bs)) s
def execLdwu (g n d r o : Nat) (s : State) : Out := ldDev g n 4 r o (fun bs => .s d (extLoad false 4 bs)) s
def execLdd (g n d r o : Nat) (s : State) : Out := ldDev g n 8 r o (fun bs => .s d (extLoad false 8 bs)) s
def execLda (g n d r o : Nat) (s : State) : Out := ldDev g n 8 r o (fun bs => .a d (extLoad false 8 bs)) s
def execStb (g n d r o : Nat) (s : State) : Out := stDev g n 1 r o (rdS s d) s
def execSth (g n d r o : Nat) (s : State) : Out := stDev g n 2 r o (rdS s d) s
def execStw (g n d r o : Nat) (s : State) : Out := stDev g n 4 r o (rdS s d) s
def execStd (g n d r o : Nat) (s : State) : Out := stDev g n 8 r o (rdS s d) s
def execSta (g n d r o : Nat) (s : State) : Out := stDev g n 8 r o (rdA s d) s

/-- A scratchpad load of slot 3. -/
def ldSp (g n sz r o : Nat) (mk : List Byte → Land) (s : State) : Out :=
  slotDo g n (fun s =>
    let ea := memAddr s r o sz
    coreSpad 0 false ea sz (fun p => spadLoad p sz (fun bs s => emit (spadLat 4 ea) (mk bs) (cntEv 0x16 1 s))) s) s

/-- A scratchpad store of slot 3. -/
def stSp (g n sz r o : Nat) (x : Word) (s : State) : Out :=
  slotDo g n (fun s =>
    let ea := memAddr s r o sz
    coreSpad 0 true ea sz (fun p s => spadStore p 0 (leBytes sz x.toNat) (cntEv 0x17 1 s)) s) s

def execSldb (g n d r o : Nat) (s : State) : Out := ldSp g n 1 r o (fun bs => .s d (extLoad true 1 bs)) s
def execSldbu (g n d r o : Nat) (s : State) : Out := ldSp g n 1 r o (fun bs => .s d (extLoad false 1 bs)) s
def execSldh (g n d r o : Nat) (s : State) : Out := ldSp g n 2 r o (fun bs => .s d (extLoad true 2 bs)) s
def execSldhu (g n d r o : Nat) (s : State) : Out := ldSp g n 2 r o (fun bs => .s d (extLoad false 2 bs)) s
def execSldw (g n d r o : Nat) (s : State) : Out := ldSp g n 4 r o (fun bs => .s d (extLoad true 4 bs)) s
def execSldwu (g n d r o : Nat) (s : State) : Out := ldSp g n 4 r o (fun bs => .s d (extLoad false 4 bs)) s
def execSldd (g n d r o : Nat) (s : State) : Out := ldSp g n 8 r o (fun bs => .s d (extLoad false 8 bs)) s
def execSlda (g n d r o : Nat) (s : State) : Out := ldSp g n 8 r o (fun bs => .a d (extLoad false 8 bs)) s
def execSstb (g n d r o : Nat) (s : State) : Out := stSp g n 1 r o (rdS s d) s
def execSsth (g n d r o : Nat) (s : State) : Out := stSp g n 2 r o (rdS s d) s
def execSstw (g n d r o : Nat) (s : State) : Out := stSp g n 4 r o (rdS s d) s
def execSstd (g n d r o : Nat) (s : State) : Out := stSp g n 8 r o (rdS s d) s
def execSsta (g n d r o : Nat) (s : State) : Out := stSp g n 8 r o (rdA s d) s

/-! ### Vector accesses (07 R139–R141) -/

/-- One access of a vector word: cluster, first lane, address, bytes at the address, alignment, runs read or written. -/
structure VAcc where
  c : Nat
  l : Nat
  ea : Word
  size : Nat
  parts : List (Nat × Nat)
  deriving DecidableEq, Repr

/-- The accesses in turn, each past what could hold or stop it at step 4; then `f` with their places. -/
def vecGo (agent : Nat) (wr : Bool) : List VAcc → (List (VAcc × SpRef) → State → State) → State → State
  | [], f, s => f [] s
  | x :: r, f, s =>
    spadGo agent wr x.ea x.size x.parts (some x.c) (fun p => vecGo agent wr r (fun ys => f ((x, p) :: ys))) s

/-- Every access is checked before any takes effect, at step 4 and then at step 5; the lowest cluster's fault, and within it
the lowest lane's, is raised. -/
def vecMem (agent : Nat) (wr : Bool) (xs : List VAcc) (f : List (VAcc × SpRef) → State → State) (s : State) : State :=
  vecGo agent wr xs (fun ys t =>
    match xs.findSome? (fun x => (alignedFault s agent wr x.ea x.size x.parts).map (fun p => (x.c, p.1, p.2))) with
    | some (c, cause, fa) => trapCl cause 0 fa (some c) s
    | none => f ys t) s

/-- The bytes of every access. -/
def vecLoads (xs : List (VAcc × SpRef)) (f : List (VAcc × List Byte) → State → State) : State → State :=
  spadLoads (xs.map (fun x => (x.2, x.1.size))) (fun bs => f ((xs.map Prod.fst).zip bs))

/-- In exposed mode a vector load whose result would land in a bank's taken cycle raises SVIOL at step 4, before its
addresses are looked at (06 R120, R124); `lat` gives the latency of each cluster that has an active lane. -/
def bankFirst (d : Nat) (lat : List (Nat × Nat)) (f : State → State) (s : State) : State :=
  match if exposed s then lat.find? (fun p => bankTaken s.core p.1 d (s.core.now + p.2 - 1)) else none with
  | some (c, _) => trapCl cSVIOL 1 s.core.iss.pc (some c) s
  | none => f s

/-- One count per executing cluster. -/
def cntVec (e : Nat) (s : State) : State := cntEv e (clusters s).length s

/-- Runs of the active lanes of a 64-byte access (07 R140). -/
def laneRuns (which : BitVec 16) : List (Nat × Nat) :=
  (List.range 16).filterMap (fun l => if bitAt which l then some (4 * l, 4) else none)

/-- The accesses of VLD and VST: one per executing cluster that has an active lane. -/
def vmAccs (g r o : Nat) (s : State) : List VAcc :=
  (clusters s).filterMap (fun c =>
    let which := rdM s c g
    let ea := memAddr s r o 64 + (if bitAt s.core.iss.hdr 15 then wd (64 * c) else 0)
    if which = 0 then none else some ⟨c, 0, ea, 64, laneRuns which⟩)

/-- 32-bit lane `l` of bytes. -/
def laneIn (bs : List Byte) (l : Nat) : W32 := BitVec.ofNat 32 (leNat ((bs.drop (4 * l)).take 4))

def execVld (g d r o : Nat) (s : State) : Out :=
  .next (bankFirst d ((vmAccs g r o s).map (fun x => (x.c, spadLat 6 x.ea)))
    (vecMem 1 false (vmAccs g r o s) (fun ps => vecLoads ps (fun xs t =>
      xs.foldl (fun t x => emit (spadLat 6 x.1.ea) (.v x.1.c d (rdM s x.1.c g) (onLanes (rdM s x.1.c g) (laneIn x.2))) t)
        (cntVec 0x18 t)))) s)

def execVst (g _h d r o : Nat) (s : State) : Out :=
  .next (vecMem 1 true (vmAccs g r o s) (fun ps t => ps.foldl (fun t x =>
    x.1.parts.foldl (fun t p =>
      spadStore x.2 p.1 (leBytes 4 (laneOf s.core.vec.v x.1.c d (p.1 / 4)).toNat) t) t) (cntVec 0x19 t)) s)

/-- The accesses of a gather or scatter: one per active lane, in ascending cluster and lane order. -/
def vgAccs (g a sz : Nat) (s : State) : List VAcc :=
  (clusters s).flatMap (fun c => (List.range 16).filterMap (fun l =>
    if bitAt (rdM s c g) l then some ⟨c, l, (laneOf s.core.vec.v c a l).setWidth 64, sz, [(0, sz)]⟩ else none))

/-- A gather (07 R141): a cluster's lanes land together, later when any lane of the word used the window. -/
def vgath (sz g d a : Nat) (s : State) : Out :=
  let lat := if (vgAccs g a sz s).any (fun x => bitAt x.ea 24) then 10 else 6
  .next (bankFirst d (((vgAccs g a sz s).map VAcc.c).eraseDups.map (fun c => (c, lat)))
   (vecMem 2 false (vgAccs g a sz s) (fun ps => vecLoads ps (fun xs t =>
    (clusters s).foldl (fun t c =>
      let which := rdM s c g
      if which = 0 then t
      else emit lat (.v c d which (onLanes which (fun l =>
        match xs.find? (fun x => decide (x.1.c = c ∧ x.1.l = l)) with
        | some x => BitVec.ofNat 32 (leNat x.2)
        | none => 0))) t) (cntVec 0x18 t)))) s)

def execVgath (g _h d a : Nat) (s : State) : Out := vgath 4 g d a s
def execVgathh (g _h d a : Nat) (s : State) : Out := vgath 2 g d a s
def execVgathb (g _h d a : Nat) (s : State) : Out := vgath 1 g d a s

/-- A scatter (07 R141): of lanes that write one byte the highest remains. -/
def vscat (sz g a b : Nat) (s : State) : Out :=
  .next (vecMem 2 true (vgAccs g a sz s) (fun ps t => ps.foldl (fun t x =>
    spadStore x.2 0 (leBytes sz (laneOf s.core.vec.v x.1.c b x.1.l).toNat) t) (cntVec 0x19 t)) s)

def execVscat (g _h a b _x : Nat) (s : State) : Out := vscat 4 g a b s
def execVscath (g _h a b _x : Nat) (s : State) : Out := vscat 2 g a b s
def execVscatb (g _h a b _x : Nat) (s : State) : Out := vscat 1 g a b s

end Sys2Proof.Machine
end

