-- ==== Sys2Proof/Machine/Sha.lean ====
section
/-!
DEFINITION. Machine/Sha.lean: SHA-384 (01 R12, 25 R400) and SHA-512 as FIPS 180-4 defines them, SHAKE as FIPS 202 does (log 60).
-/
namespace Sys2Proof.Machine

/-- The largest `n`-th root of `x`, below `2^k`: its bits from the top down. -/
def rootBits (n x : Nat) : Nat → Nat → Nat
  | 0, r => r
  | k + 1, r => rootBits n x k (if (r + 2 ^ k) ^ n ≤ x then r + 2 ^ k else r)

/-- The first 64 bits of the fraction of an `n`-th root. -/
def rootFrac (n p : Nat) : BitVec 64 := BitVec.ofNat 64 (rootBits n (p * 2 ^ (64 * n)) 70 0)

/-- The primes below 410, eighty of them. -/
def primes80 : List Nat := (List.range 410).filter (fun p => decide (2 ≤ p) && (List.range 21).all (fun d => decide (d < 2 ∨ p ≤ d ∨ p % d ≠ 0)))

/-- The round constants: cube roots of the primes. -/
def shaK : List (BitVec 64) := primes80.map (rootFrac 3)

/-- The state before the first block: square roots of the ninth to sixteenth primes. -/
def shaH : List (BitVec 64) := ((primes80.drop 8).take 8).map (rootFrac 2)

/-- A 64-bit word rotated right. -/
def rotr (n : Nat) (x : BitVec 64) : BitVec 64 := (x >>> n) ||| (x <<< (64 - n))

/-- A big-endian number of bytes. -/
def beNat (bs : List Byte) : Nat := leNat bs.reverse
def beBytes (n x : Nat) : List Byte := (leBytes n x).reverse

/-- The message with its padding: a one bit, zeros, its length in bits. -/
def shaPad (m : List Byte) : List Byte :=
  m ++ [0x80] ++ List.replicate ((239 - m.length % 128) % 128) 0 ++ beBytes 16 (8 * m.length)

/-- The exclusive or of a word's rotations. -/
def rotSum (ns : List Nat) (x : BitVec 64) : BitVec 64 := ns.foldl (fun y n => y ^^^ rotr n x) 0

/-- The next word of the message schedule after a window of sixteen. -/
def shaNext (win : List (BitVec 64)) : BitVec 64 :=
  let x := nth 0 win 1
  let y := nth 0 win 14
  nth 0 win 0 + nth 0 win 9 + (rotSum [1, 8] x ^^^ (x >>> 7)) + (rotSum [19, 61] y ^^^ (y >>> 6))

/-- The bits of `y` where `x` has ones, of `z` where it has zeros. -/
def pickBits (x y z : BitVec 64) : BitVec 64 := z ^^^ (x &&& (y ^^^ z))

/-- One round: the eight words of the state are shifted, and the window of the message moves on. -/
def shaRound (st win : List (BitVec 64)) (k : BitVec 64) : List (BitVec 64) × List (BitVec 64) :=
  match st with
  | [a, b, c, d, e, f, g, h] =>
    let t := k + nth 0 win 0 + h + pickBits e f g + rotSum [14, 18, 41] e
    ([t + rotSum [28, 34, 39] a + pickBits (a ^^^ b) c a, a, b, c, d + t, e, f, g], win.drop 1 ++ [shaNext win])
  | _ => (st, win)

/-- One block of 128 bytes. -/
def shaBlock (st : List (BitVec 64)) (b : List Byte) : List (BitVec 64) :=
  let win := (List.range 16).map (fun i => BitVec.ofNat 64 (beNat ((b.drop (8 * i)).take 8)))
  List.zipWith (· + ·) st (shaK.foldl (fun p k => shaRound p.1 p.2 k) (st, win)).1

/-- Blocks in turn. -/
def shaBlocks : Nat → List Byte → List (BitVec 64) → List (BitVec 64)
  | 0, _, st => st
  | n + 1, b, st => shaBlocks n (b.drop 128) (shaBlock st (b.take 128))

/-- The state after a message, from the state before its first block. -/
def sha2 (h : List (BitVec 64)) (m : List Byte) : List Byte :=
  let p := shaPad m
  (shaBlocks (p.length / 128) p h).flatMap (fun w => beBytes 8 w.toNat)

/-- SHA-384 of bytes: 48 bytes. -/
def sha384 (m : List Byte) : List Byte := (sha2 shaH m).take 48

/-- SHA-512 of bytes: 64 bytes, from the square roots of the first eight primes. -/
def sha512 (m : List Byte) : List Byte := sha2 ((primes80.take 8).map (rootFrac 2)) m

/-! ### SHAKE, as FIPS 202 defines it -/

/-- Lane (x, y) of a state of 25 lanes. -/
def lane (a : List (BitVec 64)) (x y : Nat) : BitVec 64 := nth 0 a (x % 5 + 5 * (y % 5))

/-- A 64-bit word rotated left. -/
def rotl (n : Nat) (x : BitVec 64) : BitVec 64 := (x <<< n) ||| (x >>> (64 - n))

/-- By how much each lane is rotated. -/
def keccakRot : List Nat := [0, 1, 62, 28, 27, 36, 44, 6, 55, 20, 3, 10, 43, 25, 39, 41, 45, 15, 21, 8, 18, 2, 61, 56, 14]

/-- The round constants, bits of a shift register of eight bits. -/
def keccakRcs : Nat → Nat → List (BitVec 64)
  | 0, _ => []
  | n + 1, r =>
    let (r, c) := (List.range 7).foldl (fun (p : Nat × BitVec 64) j =>
      let r := if 128 ≤ p.1 then Nat.xor (2 * p.1) 0x171 else 2 * p.1
      (r, if r / 2 % 2 = 1 then p.2 ||| (1 <<< (2 ^ j - 1)) else p.2)) (r, 0)
    c :: keccakRcs n r

/-- One round: column parities, rotations and places of the lanes, rows, the constant. -/
def keccakRound (a : List (BitVec 64)) (rc : BitVec 64) : List (BitVec 64) :=
  let c := (List.range 5).map (fun x => (List.range 5).foldl (fun v y => v ^^^ lane a x y) 0)
  let b := (List.range 25).map (fun i => nth 0 a i ^^^ lane c (i + 4) 0 ^^^ rotl 1 (lane c ((i % 5) + 1) 0))
  let p := (List.range 25).map (fun i =>
    let j := (i % 5 + 3 * (i / 5)) % 5 + 5 * (i % 5)
    rotl (nth 0 keccakRot j) (nth 0 b j))
  let q := (List.range 25).map (fun i => nth 0 p i ^^^ (~~~(lane p (i % 5 + 1) (i / 5)) &&& lane p (i % 5 + 2) (i / 5)))
  List.zipWith (fun x i => if i = 0 then x ^^^ rc else x) q (List.range 25)

/-- The permutation of FIPS 202. -/
def keccak (a : List (BitVec 64)) : List (BitVec 64) := (keccakRcs 24 1).foldl keccakRound a

/-- Bytes taken in, `rate` at a time. -/
def keccakIn (rate : Nat) : Nat → List Byte → List (BitVec 64) → List (BitVec 64)
  | 0, _, a => a
  | n + 1, m, a =>
    keccakIn rate n (m.drop rate) (keccak ((List.range 25).map (fun i => nth 0 a i ^^^ BitVec.ofNat 64 (leNat (((m.take rate).drop (8 * i)).take 8)))))

/-- Bytes given out, `rate` at a time. -/
def keccakOut (rate : Nat) : Nat → List (BitVec 64) → List Byte
  | 0, _ => []
  | n + 1, a => (a.flatMap (fun w => leBytes 8 w.toNat)).take rate ++ keccakOut rate n (keccak a)

/-- The first `n` bytes that SHAKE gives of a message: SHAKE128 with a rate of 168 bytes, SHAKE256 with 136. -/
def shake (rate n : Nat) (m : List Byte) : List Byte :=
  let k := rate - m.length % rate
  let p := if k = 1 then m ++ [0x9F] else m ++ [0x1F] ++ List.replicate (k - 2) 0 ++ [0x80]
  (keccakOut rate (cdiv n rate) (keccakIn rate (p.length / rate) p (List.replicate 25 0))).take n

end Sys2Proof.Machine
end

