-- ==== Sys2Proof/Machine/Sign.lean ====
section
/-!
DEFINITION. Machine/Sign.lean: the two signature schemes of 01 R12: Ed25519 as RFC 8032 defines it and ML-DSA-65 as FIPS 204 does
(log 61): keys, signatures and their verification. A polynomial is the list of its 256 coefficients.
-/
namespace Sys2Proof.Machine

/-! ### Ed25519 -/

/-- The prime of the field. -/
def edP : Nat := 2 ^ 255 - 19
/-- The order of the base point. -/
def edL : Nat := 2 ^ 252 + 27742317777372353535851937790883648493

/-- A power modulo `m`, the exponent of `k` bits. -/
def powMod (m : Nat) : Nat → Nat → Nat → Nat
  | 0, _, _ => 1 % m
  | k + 1, x, e => (if e % 2 = 1 then x else 1) * powMod m k (x * x % m) (e / 2) % m

/-- The inverse in the field, and the constant of the curve. -/
def edInv (x : Nat) : Nat := powMod edP 255 x (edP - 2)
def edD : Nat := (edP - 121665) * edInv 121666 % edP

/-- The sum of two points of the curve. -/
def edAdd (a b : Nat × Nat) : Nat × Nat :=
  let t := edD * (a.1 * b.1 % edP) % edP * (a.2 * b.2 % edP) % edP
  ((a.1 * b.2 + a.2 * b.1) * edInv (1 + t) % edP, (a.2 * b.2 + a.1 * b.1) * edInv (1 + edP - t) % edP)

/-- A multiple of a point, the factor of `n` bits. -/
def edMul : Nat → Nat → Nat × Nat → Nat × Nat
  | 0, _, _ => (0, 1)
  | n + 1, k, a =>
    let r := edMul n (k / 2) (edAdd a a)
    if k % 2 = 1 then edAdd a r else r

/-- The point of 32 bytes, if they name one. -/
def edPoint (b : List Byte) : Option (Nat × Nat) :=
  let v := leNat b
  let y := v % 2 ^ 255
  let u := (y * y + edP - 1) % edP * edInv (edD * (y * y % edP) + 1) % edP
  let r := powMod edP 255 u ((edP + 3) / 8)
  let x := if r * r % edP = u then r else r * powMod edP 255 2 ((edP - 1) / 4) % edP
  if edP ≤ y ∨ x * x % edP ≠ u ∨ (x = 0 ∧ 2 ^ 255 ≤ v) then none
  else some (if x % 2 = v / 2 ^ 255 then x else edP - x, y)

/-- The 32 bytes of a point: y and the low bit of x. -/
def edBytes (a : Nat × Nat) : List Byte := leBytes 32 (a.2 + 2 ^ 255 * (a.1 % 2))

/-- The base point: y is 4/5 and x even. -/
def edBase : Nat × Nat := (edPoint (leBytes 32 (4 * edInv 5 % edP))).getD (0, 1)

/-- The challenge of a signature. -/
def edHash (r key m : List Byte) : Nat := leNat (sha512 (r ++ key ++ m)) % edL

/-- Does a signature of 64 bytes verify? -/
def edVerify (key m sig : List Byte) : Bool :=
  match edPoint key, edPoint (sig.take 32) with
  | some a, some r =>
    let s := leNat (sig.drop 32)
    decide (s < edL) && decide (edMul 3 4 (edMul 253 s edBase) = edMul 3 4 (edAdd r (edMul 253 (edHash (sig.take 32) key m) a)))
  | _, _ => false

/-- The secret factor and the prefix of a seed of 32 bytes. -/
def edSecret (seed : List Byte) : Nat × List Byte :=
  let h := sha512 seed
  (2 ^ 254 + leNat (h.take 32) % 2 ^ 254 / 8 * 8, h.drop 32)

/-- The public key of a seed. -/
def edKey (seed : List Byte) : List Byte := edBytes (edMul 255 (edSecret seed).1 edBase)

/-- The signature of a message with the key of a seed. -/
def edSign (seed m : List Byte) : List Byte :=
  let (a, p) := edSecret seed
  let k := leNat (sha512 (p ++ m)) % edL
  let r := edBytes (edMul 253 k edBase)
  r ++ leBytes 32 ((k + edHash r (edKey seed) m * a) % edL)

/-! ### ML-DSA-65: polynomials -/

/-- The modulus of a coefficient. -/
def mlQ : Nat := 8380417
abbrev Poly := List Nat

def mlZero : Poly := List.replicate 256 0
/-- The powers of 1753 by which the transform and its inverse multiply at node `i`. -/
def mlRev (i : Nat) : Nat := (List.range 8).foldl (fun r k => 2 * r + i / 2 ^ k % 2) 0
def mlZeta (i : Nat) : Nat := 1753 ^ mlRev i % mlQ
def mlZetaInv (i : Nat) : Nat := 1753 ^ (512 - mlRev i) % mlQ

/-- Coefficient by coefficient. -/
def mlMap2 (f : Nat → Nat → Nat) (a b : Poly) : Poly := List.zipWith (fun x y => f x y % mlQ) a b
def mlAdd : Poly → Poly → Poly := mlMap2 (· + ·)
def mlSub : Poly → Poly → Poly := mlMap2 (fun x y => x + mlQ - y)

/-- The number-theoretic transform of a node's 2^d coefficients. -/
def mlNttGo : Nat → Nat → Poly → Poly
  | 0, _, w => w
  | d + 1, i, w =>
    let a := w.take (2 ^ d)
    let b := (w.drop (2 ^ d)).map (fun x => mlZeta i * x % mlQ)
    mlNttGo d (2 * i) (mlAdd a b) ++ mlNttGo d (2 * i + 1) (mlSub a b)
def mlNtt (w : Poly) : Poly := mlNttGo 8 1 w

/-- What undoes it, but for the factor 2^d. -/
def mlInvGo : Nat → Nat → Poly → Poly
  | 0, _, w => w
  | d + 1, i, w =>
    let a := mlInvGo d (2 * i) (w.take (2 ^ d))
    let b := mlInvGo d (2 * i + 1) (w.drop (2 ^ d))
    mlAdd a b ++ (mlSub a b).map (fun x => mlZetaInv i * x % mlQ)
/-- The inverse transform; 8347681 is the inverse of 256. -/
def mlInv (w : Poly) : Poly := (mlInvGo 8 1 w).map (fun x => 8347681 * x % mlQ)

/-- The product of transforms. -/
def mlMul (a b : Poly) : Poly := (List.range 256).map (fun i => nth 0 a i * nth 0 b i % mlQ)
/-- A matrix of transforms applied to a vector of them. -/
def mlApply (m : List (List Poly)) (v : List Poly) : List Poly :=
  m.map (fun row => (List.zipWith mlMul row v).foldl mlAdd mlZero)

/-- A remainder of `x` modulo `m` nearest to zero. -/
def mlCen (m x : Nat) : Int := if m < 2 * (x % m) then (x % m : Int) - m else (x % m : Int)
/-- High part and low part of a coefficient, by 523,776. -/
def mlHigh (x : Nat) : Nat := let h := ((x : Int) - mlCen 523776 x).toNat; if h = mlQ - 1 then 0 else h / 523776
def mlLow (x : Nat) : Int := let l := mlCen 523776 x; if ((x : Int) - l).toNat = mlQ - 1 then l - 1 else l
/-- The high part that a hint bit makes of a coefficient. -/
def mlHint (hint : Bool) (x : Nat) : Nat :=
  if hint then (if 0 < mlLow x then mlHigh x + 1 else mlHigh x + 15) % 16 else mlHigh x
/-- Are all coefficients below a bound in size? -/
def mlSmall (bound : Nat) (v : List Poly) : Bool := v.all (fun p => p.all (fun x => decide ((mlCen mlQ x).natAbs < bound)))

/-- Numbers of `k` bits in bytes, and out of them. -/
def mlPack (k : Nat) (p : List Nat) : List Byte := leBytes (p.length * k / 8) (p.foldr (fun x v => x + 2 ^ k * v) 0)
def mlUnpack (k : Nat) (b : List Byte) : List Nat :=
  let v := leNat b
  (List.range (8 * b.length / k)).map (fun i => v / 2 ^ (k * i) % 2 ^ k)
/-- A mask polynomial, of 20 bits a coefficient, counted down from 2^19. -/
def mlWide (b : List Byte) : Poly := (mlUnpack 20 b).map (fun x => (2 ^ 19 + mlQ - x) % mlQ)
/-- Pieces of `n` bytes, the first at `o`. -/
def mlCut (b : List Byte) (o n count : Nat) : List (List Byte) := (List.range count).map (fun i => (b.drop (o + n * i)).take n)

/-! ### ML-DSA-65: what is drawn from hashes -/

/-- Coefficients from three bytes each, those that are not below the modulus passed over. -/
def mlUniform : List Byte → Poly
  | a :: b :: c :: r =>
    let x := a.toNat + 2 ^ 8 * b.toNat + 2 ^ 16 * (c.toNat % 128)
    if x < mlQ then x :: mlUniform r else mlUniform r
  | _ => []
/-- The matrix of a key. -/
def mlMatrix (rho : List Byte) : List (List Poly) :=
  (List.range 6).map (fun r => (List.range 5).map (fun s => (mlUniform (shake 168 1008 (rho ++ leBytes 1 s ++ leBytes 1 r))).take 256))
/-- A secret polynomial, its coefficients at most 4 in size. -/
def mlShort (seed : List Byte) (k : Nat) : Poly :=
  (((shake 136 1088 (seed ++ leBytes 2 k)).flatMap (fun x => [x.toNat % 16, x.toNat / 16])).filter (fun x => decide (x < 9))).take 256 |>.map
    (fun x => (mlQ + 4 - x) % mlQ)
/-- Signs put at places that a stream of bytes names, from place `256 - n` on; `h` gives the signs. -/
def mlPlaces : Nat → Nat → List Byte → Poly → Poly
  | 0, _, _, c => c
  | n + 1, h, b, c =>
    match b.dropWhile (fun j => decide (255 - n < j.toNat)) with
    | [] => c
    | j :: r => mlPlaces n (h / 2) r ((c.set (255 - n) (nth 0 c j.toNat)).set j.toNat (if h % 2 = 1 then mlQ - 1 else 1))
/-- The challenge of a hash: 49 coefficients of size 1. -/
def mlBall (b : List Byte) : Poly :=
  let s := shake 136 1088 b
  mlPlaces 49 (leNat (s.take 8)) (s.drop 8) mlZero

/-! ### ML-DSA-65: keys, signing, verifying -/

/-- The parts of a key pair. -/
structure MlKey where
  rho : List Byte
  s1 : List Poly
  s2 : List Poly
  t : List Poly
  k : List Byte
  deriving DecidableEq, Repr

/-- The key pair of a seed of 32 bytes. -/
def mlKeys (seed : List Byte) : MlKey :=
  let e := shake 136 128 (seed ++ [6, 5])
  let p := (e.drop 32).take 64
  let s1 := (List.range 5).map (mlShort p)
  let s2 := (List.range 6).map (fun r => mlShort p (5 + r))
  { rho := e.take 32, s1 := s1, s2 := s2, k := e.drop 96
    t := List.zipWith (fun x y => mlAdd (mlInv x) y) (mlApply (mlMatrix (e.take 32)) (s1.map mlNtt)) s2 }

/-- The low 13 bits of a coefficient, nearest to zero, and what is left above them. -/
def mlT0 (x : Nat) : Int := mlCen 8192 x
def mlT1 (x : Nat) : Nat := ((x : Int) - mlT0 x).toNat / 8192

/-- The public key: 1,952 bytes. -/
def MlKey.bytes (key : MlKey) : List Byte := key.rho ++ key.t.flatMap (fun p => mlPack 10 (p.map mlT1))

/-- What is signed of a message under a public key, the context string empty. -/
def mlDigest (pub m : List Byte) : List Byte := shake 136 64 (shake 136 64 pub ++ [0, 0] ++ m)

/-- The hash of a message and of high parts: 48 bytes. -/
def mlTag (mu : List Byte) (w1 : List Poly) : List Byte :=
  let h := shake 136 48 (mu ++ w1.flatMap (mlPack 4))
  (List.range 48).map (fun i => nth 0 h i)

/-- Places of the hints of each polynomial, in 61 bytes. -/
def mlHintBytes (hs : List (List Nat)) : List Byte :=
  let all := hs.flatten
  (all ++ List.replicate (55 - all.length) 0 ++ (List.range 6).map (fun i => ((hs.take (i + 1)).flatten).length)).map (BitVec.ofNat 8)
/-- The places that 61 bytes give, none when they are not in their one form. -/
def mlHints (b : List Byte) : Option (List (List Nat)) :=
  let e := fun i => if i = 0 then 0 else (nth 0 b (54 + i)).toNat
  let row := fun i => ((b.take (e (i + 1))).drop (e i)).map BitVec.toNat
  let fits := (List.range 6).all (fun i =>
    decide (e i ≤ e (i + 1) ∧ e (i + 1) ≤ 55) && (List.zipWith (fun x y => decide (x < y)) (row i) ((row i).drop 1)).all id)
  if fits && ((b.take 55).drop (e 6)).all (fun x => decide (x = 0)) then some ((List.range 6).map row) else none

/-- One trial of a signature, from a mask; none when it must not be given out. -/
def mlTry (m : List (List Poly)) (key : MlKey) (mu : List Byte) (y : List Poly) : Option (List Byte) :=
  let w := (mlApply m (y.map mlNtt)).map mlInv
  let tag := mlTag mu (w.map (fun p => p.map mlHigh))
  let c := mlNtt (mlBall tag)
  let by_ := fun (v : List Poly) => v.map (fun p => mlInv (mlMul c (mlNtt p)))
  let z := List.zipWith mlAdd y (by_ key.s1)
  let r := List.zipWith mlSub w (by_ key.s2)
  let t := by_ (key.t.map (fun p => p.map (fun x => (mlT0 x + mlQ).toNat % mlQ)))
  let u := List.zipWith mlAdd r t
  let hs := List.zipWith (fun a b => (List.range 256).filter (fun i => decide (mlHigh (nth 0 a i) ≠ mlHigh (nth 0 b i)))) r u
  if !mlSmall (2 ^ 19 - 196) z || !(r.all (fun p => p.all (fun x => decide ((mlLow x).natAbs < 261888 - 196)))) ||
      !mlSmall 261888 t || decide (55 < (hs.map List.length).sum) then none
  else some (tag ++ z.flatMap (fun p => mlPack 20 (p.map (fun x => (2 ^ 19 - mlCen mlQ x).toNat))) ++ mlHintBytes hs)

/-- Trials in turn, masks counted on; FIPS 204 lets an implementation stop after 814. -/
def mlTrials (m : List (List Poly)) (key : MlKey) (mu seed : List Byte) : Nat → Nat → List Byte
  | 0, _ => []
  | n + 1, k =>
    match mlTry m key mu ((List.range 5).map (fun r => mlWide (shake 136 640 (seed ++ leBytes 2 (k + r))))) with
    | some s => s
    | none => mlTrials m key mu seed n (k + 5)

/-- The signature of a message with the key pair of a seed: 3,309 bytes; `rnd` are the 32 bytes it draws. -/
def mlSign (seed rnd m : List Byte) : List Byte :=
  let key := mlKeys seed
  let mu := mlDigest key.bytes m
  mlTrials (mlMatrix key.rho) key mu (shake 136 64 (key.k ++ rnd ++ mu)) 814 0

/-- The high parts a verifier finds. -/
def mlSeen (pub tag : List Byte) (z : List Poly) (hs : List (List Nat)) : List Poly :=
  let c := mlNtt (mlBall tag)
  let t := (mlCut pub 32 320 6).map (fun b => mlNtt ((mlUnpack 10 b).map (fun x => x * 8192 % mlQ)))
  let w := List.zipWith (fun a b => mlInv (mlSub a (mlMul c b))) (mlApply (mlMatrix (pub.take 32)) (z.map mlNtt)) t
  List.zipWith (fun p h => List.zipWith (fun x i => mlHint (h.contains i) x) p (List.range 256)) w hs

/-- Does a signature of 3,309 bytes verify? -/
def mlVerify (pub m sig : List Byte) : Bool :=
  let z := (mlCut sig 48 640 5).map mlWide
  match mlHints (sig.drop 3248) with
  | some hs => mlSmall (2 ^ 19 - 196) z && decide (sig.take 48 = mlTag (mlDigest pub m) (mlSeen pub (sig.take 48) z hs))
  | none => false

end Sys2Proof.Machine
end

