-- ==== Sys2Proof/Machine/System.lean ====
section
/-!
DEFINITION. Machine/System.lean: traps, the return from a handler, invalidations, special-register moves (19 R315, R316,
R320–R327), checkpoints (19 R333) and the reset of a halted core (19 R310).
-/
namespace Sys2Proof.Machine

/-! ### Traps and the handler (19 R320, R321, R324, R327) -/

def execTrap (g n i : Nat) (s : State) : Out := slotDo g n (trap cSYSCALL 0 (wd i)) s
def execBrk (g n i : Nat) (s : State) : Out := slotDo g n (trap cBREAK 0 (wd i)) s
def execTack (g n : Nat) (s : State) : Out := slotDo g n (priv (emit 1 .ack)) s

/-- XRET leaves its bundle: its slot and its STOP bit are counted here. -/
def execXret (g n : Nat) (s : State) : Out :=
  slotDo g n (priv (fun s =>
    let s := cntEv 0 1 (if bitAt s.core.iss.hdr 14 then cntEv 0x12 1 s else s)
    onIss (fun i => { i with trapped := true }) (leave s))) s

def execPreq (g n : Nat) (s : State) : Out :=
  slotDo g n (priv (fun s => need (!s.core.ctl) (emit 1 .pp) s)) s

/-! ### Invalidations (19 R325, R326) -/

/-- ICINV waits for the core's stores and copy commands. -/
def execIcinv (g n : Nat) (s : State) : Out :=
  slotDo g n (fun s =>
    if exposed s then illop s
    else if s.core.cp.cmds.isEmpty && podClear s then onCore (fun c => { c with path := { lines := [] } }) s else hold 0x33 s) s

/-- A translation invalidation: privileged, in interlocked mode. -/
def tinv (pt : TlbE → Bool) (pw : WalkE → Bool) (g n : Nat) (s : State) : Out :=
  slotDo g n (priv (fun s => need (!exposed s) (tinvWhere pt pw) s)) s

def execTinvAll (g n : Nat) (s : State) : Out := tinv (fun _ => true) (fun _ => true) g n s
def execTinvAsid (g n b : Nat) (s : State) : Out :=
  let k := fld (rdS s b) 11 0
  tinv (fun t => decide (t.asid = k)) (fun t => decide (t.asid = k)) g n s
def execTinvPage (g n a b : Nat) (s : State) : Out :=
  let k := fld (rdS s b) 11 0
  let v := (rdS s a).toNat % 2 ^ 57
  tinv (fun t => t.hits k v) (fun t => t.hits k v) g n s

/-! ### Special-register moves (19 R314–R316, 25 R392) -/

/-- Is the number listed for the core? -/
def srListed (ctl : Bool) (n : Nat) : Bool :=
  decide (n ≤ 0x00B) || decide (n = 0x010) || decide (n = 0x013) || decide (n = 0x015) ||
  (!ctl && (decide (n = 0x011 ∨ n = 0x012 ∨ n = 0x014) || decide (0x020 ≤ n ∧ n ≤ 0x038)))
/-- Numbers of supervisor level only. -/
def srSupRead (n : Nat) : Bool := decide (n ≤ 0x00B) || decide (n = 0x013)
def srSupWrite (n : Nat) : Bool := srSupRead n || decide (n = 0x014)

/-- A special register as the bundle reads it: events of its own slots reach a counter after it (24 R382). -/
def srSeen (s : State) (n : Nat) : Word :=
  if 0x030 ≤ n ∧ n ≤ 0x033 then mget 0 (s.core.iss.pm0.getD s.core.pm.pmc) (n - 0x030) else readSr s n

/-- The result of a write of a special register, from the next bundle. -/
def srLand (n : Nat) (v : Word) : Land := if n = 0x010 then .mode (v.setWidth 8) else .sr n v

def execMfs (g n d i : Nat) (s : State) : Out :=
  .next (if !srListed s.core.ctl i then illop s
    else guarded g n (fun s => if srSupRead i && !s.core.x.pl then privFault s else emit 1 (.s d (srSeen s i)) s) s)

def execMts (g n d i : Nat) (s : State) : Out :=
  .next (if !srListed s.core.ctl i then illop s
    else guarded g n (fun s => if srSupWrite i && !s.core.x.pl then privFault s else emit 1 (srLand i (rdS s d)) s) s)

def execMfsr (g n d a : Nat) (s : State) : Out :=
  slotDo g n (fun s =>
    let i := fld (rdS s a) 15 0
    if !srListed s.core.ctl i then illop s
    else if srSupRead i && !s.core.x.pl then privFault s
    else emit 1 (.s d (srSeen s i)) s) s

def execMtsr (g n a b : Nat) (s : State) : Out :=
  slotDo g n (fun s =>
    let i := fld (rdS s a) 15 0
    if !srListed s.core.ctl i then illop s
    else if srSupWrite i && !s.core.x.pl then privFault s
    else emit 1 (srLand i (rdS s b)) s) s

/-! ### Checkpoints (19 R333) -/

/-- Does a continuation of the team hold an object or wait at a queue, at this package or another? -/
def teamHolds (s : State) (t : Nat) : Bool :=
  s.home.objs.any (fun o => match o.hold with
    | .shared hs => hs.any (fun a => decide (a.team = t)) | .excl a => decide (a.team = t) | _ => false) ||
  s.home.queues.any (fun q => q.2.waits.any (fun w => decide (w.who.team = t))) ||
  (coresOf s t).any (fun k => let m := (coreAt s k).cm; !m.held.isEmpty || !m.regs.isEmpty) ||
  s.dist.slots.any (fun p => decide (p.2.team = t ∧ p.2.st ≠ .free) && (!p.2.held.isEmpty || !p.2.regs.isEmpty))

/-- The checkpoint of a team: continuations with the issuer's saved one, undealt work, live counts, pool slots. -/
def ckOf (s : State) (x : Team) (k : Cont) : TeamCk :=
  let t := k.team
  let qs := (s.dist.quadq.filter (fun q => decide (q.cont.team = t))).map QTask.cont
  let us := (qs.map (fun c => if x.card.gang then c.idx / 4 else c.idx)).eraseDups
  { ready := x.ready ++ (s.dist.toDo.filter (fun p => decide (p.2.team = t))).map Prod.snd ++ [k],
    back := us ++ x.back, nextIdx := x.nextIdx, live := x.live, conts := x.conts - qs.length,
    slots := s.dist.slots.filter (fun p => decide (p.2.team = t)), gangEnd := x.gangEnd, part := x.part.map (fun p => (p.1, p.2.1, 0)) }

/-- Steps 4 to 6: the issuer's context is saved with ROLLED, the checkpoint replaced, the windows opened anew. -/
def takeCkpt (d : Nat) (k : Cont) (x : Team) (s : State) : State :=
  let t := k.team
  let live := slotAt s k.ctx
  let me := { k with pc := s.core.iss.seq, keep := true }
  let s := saveCtx s.focus k.ctx s
  let s := putSlot k.ctx { slotAt s k.ctx with st := .ready, cont := some me, ret := some (d, 1) } s
  let ck := ckOf s x me
  let s := putSlot k.ctx live s
  let s := onGrp (fun g => { g with ckMeets := mput g.ckMeets t (g.meets.filter (fun m => decide (m.team = t))),
                                    ckBars := mput g.ckBars t (g.bars.filter (fun b => decide (b.team = t))),
                                    ckObjs := mput g.ckObjs t (s.home.objs.filter (fun o => decide (o.maker = t))) }) s
  let s := onHome (fun h => { h with objs := h.objs.map (fun o => if o.maker = t then { o with inWin := false } else o) }) s
  onTeam t (fun x => { x with ck := ck, ckBusy := none, ckStop := false }) (openWins t (closeWins t s))

/-- CKPT's status word. -/
def ckStatus (st : Nat) (x : Team) : Word := wd (st + x.rolls * 2 ^ 32)

def execCkpt (g n d : Nat) (s : State) : Out :=
  slotDo g n (fun s =>
    match !s.core.ctl && !exposed s && suspOk s && !s.core.pm.open_, myTask s with
    | true, some (k, x) =>
      let t := k.team
      if x.ckBusy.isSome ∧ x.ckBusy ≠ some s.focus then emit 1 (.s d (ckStatus 3 x)) s
      else if x.ckBusy.isNone ∧ (areaStacks s x.asid).length < 8 then emit 1 (.s d (ckStatus 4 x)) s
      else
        whenQuiet (fun s =>
          let s := onTeam t (fun x => { x with ckStop := true }) s
          let others := (coresOf s t).filter (fun c => decide (c ≠ s.focus))
          if !others.isEmpty then holdAs 3 0x33 (others.foldl (fun s c => if preRoom s t 1 then askPreempt c s else s) s)
          else if teamHolds s t then emit 1 (.s d (ckStatus 2 x)) (onTeam t (fun x => { x with ckBusy := none, ckStop := false }) s)
          else emit 1 (.s d (ckStatus 0 x)) (takeCkpt d k x s)) (onTeam t (fun x => { x with ckBusy := some s.focus }) s)
    | _, _ => illop s) s

/-! ### A halted core (19 R310) -/

/-- The control complex resets one halted compute core. -/
def execCoreReset (core : Nat) (s : State) : Out :=
  .next (if core < 1024 ∧ (coreAt s core).st = .dhalt then
    setCoreAt core (let t := if (coreAt s core).now < s.time then s.time else (coreAt s core).now
      { Core.reset core false with now := t, born := t }) s else s)

end Sys2Proof.Machine
end

