-- ==== Sys2Proof/Machine/Package.lean ====
section
/-!
DEFINITION. Machine/Package.lean: the control complex and the package (spec 25): power and temperature, reset, front-end
ports, management commands, control commands, package registers, and the reset of a stack's logic die (14 R267).
-/
namespace Sys2Proof.Machine

/-! ### Power and temperature (25 R403, R404) -/

/-- PWRSTAT with a temperature. -/
def setTemp (t : Nat) (w : Word) : Word := setFld w 19 10 (if t < 1024 then t else 1023)

/-- The level T the controller sets, or 63 while a junction is hot. -/
def setLevel (c : CtlSt) : CtlSt := { c with pwr := setFld c.pwr 5 0 (if c.forced then 63 else c.tNow) }

/-- T for an estimate P, a budget B and the draw of matrix and vector work. -/
def throttleLevel (p b work : Nat) : Nat :=
  let t := cdiv (64 * (p - b)) work
  if p ≤ b then 0 else if t < 63 then t else 63

/-- The end of a window of 1,000 cycles: `matrix`, `vector`, `links` and `control` are the draws the controller estimates of
its activity, in W. -/
def execPowerWindow (matrix vector links control : Nat) (s : State) : Out :=
  .next (onCtl (fun c =>
    let p := matrix + vector + (if links < 150 then links else 150) + control
    let b := if c.pcap - 360 < 1440 then c.pcap - 360 else 1440
    let w := setFld (setFld (setFld c.pwr 43 32 (if p < 4096 then p else 4095)) 31 20 b) 8 8 (b2n (decide (150 < links)))
    setLevel { c with pwr := w, tNow := throttleLevel p b (matrix + vector) }) s)

/-- The hottest junction is found at `temp` degrees: T is 63 from 105 on, until it is below 100 (25 R404). -/
def junction (temp : Nat) : State → State := onCtl (fun c =>
  setLevel { c with pwr := setTemp temp c.pwr, forced := decide (105 ≤ temp) || (c.forced && decide (100 ≤ temp)) })

def execThermalLimit (temp : Nat) (s : State) : Out := .next (junction temp s)
def execThermalRecovery (temp : Nat) (s : State) : Out := .next (junction temp s)
def execThermalTrip (temp : Nat) (s : State) : Out :=
  .next (if temp < 115 then junction temp s
    else ctlEvent 6 temp 0 (onCtl (fun c => { c with pwr := setFld c.pwr 9 9 1, halted := true }) (junction temp s)))

/-! ### Reset (25 R399) -/

/-- The state after the reset sequence: what stands outside the machine's registers stays. -/
def resetSeq (s : State) : State :=
  { State.reset with ctl := { CtlSt.reset with pkgNum := s.ctl.pkgNum, owner := s.ctl.owner, rsvsz := s.ctl.rsvsz, replies := s.ctl.replies, events := s.ctl.events },
                     sched := s.sched, free := s.free }

def execResetSequence (s : State) : Out := .next (resetSeq s)

/-! ### Front-end ports (25 R402) -/

/-- A descriptor: buffer address and length. -/
def portDesc (d : List Byte) : Nat × Nat := (leAt d 0 8, leAt d 8 2 % 2 ^ 14)

/-- Does the buffer lie in the own package's device memory, in no retired unit? -/
def portBuf (s : State) (a n : Nat) : Bool :=
  decide (a + n ≤ 2 ^ 39) && !(List.range (n / 2 ^ 16 + 2)).any (fun i => decide (a / 2 ^ 16 * 2 ^ 16 + i * 2 ^ 16 < a + n) && retired s (own s (a + i * 2 ^ 16)))

def portAt (s : State) (p : Nat) : Port := mget ⟨[], [], [], 0⟩ s.ctl.ports p
def putPort (p : Nat) (x : Port) : State → State := onCtl (fun c => { c with ports := mput c.ports p x })

/-- Who writes for XD itself: no team. -/
def whoXd : Who := { key := 2114, team := none, meas := false, cls := 0, dig := true }

/-- Descriptors the OS has put into a queue since, before those in it are used; no file says how it puts them there. -/
def addDesc (d : List Byte) (q : List (List Byte)) : List (List Byte) := if d.isEmpty then q else q ++ [d]

/-- A frame reaches a port, which takes the oldest descriptor of its receive queue; `desc` is one put there since. A frame that finds
none, or a buffer outside device memory, is dropped and counted. Of a frame longer than its buffer the port drops all or writes the
head: which is left open. -/
def execFrameReceived (port : Nat) (frame desc : List Byte) (s : State) : Out :=
  .next (if 2 ≤ port ∨ 9216 < frame.length then s
    else
      let x := portAt s port
      match addDesc desc x.rx with
      | [] => putPort port { x with drop := x.drop + 1 } s
      | d :: r =>
        let (a, n) := portDesc d
        let (k, s) := draw (putPort port { x with rx := r } s)
        if portBuf s a n = false ∨ (n < frame.length ∧ Config.freeBool k = true) then putPort port { x with rx := r, drop := x.drop + 1 } s
        else netPut whoXd [(own s a, (frame.take n).length, 0)] (frame.take n) s)

/-- A port sends the frame that the oldest descriptor of its transmit queue names; `desc` is one put there since. One that names no
frame the port may send is passed over. -/
def execFrameTransmit (port : Nat) (desc : List Byte) (s : State) : Out :=
  .next (if 2 ≤ port then s
    else
      let x := portAt s port
      match addDesc desc x.tx with
      | [] => s
      | d :: r =>
        let (a, n) := portDesc d
        let sent := if portBuf s a n = true ∧ n ≤ 9216 then x.sent ++ [memBytes s.mem (own s a) n] else x.sent
        putPort port { x with tx := r, sent := sent } s)

/-! ### Management requests (25 R394) -/

def mgLen (q : List Byte) : Nat := leAt q 2 2
def mgBody (q : List Byte) : List Byte := (q.drop 44).take (mgLen q)
/-- A body that is one number. -/
def mgNum (q : List Byte) : Nat := leNat (mgBody q)

/-- Whether each of the two signatures behind a body verifies over header and body with the key beside it (01 R12, 25 R394). -/
def sigsOf (q : List Byte) : Sigs :=
  let n := 44 + mgLen q
  let part := fun o k => (q.drop (n + o)).take k
  ⟨edVerify (part 0 32) (q.take n) (part 1984 64), mlVerify (part 32 1952) (q.take n) (part 2048 3309)⟩

/-- May a mutating command be performed: the keys hash to the fused owner hash, both signatures verify, the sequence
number is new. -/
def mgAuth (s : State) (v : Sigs) (q : List Byte) : Bool :=
  let n := 44 + mgLen q
  decide (q.length = n + 5357) && decide (sha384 ((q.drop n).take 1984) = s.ctl.owner) && v.ed && v.ml && decide (s.ctl.lastSeq < leAt q 4 8)

/-- A reply: CMD, length of the data, SEQ, nonce, status, data. -/
def mgReply (q : List Byte) (st : Nat) (data : List Byte) : State → State := onCtl (fun c =>
  { c with replies := c.replies ++ [q.take 2 ++ leBytes 2 data.length ++ (q.drop 4).take 40 ++ leBytes 4 st ++ data] })

/-- Reply statuses. -/
def gOK : Nat := 0
def gAUTH : Nat := 1
def gMALFORMED : Nat := 2
def gFULL : Nat := 3
def gSTATE : Nat := 4
def gNOTFOUND : Nat := 5

/-- A request for command `cmd`, a mutating one with the verdicts on its signatures, is answered; a request for another
command, or whose signatures have other verdicts, is not this step's. A mutating one that lacks any of what 25 R394 asks is answered AUTH, cut short or not. -/
def mgmt (cmd : Nat) (sig : Option Sigs) (q : List Byte) (f : State → Nat × List Byte × State) (s : State) : Out :=
  .next (if leAt q 0 2 ≠ cmd ∨ q.length < 44 ∨ sig.any (fun v => decide (v ≠ sigsOf q)) then s
    else if sig.any (fun v => !mgAuth s v q) then mgReply q gAUTH [] s
    else if q.length < 44 + mgLen q then mgReply q gMALFORMED [] s
    else
      let (st, data, s) := f (if sig.isSome then onCtl (fun c => { c with lastSeq := leAt q 4 8 }) s else s)
      mgReply q st data s)

/-- Exactly `n` bytes of what the part computes from its secrets. -/
def secret (k n : Nat) (of : List Byte) : List Byte :=
  let b := Config.secretBytes k of
  (List.range n).map (fun i => nth 0 b i)

/-- The device identity pair's seeds, which the part alone holds. -/
def edSeed : List Byte := secret 1 32 []
def mlSeed : List Byte := secret 2 32 []

/-- What GETID tells of the identity: both public keys and their certificate, which the Chebex root pair signed. -/
def identity : List Byte := edKey edSeed ++ (mlKeys mlSeed).bytes ++ Config.secretBytes 3 []

/-- The two signatures of the device identity pair over a report; the second draws 32 bytes. -/
def reportSigs (b : List Byte) : List Byte := edSign edSeed b ++ mlSign mlSeed (secret 5 32 b) b

/-- PKGID as its 8-byte register reads. -/
def pkgId (s : State) : List Byte := leBytes 8 (regRead s 0).toNat

def execGetid (req : List Byte) (s : State) : Out :=
  mgmt 0x01 none req (fun s => (gOK, pkgId s ++ identity, s)) s

/-- The signed part of the report (25 Table 25-4). -/
def attestBody (nonce : List Byte) (s : State) : List Byte :=
  leBytes 4 0x46544152 ++ leBytes 4 1 ++ secret 4 8 [] ++ leBytes 4 (regRead s 0).toNat ++ leBytes 4 (b2n s.ctl.run) ++ nonce ++
  (List.range 8).flatMap (fun i => mget (List.replicate 48 0) s.ctl.mreg i) ++ leBytes 8 s.ctl.retired.length

def execAttest (req : List Byte) (s : State) : Out :=
  mgmt 0x02 none req (fun s =>
    let b := attestBody ((req.drop 12).take 32) s
    (gOK, b ++ reportSigs b, s)) s

/-- An OS image is written at the body's physical address and measured; what follows the image's part in the body, whose length is
a 16-bit field, is an input, and so is the image's length. The body holds i in byte 0, the address in bytes 8 to 15, the entry point in bytes 16 to 23, then the
image (DESIGN CHOICE, log 135: 25 R394 and R400 place byte 0 alone). -/
def execLoados (req more : List Byte) (len : Nat) (ed ml : Bool) (s : State) : Out :=
  mgmt 0x10 (some ⟨ed, ml⟩) req (fun s =>
    let b := mgBody req
    let i := leAt b 0 1
    let addr := leAt b 8 8
    let image := (b.drop 24 ++ more).take len
    if s.ctl.run then (gSTATE, [], s)
    else if 8 ≤ i ∨ 2 ^ 28 < image.length ∨ portBuf s addr image.length = false then (gMALFORMED, [], s)
    else
      let m := sha384 (mget (List.replicate 48 0) s.ctl.mreg i ++ sha384 image)
      (gOK, [], { onCtl (fun c => { c with mreg := mput c.mreg i m, entry := leAt b 16 8 }) s with mem := memPut image (own s addr) s.mem })) s

/-- The control cores start at the loaded entry. -/
def startCtl (s : State) : State :=
  (List.range 16).foldl (fun s k => onCoreAt (1024 + k) (fun c =>
    { Core.reset k true with st := .handler, now := if c.now < 2 * s.time then 2 * s.time else c.now, iss := { Iss.reset with npc := wd s.ctl.entry } }) s) s

def execStart (req : List Byte) (sig : Sigs) (s : State) : Out :=
  mgmt 0x11 (some sig) req (fun s =>
    if s.ctl.run then (gSTATE, [], s) else (gOK, [], startCtl (onCtl (fun c => { c with run := true }) s))) s

def execReset (req : List Byte) (sig : Sigs) (s : State) : Out := mgmt 0x12 (some sig) req (fun s => (gOK, [], resetSeq s)) s
def execPodset (req : List Byte) (sig : Sigs) (s : State) : Out := mgmt 0x20 (some sig) req (fun s => (gOK, [], regWrite 0x0040 (wd (mgNum req)) s)) s

/-- The links of a mask retrain; one that is absent has nothing to train. -/
def execLinktrain (req : List Byte) (sig : Sigs) (s : State) : Out :=
  mgmt 0x21 (some sig) req (fun s => (gOK, [], (List.range 12).foldl (fun s k =>
    if mgNum req / 2 ^ k % 2 = 1 && !linkAbsent s k then linkDown k 1 s else s) s)) s

def execPcapset (req : List Byte) (sig : Sigs) (s : State) : Out := mgmt 0x22 (some sig) req (fun s => (gOK, [], regWrite 0x00C0 (wd (mgNum req)) s)) s

/-- A unit put on the retirement list (25 R401), with the status. -/
def retire (pa : Nat) (s : State) : Nat × State :=
  if pa % 2 ^ 16 ≠ 0 ∨ 2 ^ 39 ≤ pa then (gMALFORMED, s)
  else if s.ctl.retired.contains (pa / 2 ^ 16) then (gOK, s)
  else if 1024 ≤ s.ctl.retired.length then (gFULL, s)
  else (gOK, retireUnit pa s)

def execRetire (req : List Byte) (sig : Sigs) (s : State) : Out :=
  mgmt 0x30 (some sig) req (fun s => let (st, s) := retire (mgNum req) s; (st, [], s)) s

/-- A launch by the management port; `far` gives what other packages answer of the card and its table. -/
def execMgmtLaunch (req far : List Byte) (sig : Sigs) (s : State) : Out :=
  mgmt 0x31 (some sig) req (fun s =>
    let va := wd (mgNum req)
    let ttb := (supOf s 0).ttb
    if va.toNat % 64 ≠ 0 then (gMALFORMED, [], s)
    else
      match translate 1024 ttb false false .rd va s with
      | (.bad _ _ _, s) => (gNOTFOUND, [], s)
      | (.ok p e, s) =>
        if isReg p || retired s p then (gNOTFOUND, [], s)
        else
          let b := if pkgOf p = s.ctl.pkgNum then memBytes s.mem p 64 else far.take 64
          let n := leAt b 0x14 4 % 8
          let (args, s) := readArgs false 1024 ttb (far.drop 64) n (leAt b 8 8) s
          let xd := fun cls => { whoXd with cls := cls }
          let s := if args.isSome then argReads xd false 1024 ttb n (leAt b 8 8) (l2Touch (xd (leafCls e)) false p s) else s
          let (st, h, s) := launch 0 none b args s
          (gOK, leBytes 8 (st + h * 2 ^ 32), s)) s

/-- The team a handle names. -/
def teamByHandle (s : State) (h : Nat) : Option Nat :=
  match teamOf s (h % 4096) with
  | some x => if h = h % 4096 + x.gen * 2 ^ 12 then some (h % 4096) else none
  | none => none

def execMgmtRollback (req : List Byte) (sig : Sigs) (s : State) : Out :=
  mgmt 0x32 (some sig) req (fun s =>
    match teamByHandle s (mgNum req) with
    | some t => (gOK, [], rollTeam t false s)
    | none => (gNOTFOUND, [], s)) s

/-! ### Control commands (25 R395, R396) -/

def kOK : Nat := 0
def kMALFORMED : Nat := 1
def kFULL : Nat := 2
def kSTATE : Nat := 3
def kNOTFOUND : Nat := 4
def kBUSY : Nat := 5

/-- Word `k` of a block: CODE, then OP0 to OP4. -/
def ccWord (s : State) (pa k : Nat) : Nat := memNat s.mem (own s pa + 8 * k) 8

/-- Bits of a word outside a mask. -/
def outside (x mask : Nat) : Bool := decide (x &&& mask ≠ x)

/-- Does a range meet the reserved top of a stack? -/
def topMeets (s : State) (a n : Nat) : Bool :=
  (List.range 8).any (fun k => (meetAt a (a + n) (k * 2 ^ 36 + rsvStart s) ((k + 1) * 2 ^ 36)).isSome)

/-- Does a physical range of the own package leave device memory or reach the reserved top of a stack (25 R398)? -/
def rangeBad (s : State) (a n : Nat) : Bool := decide (2 ^ 39 < a + n) || topMeets s a n

/-- Is a range homed on one stack, outside its reserved top? -/
def onStack (s : State) (k a n : Nat) : Bool := decide (a / 2 ^ 36 = k) && !rangeBad s a n

/-- Bytes of a capture or measurement area (25 Table 25-7). -/
def areaBytes (n : Nat) : Nat := cdiv (8 * n) 4096 * 4096 + 4096 * n

/-- Malformed operands by CODE: reserved bits, a shape the table forbids, the reserved top of a stack. -/
def ccBad (s : State) (code : Nat) (op : Nat → Nat) : Bool :=
  let zero := fun (ks : List Nat) => ks.any (fun k => decide (op k ≠ 0))
  let stk := op 0 % 8
  if code = 0x01 then
    let n := nbits (op 0) 12 8
    outside (op 0) 0x1F07 || decide (20 < n) || decide (op 1 % (64 * 2 ^ n) ≠ 0) || !onStack s stk (op 1) (64 * 2 ^ n) ||
    outside (op 2) 0xFFF || zero [3, 4]
  else if code = 0x02 then (hndOf (wd (op 0))).resv || zero [1, 2, 3, 4]
  else if code = 0x03 then
    decide (op 0 % 2 ^ 21 ≠ 0) || decide (op 1 = 0) || decide (4095 < op 1) || rangeBad s (op 0) (op 1 * 2 ^ 21) || zero [2, 3, 4]
  else if code = 0x04 then
    outside (op 0) 0xFFF || decide (op 1 / 2 ^ 52 ≠ op 0) || decide (op 1 % 2 ^ 12 ≠ 0) || rangeBad s (nbits (op 1) 51 12 * 4096) 4096
  else if code = 0x05 ∨ code = 0x06 then
    let st := nbits (op 0) 18 16
    outside (op 0) 0x70FFF || decide (2 ^ 20 < op 2) || decide (op 1 % 4096 ≠ 0) ||
    (if op 2 = 0 then topMeets s (op 1) 1 else !onStack s st (op 1) (areaBytes (op 2))) || zero [3, 4]
  else if code = 0x07 then decide (op 1 % 64 ≠ 0) || zero [2, 3, 4]
  else if code = 0x08 then
    let m := op 2
    let far := fun k => nbits (op k) 45 32
    outside (op 0) 0xFF || decide (m ≠ 2 ∧ m ≠ 3) || outside (op 3) (2 ^ 46 - 1) || outside (op 4) (2 ^ 46 - 1) ||
    decide (far 3 = s.ctl.pkgNum) || (if m = 2 then decide (op 4 ≠ 0) else decide (far 4 = s.ctl.pkgNum ∨ far 4 = far 3))
  else if code = 0x09 then zero [1, 2, 3, 4]
  else if code = 0x0A then outside (op 0) 0x3FF || zero [2, 3, 4]
  else true

/-- Is the block malformed? -/
def ccMalformed (s : State) (pa : Nat) : Bool :=
  let w := ccWord s pa 0
  decide (256 ≤ w) || ccBad s w (fun k => ccWord s pa (k + 1))

/-- The next command's turn comes. -/
def ccNext : State → State := onCtl (fun c => { c with ccmd := c.ccmd.drop 1 })

/-- RESULT and then STATUS are written into the block, and the next command's turn comes. The home refuses both in a bound line and
in a registered region's (13 R241, 14 R262), where the block keeps its bytes (DEDUCED, log 136). -/
def ccEnd (pa result st : Nat) (s : State) : State :=
  let put := fun o v s =>
    if writeRefused s whoXd.key (own s pa) then s
    else homePut whoXd true (own s (pa + o)) (leBytes 8 v) (rcDropAll (fun l => decide (l = lineOf (own s pa))) s)
  ccNext (put 0x38 st (put 0x30 result s))

/-- The oldest control command is performed, when it has the code and is well formed. One whose block lies in a retired unit, which
refuses every access, can be neither read nor answered and is passed over (25 R401). -/
def control (code : Nat) (f : (Nat → Nat) → State → Nat × Nat × State) (s : State) : Out :=
  .next (match s.ctl.ccmd with
    | [] => s
    | pa :: _ =>
      if retired s (own s pa) then ccNext s
      else if ccWord s pa 0 ≠ code ∨ ccMalformed s pa = true then s
      else
        let (r, st, s) := f (fun k => ccWord s pa (k + 1)) s
        ccEnd pa r st s)

def execMalformedControlCommand (s : State) : Out :=
  .next (match s.ctl.ccmd with
    | [] => s
    | pa :: _ => if retired s (own s pa) then ccNext s else if ccMalformed s pa then ccEnd pa 0 kMALFORMED s else s)

/-- A queue's handle (14 Table 14-3). -/
def qHandle (pkg stk hgen q : Nat) : Nat := 2 ^ 63 + pkg * 2 ^ 34 + stk * 2 ^ 31 + hgen * 2 ^ 10 + q

/-- An empty queue under a free number of its stack, with a new generation. -/
def execQcreate (s : State) : Out :=
  control 0x01 (fun op s =>
    let stk := op 0 % 8
    let old := fun i => mfind? s.home.queues (stk * 1024 + i)
    match (List.range 1024).filter (fun i => ((old i).map Queue.live) != some true) with
    | [] => (0, kFULL, s)
    | q :: r =>
      let (k, s) := draw s
      let i := nth q (q :: r) (Config.freeNat k % (r.length + 1))
      let g := match old i with | some x => (x.hgen + 1) % 64 | none => 0
      let x : Queue := { live := true, cap := 2 ^ nbits (op 0) 12 8, base := op 1, asid := op 2, hgen := g, ents := [],
                         waits := ((old i).map Queue.waits).getD [] }
      (qHandle s.ctl.pkgNum stk g i, kOK, putQueue (stk * 1024 + i) x s)) s

/-- STALE reaches a waiter, wherever its continuation is. -/
def staleTo (w : QWait) (s : State) : State :=
  if isFar w.who.team then tell (farPkg w.who.team) kStale w.tag (agentBytes ⟨farId w.who.team, w.who.slot, none⟩) s
  else postTo w.who.team w.who.slot (evRec 5 w.tag 4 0 0) s

/-- A queue destroyed: its entries are gone; an entry already handed to a waiter is still delivered. -/
def execQdestroy (s : State) : Out :=
  control 0x02 (fun op s =>
    let h := hndOf (wd (op 0))
    match if h.pkg = s.ctl.pkgNum ∧ h.v = true then qFind s ⟨true, 0⟩ h else .inr qSTALE with
    | .inr _ => (0, kNOTFOUND, s)
    | .inl q =>
      let (due, not) := q.waits.partition (fun w => w.due.isSome)
      (0, kOK, not.foldl (fun s w => staleTo w s) (putQueue h.key { q with live := false, ents := [], waits := due } s))) s

def execPoolset (s : State) : Out :=
  control 0x03 (fun op s =>
    if !s.dist.teams.isEmpty then (0, kSTATE, s) else (0, kOK, onDist (fun d => { d with pool := some (op 0, op 1) }) s)) s

def execSupset (s : State) : Out :=
  control 0x04 (fun op s =>
    (0, kOK, onCtl (fun c => { c with sup := mput c.sup (op 0) ⟨wd (op 1), wd (op 2 / 4 * 4), wd (op 3), wd (op 4)⟩ }) s)) s

/-- An area given or removed, unless a team of the ASID is live. -/
def setArea (put : Nat → Option CapArea → CtlSt → CtlSt) (op : Nat → Nat) (s : State) : Nat × Nat × State :=
  let asid := op 0 % 4096
  if s.dist.teams.any (fun t => decide (t.2.asid = asid)) then (0, kSTATE, s)
  else (0, kOK, onCtl (put (areaKey asid (nbits (op 0) 18 16)) (if op 2 = 0 then none else some ⟨op 1, op 2⟩)) s)

/-- An area entered or taken out. -/
def areaPut (m : SMap CapArea) (k : Nat) (a : Option CapArea) : SMap CapArea := match a with | some a => mput m k a | none => mdel m k

def execCapset (s : State) : Out := control 0x05 (setArea (fun k a c => { c with caps := areaPut c.caps k a })) s
def execMeasset (s : State) : Out := control 0x06 (setArea (fun k a c => { c with meas := areaPut c.meas k a })) s

/-- POS := BASE and CTRL := 0 in the ten descriptors of a log block (23 Table 23-5). -/
def logsReset (b : Nat) (s : State) : State :=
  (List.range 10).foldl (fun s k =>
    let a := b + 32 * k
    { s with mem := memPut (leBytes 8 0) (a + 0x18) (memPut (memBytes s.mem a 8) (a + 0x10) s.mem) }) s

/-- A team's log block: the address is translated once, in the team's address space. One that does not translate to own device memory
gives the team no log block (DESIGN CHOICE, log 116). -/
def execLogset (s : State) : Out :=
  control 0x07 (fun op s =>
    match teamByHandle s (op 0) with
    | none => (0, kNOTFOUND, s)
    | some t =>
      let b := if op 1 = 0 then none else (teamPhys s t .rd (wd (op 1))).filter (fun a => isOwn s a)
      let s := onTeam t (fun x => { x with log := b }) s
      (0, kOK, match b with | some a => logsReset a s | none => s)) s

/-- A group as members announce it to each other. -/
def groupBytes (ms : List (Nat × Nat)) : List Byte := ms.flatMap (fun m => leBytes 2 m.1 ++ leBytes 4 m.2)

/-- Does an announcement speak of a team of this package that is gone? Such a one counts no longer (DEDUCED, log 155). -/
def annStale (s : State) (ms : List (Nat × Nat)) : Bool :=
  ms.any (fun m => decide (m.1 = s.ctl.pkgNum) && (teamByHandle s m.2).isNone)

/-- The team joins a replica group (23 R374); a member that has announced other members, or a package that has announced this team
among other members, makes the command malformed. What was announced of a team that is gone makes none so. -/
def execRepgrp (s : State) : Out :=
  control 0x08 (fun op s =>
    match teamByHandle s (op 1) with
    | none => (0, kNOTFOUND, s)
    | some t =>
      let far := fun k => (nbits (op k) 45 32, op k % 2 ^ 32)
      let ms := (s.ctl.pkgNum, op 1) :: far 3 :: (if op 2 = 3 then [far 4] else [])
      let others := ms.drop 1
      let odd := s.grp.anns.any (fun a => decide (a.2.1 = op 0) && !annStale s a.2.2 && (others.any (fun m => decide (m.1 = a.1)) || a.2.2.contains (s.ctl.pkgNum, op 1)) && !sameMems a.2.2 ms)
      let s := others.foldl (fun s m => tell m.1 36 (op 0) (groupBytes ms) s) s
      if odd then (0, kMALFORMED, s)
      else (0, kOK, putGroup t { num := op 0, mems := ms, subs := [], again := [], done := [] } s)) s

def execRollback (s : State) : Out :=
  control 0x09 (fun op s =>
    match teamByHandle s (op 0) with
    | some t => (0, kOK, rollTeam t false s)
    | none => (0, kNOTFOUND, s)) s

/-- A control-complex request for one core (19 R319). -/
def execCreq (s : State) : Out :=
  control 0x0A (fun op s =>
    let c := coreAt s (op 0)
    if c.st = .dhalt then (0, kSTATE, s)
    else if c.ev.ccreq.isSome then (0, kBUSY, s)
    else (0, kOK, onCoreAt (op 0) (fun c => { c with ev := { c.ev with ccreq := some (wd (op 1)) } }) s)) s

/-! ### Package registers written by the control complex (25 R393) -/

def execL2quotaWrite (die : Nat) (v : Word) (s : State) : Out := .next (if die < 4 then regWrite (0x1000 + 0x40 * die) v s else s)
def execPcapWrite (v : Word) (s : State) : Out := .next (regWrite 0x00C0 v s)
def execPodcfgWrite (v : Word) (s : State) : Out := .next (regWrite 0x0040 v s)
/-- Another register, or an offset that names none. -/
def execPackageRegisterWrite (off : Nat) (v : Word) (s : State) : Out :=
  .next (if off % 8 = 0 ∧ off ≠ 0x0040 ∧ off ≠ 0x00C0 ∧ !(decide (0x1000 ≤ off ∧ off ≤ 0x10C0)) = true then regWrite off v s else s)

/-! ### A stack's logic die reset in mid-update (14 R266, R267) -/

/-- Does a line of virtual memory belong to an array? -/
def inArray (base n line : Nat) : Bool := decide (base / 64 ≤ line ∧ 64 * line < base + n)

/-- A block's line writes in the order of 14 R266: moments, weights, MGEN, MX copy, GEN. -/
def blockWrites (c : RRec) (b seq : Nat) (ls : SMap (Nat × Nat)) : List (Nat × Nat × Nat) :=
  let tag := (c.tagb + 8 * b) / 64
  let o := 8 * ((c.tagb + 8 * b) % 64)
  let of := fun base n => ls.filter (fun p => inArray base n p.1 && decide (p.1 ≠ tag))
  let size := 4 * c.rows * c.cols
  let mom := of c.m1b size ++ (if c.adam then of c.m2b size else [])
  let wts := of c.mwb size
  let mx := ls.filter (fun p => decide (p.1 ≠ tag) && !mom.any (fun q => decide (q.1 = p.1)) && !wts.any (fun q => decide (q.1 = p.1)))
  mom ++ wts ++ [(tag, (2 ^ 32 - 1) * 2 ^ o, seq * 2 ^ o)] ++ mx ++ [(tag, (2 ^ 32 - 1) * 2 ^ (o + 32), seq * 2 ^ (o + 32))]

/-- An accepted arrival stopped after `lines` line writes of its next block: those stay, and so do lines of bound ranges that wait for
the engine's release (DEDUCED, log 156: 14 R267 has every line written stay). Its generators and counters are not written back, its
engine gives up what it held, and it is to be delivered again. -/
def stopArrival (r : Region) (c : RRec) (x : Arr) (u : ArrRun) (lines : Nat) (s : State) : Arr × State :=
  let b := x.blk0 + u.done
  let a := updBlock s r c (hpOf s r.rec_) b x.seq (fun k => gradAt x (u.pos + k)) u.gens
  let w := whoRegion s r
  let s := blockLines r w ((blockWrites c b x.seq a.lines).take lines) s
  let s := publish (fun y => decide (y.owner = w.key) && (r.pcs s).any (fun p => decide (p.1 ≤ y.line ∧ y.line < p.1 + p.2))) w.meas s
  ({ x with run := none }, dropArr x s)

/-- The engine of arrival `index` is stopped while it performs it; nothing is stopped where the arrival's turn has not come, it is
refused or a duplicate, or its engine still waits for objects. -/
def stopAt (index lines : Nat) (remote : List Byte) (s : State) : State :=
  match s.home.arrivals[index]? with
  | none => s
  | some x =>
    match if x.ctl.isSome || (s.home.arrivals.take index).any (fun y => decide (y.rec_ = x.rec_)) then none
          else x.rec_.bind (fun a => s.home.regions.find? (fun r => decide (r.rec_ = a))) with
    | none => s
    | some r =>
      let c := recAt s.mem r.rec_
      if x.run.isNone && (arrRefused s r c x remote || inWindow s r c x) then s
      else
        let (x, t) := if x.run.isNone then acceptArr r c x remote s else (x, s)
        match engAcqAll (regHolder r) (regObjs t r) t with
        | (false, _) => s
        | (true, t) => let (x, t) := stopArrival r c x (x.run.getD ⟨0, 0, [], flNone⟩) lines t; setArr index (some x) t

/-- A stack's logic die is reset while its engine performs arrival `index`. -/
def execStackLogicDieReset (stack index lines : Nat) (remote : List Byte) (s : State) : Out :=
  .next (if ((s.home.arrivals[index]?).bind Arr.rec_).any (fun a => decide (stackOf (paOf a) = stack)) then stopAt index lines remote s else s)

/-! ### Memory errors (19 R332) -/

/-- A memory error is met. A lasting one that a memory-side agent meets may stop it in the middle of a block (14 R267); its unit is
retired and the team that owns the region, queue or command is rolled back, which ends it LOST. One that an access of the core in
focus is to meet waits for that access; a core that issues nothing meets none. One in a core's memories that an engine meets halts the
core that has them. -/
def memError (e : MemError) (s : State) : State :=
  match e with
  | .corrected k =>
    if k < 12 then onCtl (fun c => { c with cecnt := mset 0 c.cecnt k (if mget 0 c.cecnt k < 2 ^ 32 - 1 then mget 0 c.cecnt k + 1 else 2 ^ 32 - 1) }) s
    else s
  | .transient pa => onCtl (fun c => { c with soft := c.soft ++ [pa] }) s
  | .lasting h =>
    if (s.core.st = .run ∨ s.core.st = .handler) ∧ 1 ≤ h.detail ∧ h.detail ≤ 5 then onIss (fun i => { i with err := some h }) s else s
  | .engine t pa i n remote =>
    let s := match i with | some k => stopAt k n remote s | none => s
    rollTeam t true (retireUnit (pa % 2 ^ 52 / 2 ^ 16 * 2 ^ 16) s)
  | .sram k f =>
    if k < 1024 ∧ 3 ≤ f.detail ∧ f.detail ≤ 5 ∧ (coreAt s k).st ≠ .dhalt then
      asCore k (fun s => memErr (lateRec { f with cause := cMEMERR } s.core.iss.npc) true false s) s
    else s

end Sys2Proof.Machine
end

