-- ==== Sys2Proof/Machine/Rollback.lean ====
section
/-!
DEFINITION. Machine/Rollback.lean: what a step leaves to be done for a team that must be rolled back (19 R322, R332, R336,
R337).
-/
namespace Sys2Proof.Machine

/-- The rollback that a core asks for is performed. -/
def settleAt (k : Nat) (s : State) : State :=
  match (coreAt s k).iss.roll with
  | none => s
  | some lost =>
    let t := (coreAt s k).task.cont.map Cont.team
    let s := onCoreAt k (fun c => { c with iss := { c.iss with roll := none } }) s
    match t with
    | some t => rollTeam t lost s
    | none => s

/-- The rollbacks that the last step left are performed: of the core in focus, and of quad mates whose memories it found bad. -/
def settle (s : State) : State :=
  ((liveCores s).filter (fun p => p.2.iss.roll.isSome)).foldl (fun s p => settleAt p.1 s) s

end Sys2Proof.Machine
end

