-- ==== Sys2Proof/Machine/Scalar.lean ====
section
/-!
DEFINITION. Machine/Scalar.lean: integer, predicate and address instructions of S1 and S2 (04 R71–R81).
-/
namespace Sys2Proof.Machine

/-! ### Values (04 Tables 4-4, 4-5; R74, R75, R79) -/

def sarW (x : Word) (k : Nat) : Word := x.sshiftRight k
def minW (x y : Word) : Word := if x.toInt ≤ y.toInt then x else y
def maxW (x y : Word) : Word := if y.toInt ≤ x.toInt then x else y
def minuW (x y : Word) : Word := if x.toNat ≤ y.toNat then x else y
def maxuW (x y : Word) : Word := if y.toNat ≤ x.toNat then x else y
/-- Shift amount: the low six bits. -/
def sh6 (x : Word) : Nat := fld x 5 0

def mulhW (x y : Word) : Word := BitVec.ofInt 64 (x.toInt * y.toInt / 2 ^ 64)
def mulhuW (x y : Word) : Word := wd (x.toNat * y.toNat / 2 ^ 64)
def mulhsuW (x y : Word) : Word := BitVec.ofInt 64 (x.toInt * (y.toNat : Int) / 2 ^ 64)
/-- Division with the corners of 04 R74. -/
def divW (x y : Word) : Word := if y = 0 then -1 else BitVec.ofInt 64 (x.toInt.tdiv y.toInt)
def divuW (x y : Word) : Word := if y = 0 then -1 else wd (x.toNat / y.toNat)
def remW (x y : Word) : Word := if y = 0 then x else BitVec.ofInt 64 (x.toInt - y.toInt * x.toInt.tdiv y.toInt)
def remuW (x y : Word) : Word := if y = 0 then x else wd (x.toNat % y.toNat)

/-- Field bounds of 04 R79: offset, and top cut at bit 63. -/
def bfOff (y : Word) : Nat := fld y 5 0
def bfTop (y : Word) : Nat := let t := bfOff y + fld y 14 8; if t < 64 then t else 64
def bextuW (x y : Word) : Word := if bfTop y = bfOff y then 0 else wd (nbits x.toNat (bfTop y - 1) (bfOff y))
def bextW (x y : Word) : Word :=
  if bfTop y = bfOff y then 0 else sextW (bfTop y - bfOff y) (nbits x.toNat (bfTop y - 1) (bfOff y))
def binsW (old x y : Word) : Word := if bfOff y < bfTop y then setFld old (bfTop y - 1) (bfOff y) x.toNat else old

/-- Bytes in the opposite order. -/
def bswapW (x : Word) : Word := wd (leNat (leBytes 8 x.toNat).reverse)

/-- Latency of a division (06 Table 6-1): `n` is the dividend's magnitude. -/
def divLat (s : State) (n : Nat) (y : Word) : Nat :=
  if exposed s then 34 else if y = 0 then 2 else 2 + cdiv (if n = 0 then 0 else Nat.log2 n + 1) 2

/-- The register form of an ALU operation. -/
def alu (g n lat d a b : Nat) (f : Word → Word → Word) (s : State) : Out := retS g n lat d (f (rdS s a) (rdS s b)) s
/-- The immediate form. -/
def alui (g n lat d a i : Nat) (f : Word → Word → Word) (s : State) : Out := retS g n lat d (f (rdS s a) (imm10v s i)) s
/-- A compare of registers, and with an immediate (04 R76). -/
def cmpr (g n d a b : Nat) (f : Word → Word → Bool) (s : State) : Out := retP g n d (f (rdS s a) (rdS s b)) s
def cmpi (g n d a i : Nat) (f : Word → Word → Bool) (s : State) : Out := retP g n d (f (rdS s a) (imm10v s i)) s
/-- A predicate operation (04 R78). -/
def plog (g n d a b : Nat) (f : Bool → Bool → Bool) (s : State) : Out := retP g n d (f (rdP s a) (rdP s b)) s

/-! ### Basic ALU (04 R72) -/

def execAdd (g n d a b : Nat) (s : State) : Out := alu g n 1 d a b (· + ·) s
def execSub (g n d a b : Nat) (s : State) : Out := alu g n 1 d a b (· - ·) s
def execAnd (g n d a b : Nat) (s : State) : Out := alu g n 1 d a b (· &&& ·) s
def execOr (g n d a b : Nat) (s : State) : Out := alu g n 1 d a b (· ||| ·) s
def execXor (g n d a b : Nat) (s : State) : Out := alu g n 1 d a b (· ^^^ ·) s
def execAndn (g n d a b : Nat) (s : State) : Out := alu g n 1 d a b (fun x y => x &&& ~~~y) s
def execShl (g n d a b : Nat) (s : State) : Out := alu g n 1 d a b (fun x y => x <<< sh6 y) s
def execShr (g n d a b : Nat) (s : State) : Out := alu g n 1 d a b (fun x y => x >>> sh6 y) s
def execSar (g n d a b : Nat) (s : State) : Out := alu g n 1 d a b (fun x y => sarW x (sh6 y)) s
def execRol (g n d a b : Nat) (s : State) : Out := alu g n 1 d a b (fun x y => x.rotateLeft (sh6 y)) s
def execRor (g n d a b : Nat) (s : State) : Out := alu g n 1 d a b (fun x y => x.rotateRight (sh6 y)) s
def execMin (g n d a b : Nat) (s : State) : Out := alu g n 1 d a b minW s
def execMax (g n d a b : Nat) (s : State) : Out := alu g n 1 d a b maxW s
def execMinu (g n d a b : Nat) (s : State) : Out := alu g n 1 d a b minuW s
def execMaxu (g n d a b : Nat) (s : State) : Out := alu g n 1 d a b maxuW s

/-! ### Multiply and divide (04 R74) -/

def execMul (g n d a b : Nat) (s : State) : Out := alu g n 3 d a b (· * ·) s
def execMulh (g n d a b : Nat) (s : State) : Out := alu g n 3 d a b mulhW s
def execMulhu (g n d a b : Nat) (s : State) : Out := alu g n 3 d a b mulhuW s
def execMulhsu (g n d a b : Nat) (s : State) : Out := alu g n 3 d a b mulhsuW s
def execDiv (g n d a b : Nat) (s : State) : Out :=
  alu g n (divLat s (rdS s a).toInt.natAbs (rdS s b)) d a b divW s
def execDivu (g n d a b : Nat) (s : State) : Out := alu g n (divLat s (rdS s a).toNat (rdS s b)) d a b divuW s
def execRem (g n d a b : Nat) (s : State) : Out :=
  alu g n (divLat s (rdS s a).toInt.natAbs (rdS s b)) d a b remW s
def execRemu (g n d a b : Nat) (s : State) : Out := alu g n (divLat s (rdS s a).toNat (rdS s b)) d a b remuW s

/-! ### Counting and reordering bits (04 R75), fields (04 R79), selection (04 R77) -/

def execClz (g n d a : Nat) (s : State) : Out := retS g n 1 d (wd (clzN 64 (rdS s a).toNat)) s
def execCtz (g n d a : Nat) (s : State) : Out := retS g n 1 d (wd (ctzN 64 (rdS s a).toNat)) s
def execPopc (g n d a : Nat) (s : State) : Out := retS g n 1 d (wd (popN 64 (rdS s a).toNat)) s
def execBrev (g n d a : Nat) (s : State) : Out := retS g n 1 d (wd (brevN 64 (rdS s a).toNat)) s
def execBswap (g n d a : Nat) (s : State) : Out := retS g n 1 d (bswapW (rdS s a)) s
def execBext (g n d a b : Nat) (s : State) : Out := alu g n 1 d a b bextW s
def execBextu (g n d a b : Nat) (s : State) : Out := alu g n 1 d a b bextuW s
def execBins (g n d a b : Nat) (s : State) : Out := alu g n 1 d a b (binsW (rdS s d)) s
def execSel (g n d a b k : Nat) (s : State) : Out := alu g n 1 d a b (fun x y => if rdP s k then x else y) s

/-! ### Compares (04 R76) -/

def execCmpeq (g n d a b : Nat) (s : State) : Out := cmpr g n d a b (fun x y => decide (x = y)) s
def execCmpne (g n d a b : Nat) (s : State) : Out := cmpr g n d a b (fun x y => decide (x ≠ y)) s
def execCmplt (g n d a b : Nat) (s : State) : Out := cmpr g n d a b (fun x y => decide (x.toInt < y.toInt)) s
def execCmple (g n d a b : Nat) (s : State) : Out := cmpr g n d a b (fun x y => decide (x.toInt ≤ y.toInt)) s
def execCmpltu (g n d a b : Nat) (s : State) : Out := cmpr g n d a b (fun x y => decide (x.toNat < y.toNat)) s
def execCmpleu (g n d a b : Nat) (s : State) : Out := cmpr g n d a b (fun x y => decide (x.toNat ≤ y.toNat)) s
def execCmpeqi (g n d a i : Nat) (s : State) : Out := cmpi g n d a i (fun x y => decide (x = y)) s
def execCmpnei (g n d a i : Nat) (s : State) : Out := cmpi g n d a i (fun x y => decide (x ≠ y)) s
def execCmplti (g n d a i : Nat) (s : State) : Out := cmpi g n d a i (fun x y => decide (x.toInt < y.toInt)) s
def execCmplei (g n d a i : Nat) (s : State) : Out := cmpi g n d a i (fun x y => decide (x.toInt ≤ y.toInt)) s
def execCmpgti (g n d a i : Nat) (s : State) : Out := cmpi g n d a i (fun x y => decide (y.toInt < x.toInt)) s
def execCmpgei (g n d a i : Nat) (s : State) : Out := cmpi g n d a i (fun x y => decide (y.toInt ≤ x.toInt)) s
def execCmpltui (g n d a i : Nat) (s : State) : Out := cmpi g n d a i (fun x y => decide (x.toNat < y.toNat)) s
def execCmpgtui (g n d a i : Nat) (s : State) : Out := cmpi g n d a i (fun x y => decide (y.toNat < x.toNat)) s

/-! ### Predicates (04 R78) -/

def execPand (g n d a b : Nat) (s : State) : Out := plog g n d a b (· && ·) s
def execPor (g n d a b : Nat) (s : State) : Out := plog g n d a b (· || ·) s
def execPxor (g n d a b : Nat) (s : State) : Out := plog g n d a b (· != ·) s
def execPandn (g n d a b : Nat) (s : State) : Out := plog g n d a b (fun x y => x && !y) s
def execPnot (g n d a : Nat) (s : State) : Out := retP g n d (!rdP s a) s
def execPrd (g n d : Nat) (s : State) : Out := retS g n 1 d ((s.core.sc.p ||| 1).setWidth 64) s
def execPwr (g n a : Nat) (s : State) : Out := slotDo g n (emit 1 (.p 0xFE ((rdS s a).setWidth 8))) s

/-! ### Immediate forms (04 R73) and moves (04 R80) -/

def execAddi (g n d a i : Nat) (s : State) : Out := alui g n 1 d a i (· + ·) s
def execAndi (g n d a i : Nat) (s : State) : Out := alui g n 1 d a i (· &&& ·) s
def execOri (g n d a i : Nat) (s : State) : Out := alui g n 1 d a i (· ||| ·) s
def execXori (g n d a i : Nat) (s : State) : Out := alui g n 1 d a i (· ^^^ ·) s
def execShli (g n d a i : Nat) (s : State) : Out := alui g n 1 d a i (fun x y => x <<< sh6 y) s
def execShri (g n d a i : Nat) (s : State) : Out := alui g n 1 d a i (fun x y => x >>> sh6 y) s
def execSari (g n d a i : Nat) (s : State) : Out := alui g n 1 d a i (fun x y => sarW x (sh6 y)) s
def execRori (g n d a i : Nat) (s : State) : Out := alui g n 1 d a i (fun x y => x.rotateRight (sh6 y)) s
def execMuli (g n d a i : Nat) (s : State) : Out := alui g n 3 d a i (· * ·) s
def execMini (g n d a i : Nat) (s : State) : Out := alui g n 1 d a i minW s
def execMaxi (g n d a i : Nat) (s : State) : Out := alui g n 1 d a i maxW s
def execMovi (g n d i : Nat) (s : State) : Out := retS g n 1 d (sextW 16 i) s
def execMoviz (g n d i : Nat) (s : State) : Out := retS g n 1 d (wd (i % 2 ^ 16)) s
/-- MOVKk: bits 16k + 15 to 16k replaced. -/
def movk (k g n d i : Nat) (s : State) : Out := retS g n 1 d (setFld (rdS s d) (16 * k + 15) (16 * k) i) s
def execMovk0 (g n d i : Nat) (s : State) : Out := movk 0 g n d i s
def execMovk1 (g n d i : Nat) (s : State) : Out := movk 1 g n d i s
def execMovk2 (g n d i : Nat) (s : State) : Out := movk 2 g n d i s
def execMovk3 (g n d i : Nat) (s : State) : Out := movk 3 g n d i s

/-! ### Address arithmetic (04 R81) -/

/-- ADDA and its scaled forms. -/
def adda (k g n d a b : Nat) (s : State) : Out := retA g n d (rdA s a + (rdS s b <<< k)) s
def execAdda (g n d a b : Nat) (s : State) : Out := adda 0 g n d a b s
def execAdda2 (g n d a b : Nat) (s : State) : Out := adda 1 g n d a b s
def execAdda4 (g n d a b : Nat) (s : State) : Out := adda 2 g n d a b s
def execAdda8 (g n d a b : Nat) (s : State) : Out := adda 3 g n d a b s
def execDifa (g n d a b : Nat) (s : State) : Out := retS g n 1 d (rdA s a - rdA s b) s
def execMovas (g n d a : Nat) (s : State) : Out := retA g n d (rdS s a) s
def execMovsa (g n d a : Nat) (s : State) : Out := retS g n 1 d (rdA s a) s
def execAddai (g n d a i : Nat) (s : State) : Out := retA g n d (rdA s a + imm10v s i) s
def execMovai (g n d i : Nat) (s : State) : Out := retA g n d (sextW 16 i) s
def execAndai (g n d a i : Nat) (s : State) : Out := retA g n d (rdA s a &&& imm10v s i) s

end Sys2Proof.Machine
end

