-- ==== Sys2Proof/Machine/Vector.lean ====
section
/-!
DEFINITION. Machine/Vector.lean: the vector instructions of spec 05, S4 to S11.
-/
namespace Sys2Proof.Machine

/-! ### Floating-point arithmetic (05 R97–R101) -/

/-- Operand lane decoded. -/
def fop (s : State) (c r l : Nat) : Num := fin32 (exposed s) (vlane s c r l)
/-- Is rounding toward −∞ in force (sign of an exact zero sum)? -/
def rdnNow (s : State) : Bool := decide (fpRm s = 3)

def execVfadd (g _h d a b _x : Nat) (s : State) : Out :=
  varith 4 g d 1 (fun c l => addN (fop s c a l) (fop s c b l) (rdnNow s)) s
def execVfsub (g _h d a b _x : Nat) (s : State) : Out :=
  varith 4 g d 1 (fun c l => addN (fop s c a l) (fop s c b l).negate (rdnNow s)) s
def execVfmul (g _h d a b _x : Nat) (s : State) : Out :=
  varith 4 g d 1 (fun c l => mulN (fop s c a l) (fop s c b l)) s
def execVfdiv (g _h d a b _x : Nat) (s : State) : Out :=
  varith 8 g d 1 (fun c l => divN (fop s c a l) (fop s c b l)) s
def execVfsqrt (g _h d a : Nat) (s : State) : Out := varith 8 g d 1 (fun c l => sqrtN (fop s c a l)) s
def execVfrcp (g _h d a : Nat) (s : State) : Out :=
  varith 8 g d 1 (fun c l => divN (.fin false 1 0 false) (fop s c a l)) s
def execVfrsq (g _h d a : Nat) (s : State) : Out := varith 8 g d 1 (fun c l => rsqrtN (fop s c a l)) s

/-- (±x × y) ± z formed exactly; 0 × ∞ is invalid whatever the addend (05 R99). -/
def fmaN (np nz : Bool) (x y z : Num) (rdn : Bool) : Num × Flags5 :=
  let (p, fl) := mulN x y
  let p := if np then p.negate else p
  let z := if nz then z.negate else z
  let (r, fl2) := addN p z rdn
  (r, fl ||| fl2)

/-- The FMA family: vd is read as position c. -/
def vfma (np nz : Bool) (g d a b : Nat) (s : State) : Out :=
  varith 4 g d 2 (fun c l => fmaN np nz (fop s c a l) (fop s c b l) (fop s c d l) (rdnNow s)) s
def execVfma (g _h d a b _x : Nat) (s : State) : Out := vfma false false g d a b s
def execVfms (g _h d a b _x : Nat) (s : State) : Out := vfma false true g d a b s
def execVfnma (g _h d a b _x : Nat) (s : State) : Out := vfma true false g d a b s
def execVfnms (g _h d a b _x : Nat) (s : State) : Out := vfma true true g d a b s

/-- A floating-point instruction that neither rounds nor sets flags (05 R98). -/
def vquiet (lat g d : Nat) (f : Nat → Nat → W32) (s : State) : Out :=
  .next (vfloat lat g d false 1 (fun c l w => ⟨f c l, flNone, w⟩) s)
/-- Minimum and maximum of two sources: nothing is rounded, but the major is one that FPSTAT.RM codes 5 to 7 make ILLOP (05
R96). -/
def vpick (n max : Bool) (g d a b : Nat) (s : State) : Out :=
  if 5 ≤ fpRm s then .next (villop s)
  else
    vquiet 4 g d (fun c l =>
      (if n then pickN32 else pick32) max (exposed s) (vlane s c a l) (vlane s c b l)) s
def execVfmin (g _h d a b _x : Nat) (s : State) : Out := vpick false false g d a b s
def execVfmax (g _h d a b _x : Nat) (s : State) : Out := vpick false true g d a b s
def execVfminn (g _h d a b _x : Nat) (s : State) : Out := vpick true false g d a b s
def execVfmaxn (g _h d a b _x : Nat) (s : State) : Out := vpick true true g d a b s

/-- VFABS and VFNEG of a lane: the sign cleared or inverted, a NaN canonical, a subnormal flushed in exposed mode. -/
def signOp (ex neg : Bool) (x : W32) : W32 :=
  let sg := neg && !bitAt x 31
  let m := if ex && isSubn fp32 x.toNat then 0 else fld x 30 0
  let m := if decodeF fp32 x.toNat = .nan then 0x7FC00000 else m
  BitVec.ofNat 32 (b2n sg * 2 ^ 31 + m)
def execVfabs (g _h d a : Nat) (s : State) : Out := vquiet 1 g d (fun c l => signOp (exposed s) false (vlane s c a l)) s
def execVfneg (g _h d a : Nat) (s : State) : Out := vquiet 1 g d (fun c l => signOp (exposed s) true (vlane s c a l)) s

def execVexp2 (g _h d a : Nat) (s : State) : Out := vtransc g d a exp2N s
def execVlog2 (g _h d a : Nat) (s : State) : Out := vtransc g d a (logN true) s
def execVexp (g _h d a : Nat) (s : State) : Out := vtransc g d a expN s
def execVln (g _h d a : Nat) (s : State) : Out := vtransc g d a (logN false) s
def execVtanh (g _h d a : Nat) (s : State) : Out := vtransc g d a tanhN s
def execVsigm (g _h d a : Nat) (s : State) : Out := vtransc g d a sigmN s

/-- A floating-point compare (05 R101), counted like the other floating-point instructions. -/
def vfcmp (g d a b : Nat) (f : Num → Num → Bool) (s : State) : Out :=
  .next (mputBits 4 g d (fun c l => f (fop s c a l) (fop s c b l))
    (eachCluster (fun c t => cntEv 0x1B (activeN (rdM s c g)) (cntEv 0x1A (activeN (rdM s c g)) t)) s))
/-- Two operands, neither NaN, compared. -/
def ordered (f : Int → Bool) (x y : Num) : Bool := x != .nan && y != .nan && f (cmpN x y)
def execVfceq (g _h d a b _x : Nat) (s : State) : Out := vfcmp g d a b (ordered (fun k => decide (k = 0))) s
def execVfcne (g _h d a b _x : Nat) (s : State) : Out := vfcmp g d a b (fun x y => !ordered (fun k => decide (k = 0)) x y) s
def execVfclt (g _h d a b _x : Nat) (s : State) : Out := vfcmp g d a b (ordered (fun k => decide (k < 0))) s
def execVfcle (g _h d a b _x : Nat) (s : State) : Out := vfcmp g d a b (ordered (fun k => decide (k ≤ 0))) s
def execVfcun (g _h d a b _x : Nat) (s : State) : Out := vfcmp g d a b (fun x y => x == .nan || y == .nan) s

/-! ### Lane reductions (05 R102, R103) -/

def execVfrsum (g _h d a : Nat) (s : State) : Out :=
  .next (vreduce 16 g d 1 (fun c =>
    tree16 (sumNode (exposed s)) ((laneOpts s c g a).map (fun o => o.map (fun x => (x, flNone))))) s)
/-- A reduction without flags. -/
def vredQ (lat ops g d a : Nat) (f : W32 → W32 → W32) (s : State) : Out :=
  .next (vreduce lat g d ops (fun c => (tree16 f (laneOpts s c g a)).map (fun x => (x, flNone))) s)
def execVfrmax (g _h d a : Nat) (s : State) : Out := vredQ 16 1 g d a (pick32 true (exposed s)) s
def execVfrmin (g _h d a : Nat) (s : State) : Out := vredQ 16 1 g d a (pick32 false (exposed s)) s
def sminL (x y : W32) : W32 := if x.toInt ≤ y.toInt then x else y
def smaxL (x y : W32) : W32 := if y.toInt ≤ x.toInt then x else y
def uminL (x y : W32) : W32 := if x.toNat ≤ y.toNat then x else y
def umaxL (x y : W32) : W32 := if y.toNat ≤ x.toNat then x else y
def execVirsum (g _h d a : Nat) (s : State) : Out := vredQ 4 0 g d a (· + ·) s
def execVirmax (g _h d a : Nat) (s : State) : Out := vredQ 4 0 g d a smaxL s
def execVirmin (g _h d a : Nat) (s : State) : Out := vredQ 4 0 g d a sminL s
def execVirmaxu (g _h d a : Nat) (s : State) : Out := vredQ 4 0 g d a umaxL s
def execVirminu (g _h d a : Nat) (s : State) : Out := vredQ 4 0 g d a uminL s

/-! ### Integer, logical and mask instructions (05 R104–R107) -/

def valu (g d a b : Nat) (f : W32 → W32 → W32) (s : State) : Out :=
  .next (vput 1 g d (fun c l => f (vlane s c a l) (vlane s c b l)) s)
def valu1 (g d a : Nat) (f : W32 → W32) (s : State) : Out := .next (vput 1 g d (fun c l => f (vlane s c a l)) s)
def valui (g d a i : Nat) (f : W32 → W32 → W32) (s : State) : Out :=
  .next (vput 1 g d (fun c l => f (vlane s c a l) (imm10w s i)) s)
/-- Saturation to a range. -/
def satI (lo hi x : Int) : Int := if x < lo then lo else if hi < x then hi else x
def sh5 (x : W32) : Nat := fld x 4 0
def vmulhL (x y : W32) : W32 := BitVec.ofInt 32 (x.toInt * y.toInt / 2 ^ 32)
def vmulhuL (x y : W32) : W32 := BitVec.ofNat 32 (x.toNat * y.toNat / 2 ^ 32)
def satS32 (x : Int) : W32 := BitVec.ofInt 32 (satI (-(2 ^ 31)) (2 ^ 31 - 1) x)
def satU32 (x : Int) : W32 := BitVec.ofInt 32 (satI 0 (2 ^ 32 - 1) x)
def execVadd (g _h d a b _x : Nat) (s : State) : Out := valu g d a b (· + ·) s
def execVsub (g _h d a b _x : Nat) (s : State) : Out := valu g d a b (· - ·) s
def execVmul (g _h d a b _x : Nat) (s : State) : Out := valu g d a b (· * ·) s
def execVmulh (g _h d a b _x : Nat) (s : State) : Out := valu g d a b vmulhL s
def execVmulhu (g _h d a b _x : Nat) (s : State) : Out := valu g d a b vmulhuL s
def execVadds (g _h d a b _x : Nat) (s : State) : Out := valu g d a b (fun x y => satS32 (x.toInt + y.toInt)) s
def execVsubs (g _h d a b _x : Nat) (s : State) : Out := valu g d a b (fun x y => satS32 (x.toInt - y.toInt)) s
def execVaddsu (g _h d a b _x : Nat) (s : State) : Out := valu g d a b (fun x y => satU32 ((x.toNat : Int) + y.toNat)) s
def execVand (g _h d a b _x : Nat) (s : State) : Out := valu g d a b (· &&& ·) s
def execVor (g _h d a b _x : Nat) (s : State) : Out := valu g d a b (· ||| ·) s
def execVxor (g _h d a b _x : Nat) (s : State) : Out := valu g d a b (· ^^^ ·) s
def execVandn (g _h d a b _x : Nat) (s : State) : Out := valu g d a b (fun x y => x &&& ~~~y) s
def execVshl (g _h d a b _x : Nat) (s : State) : Out := valu g d a b (fun x y => x <<< sh5 y) s
def execVshr (g _h d a b _x : Nat) (s : State) : Out := valu g d a b (fun x y => x >>> sh5 y) s
def execVsar (g _h d a b _x : Nat) (s : State) : Out := valu g d a b (fun x y => x.sshiftRight (sh5 y)) s
def execVror (g _h d a b _x : Nat) (s : State) : Out := valu g d a b (fun x y => x.rotateRight (sh5 y)) s
def execVmin (g _h d a b _x : Nat) (s : State) : Out := valu g d a b sminL s
def execVmax (g _h d a b _x : Nat) (s : State) : Out := valu g d a b smaxL s
def execVminu (g _h d a b _x : Nat) (s : State) : Out := valu g d a b uminL s
def execVmaxu (g _h d a b _x : Nat) (s : State) : Out := valu g d a b umaxL s
def execVclz (g _h d a : Nat) (s : State) : Out := valu1 g d a (fun x => BitVec.ofNat 32 (clzN 32 x.toNat)) s
def execVpopc (g _h d a : Nat) (s : State) : Out := valu1 g d a (fun x => BitVec.ofNat 32 (popN 32 x.toNat)) s
def execVabs (g _h d a : Nat) (s : State) : Out := valu1 g d a (fun x => if x.toInt < 0 then -x else x) s
def execVaddi (g _h d a i : Nat) (s : State) : Out := valui g d a i (· + ·) s
def execVandi (g _h d a i : Nat) (s : State) : Out := valui g d a i (· &&& ·) s
def execVori (g _h d a i : Nat) (s : State) : Out := valui g d a i (· ||| ·) s
def execVxori (g _h d a i : Nat) (s : State) : Out := valui g d a i (· ^^^ ·) s
def execVshli (g _h d a i : Nat) (s : State) : Out := valui g d a i (fun x y => x <<< sh5 y) s
def execVshri (g _h d a i : Nat) (s : State) : Out := valui g d a i (fun x y => x >>> sh5 y) s
def execVsari (g _h d a i : Nat) (s : State) : Out := valui g d a i (fun x y => x.sshiftRight (sh5 y)) s
def execVmovi (g d i : Nat) (s : State) : Out := .next (vput 1 g d (fun _ _ => imm10w s i) s)

/-- An integer compare. -/
def vicmp (g d a b : Nat) (f : W32 → W32 → Bool) (s : State) : Out :=
  .next (mputBits 1 g d (fun c l => f (vlane s c a l) (vlane s c b l)) s)
def execVceq (g _h d a b _x : Nat) (s : State) : Out := vicmp g d a b (fun x y => decide (x = y)) s
def execVcne (g _h d a b _x : Nat) (s : State) : Out := vicmp g d a b (fun x y => decide (x ≠ y)) s
def execVclt (g _h d a b _x : Nat) (s : State) : Out := vicmp g d a b (fun x y => decide (x.toInt < y.toInt)) s
def execVcle (g _h d a b _x : Nat) (s : State) : Out := vicmp g d a b (fun x y => decide (x.toInt ≤ y.toInt)) s
def execVcltu (g _h d a b _x : Nat) (s : State) : Out := vicmp g d a b (fun x y => decide (x.toNat < y.toNat)) s
def execVcleu (g _h d a b _x : Nat) (s : State) : Out := vicmp g d a b (fun x y => decide (x.toNat ≤ y.toNat)) s

/-- A mask operation, bit by bit where the guard mask has ones (05 R107). -/
def mlog (g d a b : Nat) (f : Bool → Bool → Bool) (s : State) : Out :=
  .next (mputBits 1 g d (fun c l => f (bitAt (rdM s c a) l) (bitAt (rdM s c b) l)) s)
def execMand (g d a b : Nat) (s : State) : Out := mlog g d a b (· && ·) s
def execMor (g d a b : Nat) (s : State) : Out := mlog g d a b (· || ·) s
def execMxor (g d a b : Nat) (s : State) : Out := mlog g d a b (· != ·) s
def execMandn (g d a b : Nat) (s : State) : Out := mlog g d a b (fun x y => x && !y) s
def execMnot (g d a : Nat) (s : State) : Out := mlog g d a a (fun x _ => !x) s

/-! ### Conversion and quantisation (05 R108–R110) -/

/-- A conversion under a rounding mode; `ok` is the check of the mode. -/
def vcvt (mode : Nat) (ok : Bool) (g d a i : Nat) (s : State) : Out :=
  let k := imm10n s i
  let fs := fmtOf (ftabWord s (k % 16))
  let fd := fmtOf (ftabWord s (k / 16 % 16))
  let ex := exposed s
  .next (if elemLegal fs && elemLegal fd && decide (fs.cont ≤ 32) && decide (fd.cont ≤ 32) && ok then
      vfloat 3 g d (mode = 4) 0 (fun c l w =>
        let (b, fl, w) := encodeF fd (finF ex fs ((vlane s c a l).toNat % 2 ^ fs.cont)) mode w
        let (b, fl) := foutF ex fd b fl
        ⟨BitVec.ofNat 32 b, fl, w⟩) s
    else villop s)
def execVcvtRne (g _h d a i : Nat) (s : State) : Out := vcvt 0 true g d a i s
def execVcvtRtz (g _h d a i : Nat) (s : State) : Out := vcvt 1 true g d a i s
def execVcvtSr (g _h d a i : Nat) (s : State) : Out := vcvt 4 true g d a i s
def execVcvtDyn (g _h d a i : Nat) (s : State) : Out := vcvt (fpRm s) (decide (fpRm s < 5)) g d a i s

/-- VQSC (05 R109): the MX scale byte of a block whose largest magnitude is |va|. -/
def execVqsc (g _h d a i : Nat) (s : State) : Out :=
  let f := fmtOf (ftabWord s (imm10n s i % 16))
  .next (if elemLegal f then
      vfloat 3 g d false 0 (fun c l w =>
        let x := fop s c a l
        let (b, fl) : Nat × Flags5 := match x with
          | .nan => (255, flIV)
          | .inf _ => (254, flNone)
          | .fin _ m _ _ =>
            if m = 0 then (0, flNone)
            else
              let e := log2N x - mxEmax f + 127
              ((satI 0 254 e).toNat, flNone)
        ⟨BitVec.ofNat 32 b, fl, w⟩) s
    else villop s)

/-- VQEL and VQEL.SR (05 R110). An element format whose container exceeds 32 bits is legal in FTAB(3 + i); of its encoding the
lane holds the low 32 bits (DESIGN CHOICE, log 126: the spec names neither ILLOP nor a result). -/
def vqel (mode g d a b i : Nat) (s : State) : Out :=
  let f := fmtOf (ftabWord s (3 + i))
  let ex := exposed s
  .next (if elemLegal f then
      vfloat 3 g d (mode = 4) 0 (fun c l w =>
        let (r, fl, w) := mxElem f (fld (vlane s c b l) 7 0) (fop s c a l) mode w
        let (r, fl) := foutF ex f r fl
        ⟨BitVec.ofNat 32 r, fl, w⟩) s
    else villop s)
def execVqel (g _h d a b _x i : Nat) (s : State) : Out := vqel 0 g d a b i s
def execVqelSr (g _h d a b _x i : Nat) (s : State) : Out := vqel 4 g d a b i s

/-! ### Generators, patterns, the ring and lane moves (05 R111–R115) -/

/-- The generators of the active lanes set. -/
def putGens (g : Nat) (f : Nat → Nat → W32) (s : State) : State :=
  eachCluster (fun c => onVec (fun v =>
    { v with gen := (List.range 16).foldl (fun m l => if bitAt (rdM s c g) l then mput m (16 * c + l) (f c l) else m) v.gen })) s
def execVseed (g a : Nat) (s : State) : Out := .next (putGens g (fun c l => seedState (rdS s a) (16 * c + l)) s)
def execVgrd (g d : Nat) (s : State) : Out := .next (vput 1 g d (fun c l => genOf s (16 * c + l)) s)
def execVgwr (g _h a : Nat) (s : State) : Out :=
  .next (putGens g (fun c l => if vlane s c a l = 0 then 1 else vlane s c a l) s)

/-- Selector `l` of a pattern entry; an entry not loaded selects lane l. -/
def patSel (s : State) (e l : Nat) : Nat := ((mfind? s.core.vec.pat (16 * e + l)).getD (BitVec.ofNat 5 l)).toNat

def execVpld (g _h a i : Nat) (s : State) : Out :=
  .next (eachCluster (fun c => onVec (fun v =>
    { v with pat := (List.range 16).foldl (fun m l =>
        if bitAt (rdM s c g) l then mput m (16 * (imm10n s i % 64) + l) ((vlane s c a l).setWidth 5) else m) v.pat })) s)

def execVshuf (g _h d a i : Nat) (s : State) : Out :=
  .next (vput 2 g d (fun c l =>
    let t := patSel s (imm10n s i % 64) l
    if t < 16 then vlane s c a t else vlane s c d (t - 16)) s)

def execXcopy (g _h d a i : Nat) (s : State) : Out :=
  let k := imm10n s i % 8
  .next (vput (2 + (if k < 8 - k then k else 8 - k)) g d (fun c l => vlane s ((c + k) % 8) a l) s)

def execVbcs (g d a : Nat) (s : State) : Out := .next (vput 1 g d (fun _ _ => (rdS s a).setWidth 32) s)
def execVext (g _h d a l : Nat) (s : State) : Out :=
  .next (eachCluster (fun c t => if bitAt (rdM s c g) l then emit 1 (.s d ((vlane s c a l).setWidth 64)) t else t) s)
def execVins (g d a l : Nat) (s : State) : Out :=
  .next (eachCluster (fun c =>
    let w := rdM s c g &&& BitVec.ofNat 16 (2 ^ l)
    emit 1 (.v c d w (onLanes w (fun _ => (rdS s a).setWidth 32)))) s)
def execVm2s (g d a : Nat) (s : State) : Out :=
  .next (eachCluster (fun c t => if rdM s c g ≠ 0 then emit 1 (.s d ((rdM s c a).setWidth 64)) t else t) s)
def execVs2m (g d a : Nat) (s : State) : Out := .next (mputBits 1 g d (fun _ l => bitAt (rdS s a) l) s)
def execViota (g d : Nat) (s : State) : Out := .next (vput 1 g d (fun c l => BitVec.ofNat 32 (16 * c + l)) s)

end Sys2Proof.Machine
end

