-- ==== Sys2Proof/Machine/Dispatch.lean ====
section
/-!
DEFINITION. Machine/Dispatch.lean: one arm per instruction of the opcode table, each a direct call of its meaning.
-/
namespace Sys2Proof.Machine

/-- What one instruction, or one agent's step, does to the machine. -/
def exec (i : Instr) (s : State) : Host.Outcome State Fault Refusal :=
  match i with
  | .issueBundle => Sys2Proof.Machine.execIssueBundle s
  | .watchdogExpiry => Sys2Proof.Machine.execWatchdogExpiry s
  | .forcedBoundary => Sys2Proof.Machine.execForcedBoundary s
  | .resultLands => Sys2Proof.Machine.execResultLands s
  | .preemption => Sys2Proof.Machine.execPreemption s
  | .saveComplete => Sys2Proof.Machine.execSaveComplete s
  | .copyLineLands index remote => Sys2Proof.Machine.execCopyLineLands index remote s
  | .copyCommandCompletion => Sys2Proof.Machine.execCopyCommandCompletion s
  | .copyLateFault => Sys2Proof.Machine.execCopyLateFault s
  | .copyRequestPop reply => Sys2Proof.Machine.execCopyRequestPop reply s
  | .noticePushRetry which => Sys2Proof.Machine.execNoticePushRetry which s
  | .s12Landing => Sys2Proof.Machine.execS12Landing s
  | .teaselBlockComputed remote => Sys2Proof.Machine.execTeaselBlockComputed remote s
  | .teaselRequestCompletion => Sys2Proof.Machine.execTeaselRequestCompletion s
  | .teaselLateFault => Sys2Proof.Machine.execTeaselLateFault s
  | .waiterDelivery queue => Sys2Proof.Machine.execWaiterDelivery queue s
  | .arrival at_ => Sys2Proof.Machine.execArrival at_ s
  | .inDramCompletion index => Sys2Proof.Machine.execInDramCompletion index s
  | .pick => Sys2Proof.Machine.execPick s
  | .dispatch core => Sys2Proof.Machine.execDispatch core s
  | .freeCoreReport die => Sys2Proof.Machine.execFreeCoreReport die s
  | .untakenTasksReturn => Sys2Proof.Machine.execUntakenTasksReturn s
  | .collectiveStart id join => Sys2Proof.Machine.execCollectiveStart id join s
  | .collectiveCompletion id remote => Sys2Proof.Machine.execCollectiveCompletion id remote s
  | .flitData link flit => Sys2Proof.Machine.execFlitData link flit s
  | .flitMarker link flit => Sys2Proof.Machine.execFlitMarker link flit s
  | .flitAck link flit => Sys2Proof.Machine.execFlitAck link flit s
  | .flitNak link flit => Sys2Proof.Machine.execFlitNak link flit s
  | .packetArrival at_ head req => Sys2Proof.Machine.execPacketArrival at_ head req s
  | .endToEndAck dst eseq refused reply => Sys2Proof.Machine.execEndToEndAck dst eseq refused reply s
  | .retransmission index => Sys2Proof.Machine.execRetransmission index s
  | .packetDeclaredFailed index => Sys2Proof.Machine.execPacketDeclaredFailed index s
  | .powerWindow matrix vector links control => Sys2Proof.Machine.execPowerWindow matrix vector links control s
  | .thermalLimit temp => Sys2Proof.Machine.execThermalLimit temp s
  | .thermalRecovery temp => Sys2Proof.Machine.execThermalRecovery temp s
  | .thermalTrip temp => Sys2Proof.Machine.execThermalTrip temp s
  | .resetSequence => Sys2Proof.Machine.execResetSequence s
  | .frameReceived port frame desc => Sys2Proof.Machine.execFrameReceived port frame desc s
  | .frameTransmit port desc => Sys2Proof.Machine.execFrameTransmit port desc s
  | .getid req => Sys2Proof.Machine.execGetid req s
  | .attest req => Sys2Proof.Machine.execAttest req s
  | .loados req more len ed ml => Sys2Proof.Machine.execLoados req more len ed ml s
  | .start req sig => Sys2Proof.Machine.execStart req sig s
  | .reset req sig => Sys2Proof.Machine.execReset req sig s
  | .podset req sig => Sys2Proof.Machine.execPodset req sig s
  | .linktrain req sig => Sys2Proof.Machine.execLinktrain req sig s
  | .pcapset req sig => Sys2Proof.Machine.execPcapset req sig s
  | .retire req sig => Sys2Proof.Machine.execRetire req sig s
  | .mgmtLaunch req far sig => Sys2Proof.Machine.execMgmtLaunch req far sig s
  | .mgmtRollback req sig => Sys2Proof.Machine.execMgmtRollback req sig s
  | .qcreate => Sys2Proof.Machine.execQcreate s
  | .qdestroy => Sys2Proof.Machine.execQdestroy s
  | .poolset => Sys2Proof.Machine.execPoolset s
  | .supset => Sys2Proof.Machine.execSupset s
  | .capset => Sys2Proof.Machine.execCapset s
  | .measset => Sys2Proof.Machine.execMeasset s
  | .logset => Sys2Proof.Machine.execLogset s
  | .repgrp => Sys2Proof.Machine.execRepgrp s
  | .rollback => Sys2Proof.Machine.execRollback s
  | .creq => Sys2Proof.Machine.execCreq s
  | .l2quotaWrite die v => Sys2Proof.Machine.execL2quotaWrite die v s
  | .pcapWrite v => Sys2Proof.Machine.execPcapWrite v s
  | .podcfgWrite v => Sys2Proof.Machine.execPodcfgWrite v s
  | .packageRegisterWrite off v => Sys2Proof.Machine.execPackageRegisterWrite off v s
  | .add g n d a b => Sys2Proof.Machine.execAdd g n d a b s
  | .sub g n d a b => Sys2Proof.Machine.execSub g n d a b s
  | .and g n d a b => Sys2Proof.Machine.execAnd g n d a b s
  | .or g n d a b => Sys2Proof.Machine.execOr g n d a b s
  | .xor g n d a b => Sys2Proof.Machine.execXor g n d a b s
  | .andn g n d a b => Sys2Proof.Machine.execAndn g n d a b s
  | .shl g n d a b => Sys2Proof.Machine.execShl g n d a b s
  | .shr g n d a b => Sys2Proof.Machine.execShr g n d a b s
  | .sar g n d a b => Sys2Proof.Machine.execSar g n d a b s
  | .rol g n d a b => Sys2Proof.Machine.execRol g n d a b s
  | .ror g n d a b => Sys2Proof.Machine.execRor g n d a b s
  | .min g n d a b => Sys2Proof.Machine.execMin g n d a b s
  | .max g n d a b => Sys2Proof.Machine.execMax g n d a b s
  | .minu g n d a b => Sys2Proof.Machine.execMinu g n d a b s
  | .maxu g n d a b => Sys2Proof.Machine.execMaxu g n d a b s
  | .mul g n d a b => Sys2Proof.Machine.execMul g n d a b s
  | .mulh g n d a b => Sys2Proof.Machine.execMulh g n d a b s
  | .mulhu g n d a b => Sys2Proof.Machine.execMulhu g n d a b s
  | .mulhsu g n d a b => Sys2Proof.Machine.execMulhsu g n d a b s
  | .div g n d a b => Sys2Proof.Machine.execDiv g n d a b s
  | .divu g n d a b => Sys2Proof.Machine.execDivu g n d a b s
  | .rem g n d a b => Sys2Proof.Machine.execRem g n d a b s
  | .remu g n d a b => Sys2Proof.Machine.execRemu g n d a b s
  | .clz g n d a => Sys2Proof.Machine.execClz g n d a s
  | .ctz g n d a => Sys2Proof.Machine.execCtz g n d a s
  | .popc g n d a => Sys2Proof.Machine.execPopc g n d a s
  | .brev g n d a => Sys2Proof.Machine.execBrev g n d a s
  | .bswap g n d a => Sys2Proof.Machine.execBswap g n d a s
  | .cmpeq g n d a b => Sys2Proof.Machine.execCmpeq g n d a b s
  | .cmpne g n d a b => Sys2Proof.Machine.execCmpne g n d a b s
  | .cmplt g n d a b => Sys2Proof.Machine.execCmplt g n d a b s
  | .cmple g n d a b => Sys2Proof.Machine.execCmple g n d a b s
  | .cmpltu g n d a b => Sys2Proof.Machine.execCmpltu g n d a b s
  | .cmpleu g n d a b => Sys2Proof.Machine.execCmpleu g n d a b s
  | .sel g n d a b k => Sys2Proof.Machine.execSel g n d a b k s
  | .pand g n d a b => Sys2Proof.Machine.execPand g n d a b s
  | .por g n d a b => Sys2Proof.Machine.execPor g n d a b s
  | .pxor g n d a b => Sys2Proof.Machine.execPxor g n d a b s
  | .pandn g n d a b => Sys2Proof.Machine.execPandn g n d a b s
  | .pnot g n d a => Sys2Proof.Machine.execPnot g n d a s
  | .prd g n d => Sys2Proof.Machine.execPrd g n d s
  | .pwr g n a => Sys2Proof.Machine.execPwr g n a s
  | .bext g n d a b => Sys2Proof.Machine.execBext g n d a b s
  | .bextu g n d a b => Sys2Proof.Machine.execBextu g n d a b s
  | .bins g n d a b => Sys2Proof.Machine.execBins g n d a b s
  | .addi g n d a im => Sys2Proof.Machine.execAddi g n d a im s
  | .andi g n d a im => Sys2Proof.Machine.execAndi g n d a im s
  | .ori g n d a im => Sys2Proof.Machine.execOri g n d a im s
  | .xori g n d a im => Sys2Proof.Machine.execXori g n d a im s
  | .shli g n d a im => Sys2Proof.Machine.execShli g n d a im s
  | .shri g n d a im => Sys2Proof.Machine.execShri g n d a im s
  | .sari g n d a im => Sys2Proof.Machine.execSari g n d a im s
  | .rori g n d a im => Sys2Proof.Machine.execRori g n d a im s
  | .muli g n d a im => Sys2Proof.Machine.execMuli g n d a im s
  | .mini g n d a im => Sys2Proof.Machine.execMini g n d a im s
  | .maxi g n d a im => Sys2Proof.Machine.execMaxi g n d a im s
  | .cmpeqi g n d a im => Sys2Proof.Machine.execCmpeqi g n d a im s
  | .cmpnei g n d a im => Sys2Proof.Machine.execCmpnei g n d a im s
  | .cmplti g n d a im => Sys2Proof.Machine.execCmplti g n d a im s
  | .cmplei g n d a im => Sys2Proof.Machine.execCmplei g n d a im s
  | .cmpgti g n d a im => Sys2Proof.Machine.execCmpgti g n d a im s
  | .cmpgei g n d a im => Sys2Proof.Machine.execCmpgei g n d a im s
  | .cmpltui g n d a im => Sys2Proof.Machine.execCmpltui g n d a im s
  | .cmpgtui g n d a im => Sys2Proof.Machine.execCmpgtui g n d a im s
  | .movi g n d im => Sys2Proof.Machine.execMovi g n d im s
  | .moviz g n d im => Sys2Proof.Machine.execMoviz g n d im s
  | .movk0 g n d im => Sys2Proof.Machine.execMovk0 g n d im s
  | .movk1 g n d im => Sys2Proof.Machine.execMovk1 g n d im s
  | .movk2 g n d im => Sys2Proof.Machine.execMovk2 g n d im s
  | .movk3 g n d im => Sys2Proof.Machine.execMovk3 g n d im s
  | .adda g n d a b => Sys2Proof.Machine.execAdda g n d a b s
  | .adda2 g n d a b => Sys2Proof.Machine.execAdda2 g n d a b s
  | .adda4 g n d a b => Sys2Proof.Machine.execAdda4 g n d a b s
  | .adda8 g n d a b => Sys2Proof.Machine.execAdda8 g n d a b s
  | .difa g n d a b => Sys2Proof.Machine.execDifa g n d a b s
  | .movas g n d a => Sys2Proof.Machine.execMovas g n d a s
  | .movsa g n d a => Sys2Proof.Machine.execMovsa g n d a s
  | .addai g n d a im => Sys2Proof.Machine.execAddai g n d a im s
  | .movai g n d im => Sys2Proof.Machine.execMovai g n d im s
  | .andai g n d a im => Sys2Proof.Machine.execAndai g n d a im s
  | .br g n sc => Sys2Proof.Machine.execBr g n sc s
  | .call g n sc => Sys2Proof.Machine.execCall g n sc s
  | .jmp g n a => Sys2Proof.Machine.execJmp g n a s
  | .callr g n a => Sys2Proof.Machine.execCallr g n a s
  | .ret g n => Sys2Proof.Machine.execRet g n s
  | .loop g n d a im => Sys2Proof.Machine.execLoop g n d a im s
  | .mtlc g n d a => Sys2Proof.Machine.execMtlc g n d a s
  | .mflc g n d a => Sys2Proof.Machine.execMflc g n d a s
  | .lmode g n m => Sys2Proof.Machine.execLmode g n m s
  | .lmodeL g n m => Sys2Proof.Machine.execLmodeL g n m s
  | .vfadd g h d a b x => Sys2Proof.Machine.execVfadd g h d a b x s
  | .vfsub g h d a b x => Sys2Proof.Machine.execVfsub g h d a b x s
  | .vfmul g h d a b x => Sys2Proof.Machine.execVfmul g h d a b x s
  | .vfmin g h d a b x => Sys2Proof.Machine.execVfmin g h d a b x s
  | .vfmax g h d a b x => Sys2Proof.Machine.execVfmax g h d a b x s
  | .vfminn g h d a b x => Sys2Proof.Machine.execVfminn g h d a b x s
  | .vfmaxn g h d a b x => Sys2Proof.Machine.execVfmaxn g h d a b x s
  | .vfma g h d a b x => Sys2Proof.Machine.execVfma g h d a b x s
  | .vfms g h d a b x => Sys2Proof.Machine.execVfms g h d a b x s
  | .vfnma g h d a b x => Sys2Proof.Machine.execVfnma g h d a b x s
  | .vfnms g h d a b x => Sys2Proof.Machine.execVfnms g h d a b x s
  | .vfabs g h d a => Sys2Proof.Machine.execVfabs g h d a s
  | .vfneg g h d a => Sys2Proof.Machine.execVfneg g h d a s
  | .vfsqrt g h d a => Sys2Proof.Machine.execVfsqrt g h d a s
  | .vfrcp g h d a => Sys2Proof.Machine.execVfrcp g h d a s
  | .vfrsq g h d a => Sys2Proof.Machine.execVfrsq g h d a s
  | .vfdiv g h d a b x => Sys2Proof.Machine.execVfdiv g h d a b x s
  | .vexp2 g h d a => Sys2Proof.Machine.execVexp2 g h d a s
  | .vlog2 g h d a => Sys2Proof.Machine.execVlog2 g h d a s
  | .vexp g h d a => Sys2Proof.Machine.execVexp g h d a s
  | .vln g h d a => Sys2Proof.Machine.execVln g h d a s
  | .vtanh g h d a => Sys2Proof.Machine.execVtanh g h d a s
  | .vsigm g h d a => Sys2Proof.Machine.execVsigm g h d a s
  | .vfceq g h d a b x => Sys2Proof.Machine.execVfceq g h d a b x s
  | .vfcne g h d a b x => Sys2Proof.Machine.execVfcne g h d a b x s
  | .vfclt g h d a b x => Sys2Proof.Machine.execVfclt g h d a b x s
  | .vfcle g h d a b x => Sys2Proof.Machine.execVfcle g h d a b x s
  | .vfcun g h d a b x => Sys2Proof.Machine.execVfcun g h d a b x s
  | .vfrsum g h d a => Sys2Proof.Machine.execVfrsum g h d a s
  | .vfrmax g h d a => Sys2Proof.Machine.execVfrmax g h d a s
  | .vfrmin g h d a => Sys2Proof.Machine.execVfrmin g h d a s
  | .vadd g h d a b x => Sys2Proof.Machine.execVadd g h d a b x s
  | .vsub g h d a b x => Sys2Proof.Machine.execVsub g h d a b x s
  | .vmul g h d a b x => Sys2Proof.Machine.execVmul g h d a b x s
  | .vmulh g h d a b x => Sys2Proof.Machine.execVmulh g h d a b x s
  | .vmulhu g h d a b x => Sys2Proof.Machine.execVmulhu g h d a b x s
  | .vadds g h d a b x => Sys2Proof.Machine.execVadds g h d a b x s
  | .vsubs g h d a b x => Sys2Proof.Machine.execVsubs g h d a b x s
  | .vaddsu g h d a b x => Sys2Proof.Machine.execVaddsu g h d a b x s
  | .vand g h d a b x => Sys2Proof.Machine.execVand g h d a b x s
  | .vor g h d a b x => Sys2Proof.Machine.execVor g h d a b x s
  | .vxor g h d a b x => Sys2Proof.Machine.execVxor g h d a b x s
  | .vandn g h d a b x => Sys2Proof.Machine.execVandn g h d a b x s
  | .vshl g h d a b x => Sys2Proof.Machine.execVshl g h d a b x s
  | .vshr g h d a b x => Sys2Proof.Machine.execVshr g h d a b x s
  | .vsar g h d a b x => Sys2Proof.Machine.execVsar g h d a b x s
  | .vror g h d a b x => Sys2Proof.Machine.execVror g h d a b x s
  | .vmin g h d a b x => Sys2Proof.Machine.execVmin g h d a b x s
  | .vmax g h d a b x => Sys2Proof.Machine.execVmax g h d a b x s
  | .vminu g h d a b x => Sys2Proof.Machine.execVminu g h d a b x s
  | .vmaxu g h d a b x => Sys2Proof.Machine.execVmaxu g h d a b x s
  | .vclz g h d a => Sys2Proof.Machine.execVclz g h d a s
  | .vpopc g h d a => Sys2Proof.Machine.execVpopc g h d a s
  | .vabs g h d a => Sys2Proof.Machine.execVabs g h d a s
  | .vceq g h d a b x => Sys2Proof.Machine.execVceq g h d a b x s
  | .vcne g h d a b x => Sys2Proof.Machine.execVcne g h d a b x s
  | .vclt g h d a b x => Sys2Proof.Machine.execVclt g h d a b x s
  | .vcle g h d a b x => Sys2Proof.Machine.execVcle g h d a b x s
  | .vcltu g h d a b x => Sys2Proof.Machine.execVcltu g h d a b x s
  | .vcleu g h d a b x => Sys2Proof.Machine.execVcleu g h d a b x s
  | .vaddi g h d a im => Sys2Proof.Machine.execVaddi g h d a im s
  | .vandi g h d a im => Sys2Proof.Machine.execVandi g h d a im s
  | .vori g h d a im => Sys2Proof.Machine.execVori g h d a im s
  | .vxori g h d a im => Sys2Proof.Machine.execVxori g h d a im s
  | .vshli g h d a im => Sys2Proof.Machine.execVshli g h d a im s
  | .vshri g h d a im => Sys2Proof.Machine.execVshri g h d a im s
  | .vsari g h d a im => Sys2Proof.Machine.execVsari g h d a im s
  | .mand g d a b => Sys2Proof.Machine.execMand g d a b s
  | .mor g d a b => Sys2Proof.Machine.execMor g d a b s
  | .mxor g d a b => Sys2Proof.Machine.execMxor g d a b s
  | .mandn g d a b => Sys2Proof.Machine.execMandn g d a b s
  | .mnot g d a => Sys2Proof.Machine.execMnot g d a s
  | .vmovi g d im => Sys2Proof.Machine.execVmovi g d im s
  | .virsum g h d a => Sys2Proof.Machine.execVirsum g h d a s
  | .virmax g h d a => Sys2Proof.Machine.execVirmax g h d a s
  | .virmin g h d a => Sys2Proof.Machine.execVirmin g h d a s
  | .virmaxu g h d a => Sys2Proof.Machine.execVirmaxu g h d a s
  | .virminu g h d a => Sys2Proof.Machine.execVirminu g h d a s
  | .vcvtRne g h d a im => Sys2Proof.Machine.execVcvtRne g h d a im s
  | .vcvtRtz g h d a im => Sys2Proof.Machine.execVcvtRtz g h d a im s
  | .vcvtSr g h d a im => Sys2Proof.Machine.execVcvtSr g h d a im s
  | .vcvtDyn g h d a im => Sys2Proof.Machine.execVcvtDyn g h d a im s
  | .vqsc g h d a im => Sys2Proof.Machine.execVqsc g h d a im s
  | .vqel g h d a b x im => Sys2Proof.Machine.execVqel g h d a b x im s
  | .vqelSr g h d a b x im => Sys2Proof.Machine.execVqelSr g h d a b x im s
  | .vseed g a => Sys2Proof.Machine.execVseed g a s
  | .vgrd g d => Sys2Proof.Machine.execVgrd g d s
  | .vgwr g h a => Sys2Proof.Machine.execVgwr g h a s
  | .vshuf g h d a im => Sys2Proof.Machine.execVshuf g h d a im s
  | .xcopy g h d a im => Sys2Proof.Machine.execXcopy g h d a im s
  | .vbcs g d a => Sys2Proof.Machine.execVbcs g d a s
  | .vext g h d a l => Sys2Proof.Machine.execVext g h d a l s
  | .vins g d a l => Sys2Proof.Machine.execVins g d a l s
  | .vm2s g d a => Sys2Proof.Machine.execVm2s g d a s
  | .vs2m g d a => Sys2Proof.Machine.execVs2m g d a s
  | .viota g d => Sys2Proof.Machine.execViota g d s
  | .vpld g h a im => Sys2Proof.Machine.execVpld g h a im s
  | .ldb g n d r o => Sys2Proof.Machine.execLdb g n d r o s
  | .ldbu g n d r o => Sys2Proof.Machine.execLdbu g n d r o s
  | .ldh g n d r o => Sys2Proof.Machine.execLdh g n d r o s
  | .ldhu g n d r o => Sys2Proof.Machine.execLdhu g n d r o s
  | .ldw g n d r o => Sys2Proof.Machine.execLdw g n d r o s
  | .ldwu g n d r o => Sys2Proof.Machine.execLdwu g n d r o s
  | .ldd g n d r o => Sys2Proof.Machine.execLdd g n d r o s
  | .lda g n d r o => Sys2Proof.Machine.execLda g n d r o s
  | .stb g n d r o => Sys2Proof.Machine.execStb g n d r o s
  | .sth g n d r o => Sys2Proof.Machine.execSth g n d r o s
  | .stw g n d r o => Sys2Proof.Machine.execStw g n d r o s
  | .std g n d r o => Sys2Proof.Machine.execStd g n d r o s
  | .sta g n d r o => Sys2Proof.Machine.execSta g n d r o s
  | .sldb g n d r o => Sys2Proof.Machine.execSldb g n d r o s
  | .sldbu g n d r o => Sys2Proof.Machine.execSldbu g n d r o s
  | .sldh g n d r o => Sys2Proof.Machine.execSldh g n d r o s
  | .sldhu g n d r o => Sys2Proof.Machine.execSldhu g n d r o s
  | .sldw g n d r o => Sys2Proof.Machine.execSldw g n d r o s
  | .sldwu g n d r o => Sys2Proof.Machine.execSldwu g n d r o s
  | .sldd g n d r o => Sys2Proof.Machine.execSldd g n d r o s
  | .slda g n d r o => Sys2Proof.Machine.execSlda g n d r o s
  | .sstb g n d r o => Sys2Proof.Machine.execSstb g n d r o s
  | .ssth g n d r o => Sys2Proof.Machine.execSsth g n d r o s
  | .sstw g n d r o => Sys2Proof.Machine.execSstw g n d r o s
  | .sstd g n d r o => Sys2Proof.Machine.execSstd g n d r o s
  | .ssta g n d r o => Sys2Proof.Machine.execSsta g n d r o s
  | .vld g d r o => Sys2Proof.Machine.execVld g d r o s
  | .vst g h d r o => Sys2Proof.Machine.execVst g h d r o s
  | .vgath g h d a => Sys2Proof.Machine.execVgath g h d a s
  | .vgathh g h d a => Sys2Proof.Machine.execVgathh g h d a s
  | .vgathb g h d a => Sys2Proof.Machine.execVgathb g h d a s
  | .vscat g h a b x => Sys2Proof.Machine.execVscat g h a b x s
  | .vscath g h a b x => Sys2Proof.Machine.execVscath g h a b x s
  | .vscatb g h a b x => Sys2Proof.Machine.execVscatb g h a b x s
  | .sbcfg g n d a => Sys2Proof.Machine.execSbcfg g n d a s
  | .sbatt g n d a => Sys2Proof.Machine.execSbatt g n d a s
  | .sbadrp g n d a => Sys2Proof.Machine.execSbadrp g n d a s
  | .sbadrc g n d a => Sys2Proof.Machine.execSbadrc g n d a s
  | .sbrd g n d a => Sys2Proof.Machine.execSbrd g n d a s
  | .sbwaitf g n d im => Sys2Proof.Machine.execSbwaitf g n d im s
  | .sbwaite g n d im => Sys2Proof.Machine.execSbwaite g n d im s
  | .sbadvp g n d im => Sys2Proof.Machine.execSbadvp g n d im s
  | .sbadvc g n d im => Sys2Proof.Machine.execSbadvc g n d im s
  | .cpy g n p r c t => Sys2Proof.Machine.execCpy g n p r c t s
  | .cpya g n p r c t => Sys2Proof.Machine.execCpya g n p r c t s
  | .cpym g n p r c t k => Sys2Proof.Machine.execCpym g n p r c t k s
  | .cpyq g n p sc t => Sys2Proof.Machine.execCpyq g n p sc t s
  | .cbtest g n d k w sc => Sys2Proof.Machine.execCbtest g n d k w sc s
  | .cbwait g n k w sc => Sys2Proof.Machine.execCbwait g n k w sc s
  | .cbclr g n k w sc => Sys2Proof.Machine.execCbclr g n k w sc s
  | .cbrd g n d k w => Sys2Proof.Machine.execCbrd g n d k w s
  | .evpop g n d p => Sys2Proof.Machine.execEvpop g n d p s
  | .wload g n t p => Sys2Proof.Machine.execWload g n t p s
  | .wsel g n p => Sys2Proof.Machine.execWsel g n p s
  | .mmaR g n a w c => Sys2Proof.Machine.execMmaR g n a w c s
  | .mmaC g n a w c => Sys2Proof.Machine.execMmaC g n a w c s
  | .mmazR g n a w c => Sys2Proof.Machine.execMmazR g n a w c s
  | .mmazC g n a w c => Sys2Proof.Machine.execMmazC g n a w c s
  | .mdrain g n t sc r f => Sys2Proof.Machine.execMdrain g n t sc r f s
  | .mscale g n a => Sys2Proof.Machine.execMscale g n a s
  | .mhist g n d a => Sys2Proof.Machine.execMhist g n d a s
  | .tcfg g n a b => Sys2Proof.Machine.execTcfg g n a b s
  | .thome g n d b => Sys2Proof.Machine.execThome g n d b s
  | .tseed g n a => Sys2Proof.Machine.execTseed g n a s
  | .thomex g n d => Sys2Proof.Machine.execThomex g n d s
  | .tdcfg g n t r => Sys2Proof.Machine.execTdcfg g n t r s
  | .tdsav g n t r => Sys2Proof.Machine.execTdsav g n t r s
  | .tmm g n d a b o => Sys2Proof.Machine.execTmm g n d a b o s
  | .tadd g n d a b m => Sys2Proof.Machine.execTadd g n d a b m s
  | .tmul g n d a b m => Sys2Proof.Machine.execTmul g n d a b m s
  | .tact g n d a f => Sys2Proof.Machine.execTact g n d a f s
  | .tcvt g n d a f r => Sys2Proof.Machine.execTcvt g n d a f r s
  | .tqnt g n d a f r => Sys2Proof.Machine.execTqnt g n d a f r s
  | .tred g n d a x o => Sys2Proof.Machine.execTred g n d a x o s
  | .ttopk g n d a k x => Sys2Proof.Machine.execTtopk g n d a k x s
  | .tsoft g n d a => Sys2Proof.Machine.execTsoft g n d a s
  | .tmap g n d a m => Sys2Proof.Machine.execTmap g n d a m s
  | .tforce g n p v t c k => Sys2Proof.Machine.execTforce g n p v t c k s
  | .tstore g n p v t c k => Sys2Proof.Machine.execTstore g n p v t c k s
  | .tstoreH g n p v c k => Sys2Proof.Machine.execTstoreH g n p v c k s
  | .tdrop g n d => Sys2Proof.Machine.execTdrop g n d s
  | .tstat g n d v => Sys2Proof.Machine.execTstat g n d v s
  | .pref g n p sc b c k => Sys2Proof.Machine.execPref g n p sc b c k s
  | .bind g n d a b sc => Sys2Proof.Machine.execBind g n d a b sc s
  | .unbind g n d a => Sys2Proof.Machine.execUnbind g n d a s
  | .acqs g n d a sc => Sys2Proof.Machine.execAcqs g n d a sc s
  | .acqsT g n d a sc => Sys2Proof.Machine.execAcqsT g n d a sc s
  | .acqx g n d a sc => Sys2Proof.Machine.execAcqx g n d a sc s
  | .acqxT g n d a sc => Sys2Proof.Machine.execAcqxT g n d a sc s
  | .rel g n d a sc => Sys2Proof.Machine.execRel g n d a sc s
  | .fence g n d sc => Sys2Proof.Machine.execFence g n d sc s
  | .aadd g n d a b o sc => Sys2Proof.Machine.execAadd g n d a b o sc s
  | .aand g n d a b o sc => Sys2Proof.Machine.execAand g n d a b o sc s
  | .aor g n d a b o sc => Sys2Proof.Machine.execAor g n d a b o sc s
  | .axor g n d a b o sc => Sys2Proof.Machine.execAxor g n d a b o sc s
  | .amin g n d a b o sc => Sys2Proof.Machine.execAmin g n d a b o sc s
  | .amax g n d a b o sc => Sys2Proof.Machine.execAmax g n d a b o sc s
  | .aminu g n d a b o sc => Sys2Proof.Machine.execAminu g n d a b o sc s
  | .amaxu g n d a b o sc => Sys2Proof.Machine.execAmaxu g n d a b o sc s
  | .aswap g n d a b o sc => Sys2Proof.Machine.execAswap g n d a b o sc s
  | .acas g n d a b o sc => Sys2Proof.Machine.execAcas g n d a b o sc s
  | .aaddF32 g n d a b o sc => Sys2Proof.Machine.execAaddF32 g n d a b o sc s
  | .ard g n d a o sc => Sys2Proof.Machine.execArd g n d a o sc s
  | .ald g n d a o sc => Sys2Proof.Machine.execAld g n d a o sc s
  | .ast g n a b o sc => Sys2Proof.Machine.execAst g n a b o sc s
  | .qpush g n d q r => Sys2Proof.Machine.execQpush g n d q r s
  | .qpop g n d q r => Sys2Proof.Machine.execQpop g n d q r s
  | .qpopB g n d q r t => Sys2Proof.Machine.execQpopB g n d q r t s
  | .optreg g n d a => Sys2Proof.Machine.execOptreg g n d a s
  | .optgrad g n p sc r t => Sys2Proof.Machine.execOptgrad g n p sc r t s
  | .dereg g n d a => Sys2Proof.Machine.execDereg g n d a s
  | .sethp g n d a r => Sys2Proof.Machine.execSethp g n d a r s
  | .clrf g n d a r => Sys2Proof.Machine.execClrf g n d a r s
  | .dzero g n p sc t => Sys2Proof.Machine.execDzero g n p sc t s
  | .dcopy g n p sc b t => Sys2Proof.Machine.execDcopy g n p sc b t s
  | .launch g n d a => Sys2Proof.Machine.execLaunch g n d a s
  | .trigger g n => Sys2Proof.Machine.execTrigger g n s
  | .spawn g n d a b => Sys2Proof.Machine.execSpawn g n d a b s
  | .resume g n d a => Sys2Proof.Machine.execResume g n d a s
  | .susp g n d b => Sys2Proof.Machine.execSusp g n d b s
  | .suspK g n d b => Sys2Proof.Machine.execSuspK g n d b s
  | .yield g n => Sys2Proof.Machine.execYield g n s
  | .yieldK g n => Sys2Proof.Machine.execYieldK g n s
  | .endTask g n => Sys2Proof.Machine.execEndTask g n s
  | .wfe g n => Sys2Proof.Machine.execWfe g n s
  | .mtcfg g n d r => Sys2Proof.Machine.execMtcfg g n d r s
  | .mtarr g n d h r m => Sys2Proof.Machine.execMtarr g n d h r m s
  | .mtwait g n d h r t => Sys2Proof.Machine.execMtwait g n d h r t s
  | .mtwaitT g n d h r t => Sys2Proof.Machine.execMtwaitT g n d h r t s
  | .mttag g n d h m => Sys2Proof.Machine.execMttag g n d h m s
  | .mtdel g n d h => Sys2Proof.Machine.execMtdel g n d h s
  | .bar g n d b sc => Sys2Proof.Machine.execBar g n d b sc s
  | .barT g n d b sc => Sys2Proof.Machine.execBarT g n d b sc s
  | .trap g n im => Sys2Proof.Machine.execTrap g n im s
  | .brk g n im => Sys2Proof.Machine.execBrk g n im s
  | .tack g n => Sys2Proof.Machine.execTack g n s
  | .xret g n => Sys2Proof.Machine.execXret g n s
  | .preq g n => Sys2Proof.Machine.execPreq g n s
  | .icinv g n => Sys2Proof.Machine.execIcinv g n s
  | .tinvAll g n => Sys2Proof.Machine.execTinvAll g n s
  | .tinvAsid g n b => Sys2Proof.Machine.execTinvAsid g n b s
  | .tinvPage g n a b => Sys2Proof.Machine.execTinvPage g n a b s
  | .ckpt g n d => Sys2Proof.Machine.execCkpt g n d s
  | .mfs g n d im => Sys2Proof.Machine.execMfs g n d im s
  | .mts g n d im => Sys2Proof.Machine.execMts g n d im s
  | .mfsr g n d a => Sys2Proof.Machine.execMfsr g n d a s
  | .mtsr g n a b => Sys2Proof.Machine.execMtsr g n a b s
  | .pmen g n a => Sys2Proof.Machine.execPmen g n a s
  | .pmz g n a => Sys2Proof.Machine.execPmz g n a s
  | .mbegin g n d a => Sys2Proof.Machine.execMbegin g n d a s
  | .mend g n d => Sys2Proof.Machine.execMend g n d s
  | .mph g n d => Sys2Proof.Machine.execMph g n d s
  | .rscat g n p r t => Sys2Proof.Machine.execRscat g n p r t s
  | .agath g n p r t => Sys2Proof.Machine.execAgath g n p r t s
  | .ared g n p r t => Sys2Proof.Machine.execAred g n p r t s
  | .send g n p r t => Sys2Proof.Machine.execSend g n p r t s
  | .recv g n p r t => Sys2Proof.Machine.execRecv g n p r t s
  | .lnkst g n d a => Sys2Proof.Machine.execLnkst g n d a s
  | .phase g n d r => Sys2Proof.Machine.execPhase g n d r s
  | .phaseEnd g n => Sys2Proof.Machine.execPhaseEnd g n s
  | .digest g n d e => Sys2Proof.Machine.execDigest g n d e s
  | .rcmp g n d a b => Sys2Proof.Machine.execRcmp g n d a b s
  | .coreReset core => Sys2Proof.Machine.execCoreReset core s
  | .linkTrained link => Sys2Proof.Machine.execLinkTrained link s
  | .stackLogicDieReset stack index lines remote => Sys2Proof.Machine.execStackLogicDieReset stack index lines remote s
  | .malformedControlCommand => Sys2Proof.Machine.execMalformedControlCommand s

end Sys2Proof.Machine
end

