-- ==== Sys2Proof/Machine/Placing.lean ====
section
/-!
DEFINITION. Machine/Placing.lean: the parts of a step around the meanings: which core has the focus, the issue of one
bundle through the meanings, and how one word is placed for the fetch.
-/
namespace Sys2Proof.Machine

noncomputable section

/-- An outcome with what it asked for performed. -/
def settled : Out → Out
  | .next s => .next (settle s)
  | o => o

/-- One bundle of the core in focus: the boundary and the fetch, then the slots. -/
def issueStep (ex : Instr → State → Out) (s : State) : Out :=
  match ex .issueBundle s with
  | .next t => if t.core.iss.busy then settled (runBundle ex t) else .next (settle t)
  | o => o

/-- Tables of five levels at 0, 0x1000, … 0x4000, whose first entries lead to the code page at 0x10000, and the bytes of
one bundle there. -/
def placedMem (hdr w : Nat) (m : SMap Byte) : SMap Byte :=
  let m := [0, 1, 2, 3].foldl (fun m k => memPut (leBytes 8 ((k + 1) * 0x1000 + 3)) (k * 0x1000) m) m
  memPut (leBytes 4 hdr ++ leBytes 4 w) 0x10000 (memPut (leBytes 8 0x1003D) 0x4000 m)

/-- A word placed where the core in focus fetches next. A word no class has stands in slot 0. -/
def placeWord (s : State) (w : Nat) : State :=
  let j := match decodeAny w with | some p => p.1 | none => 0
  let s := { s with mem := placedMem (2 ^ j) w s.mem }
  onIss (fun i => { i with npc := 0, from_ := 0 }) (onX (fun x => { x with ttb := 0 }) (onCore (fun c => { c with st := .run }) s))

end

end Sys2Proof.Machine
end

