-- ==== Sys2Proof/Machine/Step.lean ====
section
/-!
DEFINITION. Machine/Step.lean: one step of the machine. The schedule, an input (log 3), says which core takes the focus,
which agent's step is done and which memory error is met; with nothing scheduled the core in focus issues its next bundle.
-/
namespace Sys2Proof.Machine

noncomputable section

/-- One step, given what an instruction does. -/
def stepWith (ex : Instr → State → Out) (s : State) : Out :=
  match s.sched with
  | .core n ctl :: r => .next (focusOn (coreKey n ctl) { s with sched := r })
  | .agent i :: r => settled (ex i { s with sched := r })
  | .error e :: r => .next (settle (memError e { s with sched := r }))
  | [] => issueStep ex s

/-- One step of the machine. -/
def step (s : State) : Host.Outcome State Fault Refusal := stepWith exec s

/-- The state with one instruction word standing where the core in focus fetches next: core 0 runs at user level, its
page tables map virtual page 0 to one page of code that holds a bundle of that one word, in the first slot whose class
has it. -/
def State.withFetchWord (s : State) (nbits w : Nat) : State := placeWord s (w % 2 ^ nbits % 2 ^ 32)

end

end Sys2Proof.Machine
end

