-- ==== Sys2Proof/Safety.lean ====
section
/-!
DEFINITION. Safety.lean: what a safe run is: no step ends in a fault or a refusal.
-/
namespace Sys2Proof.Safety

open Sys2Proof.Machine

/-- A step ends in a next state. -/
def goesOn (o : Host.Outcome State Fault Refusal) : Bool :=
  match o with
  | .next _ => true
  | _ => false

/-- The step from `s` is safe: it ends in a next state. -/
def safeStep (s : State) : Prop := ∃ t, step s = .next t

/-- The state after at most `n` safe steps. -/
inductive SafeRun : Nat → State → State → Prop where
  | refl (s : State) : SafeRun 0 s s
  | more {n : Nat} {s t u : State} : step s = .next t → SafeRun n t u → SafeRun (n + 1) s u

end Sys2Proof.Safety
end

