-- ==== Sys2Proof/Certificates/Slice0/Obligations.lean ====
section
/-!
DEFINITION. Certificates/Slice0/Obligations.lean: the statements for the provers. Each cites the rules of the spec it formalises;
`emit lat e s` is the state in which a result `e` of latency `lat` has been issued.
-/
open Sys2Proof Sys2Proof.Machine

/-- `v` is `s` but for the bookkeeping of the bundle in progress. -/
def Sys2Proof.Claims.onlyIss (s v : State) : Prop := v = { s with core := { s.core with iss := v.core.iss } }

/-- `v` is `s` but for what caches hold, what counters count and the bookkeeping of the bundle in progress: no register,
no byte of memory or of a buffer, no other core and no other unit differs. -/
def Sys2Proof.Claims.onlyCaches (s v : State) : Prop :=
  v = { s with core := { s.core with cm := { s.core.cm with rc := v.core.cm.rc, tlb := v.core.cm.tlb }, pm := { s.core.pm with pmc := v.core.pm.pmc },
                                     iss := v.core.iss },
               home := { s.home with l2 := v.home.l2, quad := v.home.quad, walk := v.home.walk }, free := v.free }

/-- A byte of the read-only POS of a team's log descriptor (23 Table 23-5): writes leave it as it is. -/
def Sys2Proof.Claims.posByte (s : State) (x : Nat) : Bool :=
  decide (16 ≤ x % 32 ∧ x % 32 < 24) &&
  s.dist.teams.any (fun p => match p.2.log with | some b => decide (b ≤ lineOf x ∧ lineOf x < b + 320) | none => false)

/-- What a write of the `n`-byte number `v` at `x`, a multiple of `n`, leaves there: CTRL of a team's log descriptor keeps bit 0
alone, its reserved bits read as zero (00 R4, 23 Table 23-5). -/
def Sys2Proof.Claims.rzNat (s : State) (x v : Nat) : Nat :=
  if 24 ≤ x % 32 ∧ s.dist.teams.any (fun p => match p.2.log with | some b => decide (b ≤ lineOf x ∧ lineOf x < b + 320) | none => false) = true
  then (if x % 32 = 24 then v % 2 else 0) else v

/-- A store of a core leaves its registers, what it has issued and its scratchpads alone. -/
def Sys2Proof.Claims.storeKeeps (s t : State) : Prop :=
  t.core.sc = s.core.sc ∧ t.core.vec = s.core.vec ∧ t.core.x = s.core.x ∧ t.core.pend = s.core.pend ∧ t.core.sp = s.core.sp

/-- No buffer port serves an access of the bundle so far, the bundle has not waited for one, and no S12 command is in flight. -/
def Sys2Proof.Claims.portsFree (s : State) : Prop :=
  s.core.mx.flight = [] ∧ s.core.iss.early = none ∧ ∀ p, mget 0 s.core.iss.cnt (0x100 + p) = 0

/-- The access of `n` bytes at `ea` is to the core's own buffers, or the window port of the mate it reaches has served the bundle
already or had room in the cycle just passed. -/
def Sys2Proof.Claims.windowFree (s : State) (ea : Word) (n : Nat) : Prop :=
  let k := spadTarget s ea.toNat
  k = s.focus ∨ mget 0 s.core.iss.cnt (0x200 + k % 4) ≠ 0 ∨
  asyncRoom s.time (coreAt s k) (matePorts (ea.toNat / 2 ^ 20 % 4) (ea.toNat % 2 ^ 20) n) = true

/-- `v` is `s` but for the bookkeeping of the bundle in progress and what the cores' notes say of their ports: no register, no byte
of memory or of a buffer and no other unit differs. -/
def Sys2Proof.Claims.onlyPorts (s v : State) : Prop :=
  v = { s with core := { s.core with iss := v.core.iss }, others := v.others } ∧
  ∀ k, k ≠ s.focus → coreAt v k = { coreAt s k with sp := { (coreAt s k).sp with cyc := (coreAt v k).sp.cyc } }

/-- A command or request accepted in slot 13 leaves registers, memory, scratchpads, other cores and other units alone. -/
def Sys2Proof.Claims.sameButCp (s t : State) : Prop :=
  t.mem = s.mem ∧ t.others = s.others ∧ t.home = s.home ∧ t.dist = s.dist ∧ t.net = s.net ∧ t.ctl = s.ctl ∧
  t.core = { s.core with cp := t.core.cp, iss := t.core.iss, pend := t.core.pend }

/-- Nothing stands in the way of an S12 command: no command in flight, no lazy source, no phase, no accepted CPYA, and
Teasel does not hold the matrix unit. -/
def Sys2Proof.Claims.matrixFree (s : State) : Prop :=
  s.core.mx.flight = [] ∧ s.core.th.nodes = [] ∧ s.core.phase = [] ∧ s.core.cp.cmds = [] ∧ teaselHolds s.core = false

/-- An S12 command with these needs may issue: Teasel does not hold the matrix unit, no command in flight is in the way, no
phase, no lazy source, and no CPYA that adds to a bank it writes (09 R175, R176). -/
def Sys2Proof.Claims.s12Clear (s : State) (k : S12Need) : Prop :=
  teaselHolds s.core = false ∧ s12Busy s k = false ∧ (∀ r ∈ k.rdRuns, phaseBad s.core 2 false r.1 r.2.1 r.2.2 = none) ∧
  (∀ r ∈ k.wrRuns, phaseBad s.core 2 true r.1 r.2.1 r.2.2 = none ∧ hazardAt s.core r.1 r.2.1 r.2.2 = none) ∧
  (exposed s = true → cpyaInFlight s k.wr = false)

/-- A tile instruction may record: the arena is on, its sources name values or legal descriptors in legal formats, the
destination's home, if it has one, has the result's shape, and there is room (10 R192, R199). -/
def Sys2Proof.Claims.tileReady (s : State) (d : Nat) (xs : List (Option TSrc × Option TD)) (rows cols : Nat) : Prop :=
  arenaOn s.core = true ∧ (∀ x ∈ xs, ∀ t, x.2 = some t → leafOk s t = true ∧ leafProt s t = none) ∧
  (∀ x ∈ xs, ∀ y, x.1 = some y → elemLegal (fmtOf (srcFmt s.core y).1) = true) ∧
  (∀ h, (tvOf s.core d).home = some h → (tdOf h.1).rows = rows ∧ (tdOf h.1).cols = cols) ∧
  tableRoom s.core (xs.filterMap Prod.fst) = true

/-- `nd` is recorded: it is the table's last node, value `d` is pending on it and keeps its home, the next node gets the next
number and seed, and nothing outside the table differs but the count of issued instructions. -/
def Sys2Proof.Claims.recorded (s t : State) (d : Nat) (nd : TNode) : Prop :=
  t.core.th.nodes.getLast? = some nd ∧ tvOf t.core d = ⟨.pend nd.seq, (tvOf s.core d).home⟩ ∧
  (∀ k, k ≠ d → tvOf t.core k = tvOf s.core k) ∧ (∀ m ∈ t.core.th.nodes, m = nd ∨ m ∈ s.core.th.nodes) ∧
  t.core.th.nextSeq = nd.seq + 1 ∧ t.core.th.seed = s.core.th.seed + (if nd.mode = 4 then 1 else 0) ∧
  t = { s with core := { s.core with th := { s.core.th with nodes := t.core.th.nodes, tv := t.core.th.tv,
                                                            nextSeq := t.core.th.nextSeq, seed := t.core.th.seed },
                                     iss := t.core.iss } }

/-- Virtual address `va`, a multiple of `n`, translates to the own package's device memory at `a` by leaf `e`; `u` is `s` after
the translation. -/
def Sys2Proof.Claims.atHome (k : Acq) (va : Word) (n : Nat) (a e : Nat) (s u : State) : Prop :=
  va.toNat % n = 0 ∧ transCore k va s = (.ok a e, u) ∧ isReg a = false ∧ pkgOf a = u.ctl.pkgNum

/-- What the core sent to other packages has been acknowledged or has failed, and in recovery mode flushed (13 R249, R253). -/
def Sys2Proof.Claims.podDone (s : State) : Prop := podClear s = true ∧ (recov s = true → s.core.cm.reach = [])

/-- The register files, the special registers, the scratchpads and the engines of the core, and the other units, are as in `s`; what
lands is a result of `d`. -/
def Sys2Proof.Claims.sameRegs (s t : State) (pend : List Pend) : Prop :=
  t.core.sc = s.core.sc ∧ t.core.vec = s.core.vec ∧ t.core.x = s.core.x ∧ t.core.sp = s.core.sp ∧ t.core.mx = s.core.mx ∧
  t.core.th = s.core.th ∧ t.core.sb = s.core.sb ∧ t.core.cp = s.core.cp ∧ t.core.task = s.core.task ∧ t.core.pend = pend ∧
  t.dist = s.dist ∧ t.grp = s.grp ∧ t.net = s.net

/-- A team's scheduler log is off, or has room for `k` records. -/
def Sys2Proof.Claims.logRoom (s : State) (t k : Nat) : Prop := ∀ m, logFree s t = some m → k ≤ m

/-- The core enters its handler (19 R317): pc, status, mode, stack pointer and loops as a handler entry from level `pl` leaves
them, with cause word `w`, XFA, XSLOT, XPC, XNPC and XFPC as given. `z` is the state once issued results have landed. -/
def Sys2Proof.Claims.entered (z t : State) (w fa slot pc npc fpc : Word) : Prop :=
  let x := z.core.x
  t.core.x.cause = w ∧ t.core.x.fa = fa ∧ t.core.x.xslot = slot ∧ t.core.x.xpc = pc ∧ t.core.x.xnpc = npc ∧ t.core.x.xfpc = fpc ∧
  t.core.x.xmode = x.mode.setWidth 64 ∧ t.core.x.mode = 1 ∧ t.core.x.ppl = x.pl ∧ t.core.x.pl = true ∧ t.core.x.ack = false ∧
  t.core.iss.npc = x.xbase ∧ t.core.iss.from_ = 0 ∧ t.core.st = .handler ∧ t.core.sc.loops = [] ∧ t.core.pend = z.core.pend ∧
  t.core.x.cause2 = x.cause2 ∧ t.core.x.fa2 = x.fa2 ∧ t.core.x.xbase = x.xbase ∧ t.core.x.dh = x.dh ∧ t.core.x.fpstat = x.fpstat ∧
  t.core.x.ttb = x.ttb ∧ t.core.x.wdogr = x.wdogr ∧ t.core.x.ftab = x.ftab ∧
  (x.pl = false → rdA t 15 = x.xsp ∧ t.core.x.xsp = rdA z 15 ∧ t.core.sc.frozen = some z.core.sc.loops) ∧
  (x.pl = true → rdA t 15 = rdA z 15 ∧ t.core.x.xsp = x.xsp ∧ t.core.sc.frozen = z.core.sc.frozen) ∧
  (∀ r, r ≠ 15 → rdA t r = rdA z r) ∧ (∀ r, rdS t r = rdS z r) ∧ t.core.sc.p = z.core.sc.p ∧ t.core.sc.lc = z.core.sc.lc ∧
  t.core.vec = { z.core.vec with latch := [] } ∧ t.mem = z.mem ∧ t.core.sp = z.core.sp ∧ t.home = z.home ∧ t.others = z.others

/-- A byte that MEND's restoration of a team's pass does not touch on its way: in no capture area, no index entry of a capture of
the pass, and in no granule that the pass captured. -/
def Sys2Proof.Claims.passClear (z : State) (ws : List (Nat × Win)) (area : Nat → Option CapArea) (x : Nat) : Prop :=
  (z.ctl.caps.any (fun p => decide (own z p.2.base ≤ x ∧ x < own z p.2.base + cdiv (8 * p.2.n) 4096 * 4096 + 4096 * p.2.n)) = false) ∧
  (∀ p ∈ ws, ∀ c ∈ p.2.caps, ∀ ar, area p.1 = some ar → x < own z (ar.base + 8 * c.2) ∨ own z (ar.base + 8 * c.2) + 8 ≤ x)

/-- `z` with the head command of its copy engine gone and record `r` posted in its place (08 R160, R164). -/
def Sys2Proof.Claims.headDone (r : Word) (z : State) : State :=
  { z with core := { z.core with cp := { z.core.cp with cmds := z.core.cp.cmds.drop 1, resv := z.core.cp.resv - 1,
                                                        evNew := z.core.cp.evNew ++ [(z.core.now, r)] } } }

/-- `t` is what the push of the notice of copy request `k` makes of `v` (08 R166, Table 8-6): COOKIE, STATUS, BYTES and DIGEST go to
the reply queue; while it is full the notice is kept; delivered or undeliverable, the request leaves with its record. -/
def Sys2Proof.Claims.noticed (k : CopyCmd) (v t : State) : Prop :=
  let dst := leAt k.desc 0x18 8
  let h := hndOf (wd dst)
  let bs := leBytes 8 (leAt k.desc 0x20 8) ++ leBytes 8 (if k.status = 3 then k.arg2.toNat else 0) ++ leBytes 8 k.bytes ++
    leBytes 8 (if leAt k.desc 0x28 8 % 2 = 1 then k.digest.toNat else 0) ++ List.replicate 32 0
  let ended := Claims.headDone (evRec 1 k.tag k.status 0 k.bytes)
  let lost := fun st => ctlEvent 3 dst st
  (k.desc = [] ∨ dst = 0 → t = ended v) ∧
  (k.desc ≠ [] → dst ≠ 0 → h.ok = false → t = ended (lost qSTALE v)) ∧
  (k.desc ≠ [] → dst ≠ 0 → h.ok = true → h.pkg = v.ctl.pkgNum → ∀ st z, qPush ⟨k.sup, fld k.ttb 63 52⟩ h bs v = (st, z) →
    (st = qFULL → t = onHead (fun k => { k with notice := some (wd dst, bs) }) v) ∧ (st = qOK → t = ended z) ∧
    (st ≠ qFULL → st ≠ qOK → t = ended (lost st z)))

/-- `z` with collective command `c` gone, its place at its core free, and its record posted to its task with TAG, STATUS, flags and
BYTES (21 R352, R359). -/
def Sys2Proof.Claims.collPosted (c : Coll) (z : State) : State :=
  postTo c.team c.slot (wd (8 * 2 ^ 60 + c.tag % 256 * 2 ^ 52 + c.status % 16 * 2 ^ 48 + c.flags.toNat * 2 ^ 43 + c.bytes % 2 ^ 43))
    (onCoreAt c.core (fun x => { x with cm := { x.cm with colOut := x.cm.colOut - 1 } })
      (onNet (fun n => { n with colls := n.colls.filter (fun x => decide (x.id ≠ c.id)) }) z))

/-- `z` is what a rollback of team `t` makes of `s` (19 R336, R337): the team stands as its last checkpoint has it, one rollback more, its
cores let go and its captured granules copied back; or, where that is impossible, it has ended with the notice LOST. -/
def Sys2Proof.Claims.rolledBack (t : Nat) (s z : State) : Prop :=
  ∀ x, teamOf s t = some x →
  (rollFails s t = false → ∃ y, teamOf z t = some y ∧ y.live = x.ck.live ∧ y.conts = x.ck.conts ∧ y.back = x.ck.back ∧ y.nextIdx = x.ck.nextIdx ∧
    y.part = x.ck.part ∧ y.ready = x.ck.ready ∧ y.rolls = (x.rolls + 1) % 2 ^ 32 ∧ y.ckBusy = none ∧ y.ckStop = false ∧ y.pre = [] ∧
    z.mem = (restoreWins t (stopTeam t s)).mem ∧
    ∀ k ∈ coresOf s t, (coreAt s k).st ≠ .dhalt → (coreAt z k).st = .idle) ∧
  (rollFails s t = true → teamOf z t = none ∧ ∃ v, v.mem = (closeWins t (stopTeam t s)).mem ∧
    z = onDist (fun d => { d with teams := mdel d.teams t }) (notify x.card.doneq (noticeBytes (t + x.gen * 2 ^ 12) 2 x.card.n) x.asid (some t) v))

/-- A management request for command `c`, whole, and signed by the owner with both signatures and a new sequence number where that is asked. -/
def Sys2Proof.Claims.request (s : State) (c : Nat) (sig : Option Sigs) (q : List Byte) : Prop :=
  leAt q 0 2 = c ∧ 44 + mgLen q ≤ q.length ∧ (∀ v, sig = some v → v = sigsOf q ∧ mgAuth s v q = true)

/-- A core's maps are in their canonical form: keys rise, and no entry is what an unlisted one reads as; a buffer whose contents a dispatch
left unspecified lists what was written since, zeros too. -/
def Sys2Proof.Claims.coreForm (c : Core) : Prop :=
  mcanon 0 c.sc.s = true ∧ mcanon 0 c.sc.a = true ∧ mcanon 0 c.sc.lc = true ∧ mcanon 0 c.vec.v = true ∧ mcanon 0 c.vec.m = true ∧
  mcanon 0 c.cp.cb = true ∧ msorted c.sp.w = true ∧ msorted c.sp.a = true ∧ msorted c.sp.c = true ∧
  (c.sp.epoch = 0 → mcanon 0 c.sp.w = true ∧ mcanon 0 c.sp.a = true ∧ mcanon 0 c.sp.c = true)

/-- The cores of a state, and those whose contexts the pool and the teams' checkpoints keep. -/
def Sys2Proof.Claims.allCores (s : State) : List Core :=
  s.core :: s.others.map Prod.snd ++ s.dist.slots.filterMap (fun p => p.2.ctx) ++
  s.dist.teams.flatMap (fun p => p.2.ck.slots.filterMap (fun q => q.2.ctx))

/-- Memory, the register files, buffers and bitmaps of every core and every kept context, and the lists of cores, queues, teams and
pool slots are in their canonical form. -/
def Sys2Proof.Claims.formed (s : State) : Prop :=
  Memory.wf s.mem = true ∧ msorted s.others = true ∧ msorted s.home.queues = true ∧ msorted s.dist.teams = true ∧
  msorted s.dist.slots = true ∧ ∀ c ∈ Claims.allCores s, Claims.coreForm c

/-- Integer register forms complete with the result and latency the spec gives (R71, R72, R75, R77, R78). -/
def Obligations.IntegerRegisterForms : Prop :=
∀ (s : State) (g n d a b k : Nat), guardOk g n s = true →
  exec (.add g n d a b) s = .next (emit 1 (.s d (rdS s a + rdS s b)) s) ∧
  exec (.sub g n d a b) s = .next (emit 1 (.s d (rdS s a - rdS s b)) s) ∧
  exec (.and g n d a b) s = .next (emit 1 (.s d (rdS s a &&& rdS s b)) s) ∧
  exec (.or g n d a b) s = .next (emit 1 (.s d (rdS s a ||| rdS s b)) s) ∧
  exec (.xor g n d a b) s = .next (emit 1 (.s d (rdS s a ^^^ rdS s b)) s) ∧
  exec (.andn g n d a b) s = .next (emit 1 (.s d (rdS s a &&& ~~~(rdS s b))) s) ∧
  exec (.shl g n d a b) s = .next (emit 1 (.s d (rdS s a <<< fld (rdS s b) 5 0)) s) ∧
  exec (.shr g n d a b) s = .next (emit 1 (.s d (rdS s a >>> fld (rdS s b) 5 0)) s) ∧
  exec (.sar g n d a b) s = .next (emit 1 (.s d ((rdS s a).sshiftRight (fld (rdS s b) 5 0))) s) ∧
  exec (.rol g n d a b) s = .next (emit 1 (.s d ((rdS s a).rotateLeft (fld (rdS s b) 5 0))) s) ∧
  exec (.ror g n d a b) s = .next (emit 1 (.s d ((rdS s a).rotateRight (fld (rdS s b) 5 0))) s) ∧
  exec (.min g n d a b) s = .next (emit 1 (.s d (if (rdS s a).toInt ≤ (rdS s b).toInt then rdS s a else rdS s b)) s) ∧
  exec (.max g n d a b) s = .next (emit 1 (.s d (if (rdS s b).toInt ≤ (rdS s a).toInt then rdS s a else rdS s b)) s) ∧
  exec (.minu g n d a b) s = .next (emit 1 (.s d (if (rdS s a).toNat ≤ (rdS s b).toNat then rdS s a else rdS s b)) s) ∧
  exec (.maxu g n d a b) s = .next (emit 1 (.s d (if (rdS s b).toNat ≤ (rdS s a).toNat then rdS s a else rdS s b)) s) ∧
  exec (.clz g n d a) s = .next (emit 1 (.s d (wd (clzN 64 (rdS s a).toNat))) s) ∧
  exec (.ctz g n d a) s = .next (emit 1 (.s d (wd (ctzN 64 (rdS s a).toNat))) s) ∧
  exec (.popc g n d a) s = .next (emit 1 (.s d (wd (popN 64 (rdS s a).toNat))) s) ∧
  exec (.brev g n d a) s = .next (emit 1 (.s d (wd (brevN 64 (rdS s a).toNat))) s) ∧
  exec (.bswap g n d a) s = .next (emit 1 (.s d (wd (leNat (leBytes 8 (rdS s a).toNat).reverse))) s) ∧
  exec (.sel g n d a b k) s = .next (emit 1 (.s d (if rdP s k then rdS s a else rdS s b)) s) ∧
  exec (.prd g n d) s = .next (emit 1 (.s d ((s.core.sc.p ||| 1).setWidth 64)) s)

/-- BEXT, BEXTU and BINS by off, wid and the top cut at bit 63 (R79). -/
def Obligations.BitFieldForms : Prop :=
  ∀ (s : State) (g n d a b off t : Nat), guardOk g n s = true → off = fld (rdS s b) 5 0 →
  t = min (off + fld (rdS s b) 14 8) 64 →
  exec (.bext g n d a b) s =
    .next (emit 1 (.s d (if t = off then 0 else sextW (t - off) ((rdS s a).toNat / 2 ^ off % 2 ^ (t - off)))) s) ∧
  exec (.bextu g n d a b) s =
    .next (emit 1 (.s d (if t = off then 0 else BitVec.ofNat 64 ((rdS s a).toNat / 2 ^ off % 2 ^ (t - off)))) s) ∧
  exec (.bins g n d a b) s =
    .next (emit 1 (.s d (if off < t then BitVec.ofNat 64 ((rdS s d).toNat - (rdS s d).toNat / 2 ^ off % 2 ^ (t - off) * 2 ^ off
      + (rdS s a).toNat % 2 ^ (t - off) * 2 ^ off) else rdS s d)) s)

/-- MUL to MULHSU, DIV, DIVU, REM and REMU with the corners of R74; functions 8 to 15 are rejected (R74). -/
def Obligations.MultiplyAndDivideForms : Prop :=
  (∀ (s : State) (g n d a b : Nat), guardOk g n s = true →
    let x := rdS s a
    let y := rdS s b
    let lat := fun (m : Nat) => if exposed s then 34 else if y = 0 then 2 else 2 + ((if m = 0 then 0 else Nat.log2 m + 1) + 1) / 2
    exec (.mul g n d a b) s = .next (emit 3 (.s d (BitVec.ofInt 64 (x.toInt * y.toInt))) s) ∧
    exec (.mulh g n d a b) s = .next (emit 3 (.s d (BitVec.ofInt 64 (x.toInt * y.toInt / 2 ^ 64))) s) ∧
    exec (.mulhu g n d a b) s = .next (emit 3 (.s d (BitVec.ofNat 64 (x.toNat * y.toNat / 2 ^ 64))) s) ∧
    exec (.mulhsu g n d a b) s = .next (emit 3 (.s d (BitVec.ofInt 64 (x.toInt * (y.toNat : Int) / 2 ^ 64))) s) ∧
    exec (.div g n d a b) s =
      .next (emit (lat x.toInt.natAbs) (.s d (if y = 0 then -1 else BitVec.ofInt 64 (x.toInt.tdiv y.toInt))) s) ∧
    exec (.divu g n d a b) s = .next (emit (lat x.toNat) (.s d (if y = 0 then -1 else BitVec.ofNat 64 (x.toNat / y.toNat))) s) ∧
    exec (.rem g n d a b) s =
      .next (emit (lat x.toInt.natAbs) (.s d (if y = 0 then x else BitVec.ofInt 64 (x.toInt.tmod y.toInt))) s) ∧
    exec (.remu g n d a b) s = .next (emit (lat x.toNat) (.s d (if y = 0 then x else BitVec.ofNat 64 (x.toNat % y.toNat))) s)) ∧
  (∀ j limm w : Nat, (j = 1 ∨ j = 2) → w < 2 ^ 32 → w / 2 ^ 26 = 1 → 8 ≤ w % 16 → decodeSlot j limm w = none)

/-- Immediate forms, I16 moves and S2 address arithmetic complete with their results (R73, R80, R81). -/
def Obligations.ImmediateAndAddressForms : Prop :=
∀ (s : State) (g n d a b i : Nat), guardOk g n s = true →
  exec (.addi g n d a i) s = .next (emit 1 (.s d (rdS s a + imm10v s i)) s) ∧
  exec (.andi g n d a i) s = .next (emit 1 (.s d (rdS s a &&& imm10v s i)) s) ∧
  exec (.ori g n d a i) s = .next (emit 1 (.s d (rdS s a ||| imm10v s i)) s) ∧
  exec (.xori g n d a i) s = .next (emit 1 (.s d (rdS s a ^^^ imm10v s i)) s) ∧
  exec (.shli g n d a i) s = .next (emit 1 (.s d (rdS s a <<< fld (imm10v s i) 5 0)) s) ∧
  exec (.shri g n d a i) s = .next (emit 1 (.s d (rdS s a >>> fld (imm10v s i) 5 0)) s) ∧
  exec (.sari g n d a i) s = .next (emit 1 (.s d ((rdS s a).sshiftRight (fld (imm10v s i) 5 0))) s) ∧
  exec (.rori g n d a i) s = .next (emit 1 (.s d ((rdS s a).rotateRight (fld (imm10v s i) 5 0))) s) ∧
  exec (.mini g n d a i) s = .next (emit 1 (.s d (if (rdS s a).toInt ≤ (imm10v s i).toInt then rdS s a else imm10v s i)) s) ∧
  exec (.maxi g n d a i) s = .next (emit 1 (.s d (if (imm10v s i).toInt ≤ (rdS s a).toInt then rdS s a else imm10v s i)) s) ∧
  exec (.muli g n d a i) s = .next (emit 3 (.s d (rdS s a * imm10v s i)) s) ∧
  exec (.movi g n d i) s = .next (emit 1 (.s d (sextW 16 i)) s) ∧
  exec (.moviz g n d i) s = .next (emit 1 (.s d (wd (i % 2 ^ 16))) s) ∧
  exec (.movk0 g n d i) s = .next (emit 1 (.s d (setFld (rdS s d) 15 0 i)) s) ∧
  exec (.movk1 g n d i) s = .next (emit 1 (.s d (setFld (rdS s d) 31 16 i)) s) ∧
  exec (.movk2 g n d i) s = .next (emit 1 (.s d (setFld (rdS s d) 47 32 i)) s) ∧
  exec (.movk3 g n d i) s = .next (emit 1 (.s d (setFld (rdS s d) 63 48 i)) s) ∧
  exec (.adda g n d a b) s = .next (emit 1 (.a d (rdA s a + rdS s b)) s) ∧
  exec (.adda2 g n d a b) s = .next (emit 1 (.a d (rdA s a + rdS s b <<< 1)) s) ∧
  exec (.adda4 g n d a b) s = .next (emit 1 (.a d (rdA s a + rdS s b <<< 2)) s) ∧
  exec (.adda8 g n d a b) s = .next (emit 1 (.a d (rdA s a + rdS s b <<< 3)) s) ∧
  exec (.difa g n d a b) s = .next (emit 1 (.s d (rdA s a - rdA s b)) s) ∧
  exec (.movas g n d a) s = .next (emit 1 (.a d (rdS s a)) s) ∧
  exec (.movsa g n d a) s = .next (emit 1 (.s d (rdA s a)) s) ∧
  exec (.addai g n d a i) s = .next (emit 1 (.a d (rdA s a + imm10v s i)) s) ∧
  exec (.movai g n d i) s = .next (emit 1 (.a d (sextW 16 i)) s) ∧
  exec (.andai g n d a i) s = .next (emit 1 (.a d (rdA s a &&& imm10v s i)) s)

/-- Compares and predicate operations complete with their results (R76, R78). -/
def Obligations.CompareAndPredicateForms : Prop :=
∀ (s : State) (g n d a b i : Nat), guardOk g n s = true →
  exec (.cmpeq g n d a b) s = .next (emit 1 (predBit d (decide (rdS s a = rdS s b))) s) ∧
  exec (.cmpne g n d a b) s = .next (emit 1 (predBit d (decide (rdS s a ≠ rdS s b))) s) ∧
  exec (.cmplt g n d a b) s = .next (emit 1 (predBit d (decide ((rdS s a).toInt < (rdS s b).toInt))) s) ∧
  exec (.cmple g n d a b) s = .next (emit 1 (predBit d (decide ((rdS s a).toInt ≤ (rdS s b).toInt))) s) ∧
  exec (.cmpeqi g n d a i) s = .next (emit 1 (predBit d (decide (rdS s a = imm10v s i))) s) ∧
  exec (.cmpnei g n d a i) s = .next (emit 1 (predBit d (decide (rdS s a ≠ imm10v s i))) s) ∧
  exec (.cmplti g n d a i) s = .next (emit 1 (predBit d (decide ((rdS s a).toInt < (imm10v s i).toInt))) s) ∧
  exec (.cmplei g n d a i) s = .next (emit 1 (predBit d (decide ((rdS s a).toInt ≤ (imm10v s i).toInt))) s) ∧
  exec (.cmpltu g n d a b) s = .next (emit 1 (predBit d (decide ((rdS s a).toNat < (rdS s b).toNat))) s) ∧
  exec (.cmpleu g n d a b) s = .next (emit 1 (predBit d (decide ((rdS s a).toNat ≤ (rdS s b).toNat))) s) ∧
  exec (.cmpgti g n d a i) s = .next (emit 1 (predBit d (decide ((imm10v s i).toInt < (rdS s a).toInt))) s) ∧
  exec (.cmpgei g n d a i) s = .next (emit 1 (predBit d (decide ((imm10v s i).toInt ≤ (rdS s a).toInt))) s) ∧
  exec (.cmpltui g n d a i) s = .next (emit 1 (predBit d (decide ((rdS s a).toNat < (imm10v s i).toNat))) s) ∧
  exec (.cmpgtui g n d a i) s = .next (emit 1 (predBit d (decide ((imm10v s i).toNat < (rdS s a).toNat))) s) ∧
  exec (.pand g n d a b) s = .next (emit 1 (predBit d (rdP s a && rdP s b)) s) ∧
  exec (.por g n d a b) s = .next (emit 1 (predBit d (rdP s a || rdP s b)) s) ∧
  exec (.pxor g n d a b) s = .next (emit 1 (predBit d (rdP s a != rdP s b)) s) ∧
  exec (.pandn g n d a b) s = .next (emit 1 (predBit d (rdP s a && !rdP s b)) s) ∧
  exec (.pnot g n d a) s = .next (emit 1 (predBit d (!rdP s a)) s) ∧
  exec (.pwr g n a) s = .next (emit 1 (.p 0xFE ((rdS s a).setWidth 8)) s)

/-- Floating-point arithmetic of the vector clusters completes (R96, R97, R99). -/
def Obligations.VectorArithmeticForms : Prop :=
  ∀ (s : State) (g h d a b k : Nat), fpRm s < 5 →
  let x := fun c l => fin32 (exposed s) (vlane s c a l)
  let y := fun c l => fin32 (exposed s) (vlane s c b l)
  let z := fun c l => fin32 (exposed s) (vlane s c d l)
  exec (.vfadd g h d a b k) s = .next (vfloat 4 g d (decide (fpRm s = 4)) 1 (fun c l w => round32 (exposed s) (fpRm s) (addN (x c l) (y c l) (decide (fpRm s = 3))) w) s) ∧
  exec (.vfsub g h d a b k) s = .next (vfloat 4 g d (decide (fpRm s = 4)) 1 (fun c l w => round32 (exposed s) (fpRm s) (addN (x c l) (y c l).negate (decide (fpRm s = 3))) w) s) ∧
  exec (.vfmul g h d a b k) s = .next (vfloat 4 g d (decide (fpRm s = 4)) 1 (fun c l w => round32 (exposed s) (fpRm s) (mulN (x c l) (y c l)) w) s) ∧
  exec (.vfdiv g h d a b k) s = .next (vfloat 8 g d (decide (fpRm s = 4)) 1 (fun c l w => round32 (exposed s) (fpRm s) (divN (x c l) (y c l)) w) s) ∧
  exec (.vfsqrt g h d a) s = .next (vfloat 8 g d (decide (fpRm s = 4)) 1 (fun c l w => round32 (exposed s) (fpRm s) (sqrtN (x c l)) w) s) ∧
  exec (.vfrcp g h d a) s = .next (vfloat 8 g d (decide (fpRm s = 4)) 1 (fun c l w => round32 (exposed s) (fpRm s) (divN (.fin false 1 0 false) (x c l)) w) s) ∧
  exec (.vfrsq g h d a) s = .next (vfloat 8 g d (decide (fpRm s = 4)) 1 (fun c l w => round32 (exposed s) (fpRm s) (rsqrtN (x c l)) w) s) ∧
  exec (.vfma g h d a b k) s = .next (vfloat 4 g d (decide (fpRm s = 4)) 2 (fun c l w => round32 (exposed s) (fpRm s) (fmaN false false (x c l) (y c l) (z c l) (decide (fpRm s = 3))) w) s) ∧
  exec (.vfms g h d a b k) s = .next (vfloat 4 g d (decide (fpRm s = 4)) 2 (fun c l w => round32 (exposed s) (fpRm s) (fmaN false true (x c l) (y c l) (z c l) (decide (fpRm s = 3))) w) s) ∧
  exec (.vfnma g h d a b k) s = .next (vfloat 4 g d (decide (fpRm s = 4)) 2 (fun c l w => round32 (exposed s) (fpRm s) (fmaN true false (x c l) (y c l) (z c l) (decide (fpRm s = 3))) w) s) ∧
  exec (.vfnms g h d a b k) s = .next (vfloat 4 g d (decide (fpRm s = 4)) 2 (fun c l w => round32 (exposed s) (fpRm s) (fmaN true true (x c l) (y c l) (z c l) (decide (fpRm s = 3))) w) s)

/-- Minimum, maximum, sign, transcendental and compare instructions complete (R96, R98, R100, R101). The values of VEXP2,
VLOG2, VEXP, VLN, VTANH and VSIGM are the model's series taken as R100's exact value (DEDUCED, log 11); what counts as
a lane operation is log 122's (DEDUCED). -/
def Obligations.VectorQuietForms : Prop :=
  ∀ (s : State) (g h d a b k : Nat),
  let x := fun c l => fin32 (exposed s) (vlane s c a l)
  let y := fun c l => fin32 (exposed s) (vlane s c b l)
  (fpRm s < 5 → exec (.vfmin g h d a b k) s = .next (vfloat 4 g d false 1 (fun c l w => ⟨pick32 false (exposed s) (vlane s c a l) (vlane s c b l), flNone, w⟩) s) ∧
  exec (.vfmax g h d a b k) s = .next (vfloat 4 g d false 1 (fun c l w => ⟨pick32 true (exposed s) (vlane s c a l) (vlane s c b l), flNone, w⟩) s) ∧
  exec (.vfminn g h d a b k) s = .next (vfloat 4 g d false 1 (fun c l w => ⟨pickN32 false (exposed s) (vlane s c a l) (vlane s c b l), flNone, w⟩) s) ∧
  exec (.vfmaxn g h d a b k) s = .next (vfloat 4 g d false 1 (fun c l w => ⟨pickN32 true (exposed s) (vlane s c a l) (vlane s c b l), flNone, w⟩) s)) ∧
  exec (.vfabs g h d a) s = .next (vfloat 1 g d false 1 (fun c l w => ⟨signOp (exposed s) false (vlane s c a l), flNone, w⟩) s) ∧
  exec (.vfneg g h d a) s = .next (vfloat 1 g d false 1 (fun c l w => ⟨signOp (exposed s) true (vlane s c a l), flNone, w⟩) s) ∧
  exec (.vexp2 g h d a) s = .next (vfloat 8 g d false 1 (fun c l w => round32 (exposed s) 0 (exp2N (x c l)) w) s) ∧
  exec (.vlog2 g h d a) s = .next (vfloat 8 g d false 1 (fun c l w => round32 (exposed s) 0 (logN true (x c l)) w) s) ∧
  exec (.vexp g h d a) s = .next (vfloat 8 g d false 1 (fun c l w => round32 (exposed s) 0 (expN (x c l)) w) s) ∧
  exec (.vln g h d a) s = .next (vfloat 8 g d false 1 (fun c l w => round32 (exposed s) 0 (logN false (x c l)) w) s) ∧
  exec (.vtanh g h d a) s = .next (vfloat 8 g d false 1 (fun c l w => round32 (exposed s) 0 (tanhN (x c l)) w) s) ∧
  exec (.vsigm g h d a) s = .next (vfloat 8 g d false 1 (fun c l w => round32 (exposed s) 0 (sigmN (x c l)) w) s) ∧
  exec (.vfceq g h d a b k) s = .next (mputBits 4 g d (fun c l => decide (x c l ≠ .nan ∧ y c l ≠ .nan) && decide (cmpN (x c l) (y c l) = 0)) (eachCluster (fun c t => cntEv 0x1B (activeN (rdM s c g)) (cntEv 0x1A (activeN (rdM s c g)) t)) s)) ∧
  exec (.vfcne g h d a b k) s = .next (mputBits 4 g d (fun c l => !(decide (x c l ≠ .nan ∧ y c l ≠ .nan) && decide (cmpN (x c l) (y c l) = 0))) (eachCluster (fun c t => cntEv 0x1B (activeN (rdM s c g)) (cntEv 0x1A (activeN (rdM s c g)) t)) s)) ∧
  exec (.vfclt g h d a b k) s = .next (mputBits 4 g d (fun c l => decide (x c l ≠ .nan ∧ y c l ≠ .nan) && decide (cmpN (x c l) (y c l) < 0)) (eachCluster (fun c t => cntEv 0x1B (activeN (rdM s c g)) (cntEv 0x1A (activeN (rdM s c g)) t)) s)) ∧
  exec (.vfcle g h d a b k) s = .next (mputBits 4 g d (fun c l => decide (x c l ≠ .nan ∧ y c l ≠ .nan) && decide (cmpN (x c l) (y c l) ≤ 0)) (eachCluster (fun c t => cntEv 0x1B (activeN (rdM s c g)) (cntEv 0x1A (activeN (rdM s c g)) t)) s)) ∧
  exec (.vfcun g h d a b k) s = .next (mputBits 4 g d (fun c l => decide (x c l = .nan ∨ y c l = .nan)) (eachCluster (fun c t => cntEv 0x1B (activeN (rdM s c g)) (cntEv 0x1A (activeN (rdM s c g)) t)) s))

/-- Lane reductions complete (R102, R103). -/
def Obligations.LaneReductionForms : Prop :=
  ∀ (s : State) (g h d a : Nat),
  exec (.vfrsum g h d a) s = .next (vreduce 16 g d 1 (fun c => tree16 (sumNode (exposed s)) ((laneOpts s c g a).map (fun o => o.map (fun v => (v, flNone))))) s) ∧
  exec (.vfrmax g h d a) s = .next (vreduce 16 g d 1 (fun c => (tree16 (pick32 true (exposed s)) (laneOpts s c g a)).map (fun v => (v, flNone))) s) ∧
  exec (.vfrmin g h d a) s = .next (vreduce 16 g d 1 (fun c => (tree16 (pick32 false (exposed s)) (laneOpts s c g a)).map (fun v => (v, flNone))) s) ∧
  exec (.virsum g h d a) s = .next (vreduce 4 g d 0 (fun c => (tree16 (fun u v => u + v) (laneOpts s c g a)).map (fun v => (v, flNone))) s) ∧
  exec (.virmax g h d a) s = .next (vreduce 4 g d 0 (fun c => (tree16 (fun u v => if v.toInt ≤ u.toInt then u else v) (laneOpts s c g a)).map (fun v => (v, flNone))) s) ∧
  exec (.virmin g h d a) s = .next (vreduce 4 g d 0 (fun c => (tree16 (fun u v => if u.toInt ≤ v.toInt then u else v) (laneOpts s c g a)).map (fun v => (v, flNone))) s) ∧
  exec (.virmaxu g h d a) s = .next (vreduce 4 g d 0 (fun c => (tree16 (fun u v => if v.toNat ≤ u.toNat then u else v) (laneOpts s c g a)).map (fun v => (v, flNone))) s) ∧
  exec (.virminu g h d a) s = .next (vreduce 4 g d 0 (fun c => (tree16 (fun u v => if u.toNat ≤ v.toNat then u else v) (laneOpts s c g a)).map (fun v => (v, flNone))) s)

/-- Lane integer instructions complete with the results of Table 5-5 (R104, R105). -/
def Obligations.LaneIntegerForms : Prop :=
  ∀ (s : State) (g h d a b k i : Nat),
  exec (.vadd g h d a b k) s = .next (vput 1 g d (fun c l => vlane s c a l + vlane s c b l) s) ∧
  exec (.vsub g h d a b k) s = .next (vput 1 g d (fun c l => vlane s c a l - vlane s c b l) s) ∧
  exec (.vmul g h d a b k) s = .next (vput 1 g d (fun c l => vlane s c a l * vlane s c b l) s) ∧
  exec (.vmulh g h d a b k) s = .next (vput 1 g d (fun c l => BitVec.ofInt 32 ((vlane s c a l).toInt * (vlane s c b l).toInt / 2 ^ 32)) s) ∧
  exec (.vmulhu g h d a b k) s = .next (vput 1 g d (fun c l => BitVec.ofNat 32 ((vlane s c a l).toNat * (vlane s c b l).toNat / 2 ^ 32)) s) ∧
  exec (.vadds g h d a b k) s = .next (vput 1 g d (fun c l => BitVec.ofInt 32 (max (-(2 ^ 31)) (min (2 ^ 31 - 1) ((vlane s c a l).toInt + (vlane s c b l).toInt)))) s) ∧
  exec (.vsubs g h d a b k) s = .next (vput 1 g d (fun c l => BitVec.ofInt 32 (max (-(2 ^ 31)) (min (2 ^ 31 - 1) ((vlane s c a l).toInt - (vlane s c b l).toInt)))) s) ∧
  exec (.vaddsu g h d a b k) s = .next (vput 1 g d (fun c l => BitVec.ofNat 32 (min (2 ^ 32 - 1) ((vlane s c a l).toNat + (vlane s c b l).toNat))) s) ∧
  exec (.vand g h d a b k) s = .next (vput 1 g d (fun c l => vlane s c a l &&& vlane s c b l) s) ∧
  exec (.vor g h d a b k) s = .next (vput 1 g d (fun c l => vlane s c a l ||| vlane s c b l) s) ∧
  exec (.vxor g h d a b k) s = .next (vput 1 g d (fun c l => vlane s c a l ^^^ vlane s c b l) s) ∧
  exec (.vandn g h d a b k) s = .next (vput 1 g d (fun c l => vlane s c a l &&& ~~~(vlane s c b l)) s) ∧
  exec (.vshl g h d a b k) s = .next (vput 1 g d (fun c l => vlane s c a l <<< fld (vlane s c b l) 4 0) s) ∧
  exec (.vshr g h d a b k) s = .next (vput 1 g d (fun c l => vlane s c a l >>> fld (vlane s c b l) 4 0) s) ∧
  exec (.vsar g h d a b k) s = .next (vput 1 g d (fun c l => (vlane s c a l).sshiftRight (fld (vlane s c b l) 4 0)) s) ∧
  exec (.vror g h d a b k) s = .next (vput 1 g d (fun c l => (vlane s c a l).rotateRight (fld (vlane s c b l) 4 0)) s) ∧
  exec (.vmin g h d a b k) s = .next (vput 1 g d (fun c l => if (vlane s c a l).toInt ≤ (vlane s c b l).toInt then vlane s c a l else vlane s c b l) s) ∧
  exec (.vmax g h d a b k) s = .next (vput 1 g d (fun c l => if (vlane s c b l).toInt ≤ (vlane s c a l).toInt then vlane s c a l else vlane s c b l) s) ∧
  exec (.vminu g h d a b k) s = .next (vput 1 g d (fun c l => if (vlane s c a l).toNat ≤ (vlane s c b l).toNat then vlane s c a l else vlane s c b l) s) ∧
  exec (.vmaxu g h d a b k) s = .next (vput 1 g d (fun c l => if (vlane s c b l).toNat ≤ (vlane s c a l).toNat then vlane s c a l else vlane s c b l) s) ∧
  exec (.vclz g h d a) s = .next (vput 1 g d (fun c l => BitVec.ofNat 32 (clzN 32 (vlane s c a l).toNat)) s) ∧
  exec (.vpopc g h d a) s = .next (vput 1 g d (fun c l => BitVec.ofNat 32 (popN 32 (vlane s c a l).toNat)) s) ∧
  exec (.vabs g h d a) s = .next (vput 1 g d (fun c l => if (vlane s c a l).toInt < 0 then -(vlane s c a l) else vlane s c a l) s) ∧
  exec (.vaddi g h d a i) s = .next (vput 1 g d (fun c l => vlane s c a l + imm10w s i) s) ∧
  exec (.vandi g h d a i) s = .next (vput 1 g d (fun c l => vlane s c a l &&& imm10w s i) s) ∧
  exec (.vori g h d a i) s = .next (vput 1 g d (fun c l => vlane s c a l ||| imm10w s i) s) ∧
  exec (.vxori g h d a i) s = .next (vput 1 g d (fun c l => vlane s c a l ^^^ imm10w s i) s) ∧
  exec (.vshli g h d a i) s = .next (vput 1 g d (fun c l => vlane s c a l <<< fld (imm10w s i) 4 0) s) ∧
  exec (.vshri g h d a i) s = .next (vput 1 g d (fun c l => vlane s c a l >>> fld (imm10w s i) 4 0) s) ∧
  exec (.vsari g h d a i) s = .next (vput 1 g d (fun c l => (vlane s c a l).sshiftRight (fld (imm10w s i) 4 0)) s) ∧
  exec (.vmovi g d i) s = .next (vput 1 g d (fun _ _ => imm10w s i) s)

/-- Integer compares and mask operations complete (R106, R107). -/
def Obligations.MaskForms : Prop :=
  ∀ (s : State) (g h d a b k : Nat),
  exec (.vceq g h d a b k) s = .next (mputBits 1 g d (fun c l => decide (vlane s c a l = vlane s c b l)) s) ∧
  exec (.vcne g h d a b k) s = .next (mputBits 1 g d (fun c l => decide (vlane s c a l ≠ vlane s c b l)) s) ∧
  exec (.vclt g h d a b k) s = .next (mputBits 1 g d (fun c l => decide ((vlane s c a l).toInt < (vlane s c b l).toInt)) s) ∧
  exec (.vcle g h d a b k) s = .next (mputBits 1 g d (fun c l => decide ((vlane s c a l).toInt ≤ (vlane s c b l).toInt)) s) ∧
  exec (.vcltu g h d a b k) s = .next (mputBits 1 g d (fun c l => decide ((vlane s c a l).toNat < (vlane s c b l).toNat)) s) ∧
  exec (.vcleu g h d a b k) s = .next (mputBits 1 g d (fun c l => decide ((vlane s c a l).toNat ≤ (vlane s c b l).toNat)) s) ∧
  exec (.mand g d a b) s = .next (mputBits 1 g d (fun c l => bitAt (rdM s c a) l && bitAt (rdM s c b) l) s) ∧
  exec (.mor g d a b) s = .next (mputBits 1 g d (fun c l => bitAt (rdM s c a) l || bitAt (rdM s c b) l) s) ∧
  exec (.mxor g d a b) s = .next (mputBits 1 g d (fun c l => bitAt (rdM s c a) l != bitAt (rdM s c b) l) s) ∧
  exec (.mandn g d a b) s = .next (mputBits 1 g d (fun c l => bitAt (rdM s c a) l && !bitAt (rdM s c b) l) s) ∧
  exec (.mnot g d a) s = .next (mputBits 1 g d (fun c l => !bitAt (rdM s c a) l) s)

/-- Generator, pattern, ring and lane moves complete (R111, R112, R114, R115). -/
def Obligations.LaneMoveForms : Prop :=
  ∀ (s : State) (g h d a l i : Nat),
  exec (.vgrd g d) s = .next (vput 1 g d (fun c l => genOf s (16 * c + l)) s) ∧
  exec (.vseed g a) s = .next (putGens g (fun c l => seedState (rdS s a) (16 * c + l)) s) ∧
  exec (.vgwr g h a) s = .next (putGens g (fun c l => if vlane s c a l = 0 then 1 else vlane s c a l) s) ∧
  exec (.vshuf g h d a i) s = .next (vput 2 g d (fun c l => if patSel s (imm10n s i % 64) l < 16 then vlane s c a (patSel s (imm10n s i % 64) l)
      else vlane s c d (patSel s (imm10n s i % 64) l - 16)) s) ∧
  exec (.xcopy g h d a i) s = .next (vput (2 + min (imm10n s i % 8) (8 - imm10n s i % 8)) g d (fun c l => vlane s ((c + imm10n s i % 8) % 8) a l) s) ∧
  exec (.vbcs g d a) s = .next (vput 1 g d (fun _ _ => (rdS s a).setWidth 32) s) ∧
  exec (.vs2m g d a) s = .next (mputBits 1 g d (fun _ l => bitAt (rdS s a) l) s) ∧
  exec (.viota g d) s = .next (vput 1 g d (fun c l => BitVec.ofNat 32 (16 * c + l)) s) ∧
  exec (.vext g h d a l) s = .next (eachCluster (fun c t => if bitAt (rdM s c g) l then emit 1 (.s d ((vlane s c a l).setWidth 64)) t else t) s) ∧
  exec (.vm2s g d a) s = .next (eachCluster (fun c t => if rdM s c g ≠ 0 then emit 1 (.s d ((rdM s c a).setWidth 64)) t else t) s) ∧
  exec (.vins g d a l) s = .next (eachCluster (fun c => emit 1 (.v c d (rdM s c g &&& BitVec.ofNat 16 (2 ^ l))
      (onLanes (rdM s c g &&& BitVec.ofNat 16 (2 ^ l)) (fun _ => (rdS s a).setWidth 32)))) s) ∧
  exec (.vpld g h a i) s = .next (eachCluster (fun c => onVec (fun v => { v with pat := (List.range 16).foldl (fun m l =>
      if bitAt (rdM s c g) l then mput m (16 * (imm10n s i % 64) + l) ((vlane s c a l).setWidth 5) else m) v.pat })) s)

/-- VCVT, VQSC and VQEL complete on legal formats (R108, R109, R110). VQEL and VQEL.SR of a container wider than 32 bits
write its low 32 bits, which is the model's choice (DESIGN CHOICE, log 126), and what counts as a lane operation is
log 122's (DEDUCED). -/
def Obligations.ConversionForms : Prop :=
  ∀ (s : State) (g h d a b k i : Nat),
  let e := fun (n : Nat) => fmtOf (ftabWord s n)
  let conv := fun (mode : Nat) => vfloat 3 g d (decide (mode = 4)) 0 (fun c l w =>
    let x := finF (exposed s) (e (imm10n s i % 16)) ((vlane s c a l).toNat % 2 ^ (e (imm10n s i % 16)).cont)
    let r := encodeF (e (imm10n s i / 16 % 16)) x mode w
    let o := foutF (exposed s) (e (imm10n s i / 16 % 16)) r.1 r.2.1
    ⟨BitVec.ofNat 32 o.1, o.2, r.2.2⟩) s
  let elem := fun (mode : Nat) => vfloat 3 g d (decide (mode = 4)) 0 (fun c l w =>
    let r := mxElem (e (3 + i)) (fld (vlane s c b l) 7 0) (fin32 (exposed s) (vlane s c a l)) mode w
    let o := foutF (exposed s) (e (3 + i)) r.1 r.2.1
    ⟨BitVec.ofNat 32 o.1, o.2, r.2.2⟩) s
  (elemLegal (e (imm10n s i % 16)) = true → elemLegal (e (imm10n s i / 16 % 16)) = true →
    (e (imm10n s i % 16)).cont ≤ 32 → (e (imm10n s i / 16 % 16)).cont ≤ 32 →
    exec (.vcvtRne g h d a i) s = .next (conv 0) ∧ exec (.vcvtRtz g h d a i) s = .next (conv 1) ∧
    exec (.vcvtSr g h d a i) s = .next (conv 4) ∧
    (fpRm s < 5 → exec (.vcvtDyn g h d a i) s = .next (conv (fpRm s)))) ∧
  (elemLegal (e (imm10n s i % 16)) = true →
    exec (.vqsc g h d a i) s = .next (vfloat 3 g d false 0 (fun c l w =>
      match fin32 (exposed s) (vlane s c a l) with
      | .nan => ⟨255, flIV, w⟩
      | .inf _ => ⟨254, flNone, w⟩
      | .fin n m z t => if m = 0 then ⟨0, flNone, w⟩ else
          ⟨BitVec.ofNat 32 (max 0 (min 254 (log2N (.fin n m z t) - mxEmax (e (imm10n s i % 16)) + 127))).toNat, flNone, w⟩) s)) ∧
  (elemLegal (e (3 + i)) = true →
    exec (.vqel g h d a b k i) s = .next (elem 0) ∧ exec (.vqelSr g h d a b k i) s = .next (elem 4))

/-- Transfers, loop counters and the timing mode complete (R82, R83, R86, R88, R89). -/
def Obligations.ControlTransferForms : Prop :=
  ∀ (s : State) (g n d a m disp : Nat), guardOk g n s = true →
  let go := fun (t : Word) (u : State) => exitLoops t (cntEv 0x10 1 (onIss (fun i => { i with npc := t, taken := true }) u))
  let link := emit 1 (.a 14 s.core.iss.seq) s
  (s.core.sc.loops.all (fun l => decide (l.last ≠ s.core.iss.pc)) = true →
    exec (.br g n disp) s = .next (go (s.core.iss.pc + BitVec.ofInt 64 (sgn 22 disp * 4)) s) ∧
    exec (.call g n disp) s = .next (go (s.core.iss.pc + BitVec.ofInt 64 (sgn 22 disp * 4)) link) ∧
    ((rdA s a).toNat % 4 = 0 →
      exec (.jmp g n a) s = .next (go (rdA s a) s) ∧ exec (.callr g n a) s = .next (go (rdA s a) link)) ∧
    ((rdA s 14).toNat % 4 = 0 → exec (.ret g n) s = .next (go (rdA s 14) s))) ∧
  exec (.mtlc g n d a) s = .next (onSc (fun c => { c with lc := mset 0 c.lc d (rdS s a) }) s) ∧
  exec (.mflc g n d a) s = .next (emit 1 (.s d (rdLc s a)) s) ∧
  (s.core.ctl = false →
    exec (.lmode g n m) s = .next (emit 1 (.mode ((modeNext s &&& 0xF8) ||| BitVec.ofNat 8 (m % 2))) s) ∧
    exec (.lmodeL g n m) s = .next (emit 1 (.mode ((modeNext s &&& 0xF9) ||| BitVec.ofNat 8 (2 + 4 * (m % 2)))) s))

/-- LOOP with a count pushes its body and continues in sequence (R84, R89, R126). -/
def Obligations.LoopStartsItsBody : Prop :=
  ∀ (s u : State) (g n d a i : Nat) (last : Word) (h : W32) (starts : List Word), guardOk g n s = true →
  s.core.sc.loops.all (fun l => decide (l.k ≠ d) && decide (l.last ≠ s.core.iss.pc)) = true →
  (rdS s a = 0 ∨ (bitAt (modeNext s) 1 && bitAt (modeNext s) 3) = false) →
  (remaining s).any (fun k => decide (k < imm10n s i)) = false →
  bodyEnd (s.core.sc.loops.head?.map LoopEnt.last) [] (imm10n s i - 1) s.core.iss.seq s = (.ok last h starts, u) →
  (rdS s a ≠ 0 → ∃ t, exec (.loop g n d a i) s = .next t ∧
    t.core.sc.loops = ⟨d, s.core.iss.seq, last, starts.length, [], starts⟩ :: u.core.sc.loops ∧ rdLc t d = rdS s a ∧ t.core.iss.npc = u.core.iss.npc ∧
    t.core.pend = (if bitAt (modeNext u) 1 then
      (emit 1 (.mode (modeAtLoop (u.core.sc.loops.length + 1) (modeNext u))) u).core.pend else u.core.pend)) ∧
  (rdS s a = 0 → exec (.loop g n d a i) s = .next (endSteps last (cntEv 0x10 1
    (onIss (fun x => { x with npc := last + wd (4 + 4 * popN 14 h.toNat), taken := true })
      (onSc (fun c => { c with lc := mset 0 c.lc d 0 }) u)))))

/-- Device-memory loads complete with the bytes at the translated address (R136, R138, R222, R231, R348, R393). A reply of
another package is an input of the model (log 30). -/
def Obligations.DeviceLoadForms : Prop :=
  ∀ (s u : State) (g n d r o sz a e x : Nat), guardOk g n s = true →
  let ea := rdA s r + BitVec.ofInt 64 (sgn 12 o * (sz : Int))
  ea.toNat % sz = 0 → transCore .rd ea s = (.ok a e, u) →
  let lat := if s.core.ctl then Config.devLatCtl else Config.devLat
  let gives := fun (bs : List Byte) (ok : State → Prop) =>
    (sz = 1 → ∃ v, ok v ∧ exec (.ldb g n d r o) s = .next (emit lat (.s d (sextW 8 (leNat bs))) v)) ∧
    (sz = 1 → ∃ v, ok v ∧ exec (.ldbu g n d r o) s = .next (emit lat (.s d (wd (leNat bs))) v)) ∧
    (sz = 2 → ∃ v, ok v ∧ exec (.ldh g n d r o) s = .next (emit lat (.s d (sextW 16 (leNat bs))) v)) ∧
    (sz = 2 → ∃ v, ok v ∧ exec (.ldhu g n d r o) s = .next (emit lat (.s d (wd (leNat bs))) v)) ∧
    (sz = 4 → ∃ v, ok v ∧ exec (.ldw g n d r o) s = .next (emit lat (.s d (sextW 32 (leNat bs))) v)) ∧
    (sz = 4 → ∃ v, ok v ∧ exec (.ldwu g n d r o) s = .next (emit lat (.s d (wd (leNat bs))) v)) ∧
    (sz = 8 → ∃ v, ok v ∧ exec (.ldd g n d r o) s = .next (emit lat (.s d (wd (leNat bs))) v)) ∧
    (sz = 8 → ∃ v, ok v ∧ exec (.lda g n d r o) s = .next (emit lat (.a d (wd (leNat bs))) v))
  (paOf a / 2 ^ 39 ≠ 1 → retired s a = false → pairTorn s a = false →
    (pkgOf a = s.ctl.pkgNum →
      (e / 2 ^ 9 % 2 = 0 → gives (match if s.core.ctl then none else mfind? s.core.cm.rc (lineOf a) with
        | some v => (v.drop (a % 64)).take sz
        | none => memBytes s.mem a sz) (Claims.onlyCaches s)) ∧
      (e / 2 ^ 9 % 2 = 1 → gives (memBytes s.mem a sz) (Claims.onlyCaches s))) ∧
    (pkgOf a ≠ s.ctl.pkgNum → s.core.cm.rem = some (some (some x)) →
      gives (leBytes sz x) (fun v => ∃ w, Claims.onlyCaches s w ∧ v = onCm (fun c => { c with rem := none }) w))) ∧
  (paOf a / 2 ^ 39 = 1 →
    (sz = 8 → gives (leBytes 8 (regRead s (paOf a % 2 ^ 39)).toNat) (Claims.onlyCaches s)) ∧
    (sz = 1 → exec (.ldb g n d r o) s = .next (trap cALIGN 0 ea u)) ∧
    (sz = 1 → exec (.ldbu g n d r o) s = .next (trap cALIGN 0 ea u)) ∧
    (sz = 2 → exec (.ldh g n d r o) s = .next (trap cALIGN 0 ea u)) ∧
    (sz = 2 → exec (.ldhu g n d r o) s = .next (trap cALIGN 0 ea u)) ∧
    (sz = 4 → exec (.ldw g n d r o) s = .next (trap cALIGN 0 ea u)) ∧
    (sz = 4 → exec (.ldwu g n d r o) s = .next (trap cALIGN 0 ea u)))

/-- Device-memory stores complete and change only their bytes (R136, R138, R222, R228, R241, R262, R348, R375, R393). -/
def Obligations.DeviceStoreForms : Prop :=
  ∀ (s u : State) (g n d r o sz a e : Nat), guardOk g n s = true →
  let ea := rdA s r + BitVec.ofInt 64 (sgn 12 o * (sz : Int))
  ea.toNat % sz = 0 → transCore .wr ea s = (.ok a e, u) → hazardAt s.core 3 ea.toNat (ea.toNat + sz) = none →
  let inArea := fun (x : Nat) => (s.ctl.caps ++ s.ctl.meas).any (fun p =>
    decide (own s p.2.base ≤ x ∧ x < own s p.2.base + cdiv (8 * p.2.n) 4096 * 4096 + 4096 * p.2.n))
  let all := fun (P : List Byte → Out → Prop) =>
    (sz = 1 → P (leBytes 1 (rdS s d).toNat) (exec (.stb g n d r o) s)) ∧
    (sz = 2 → P (leBytes 2 (rdS s d).toNat) (exec (.sth g n d r o) s)) ∧
    (sz = 4 → P (leBytes 4 (rdS s d).toNat) (exec (.stw g n d r o) s)) ∧
    (sz = 8 → P (leBytes 8 (rdS s d).toNat) (exec (.std g n d r o) s)) ∧
    (sz = 8 → P (leBytes 8 (rdA s d).toNat) (exec (.sta g n d r o) s))
  (paOf a / 2 ^ 39 ≠ 1 → retired s a = false →
    (paOf a / 2 ^ 39 = 0 → pkgOf a = s.ctl.pkgNum → writeRefused s s.focus a = false → a % 64 + sz ≤ 64 →
      all (fun bs x => ∃ t, x = .next t ∧ Claims.storeKeeps s t ∧
        (∀ i, i < sz → Claims.posByte s (a + i) = false → memByte t.mem (a + i) = BitVec.ofNat 8 (Claims.rzNat s (a + i) (nth 0 bs i).toNat)) ∧
        (∀ y, (y < a ∨ a + sz ≤ y ∨ Claims.posByte s y = true) → inArea y = false → memByte t.mem y = memByte s.mem y))) ∧
    (pkgOf a = s.ctl.pkgNum → writeRefused s s.focus a = true → all (fun _ x => ∃ t, x = .next t ∧ Claims.storeKeeps s t ∧ t.mem = s.mem ∧
      t.core.ev = { s.core.ev with late := s.core.ev.late ++ [⟨cENTRY, 0, ea, s.core.iss.pc, 3, s.core.iss.pc, 0⟩] })) ∧
    (pkgOf a ≠ s.ctl.pkgNum → all (fun bs x => ∃ t, x = .next t ∧ Claims.storeKeeps s t ∧ t.mem = s.mem ∧
      (deadDir u (pkgOf a) = none → ∃ e' k, t.net.pkts.getLast? =
        some ⟨pkgOf a, e', s.time, s.time, 0, k, .store s.focus (leafCls e) a bs (some (s.core.iss.pc, ea))⟩) ∧
      (deadDir u (pkgOf a) ≠ none → t.core.cm.fDead = true ∧ t.net.pkts = s.net.pkts)))) ∧
  (paOf a / 2 ^ 39 = 1 → all (fun bs x =>
    (sz ≠ 8 → x = .next (trap cALIGN 0 ea u)) ∧
    (sz = 8 → ∃ v, Claims.onlyCaches s v ∧ x = .next (if s.core.ctl then regWrite (paOf a % 2 ^ 39) (wd (leNat bs)) v else v))))

/-- Scratchpad loads complete with the bytes of the named buffer (R129, R131, R134, R135, R137). A mate's window read is
performed at the target in the same step (DEDUCED, log 125), in what the window port left in the cycle just passed
(DESIGN CHOICE, log 129). -/
def Obligations.ScratchpadLoadForms : Prop :=
  ∀ (s : State) (g n d r o sz : Nat), guardOk g n s = true → Claims.portsFree s →
  let ea := rdA s r + BitVec.ofInt 64 (sgn 12 o * (sz : Int))
  Claims.windowFree s ea sz →
  ea.toNat % sz = 0 → spadFault s 0 false ea sz [(0, sz)] = none → writesMet s (spRef s ea) sz = [] →
  let key := spadTarget s ea.toNat
  let own := s.core.pend.filterMap (fun p => match p.eff with | .stw b off x => some (StRec.mk 0 b off x) | _ => none)
  let bs := overlaySt (if key = s.focus ∧ bitAt ea 24 = true then own else []) (spRef s ea)
    (spadBytes (coreAt s key) (ea.toNat / 2 ^ 20 % 4) (ea.toNat % 2 ^ 20) sz)
  (sz = 1 → ∃ v, Claims.onlyPorts s v ∧ exec (.sldb g n d r o) s = .next (emit (if bitAt ea 24 then 8 else 4) (.s d (sextW 8 (leNat bs))) v)) ∧
  (sz = 1 → ∃ v, Claims.onlyPorts s v ∧ exec (.sldbu g n d r o) s = .next (emit (if bitAt ea 24 then 8 else 4) (.s d (wd (leNat bs))) v)) ∧
  (sz = 2 → ∃ v, Claims.onlyPorts s v ∧ exec (.sldh g n d r o) s = .next (emit (if bitAt ea 24 then 8 else 4) (.s d (sextW 16 (leNat bs))) v)) ∧
  (sz = 2 → ∃ v, Claims.onlyPorts s v ∧ exec (.sldhu g n d r o) s = .next (emit (if bitAt ea 24 then 8 else 4) (.s d (wd (leNat bs))) v)) ∧
  (sz = 4 → ∃ v, Claims.onlyPorts s v ∧ exec (.sldw g n d r o) s = .next (emit (if bitAt ea 24 then 8 else 4) (.s d (sextW 32 (leNat bs))) v)) ∧
  (sz = 4 → ∃ v, Claims.onlyPorts s v ∧ exec (.sldwu g n d r o) s = .next (emit (if bitAt ea 24 then 8 else 4) (.s d (wd (leNat bs))) v)) ∧
  (sz = 8 → ∃ v, Claims.onlyPorts s v ∧ exec (.sldd g n d r o) s = .next (emit (if bitAt ea 24 then 8 else 4) (.s d (wd (leNat bs))) v)) ∧
  (sz = 8 → ∃ v, Claims.onlyPorts s v ∧ exec (.slda g n d r o) s = .next (emit (if bitAt ea 24 then 8 else 4) (.a d (wd (leNat bs))) v))

/-- Scratchpad stores complete and write the named buffer (R129, R131, R134, R135, R137). A mate's window write is
performed at the target in the same step (DEDUCED, log 125), in what the window port left in the cycle just passed
(DESIGN CHOICE, log 129). -/
def Obligations.ScratchpadStoreForms : Prop :=
  ∀ (s : State) (g n d r o sz : Nat), guardOk g n s = true → Claims.portsFree s →
  let ea := rdA s r + BitVec.ofInt 64 (sgn 12 o * (sz : Int))
  Claims.windowFree s ea sz →
  let key := spadTarget s ea.toNat
  let b := ea.toNat / 2 ^ 20 % 4
  let off := ea.toNat % 2 ^ 20
  ea.toNat % sz = 0 → spadFault s 0 true ea sz [(0, sz)] = none → hazardAt (coreAt s key) b off (off + sz) = none →
  let put := fun (bs : List Byte) (x : Out) => ∃ v t, Claims.onlyPorts s v ∧ x = .next t ∧
    (ea.toNat / 2 ^ 24 % 2 = 0 → t = emit 1 (.st b off 0 bs) v) ∧
    (ea.toNat / 2 ^ 24 % 2 = 1 → key = s.focus → t = emit 1 (.stw b off bs) v) ∧
    (ea.toNat / 2 ^ 24 % 2 = 1 → key ≠ s.focus → t = onCoreAt key (asyncBytes s.time 2 s.focus [] b off bs) v ∧
      (∀ i, i < sz → (∀ w ∈ (coreAt s key).sp.cyc.wr, (coreAt s key).sp.cyc.at_ ≠ lastCycle s.time (coreAt s key) ∨ w.2.2.1 ≠ b) →
        spadByte (coreAt t key) b (off + i) = nth 0 bs i) ∧
      (∀ b' off', (b' ≠ b ∨ off' < off ∨ off + sz ≤ off') → spadByte (coreAt t key) b' off' = spadByte (coreAt s key) b' off'))
  (sz = 1 → put (leBytes 1 (rdS s d).toNat) (exec (.sstb g n d r o) s)) ∧
  (sz = 2 → put (leBytes 2 (rdS s d).toNat) (exec (.ssth g n d r o) s)) ∧
  (sz = 4 → put (leBytes 4 (rdS s d).toNat) (exec (.sstw g n d r o) s)) ∧
  (sz = 8 → put (leBytes 8 (rdS s d).toNat) (exec (.sstd g n d r o) s)) ∧
  (sz = 8 → put (leBytes 8 (rdA s d).toNat) (exec (.ssta g n d r o) s))

/-- Vector loads, stores, gathers and scatters complete in every buffer they reach (R129, R134, R135, R139, R140, R141). A
mate's window read is performed at the target in the same step (DEDUCED, log 125), in what the window port left in the
cycle just passed (DESIGN CHOICE, log 129); the bytes an access takes of its port are log 126's (DESIGN CHOICE). -/
def Obligations.VectorMemoryForms : Prop :=
  ∀ (s : State) (g h d a b k r o : Nat), Claims.portsFree s →
  let buf := fun (ea : Word) => ea.toNat / 2 ^ 20 % 4
  let off := fun (ea : Word) => ea.toNat % 2 ^ 20
  let plain := fun (agent : Nat) (wr : Bool) (lat : Word → Nat) (xs : List VAcc) =>
    (∀ x ∈ xs, alignedFault s agent wr x.ea x.size x.parts = none ∧ Claims.windowFree s x.ea x.size ∧
      (wr = false → writesMet s (spRef s x.ea) x.size = [] ∧
        (exposed s = false ∨ bankTaken s.core x.c d (s.core.now + lat x.ea - 1) = false)) ∧
      (wr = true → ∀ p ∈ x.parts, hazardAt s.core (buf x.ea) (off x.ea + p.1) (off x.ea + p.1 + p.2) = none)) ∧
    (∀ p, p < 48 → ((xs.filterMap (fun x => if bitAt x.ea 24 then none else portOf (buf x.ea) (off x.ea) x.size wr)).map
      (fun q => if q.1 = p then q.2 else 0)).sum ≤ portWidth p)
  let own := s.core.pend.filterMap (fun p => match p.eff with | .stw b off x => some (StRec.mk 0 b off x) | _ => none)
  let bytes := fun (ea : Word) (n : Nat) => let key := spadTarget s ea.toNat
    overlaySt (if key = s.focus ∧ bitAt ea 24 = true then own else []) (spRef s ea) (spadBytes (coreAt s key) (buf ea) (off ea) n)
  let line := fun (c : Nat) => rdA s r + BitVec.ofInt 64 (sgn 12 o * 64) + (if bitAt s.core.iss.hdr 15 then wd (64 * c) else 0)
  let lane := fun (c l : Nat) => (vlane s c a l).setWidth 64
  let latV := fun (ea : Word) => if bitAt ea 24 then 10 else 6
  let latG := fun (sz : Nat) => if (vgAccs g a sz s).any (fun x => bitAt x.ea 24) then 10 else 6
  let gath := fun (sz : Nat) (v : State) => (clusters s).foldl (fun t c => if rdM s c g = 0 then t else
    emit (latG sz) (.v c d (rdM s c g) (onLanes (rdM s c g) (fun l => BitVec.ofNat 32 (leNat (bytes (lane c l) sz))))) t) v
  let scat := fun (sz : Nat) (v : State) => (clusters s).foldl (fun t c => (List.range 16).foldl (fun t l =>
    if bitAt (rdM s c g) l then emit 1 (.st 1 (off (lane c l)) 0 (leBytes sz (vlane s c b l).toNat)) t else t) t) v
  (plain 1 false latV (vmAccs g r o s) → ∃ v, Claims.onlyPorts s v ∧ exec (.vld g d r o) s = .next ((clusters s).foldl (fun t c =>
    if rdM s c g = 0 then t else emit (latV (line c)) (.v c d (rdM s c g) (onLanes (rdM s c g) (fun l =>
      BitVec.ofNat 32 (leNat (((bytes (line c) 64).drop (4 * l)).take 4))))) t) v)) ∧
  (plain 1 true latV (vmAccs g r o s) → ∃ v, Claims.onlyPorts s v ∧ exec (.vst g h d r o) s = .next ((clusters s).foldl (fun t c =>
    (List.range 16).foldl (fun t l => if bitAt (rdM s c g) l then
      emit 1 (.st (buf (line c)) (off (line c) + 4 * l) 0 (leBytes 4 (vlane s c d l).toNat)) t else t) t) v)) ∧
  (plain 2 false (fun _ => latG 4) (vgAccs g a 4 s) → ∃ v, Claims.onlyPorts s v ∧ exec (.vgath g h d a) s = .next (gath 4 v)) ∧
  (plain 2 false (fun _ => latG 2) (vgAccs g a 2 s) → ∃ v, Claims.onlyPorts s v ∧ exec (.vgathh g h d a) s = .next (gath 2 v)) ∧
  (plain 2 false (fun _ => latG 1) (vgAccs g a 1 s) → ∃ v, Claims.onlyPorts s v ∧ exec (.vgathb g h d a) s = .next (gath 1 v)) ∧
  (plain 2 true latV (vgAccs g a 4 s) → ∃ v, Claims.onlyPorts s v ∧ exec (.vscat g h a b k) s = .next (scat 4 v)) ∧
  (plain 2 true latV (vgAccs g a 2 s) → ∃ v, Claims.onlyPorts s v ∧ exec (.vscath g h a b k) s = .next (scat 2 v)) ∧
  (plain 2 true latV (vgAccs g a 1 s) → ∃ v, Claims.onlyPorts s v ∧ exec (.vscatb g h a b k) s = .next (scat 1 v))

/-- Stream-buffer instructions complete (R142, R143, R144, R145, R146). -/
def Obligations.StreamBufferForms : Prop :=
  ∀ (s : State) (g n d a i : Nat) (h : Nat × Nat), guardOk g n s = true → s.core.ctl = false →
  (sbLegal false (rdS s a) = true → exec (.sbcfg g n d a) s =
    .next (setHandle d (s.core.num % 4, d) (sbChange (s.core.num % 4, d) (.cfg s.core.now (s.core.num % 4) (sbWord (rdS s a))) s))) ∧
  exec (.sbatt g n d a) s = .next (setHandle d (fld (rdS s a) 1 0, fld (rdS s a) 7 4) s) ∧
  (mfind? s.core.sb.hnd a = some h →
    let c := sbView s h
    exec (.sbrd g n d a) s = .next (emit 1 (.s d (wd (c.pp.toNat * 2 ^ 32 + c.cc.toNat))) s) ∧
    (c.v = true →
      exec (.sbadrp g n d a) s = .next (emit 1 (.a d (sbAddr s h c.buf (c.base + c.pp.toNat % c.cnt * c.sz))) s) ∧
      exec (.sbadrc g n d a) s = .next (emit 1 (.a d (sbAddr s h c.buf (c.base + c.cc.toNat % c.cnt * c.sz))) s))) ∧
  (mfind? s.core.sb.hnd d = some h → (sbView s h).v = true → imm10n s i ≤ (sbView s h).cnt →
    let c := sbView s h
    let filled := (c.pp - c.cc).toNat
    (s.core.num % 4 = c.cons → imm10n s i ≤ filled →
      exec (.sbwaitf g n d i) s = .next s ∧
      (imm10n s i ≠ 0 → exec (.sbadvc g n d i) s = .next (sbChange h (.advC s.core.now (s.core.num % 4) (imm10n s i)) s))) ∧
    (s.core.num % 4 = c.prod → imm10n s i ≤ c.cnt - filled →
      exec (.sbwaite g n d i) s = .next s ∧
      (imm10n s i ≠ 0 → exec (.sbadvp g n d i) s = .next (sbChange h (.advP s.core.now (s.core.num % 4) (imm10n s i)) s))))

/-- Copy commands are accepted, or turned away with 0 when the queue is full (R150, R153, R157, R164, R165, R166). -/
def Obligations.CopyCommandForms : Prop :=
  ∀ (s : State) (g n p r c t k x : Nat), guardOk g n s = true → Claims.portsFree s →
  ownLineFault false (rdA s r) 128 s = none → spadFault s 0 false (rdA s r) 128 [(0, 128)] = none →
  let desc := spadBytes s.core 1 ((rdA s r).toNat % 2 ^ 20) 128
  let d := cdOf desc
  let fs := ftabWord s d.fs
  let fd := ftabWord s d.fd
  let room := s.core.cp.cmds.length < 16 ∧ evRoom s.core = true
  let rs := d.ranges (fmtOf fs).cont (fmtOf fd).cont
  let accepts := fun (kind : CopyKind) (tgt : Nat) (o : Out) =>
    d.legal kind tgt fs fd (ftabWord s d.fsc) (d.rmNow (fpRm s)) = true → spadRefused s kind tgt rs = none →
    d.misaligned (fmtOf fs).cont (fmtOf fd).cont = none → rangesClash s kind tgt rs = false → d.spanOk (fmtOf fd).cont = true →
    copyPhase s kind tgt rs = none → copyAlias s kind tgt rs = none →
    let cmd := { newCmd kind t s with desc := desc, fs := fs, fd := fd, rm := d.rmNow (fpRm s), cb := c, tgt := tgt }
    (room → ∃ u, o = .next u ∧ Claims.sameButCp s u ∧ u.core.cp.cmds = s.core.cp.cmds ++ [cmd] ∧
      u.core.cp.resv = s.core.cp.resv + 1 ∧ u.core.pend = (emit 1 (predBit p true) s).core.pend ∧
      (d.nb = false → d.empty = false → ∀ i, i < (d.span (fmtOf fd).cont).2 → i < 256 → bitAt (cbOf u.core c) i = false)) ∧
    (¬ room → ∃ u, o = .next u ∧ Claims.sameButCp s u ∧ u.core.cp = s.core.cp ∧
      u.core.pend = (emit 1 (predBit p false) s).core.pend)
  accepts CopyKind.cpy 0 (exec (.cpy g n p r c t) s) ∧
  accepts CopyKind.cpya 0 (exec (.cpya g n p r c t) s) ∧
  accepts CopyKind.cpym k (exec (.cpym g n p r c t k) s) ∧
  (room → ∃ u, exec (.cpyq g n p x t) s = .next u ∧ Claims.sameButCp s u ∧
    u.core.cp.cmds = s.core.cp.cmds ++ [{ newCmd .cpyq t s with arg := rdS s x }] ∧ u.core.cp.resv = s.core.cp.resv + 1 ∧
    u.core.pend = (emit 1 (predBit p true) s).core.pend) ∧
  (¬ room → exec (.cpyq g n p x t) s = .next (emit 1 (predBit p false) s))

/-- Bitmap and event-queue instructions, and PREF, complete (R163, R164, R165, R225). -/
def Obligations.BitmapAndEventForms : Prop :=
  ∀ (s : State) (g n d k w x p b c t : Nat), guardOk g n s = true →
  let win : Word := BitVec.ofNat 64 ((cbOf s.core k).toNat / 2 ^ (64 * w))
  exec (.cbtest g n d k w x) s = .next (emit 1 (predBit d (decide (win &&& rdS s x = rdS s x))) s) ∧
  exec (.cbrd g n d k w) s = .next (emit 1 (.s d win) s) ∧
  exec (.cbclr g n k w x) s = .next (onCore (fun z => putCb k (cbOf z k &&&
    ~~~(BitVec.ofNat 256 ((rdS s x).toNat * 2 ^ (64 * w)))) z) s) ∧
  (exposed s = false → win &&& rdS s x = rdS s x → exec (.cbwait g n k w x) s = .next s) ∧
  (s.core.cp.evq = [] → exec (.evpop g n d p) s = .next (emit 1 (predBit p false) (emit 1 (.s d 0) s))) ∧
  (∀ e r, s.core.cp.evq = e :: r → ∃ v, Claims.onlyIss { s with core := { s.core with cp := { s.core.cp with evq := r } } } v ∧
    exec (.evpop g n d p) s = .next (emit 1 (predBit p true) (emit 1 (.s d e) v))) ∧
  ((rdS s b).toNat ≤ 2 ^ 30 → nonCanon (rdS s x).toNat = false → (rdS s x).toNat + (rdS s b).toNat ≤ 2 ^ 64 →
    (s.core.cp.cmds.length < 16 → evRoom s.core = true →
    ∃ u, exec (.pref g n p x b c t) s = .next u ∧ Claims.sameButCp s u ∧ u.core.cp.resv = s.core.cp.resv + 1 ∧
      u.core.cp.cmds = s.core.cp.cmds ++ [{ newCmd .pref t s with arg := rdS s x, arg2 := rdS s b, tgt := c }] ∧
      u.core.pend = (emit 1 (predBit p true) s).core.pend) ∧
    (¬ (s.core.cp.cmds.length < 16 ∧ evRoom s.core = true) → exec (.pref g n p x b c t) s = .next (emit 1 (predBit p false) s)))

/-- WLOAD, WSEL, MDRAIN, MSCALE and MHIST complete with their results (R174, R175, R176, R177, R180, R181, R182). -/
def Obligations.WeightAndDrainForms : Prop :=
  ∀ (s : State) (g n t x r f p a d : Nat), guardOk g n s = true →
  (let w := tdReg s t
   let fw := ftabWord s w.fmt
   let cs := (fmtOf fw).cont
   w.base < 2 ^ 19 → (w.mx = true → w.sbase < 2 ^ 19) → w.rows ≤ 128 → w.cols ≤ 128 → w.shapeOk cs = true →
   w.scaleOk (ftabWord s w.sfmt) = true → elemLegal (fmtOf fw) = true → tdRefused s [0] w cs w.mx = none →
   Claims.s12Clear s ⟨false, false, [p], tdRanges w cs w.mx, [], tdRuns w cs w.mx, []⟩ →
   ∃ k, exec (.wload g n t p) s = .next (onMx (fun m => { m with flight := m.flight ++ [k] }) s) ∧
     k.land = s.core.now + (8 * cs + 6) - 1 ∧ k.planeTill = [(p, s.core.now + (8 * cs + 6))] ∧ k.reads = tdRanges w cs w.mx ∧
     k.writes = [] ∧ k.out = [] ∧ k.hist = [] ∧ k.flags = flNone ∧ k.plane = [(p, loadPlane (withStores s.core) w fw 0 0)]) ∧
  (let dt := tdReg s t
   let ct := tdReg s x
   let df := fmtOf (ftabWord s dt.fmt)
   let cw := ftabWord s ct.fmt
   let cf := fmtOf cw
   let rm := if r = 7 then fpRm s else r
   let fz := decide (f % 2 = 1)
   let fh := decide (f / 2 % 2 = 1)
   let fq := decide (f / 4 % 2 = 1)
   let cr := tdRanges ct cf.cont false
   let wr := tdRanges dt df.cont fq ++ (if fz then cr else [])
   tdRefused s [2] ct cf.cont false = none → tdRefused s [0, 1] dt df.cont fq = none → ct.rows ≤ 128 → ct.cols ≤ 128 →
   (cw = fp32Word ∨ cw = fp64Word) → ct.shapeOk cf.cont = true → dt.rows = ct.rows → dt.cols = ct.cols →
   dt.shapeOk df.cont = true → elemLegal df = true → dt.mx = fq → (fq = true → dt.scaleOk (ftabWord s dt.sfmt) = true) →
   rm ≤ 4 → (fq = true → rm = 0 ∨ rm = 4) →
   Claims.s12Clear s ⟨false, true, [], cr, wr, tdRuns ct cf.cont false,
     tdRuns dt df.cont fq ++ (if fz then tdRuns ct cf.cont false else [])⟩ →
   let z := withStores s.core
   let cells := colOrder ct.rows ct.cols
   let v := fun i j => decodeF cf (bitsAt (bufRd z 2 ct.base) (ct.bitOff cf.cont i j) cf.cont)
   let y := fun i j => scaleN (v i j) (sgn 8 s.core.mx.dscl.toNat)
   let el := drainBits dt df (dt.base % 2 ^ 20) rm (if fq then some (fun i j => (blockScale df dt.rows dt.cols y i j).1) else none) y
     (gcolOf s.core) ⟨[], s.core.mx.gcol, flNone⟩
   let sc := if fq then drainScales dt df (dt.sbase % 2 ^ 20) y else ([], flNone)
   let zeros := if fz then cells.foldl (fun m q => putBits (8 * (ct.base % 2 ^ 20) + ct.bitOff cf.cont q.1 q.2) cf.cont 0 m) [] else []
   ∃ k, exec (.mdrain g n t x r f) s = .next (onMx (fun m => { m with gcol := el.gcol, flight := m.flight ++ [k] })
       (cntEv 0x1D (ct.rows * ct.cols) s)) ∧
     k.land = s.core.now + (ct.rows + (if fq then 26 else 10)) - 1 ∧ k.drainTill = k.land + 1 ∧ k.reads = cr ∧ k.writes = wr ∧
     k.out = spWrites (dt.base / 2 ^ 20) el.bits ++ spWrites (dt.sbase / 2 ^ 20) sc.1 ++ spWrites 2 zeros ∧ k.plane = [] ∧
     k.isH = fh ∧ k.hist = (if fh then (List.range 32).map (fun b =>
       (cells.filter (fun q => decide (histBin (sgn 8 s.core.mx.hbase.toNat) (v q.1 q.2) = b))).length) else []) ∧
     k.flags = el.fl ||| sc.2) ∧
  (teaselHolds s.core = false →
   exec (.wsel g n p) s = .next (onMx (fun m => { m with act := p }) s) ∧
   exec (.mscale g n a) s = .next (onMx (fun m => { m with dscl := (rdS s a).setWidth 8, hbase := BitVec.ofNat 8 (fld (rdS s a) 15 8) }) s) ∧
   (exposed s = true ∨ s.core.mx.flight.any (fun k => k.isH) = false →
    exec (.mhist g n d a) s = .next (emit 1 (.s d ((mget 0 s.core.mx.hist (fld (rdS s a) 4 0)).setWidth 64))
      (onMx (fun m => { m with hist := mset 0 m.hist (fld (rdS s a) 4 0) 0 }) s))))

/-- The MMA family completes: its result lands in the accumulator after the array's cycles (R174, R178, R179). -/
def Obligations.MatrixMultiplyForms : Prop :=
  ∀ (s : State) (g n a w c : Nat), guardOk g n s = true → Claims.matrixFree s →
  let m := mmaArgs s a w c
  let t0 := m.a.rows * bitsA (fmtOf m.aw) * slicesB (fmtOf m.pw)
  let wl := 8 * (fmtOf m.ww).cont
  let arr := m.nseg * (if 1 < m.nseg ∧ t0 < wl + 6 then wl + 6 else t0)
  let lands := fun (orient zero : Bool) (o : Out) => mmaLegal s orient m = true →
    ∃ u k, o = .next u ∧ k ∈ u.core.mx.flight ∧ k.land = s.core.now + (arr + 12) - 1 ∧
      k.out = spWrites 2 (mmaResult (withStores s.core) orient zero m).1 ∧
      k.flags = (mmaResult (withStores s.core) orient zero m).2 ∧ u.core.mx.act = (s.core.mx.act + (m.nseg - 1)) % 2 ∧
      u.mem = s.mem ∧ u.core.sc = s.core.sc ∧ u.core.vec = s.core.vec ∧ u.core.sp = s.core.sp ∧ u.core.pend = s.core.pend
  mmaProt s m = none →
  lands false false (exec (.mmaR g n a w c) s) ∧
  lands true false (exec (.mmaC g n a w c) s) ∧
  lands false true (exec (.mmazR g n a w c) s) ∧
  lands true true (exec (.mmazC g n a w c) s)

/-- Arena, home, seed, descriptor and state instructions of the thunk table complete (R186, R188, R190, R191, R207, R208). -/
def Obligations.ThunkConfigurationForms : Prop :=
  ∀ (s : State) (g n a b d v t r : Nat), guardOk g n s = true →
  (arenaLegal s.core (rdS s a) (rdS s b) = true →
    exec (.tcfg g n a b) s = .next (onTh (fun x => { x with arenaA := rdS s a, arenaB := rdS s b }) s)) ∧
  exec (.tseed g n a) s = .next (onTh (fun x => { x with seed := (rdS s a).setWidth 32 }) s) ∧
  (let h := rdTd s b
   let w := ftabWord s (tdOf h).fmt
   leafOk s (tdOf h) = true → leafProt s (tdOf h) = none → elemLegal (fmtOf w) = true →
   (∀ q, (tvOf s.core d).st = .pend q → arenaOn s.core = true →
     srcShape s.core (.node q) = ((tdOf h).rows, (tdOf h).cols) →
     exec (.thome g n d b) s = .next (onCore (putTv d ⟨.pend q, some (h, w)⟩) s)) ∧
   ((∀ q, (tvOf s.core d).st ≠ .pend q) → exec (.thome g n d b) s = .next (onCore (putTv d ⟨.homed, some (h, w)⟩) s))) ∧
  ((tvOf s.core d).st = .homed → exec (.thomex g n d) s = .next (onCore (putTv d ⟨.undef, none⟩) s)) ∧
  (∀ q, (tvOf s.core d).st = .pend q → exec (.thomex g n d) s = .next (onCore (putTv d ⟨.pend q, none⟩) s)) ∧
  exec (.tdrop g n d) s = .next (onCore (fun c => freeNodes (putTv d ⟨.undef, none⟩ c)) s) ∧
  exec (.tstat g n d v) s = .next (emit 1 (.s d (tstatWord s.core (tvOf s.core v))) s) ∧
  (Claims.portsFree s → (rdA s r).toNat % 32 = 0 → (rdA s r).toNat / 2 ^ 20 = 1 →
    let off := (rdA s r).toNat % 2 ^ 20
    (spadFault s 0 false (rdA s r) 32 [(0, 32)] = none → ∃ z, Claims.onlyIss s z ∧ exec (.tdcfg g n t r) s =
      .next (onMx (fun m => { m with td := mset 0 m.td t (BitVec.ofNat 256 (leNat (spadBytes s.core 1 off 32))) }) z)) ∧
    (spadFault s 0 true (rdA s r) 32 [(0, 32)] = none → ∃ z, Claims.onlyIss s z ∧ exec (.tdsav g n t r) s =
      .next (emit 1 (.st 1 off 0 (leBytes 32 (rdTd s t).toNat)) z)))

/-- TMM, TADD and TMUL record a node of the shape and class format the rules give (R192, R194, R195, R196). -/
def Obligations.ThunkNodesOfTwoSources : Prop :=
  ∀ (s : State) (g n d a b m : Nat) (x y : TSrc) (dx dy : Option TD), guardOk g n s = true →
  srcField s a = (some x, dx) → srcField s b = (some y, dy) →
  let node := fun (maj low : Nat) (xs : List TSrc) (rows cols : Nat) (w : W32) (mx : Bool) (mode : Nat) (m0 m1 : Word) =>
    ({ seq := s.core.th.nextSeq, word := tileWord maj g n d a low, pc := s.core.iss.pc, srcs := xs, map0 := m0, map1 := m1, rows := rows,
       cols := cols, fmt := w, mx := mx, mode := mode, seed := if mode = 4 then s.core.th.seed else 0, blks := [], perm := false } : TNode)
  let w := accWord (fmtOf (srcFmt s.core x).1).cont (fmtOf (srcFmt s.core y).1).cont
  let ready := Claims.tileReady s d [(some x, dx), (some y, dy)]
  let rec_ := fun (maj low rows cols : Nat) (o : Out) => ready rows cols →
    ∃ t, o = .next t ∧ Claims.recorded s t d (node maj low [x, y] rows cols w false 0 0 0)
  let (r1, c1) := srcShape s.core x
  let (r2, c2) := srcShape s.core y
  let fits := (m = 0 → r2 = r1 ∧ c2 = c1) ∧ (m = 1 → r2 = c1 ∧ c2 = r1) ∧ (m = 2 → r2 = 1 ∧ c2 = c1) ∧ (m = 3 → r2 = r1 ∧ c2 = 1)
  (c1 = r2 → rec_ 0x12 (4 * b) r1 c2 (exec (.tmm g n d a b 0) s)) ∧
  (c1 = c2 → rec_ 0x12 (4 * b + 1) r1 r2 (exec (.tmm g n d a b 1) s)) ∧
  (r1 = r2 → rec_ 0x12 (4 * b + 2) c1 c2 (exec (.tmm g n d a b 2) s)) ∧
  (m < 4 → fits → rec_ 0x13 (4 * b + m) r1 c1 (exec (.tadd g n d a b m) s)) ∧
  (m < 4 → fits → rec_ 0x14 (4 * b + m) r1 c1 (exec (.tmul g n d a b m) s))

/-- The thunk operations of one source record a node of the shape and format the rules give (R192, R194, R196, R197,
R198). -/
def Obligations.ThunkNodesOfOneSource : Prop :=
  ∀ (s : State) (g n d a f r k m o : Nat) (x : TSrc) (dx : Option TD), guardOk g n s = true → srcField s a = (some x, dx) →
  let node := fun (maj low : Nat) (xs : List TSrc) (rows cols : Nat) (w : W32) (mx : Bool) (mode : Nat) (m0 m1 : Word) =>
    ({ seq := s.core.th.nextSeq, word := tileWord maj g n d a low, pc := s.core.iss.pc, srcs := xs, map0 := m0, map1 := m1, rows := rows,
       cols := cols, fmt := w, mx := mx, mode := mode, seed := if mode = 4 then s.core.th.seed else 0, blks := [], perm := false } : TNode)
  let w := accWord (fmtOf (srcFmt s.core x).1).cont (fmtOf (srcFmt s.core x).1).cont
  let rec_ := fun (maj low rows cols : Nat) (w : W32) (mx : Bool) (mode : Nat) (m0 m1 : Word) (o : Out) =>
    Claims.tileReady s d [(some x, dx)] rows cols →
    ∃ t, o = .next t ∧ Claims.recorded s t d (node maj low [x] rows cols w mx mode m0 m1)
  let (r1, c1) := srcShape s.core x
  let fw := ftabWord s f
  let rm := if r = 7 then fpRm s else r
  let p := rdS s m
  let q := rdS s (m + 1)
  (f ≤ 6 → rec_ 0x15 f r1 c1 w false 0 0 0 (exec (.tact g n d a f) s)) ∧
  (elemLegal (fmtOf fw) = true → rm ≤ 4 → rec_ 0x16 (8 * f + r) r1 c1 fw false rm 0 0 (exec (.tcvt g n d a f r) s)) ∧
  (elemLegal (fmtOf fw) = true → (fmtOf fw).cont ≤ 8 → (rm = 0 ∨ rm = 4) →
    rec_ 0x17 (8 * f + r) r1 c1 fw true rm 0 0 (exec (.tqnt g n d a f r) s)) ∧
  (o ≤ 2 → rec_ 0x18 o 1 c1 w false 0 0 0 (exec (.tred g n d a 0 o) s)) ∧
  (o ≤ 2 → rec_ 0x18 (8 + o) r1 1 w false 0 0 0 (exec (.tred g n d a 1 o) s)) ∧
  (k + 1 ≤ c1 → k + 1 ≤ 256 → rec_ 0x19 (2 * k + o) r1 (k + 1) w false 0 0 0 (exec (.ttopk g n d a k o) s)) ∧
  rec_ 0x1A 0 r1 c1 w false 0 0 0 (exec (.tsoft g n d a) s) ∧
  (fld p 63 48 = 0 → fld q 63 32 = 0 →
    rec_ 0x1B (8 * m) (fld q 15 0 + 1) (fld q 31 16 + 1) w false 0 p q (exec (.tmap g n d a m) s))

/-- TFORCE, TSTORE and TSTORE.H are accepted, or turned away with 0 when there is no room (R202, R203). -/
def Obligations.ThunkRequestForms : Prop :=
  ∀ (s : State) (g n p v t c k : Nat) (x : TSrc), guardOk g n s = true → arenaOn s.core = true → (tvOf s.core v).src = some x →
  let room := (s.core.th.reqs.filter (fun r => decide (r.kind ≤ 1))).length < 8 ∧ evRoom s.core = true
  let fits := fun (r0 rows c0 cols : Nat) => r0 + rows ≤ (srcShape s.core x).1 ∧ c0 + cols ≤ (srcShape s.core x).2 ∧
    (blocksOf r0 rows c0 cols).length ≤ 256
  let takes := fun (span : Nat) (r : TReq) (o : Out) =>
    (room → o = .next (emit 1 (predBit p true) (onCore (fun y => putCb c (cbOf y c &&& ~~~lowBits span) y)
      (onTh (fun y => { y with reqs := y.reqs ++ [r] }) (onCp (fun y => { y with resv := y.resv + 1 }) s))))) ∧
    (¬ room → o = .next (emit 1 (predBit p false) s))
  let req := fun (kind r0 rows c0 cols total : Nat) (region : Option (BitVec 256 × W32)) =>
    { newReq kind s.core s with tag := k, cb := c, src := x, r0 := r0, c0 := c0, rows := rows, cols := cols, region := region,
                                todo := todoOf x r0 rows c0 cols, total := total, preSet := decide (kind = 0) }
  let region := fun (z : BitVec 256 × W32) => let w := tdOf z.1; regionSpan w (fmtOf z.2).cont ≤ 256 ∧ regionArena s.core z = none
  (let w := tdOf (rdTd s t)
   let n' := (blocksOf w.row0 w.rows w.col0 w.cols).length
   w.resv = 0 → fits w.row0 w.rows w.col0 w.cols →
   takes n' (req 0 w.row0 w.rows w.col0 w.cols n' none) (exec (.tforce g n p v t c k) s)) ∧
  (let w := tdOf (rdTd s t)
   let z := (rdTd s t, ftabWord s w.fmt)
   leafOk s w = true → leafProt s w = none → elemLegal (fmtOf z.2) = true → region z → fits w.row0 w.rows w.col0 w.cols →
   takes (regionSpan w (fmtOf z.2).cont) (req 1 w.row0 w.rows w.col0 w.cols (regionSpan w (fmtOf z.2).cont) (some z))
     (exec (.tstore g n p v t c k) s)) ∧
  (∀ z, (tvOf s.core v).home = some z → region z → fits 0 (tdOf z.1).rows 0 (tdOf z.1).cols →
   takes (regionSpan (tdOf z.1) (fmtOf z.2).cont) (req 1 0 (tdOf z.1).rows 0 (tdOf z.1).cols
     (regionSpan (tdOf z.1) (fmtOf z.2).cont) (some z)) (exec (.tstoreH g n p v c k) s))

/-- BIND, UNBIND, ACQ and REL on a pinned object of the own package, and FENCE, complete (R235, R236, R237, R238, R239,
R246). The address of an object is translated as a read, its ranges as writes (DEDUCED, log 37); of several waiters
grantNext serves the oldest as 13 R239 says. -/
def Obligations.ObjectForms : Prop :=
  ∀ (s u w : State) (g n d a b sc l e : Nat) (ps : List (Nat × Nat)) (o : Obj), guardOk g n s = true →
  (sc ≠ 5 ∨ Claims.podDone s →
    exec (.fence g n d sc) s = .next (retDev d (fenceWord s.core.cm)
      (let z := onCm (fun c => { c with fCount := 0, fRefused := false, fDead := false }) s
       if 2 ≤ sc then rcClear z else z))) ∧
  (Claims.atHome .rd (rdA s a) 64 l e s u → e / 2 ^ 8 % 2 = 1 →
   retired u l = false →
   let me := agentOf u.focus u.core
   let done := fun (o' : Option Obj) (x : Out) => ∃ t, x = .next t ∧ objAt t l = o' ∧ (∀ k, k ≠ l → objAt t k = objAt u k) ∧
     Claims.sameRegs s t (retStatus d 0 s).core.pend
   (let base := rdS s b
    let len := (rdS s (b + 1)).toNat
    let r : BRange := { va := base, len := len, pcs := ps }
    base.toNat % 64 = 0 → len % 64 = 0 → 64 ≤ len → len ≤ 2 ^ 36 →
    bindPages (len / 2 ^ 16 + 2) base.toNat len [] true u = (.inr (ps, true), w) → ps.any (fun p => decide (pkgOf p.1 ≠ pkgOf l)) = false →
    u.home.objs.any (fun x => x.ranges.any (fun y => pcsMeet y.pcs ps)) = false →
    (∀ i, objAt u l = none → instOf u sc u.focus = some i →
      (u.home.objs.filter (fun x => decide (stackOf (paOf x.line) = stackOf (paOf l)))).length < 16384 →
      done (some { line := l, scope := sc, inst := i, ranges := [r], hold := .free, wait := [], rel := 0, maker := teamNum u.core, inWin := true })
        (exec (.bind g n d a b sc) s)) ∧
    (objAt u l = some o → scopeBad u o (some sc) = false → o.ranges.length < 8 →
      done (some { o with ranges := o.ranges ++ [r] }) (exec (.bind g n d a b sc) s))) ∧
   (objAt u l = some o →
    (scopeBad u o none = false → o.hold = .free → done none (exec (.unbind g n d a) s)) ∧
    (scopeBad u o (some sc) = false → o.wait = [] → o.hold = .free → u.core.cm.held.contains l = false → u.core.cm.held.length < 16 →
      let got := fun (h : Holding) (x : Out) => done (some { o with hold := h }) x ∧ ∃ t, x = .next t ∧ t.core.cm.held = u.core.cm.held ++ [l]
      got (.shared [me]) (exec (.acqsT g n d a sc) s) ∧ got (.excl me) (exec (.acqxT g n d a sc) s) ∧
      (exposed s = false → got (.shared [me]) (exec (.acqs g n d a sc) s) ∧ got (.excl me) (exec (.acqx g n d a sc) s))) ∧
    (scopeBad u o (some sc) = false → o.holds me = true → relWaits u = false → (recov u = true → Claims.podDone u) →
      done (some (grantNext { o with rel := o.rel + 1, hold := o.hold.less me })) (exec (.rel g n d a sc) s) ∧
      ∃ t, exec (.rel g n d a sc) s = .next t ∧ t.core.cm.held = u.core.cm.held.filter (fun x => decide (x ≠ l)))))

/-- Atomics on own device memory complete with the new value stored and the old one returned (R247, R248, R249, R250,
R368, R376, R377). -/
def Obligations.AtomicForms : Prop :=
  ∀ (s u : State) (g n d a b o sc p e : Nat), guardOk g n s = true →
  let det := (u.core.task.cont.map Cont.det).getD false
  let okAt := fun (k : Nat) (q : Acq) => Claims.atHome q (rdA s a) (atomSize k) p e s u ∧ retired u p = false ∧
    (2 ≤ o → sc = 3 → Claims.podDone u) ∧ (q = .wr → writeRefused u u.focus p = false) ∧
    (logged u k p).bind (fun c => logFull u c.team (2 + stackOf (paOf p)) 32) = none
  let inArea := fun (x : Nat) => (u.ctl.caps ++ u.ctl.meas).any (fun q =>
    decide (own u q.2.base ≤ x ∧ x < own u q.2.base + cdiv (8 * q.2.n) 4096 * 4096 + 4096 * q.2.n))
  let same := fun (t : State) (dst : Option Nat) (x : Word) =>
    t.core.sc = s.core.sc ∧ t.core.vec = s.core.vec ∧ t.core.x = s.core.x ∧ t.core.sp = s.core.sp ∧
    t.core.pend = (match dst with | some d => (retDev d x s).core.pend | none => s.core.pend)
  let outside := fun (k : Nat) (t : State) => ∀ x, (x < p ∨ p + atomSize k ≤ x ∨ Claims.posByte u x = true) → inArea x = false → memByte t.mem x = memByte s.mem x
  let log := fun (k : Nat) (old z : Word) (v t : State) => ∀ c, logged u k p = some c →
    let h := mget 0 u.home.hseq (stackOf (paOf p))
    let ok := if k = 10 ∧ old = z then 1 else 0
    let rec_ := leBytes 8 (2 * 2 ^ 60 + logOp k * 2 ^ 58 + ok * 2 ^ 57 + epochOf u c.team * 2 ^ 48 + c.team * 2 ^ 36 + c.task * 2 ^ 12) ++
      leBytes 8 (paOf p % 2 ^ 39 + pkgOf p % 2 ^ 14 * 2 ^ 39) ++ leBytes 8 old.toNat ++ leBytes 8 h
    mget 0 t.home.hseq (stackOf (paOf p)) = h + 1 ∧ v.dist = u.dist ∧ v.home.objs = u.home.objs ∧ v.home.regions = u.home.regions ∧
    t.mem = (logWrite c.team (2 + stackOf (paOf p)) (fun _ => rec_) v).mem ∧
    ∀ l, logD v c.team (2 + stackOf (paOf p)) = some l → l.pos + 32 ≤ l.limit → writeRefused v 2048 l.addr = false →
      memNat t.mem (l.addr + 0x10) 8 = l.pos + 32
  let upd := fun (k : Nat) (y z : Word) (dst : Option Nat) (r : Out) => okAt k .wr →
    let old := wd (memNat u.mem p 8)
    ∃ t v, r = .next t ∧ same t dst (if det ∧ k ≤ 8 then 0 else old) ∧
      (Claims.posByte u p = false → memNat v.mem p 8 = Claims.rzNat u p (atomNew k old y z).toNat) ∧ outside k v ∧
      (logged u k p = none → t.mem = v.mem) ∧ log k old z v t
  upd 1 (rdS s b) 0 (some d) (exec (.aadd g n d a b o sc) s) ∧
  upd 2 (rdS s b) 0 (some d) (exec (.aand g n d a b o sc) s) ∧
  upd 3 (rdS s b) 0 (some d) (exec (.aor g n d a b o sc) s) ∧
  upd 4 (rdS s b) 0 (some d) (exec (.axor g n d a b o sc) s) ∧
  upd 5 (rdS s b) 0 (some d) (exec (.amin g n d a b o sc) s) ∧
  upd 6 (rdS s b) 0 (some d) (exec (.amax g n d a b o sc) s) ∧
  upd 7 (rdS s b) 0 (some d) (exec (.aminu g n d a b o sc) s) ∧
  upd 8 (rdS s b) 0 (some d) (exec (.amaxu g n d a b o sc) s) ∧
  upd 9 (rdS s b) 0 (some d) (exec (.aswap g n d a b o sc) s) ∧
  upd 10 (rdS s b) (rdS s d) (some d) (exec (.acas g n d a b o sc) s) ∧
  upd 14 (rdS s b) 0 none (exec (.ast g n a b o sc) s) ∧
  (okAt 13 .rd → pairTorn u p = false → ∃ t v, exec (.ald g n d a o sc) s = .next t ∧ same t (some d) (wd (memNat u.mem p 8)) ∧
    v.mem = s.mem ∧ (logged u 13 p = none → t.mem = s.mem) ∧ log 13 (wd (memNat u.mem p 8)) 0 v t) ∧
  (okAt 12 .wr → Claims.posByte u p = false → ∃ t, exec (.ard g n d a o sc) s = .next t ∧
    (mfind? u.home.accs p = none → memNat t.mem p 4 = Claims.rzNat u p (memNat u.mem p 4) ∧ same t (some d) (wd (memNat u.mem p 4))) ∧
    (∀ v, mfind? u.home.accs p = some v → mfind? t.home.accs p = none ∧ memNat t.mem p 4 = Claims.rzNat u p (v.read (memNat u.mem p 4) % 2 ^ 32) ∧
      same t (some d) (wd (v.read (memNat u.mem p 4))))) ∧
  (okAt 11 .wr →
    (det = false → ∃ t, exec (.aaddF32 g n d a b o sc) s = .next t ∧ outside 11 t ∧
      (Claims.posByte u p = false → memNat t.mem p 4 = Claims.rzNat u p ((rneF fp32 (addN (decodeF fp32 (memNat u.mem p 4)) (decodeF fp32 (rdS s b).toNat) false).1).1 % 2 ^ 32)) ∧
      same t (some d) (wd (memNat u.mem p 4))) ∧
    (det = true → accFull u p = false → ∃ t, exec (.aaddF32 g n d a b o sc) s = .next t ∧ same t (some d) 0 ∧
      (∀ x, inArea x = false → memByte t.mem x = memByte s.mem x) ∧
      mfind? t.home.accs p = some (((mfind? u.home.accs p).getD .zero).add (decodeF fp32 (rdS s b).toNat))))

/-- QPUSH and QPOP on a queue of the own package complete (R254, R256, R257, R258). The entries of a queue stand in the
state and its storage in device memory is neither written nor read (DEDUCED, log 17): that no byte of device memory
differs is the model's choice. -/
def Obligations.QueueForms : Prop :=
  ∀ (s : State) (g n d q r t : Nat) (x : Queue), guardOk g n s = true → Claims.portsFree s →
  let h := hndOf (rdS s q)
  let ea := rdA s r
  h.ok = true → h.pkg = s.ctl.pkgNum → mfind? s.home.queues h.key = some x → x.live = true → x.hgen = h.hgen →
  (s.core.x.pl = true ∨ fld s.core.x.ttb 63 52 = x.asid) →
  let line := spadBytes s.core 1 (ea.toNat % 2 ^ 20) 64
  let done := fun (x' : Queue) (pend : List Pend) (o : Out) => ∃ t, o = .next t ∧ mfind? t.home.queues h.key = some x' ∧
    (∀ k, k ≠ h.key → mfind? t.home.queues k = mfind? s.home.queues k) ∧ t.mem = s.mem ∧ t.core.sc = s.core.sc ∧ t.core.vec = s.core.vec ∧
    t.core.x = s.core.x ∧ t.core.sp = s.core.sp ∧ t.core.pend = pend
  (ownLineFault false ea 64 s = none → spadFault s 0 false ea 64 [(0, 64)] = none → x.ents.length < x.cap →
    (x.waits.any (fun y => y.due.isNone) = false →
      done { x with ents := x.ents ++ [line] } (retStatus d 0 s).core.pend (exec (.qpush g n d q r) s)) ∧
    (x.waits.any (fun y => y.due.isNone) = true →
      done { x with waits := handTo line x.waits } (retStatus d 0 s).core.pend (exec (.qpush g n d q r) s))) ∧
  (ownLineFault true ea 64 s = none → spadFault s 0 true ea 64 [(0, 64)] = none →
    hazardAt s.core 1 (ea.toNat % 2 ^ 20) (ea.toNat % 2 ^ 20 + 64) = none →
    (∀ z zs, x.ents = z :: zs →
      let pend := (retStatus d 0 (emit 1 (.st 1 (ea.toNat % 2 ^ 20) 0 z) s)).core.pend
      done { x with ents := zs } pend (exec (.qpop g n d q r) s) ∧ done { x with ents := zs } pend (exec (.qpopB g n d q r t) s)) ∧
    (x.ents = [] →
      done x (retStatus d 1 s).core.pend (exec (.qpop g n d q r) s) ∧
      (x.waits.length < 64 → evRoom s.core = true →
        done { x with waits := x.waits ++ [{ who := agentOf s.focus s.core, off := ea.toNat % 2 ^ 20, tag := t, due := none }] }
          (retStatus d 5 s).core.pend (exec (.qpopB g n d q r t) s))))

/-- OPTREG, DEREG, SETHP and CLRF on regions of the own package complete (R254, R261, R262). -/
def Obligations.RegionForms : Prop :=
  ∀ (s u w : State) (g n d a r p e k : Nat) (pages : SMap Nat) (reg : Region), guardOk g n s = true →
  (let x : Region := { rec_ := p, rcls := k % 4, pages := pages, team := teamNum w.core, sup := w.core.x.pl }
   (rdS s a).toNat % 256 = 0 → msPage .wr (!s.core.x.pl) (rdS s a) s = (.inr (p, k), u) → pkgOf p = u.ctl.pkgNum →
   retired u p = false → msRanges .wr (!s.core.x.pl) (recAt u.mem p).arrays [] u = (.inr pages, w) →
   let st := regStatus w u.mem p (decide (4 ≤ k)) pages
   exec (.optreg g n d a) s = .next (retStatus d st (if st = 0 then enterRegion x w else w))) ∧
  (let gone := fun (z : State) => z.home.regions.find? (fun y => decide (y.rec_ = p)) = some reg ∧
     ctlTurn z p z.focus = true
   (Claims.atHome .rd (rdS s a) 1 p e s u → gone u →
     exec (.dereg g n d a) s = .next (retStatus d 0 (onHome (fun h => { h with regions := h.regions.filter (fun y => decide (y.rec_ ≠ reg.rec_)) })
       (recPut reg 0 (leBytes 8 ((recAt u.mem reg.rec_).ctrl / 2 * 2)) (dropCtl u.focus u)))) ∧
     (ownLineFault false (rdA s r) 64 s = none →
       exec (.clrf g n d a r) s = .next (retStatus d 0 (recPut reg 0xB0 (leBytes 16 0) (dropCtl u.focus u))))) ∧
   (ownLineFault false (rdA s r) 64 s = none → spadFault s 0 false (rdA s r) 64 [(0, 64)] = none → Claims.portsFree s →
     let line := spadBytes s.core 1 ((rdA s r).toNat % 2 ^ 20) 64
     (line.drop 36).any (fun b => decide (b ≠ 0)) = false →
     ∃ v, Claims.onlyIss s v ∧ (Claims.atHome .rd (rdS v a) 1 p e v w → gone w →
       exec (.sethp g n d a r) s = .next (retStatus d 0 (recPut reg 0x48 (line.take 36) (dropCtl w.focus w))))))

/-- DZERO, DCOPY and OPTGRAD are accepted, or turned away with 0 when there is no room (R255, R263, R269). That an arrival
beyond the 1,024 of its region waits in order, and what an arrival to another package carries, are the model's choices
(DEDUCED, log 156). -/
def Obligations.MemorySideCommandForms : Prop :=
  ∀ (s u w : State) (g n p a b r t sc dst src cls cls' : Nat), guardOk g n s = true →
  let room := fun (z : State) => z.core.cm.msOut < 8 ∧ evRoom z.core = true
  let counted := fun (z : State) => onCm (fun c => { c with msOut := c.msOut + 1 }) (onCp (fun c => { c with resv := c.resv + 1 }) z)
  let takes := fun (z : State) (go : State → State) (o : Out) =>
    (room z → o = .next (emit 1 (predBit p true) (go (counted z)))) ∧ (¬ room z → o = .next (emit 1 (predBit p false) z))
  let cmd := fun (z : State) (from_ : Option Nat) =>
    ({ core := z.focus, tag := t, dst := dst, src := from_, team := teamNum z.core, va := rdS s a,
       pc := z.core.iss.pc, cls := cls, written := false } : DramCmd)
  let add := fun (z : State) (from_ : Option Nat) (y : State) => onHome (fun h => { h with dram := h.dram ++ [cmd z from_] }) y
  ((rdS s a).toNat % 65536 = 0 → msPage .wr true (rdS s a) s = (.inr (dst, cls), u) → pkgOf dst = u.ctl.pkgNum →
    (hazardAt u.core 3 (rdS s a).toNat ((rdS s a).toNat + 65536) = none → takes u (add u none) (exec (.dzero g n p a t) s)) ∧
    ((rdS s b).toNat % 65536 = 0 → msPage .rd true (rdS s b) u = (.inr (src, cls'), w) → pkgOf src = w.ctl.pkgNum → pkgOf dst = w.ctl.pkgNum →
      stackOf (paOf src) = stackOf (paOf dst) → src ≠ dst → hazardAt w.core 3 (rdS s a).toNat ((rdS s a).toNat + 65536) = none →
      takes w (add w (some src)) (exec (.dcopy g n p a b t) s))) ∧
  (ownLineFault false (rdA s r) 64 s = none → spadFault s 0 false (rdA s r) 64 [(0, 64)] = none → Claims.portsFree s →
    let h := spadBytes s.core 1 ((rdA s r).toNat % 2 ^ 20) 64
    (h.drop 0x1E).any (fun x => decide (x ≠ 0)) = false → leAt h 0x1C 2 < 2 ^ 14 → 1 ≤ leAt h 0x14 4 → leAt h 0x14 4 ≤ 65536 →
    ∃ v, Claims.onlyIss s v ∧ (let y := arrivalOf h v.focus t v
      (y.2.1 = none → takes y.2.2 (fun z => onHome (fun x => { x with arrivals := x.arrivals ++ [y.1] }) z) (exec (.optgrad g n p sc r t) s)) ∧
      (∀ a, y.2.1 = some a → deadDir y.2.2 (pkgOf a) = none → takes y.2.2 (fun z => sendPkt (pkgOf a) (.tell z.focus kGrad a
        (leBytes 1 t ++ leBytes 1 (b2n y.1.bad) ++ leBytes 8 y.1.grad ++ leBytes 4 y.1.blk0 ++ leBytes 4 y.1.nblk ++ leBytes 4 y.1.seq ++
          leBytes 2 y.1.src ++ y.1.pages.flatMap (fun q => leBytes 8 q.1 ++ leBytes 8 q.2))) z) (exec (.optgrad g n p sc r t) s))))

/-- LAUNCH, SPAWN, TRIGGER, RESUME and WFE complete (R279, R280, R281, R282, R284). -/
def Obligations.LaunchingForms : Prop :=
  ∀ (s u w : State) (g n d a b p e t : Nat) (k : Cont) (x : Team) (rs : List (Word × Nat × Nat)), guardOk g n s = true →
  s.core.ctl = false → s.core.x.pl = false → s.core.task.cont = some k → teamOf s k.team = some x →
  (let card := memBytes u.mem p 64
   let c := cardOf card (rs.map (fun r => (r.1, r.2.1)))
   Claims.atHome .rd (rdA s a) 64 p e s u → retired u p = false → cardBad card = false →
   argsAway true u.focus s.core.x.ttb (leAt card 0x14 4 % 8) (leAt card 8 8) u = none →
   readArgs true u.focus s.core.x.ttb [] (leAt card 0x14 4 % 8) (leAt card 8 8) u = (some rs, w) →
   (∀ r ∈ rs, r.2.1 ≠ 0 ∧ c.n ≤ r.2.2 ∧ r.2.2 < 2 ^ 24) → c.n ≠ 0 → rsvFull w = false → freeTeam w = some t → Claims.logRoom w k.team (1 + launchRes c) →
   ∃ z y, exec (.launch g n d a) s = .next z ∧ teamOf z t = some y ∧ y.card = c ∧ y.gen = mget 0 w.dist.gens t ∧ y.asid = fld s.core.x.ttb 63 52 ∧
     y.live = c.n ∧ y.conts = 0 ∧ y.ready = [] ∧ y.log = x.log ∧ (∀ i, i ≠ t → i ≠ k.team → teamOf z i = teamOf w i) ∧
     z.core.pend = (retDev d (wd ((t + y.gen * 2 ^ 12) * 2 ^ 32)) s).core.pend ∧ z.core.sc = s.core.sc ∧ z.core.vec = s.core.vec) ∧
  ((rdA s a).toNat % 4 = 0 → x.conts < 2 ^ 20 → rsvFull s = false → Claims.logRoom s k.team 2 →
   let args := (List.range 6).map (fun i => rdS s (b + i))
   let c : Cont := { k with pc := rdA s a, keep := false, ctx := 0, args := args, slot := none, fresh := true, pre := false }
   ∃ z y, exec (.spawn g n d a b) s = .next z ∧ teamOf z k.team = some y ∧ y.live = x.live + 1 ∧ y.conts = x.conts + 1 ∧
     y.ready = x.ready ++ [c] ∧ y.card = x.card ∧ (∀ i, i ≠ k.team → teamOf z i = teamOf s i) ∧ z.core.pend = (retStatus d 0 s).core.pend ∧
     z.core.sc = s.core.sc ∧ z.core.vec = s.core.vec ∧ z.core.x = s.core.x) ∧
  ((recov s = true → Claims.podDone s) → ∃ y, exec (.trigger g n) s = .next (onTeam k.team (fun _ => y) s) ∧
     y = { x with trig := if x.trig.contains k.task then x.trig else x.trig ++ [k.task], trigd := y.trigd } ∧
     (y.trigd = true ↔ (x.trigd = true ∨ x.card.n ≤ y.trig.length))) ∧
  (ownLineFault false (rdA s a) 64 s = none → spadFault s 0 false (rdA s a) 64 [(0, 64)] = none → Claims.portsFree s →
   let rec_ := spadBytes s.core 1 ((rdA s a).toNat % 2 ^ 20) 64
   let slot := leAt rec_ 8 8 / 2 ^ 12 % 2 ^ 12
   ∀ old y, (slotAt s slot).cont = some old → slot ≠ 0 → (slotAt s slot).st = .suspended →
   let c := recordCont rec_ old
   (slotAt s slot).team = c.team → teamOf s c.team = some y → Claims.logRoom s c.team 1 →
   ∃ z y', exec (.resume g n d a) s = .next z ∧ teamOf z c.team = some y' ∧ y'.ready = y.ready ++ [c] ∧ y'.live = y.live ∧
     (slotAt z slot).st = .ready ∧ (slotAt z slot).ctx = (slotAt s slot).ctx ∧ z.core.pend = (retStatus d 0 s).core.pend ∧
     z.core.sc = s.core.sc ∧ z.core.vec = s.core.vec) ∧
  (exposed s = false → s.core.cp.evq ≠ [] → exec (.wfe g n) s = .next s)

/-- SUSP, YIELD, their K forms and END complete: the core is let go (R276, R283, R287). -/
def Obligations.SuspensionForms : Prop :=
  ∀ (s : State) (g n d b : Nat) (k : Cont) (x : Team) (q : Queue), guardOk g n s = true → s.core.ctl = false → s.core.x.pl = false →
  s.core.st = .run → s.core.sc.loops = [] → s.core.task.cont = some k → teamOf s k.team = some x →
  let z := drain s
  quiet z.core = true → Claims.logRoom z k.team 2 →
  let idle := fun (t : State) => (coreAt t s.focus).st = .idle ∧ (coreAt t s.focus).task.cont = none
  let cont := fun (keep : Bool) =>
    ({ k with pc := z.core.iss.seq, keep := keep, args := if keep then k.args else (List.range 6).map (fun i => rdS z (i + 1)) } : Cont)
  let yields := fun (keep : Bool) (o : Out) => ∃ t y, o = .next t ∧ idle t ∧ teamOf t k.team = some y ∧ y.ready = x.ready ++ [cont keep] ∧
    y.live = x.live ∧ (slotAt t k.ctx).st = .ready ∧ (slotAt t k.ctx).cont = some (cont keep) ∧ ((slotAt t k.ctx).ctx.isSome = keep)
  let suspends := fun (keep : Bool) (o : Out) => ∃ t y, o = .next t ∧ idle t ∧ teamOf t k.team = some y ∧ y.ready = x.ready ∧ y.live = x.live ∧
    (slotAt t k.ctx).st = .suspended ∧ (slotAt t k.ctx).cont = some (cont keep) ∧ (slotAt t k.ctx).ret = some (d, 0) ∧
    ∃ q', mfind? t.home.queues (hndOf (rdS s b)).key = some q' ∧ q'.ents = q.ents ++ [recordBytes (cont keep)]
  yields false (exec (.yield g n) s) ∧ yields true (exec (.yieldK g n) s) ∧
  (let h := hndOf (rdS s b)
   h.ok = true → h.pkg = s.ctl.pkgNum → mfind? z.home.queues h.key = some q → q.live = true → q.hgen = h.hgen →
   fld z.core.x.ttb 63 52 = q.asid → q.ents.length < q.cap → q.waits = [] →
   suspends false (exec (.susp g n d b) s) ∧ suspends true (exec (.suspK g n d b) s)) ∧
  ((recov z = true → Claims.podDone z) → ∃ t, exec (.endTask g n) s = .next t ∧ idle t ∧
    (2 ≤ x.live → ∃ y, teamOf t k.team = some y ∧ y.live = x.live - 1 ∧ k.task ∈ y.trig ∧ y.card = x.card) ∧
    (x.live = 1 → teamOf t k.team = none))

/-- BAR and BAR.T complete with the arrival that fills the count, or on a completed episode (R295, R296, R297). That BAR.T
at .pod answers BUSY before the acknowledgements, where BAR waits for them, is the model's reading (DEDUCED, log 145). -/
def Obligations.BarrierForms : Prop :=
  ∀ (s : State) (g n d b sc : Nat), guardOk g n s = true → s.core.ctl = false →
  let k := (rdS s b).toNat % 2 ^ 32
  k ≠ 0 → k ≤ barMax sc →
  let both := fun (P : Out → Prop) => P (exec (.barT g n d b sc) s) ∧ (exposed s = false → P (exec (.bar g n d b sc) s))
  (sc = 1 → s.core.cm.barp = none → quiet s.core = true → both (fun o => o = .next (retDev d 0 s))) ∧
  (2 ≤ sc → sc ≤ 5 →
    let lv := sc - 2
    let inst := netInst s.core.num lv
    let now := barAt s lv (teamNum s.core) inst
    (s.core.cm.barp = none → (sc = 5 → Claims.podDone s) → barRefusal s now k = none → now.got + 1 = k →
      both (fun o => ∃ t, o = .next t ∧ barAt t lv (teamNum s.core) inst = { now with epi := now.epi + 1, n := 0, got := 0 } ∧
        t.core.cm.rc = [] ∧ t.core.cm.barp = none ∧ t.core.pend = (retDev d (barWord 0 now.epi) s).core.pend ∧ t.mem = s.mem ∧
        t.core.sc = s.core.sc ∧ t.core.vec = s.core.vec ∧ t.core.x = s.core.x)) ∧
    (s.core.cm.barp = none → (sc = 5 → Claims.podDone s) → barRefusal s now k = none → now.got + 1 ≠ k →
      ∃ t, exec (.barT g n d b sc) s = .next t ∧ t.core.cm.barp = some (lv, inst, now.epi) ∧
        barAt t lv (teamNum s.core) inst = { now with n := k, got := now.got + 1 } ∧ t.core.pend = (retDev d (barWord 1 now.epi) s).core.pend) ∧
    (s.core.cm.barp = none → sc = 5 → podClear s = false → exec (.barT g n d b sc) s = .next (retDev d (barWord 1 now.epi) s)) ∧
    (∀ i e, s.core.cm.barp = some (lv, i, e) →
      (e < (barAt s lv (teamNum s.core) i).epi → both (fun o => o = .next (retDev d (barWord 0 e)
        (onCm (fun c => { c with barp := none, rc := [] }) s)))) ∧
      (¬ e < (barAt s lv (teamNum s.core) i).epi → exec (.barT g n d b sc) s = .next (retDev d (barWord 1 e) s))))

/-- Meetings: creation, arrival, the close of a round, its result, tags and destruction complete (R298, R299, R300, R301,
R303, R304, R305, R308). The lowest free number and a generation one higher are log 90's (DEDUCED); NOTPIN for a
misaligned, untranslatable or unpinned tile and MALFORMED for a result on another package are log 91's (DEDUCED); that
MTARR answers at once and the result waits for another package's tiles is log 146's reading of R303 (DESIGN CHOICE). -/
def Obligations.MeetingForms : Prop :=
  ∀ (s : State) (g n d r h i t : Nat), guardOk g n s = true → s.core.ctl = false → Claims.portsFree s →
  let ea := rdA s r
  let line := spadBytes s.core 1 (ea.toNat % 2 ^ 20) 64
  let k := (rdS s i).toNat
  (ownLineFault false ea 64 s = none → spadFault s 0 false ea 64 [(0, 64)] = none →
    let x := meetD (leAt line 0 8)
    let els := leAt line 8 8 + 1
    let inst := netInst s.core.num x.sc
    let bad := meetMalformed line (taskDet s)
    ∃ v, Claims.onlyIss s v ∧
      let made := fun (tile : Option TileOut) (w : State) (o : Out) =>
        (freeMeets s x.sc inst = [] → o = .next (retStatus d 2 w)) ∧
        (∀ num nums, freeMeets s x.sc inst = num :: nums →
          let gen := mget 0 s.grp.mgen (meetKey x.sc inst num) + 1
          o = .next (retDev d (wd (meetHandle s.ctl.pkgNum x.sc inst gen num)) (onGrp (fun y =>
            { y with meets := y.meets ++ [newMeet x (teamNum s.core) inst num gen (taskDet s) tile],
                     mgen := mset 0 y.mgen (meetKey x.sc inst num) gen }) w)))
      (bad = true → exec (.mtcfg g n d r) s = .next (retStatus d 7 v)) ∧
      (bad = false → x.tile = false → made none v (exec (.mtcfg g n d r) s)) ∧
      (bad = false → x.tile = true →
        let p := netPieces .wr (els * 4 / 2 ^ 16 + 2) (leAt line 0x10 8) (els * 4) [] v
        (p.1 = none → exec (.mtcfg g n d r) s = .next (retStatus d 9 p.2)) ∧
        (∀ ps, p.1 = some ps →
          (ps.any (fun q => decide (pkgOf q.1 ≠ s.ctl.pkgNum)) = true → exec (.mtcfg g n d r) s = .next (retStatus d 7 p.2)) ∧
          (ps.any (fun q => decide (pkgOf q.1 ≠ s.ctl.pkgNum)) = false → made (some ⟨els, ps⟩) p.2 (exec (.mtcfg g n d r) s))))) ∧
  (meetBad (rdS s h) = false →
   (∀ st, findMeet s (rdS s h) = .inr st →
     (ownLineFault false ea 64 s = none → exec (.mtarr g n d h r i) s = .next (retStatus d st s)) ∧
     (ownLineFault true ea 64 s = none → exec (.mtwait g n d h r t) s = .next (retStatus d st s) ∧
       exec (.mtwaitT g n d h r t) s = .next (retStatus d st s)) ∧
     exec (.mttag g n d h i) s = .next (retStatus d st s) ∧ exec (.mtdel g n d h) s = .next (retStatus d st s)) ∧
   (∀ m, findMeet s (rdS s h) = .inl m →
    (ownLineFault false ea 64 s = none → (m.scope = 3 → Claims.podDone s) →
      let arrives := fun (x : List W32) (tile : List (Nat × Nat × Nat)) (w : State) =>
        let m' := m.arrive k x tile
        (∀ st, m.refuses k = some st → exec (.mtarr g n d h r i) s = .next (retStatus d st w)) ∧
        (m.refuses k = none → m'.closes = false →
          exec (.mtarr g n d h r i) s = .next (retStatus d 0 (cntEv 0x22 1 (putMeet m' w)))) ∧
        (m.refuses k = none → m'.closes = true → logFull w m.team 1 (96 * (1 + closesDue w m.team)) = none →
          exec (.mtarr g n d h r i) s = .next (retStatus d 0 (cntEv 0x22 1 (closeRound m' w))) ∧
          (let c := m'.closeOf w
           let r := m'.combine c.got
           m.pend = [] →
           (c.missing m' = [] → meetAtNum (closeRound m' w) m.scope m.inst m.mnum = some ((m'.shut c).close c r.1 r.2)) ∧
           (c.missing m' ≠ [] → (∀ p ∈ c.missing m', deadDir w (pkgOf p.1) = none) →
             meetAtNum (closeRound m' w) m.scope m.inst m.mnum = some { m' with t := m'.t + 1, ontime := [], fold := [], pend := [c] })) ∧
          (closeRound m' w).core.sc = w.core.sc ∧ (closeRound m' w).core.vec = w.core.vec ∧ (closeRound m' w).core.x = w.core.x ∧
          (closeRound m' w).core.sp = w.core.sp ∧ (closeRound m' w).core.pend = w.core.pend ∧
          (m.tile = none → logD w m.team 1 = none → (closeRound m' w).mem = w.mem))
      (m.op = 0 → arrives [] [] s) ∧
      (m.op ≠ 0 → spadFault s 0 false ea 64 [(0, 64)] = none → ∃ v, Claims.onlyIss s v ∧
        (m.tile = none → arrives ((List.range m.cw).map (fun j => BitVec.ofNat 32 (leAt line (4 * j) 4))) [] v) ∧
        (∀ z, m.tile = some z →
          (∀ st, m.refuses k = some st → exec (.mtarr g n d h r i) s = .next (retStatus d st v)) ∧
          (m.refuses k = none →
            let p := netPieces .rd (z.n * 4 / 2 ^ 16 + 2) (leAt line 0 8) (z.n * 4) [] v
            (leAt line 0 8 % 64 ≠ 0 → exec (.mtarr g n d h r i) s = .next (retStatus d 9 v)) ∧
            (leAt line 0 8 % 64 = 0 → p.1 = none → exec (.mtarr g n d h r i) s = .next (retStatus d 9 p.2)) ∧
            (leAt line 0 8 % 64 = 0 → ∀ ps, p.1 = some ps → arrives [] ps p.2))))) ∧
    (ownLineFault true ea 64 s = none →
      (m.met (rdS s t) = false → exec (.mtwaitT g n d h r t) s = .next (retStatus d 1 s)) ∧
      (m.met (rdS s t) = true → m.cw = 0 → exec (.mtwaitT g n d h r t) s = .next (retDev d m.word (rcClear s)) ∧
        exec (.mtwait g n d h r t) s = .next (retDev d m.word (rcClear s))) ∧
      (m.met (rdS s t) = true → m.cw ≠ 0 → spadFault s 0 true ea 64 [(0, 64)] = none →
        hazardAt s.core 1 (ea.toNat % 2 ^ 20) (ea.toNat % 2 ^ 20 + 64) = none →
        let bs := m.res.flatMap (fun x => leBytes 4 x.toNat)
        ∃ v, Claims.onlyIss s v ∧
          let t' := retDev d m.word (rcClear (emit 1 (.st 1 (ea.toNat % 2 ^ 20) 0 (bs ++ List.replicate (64 - bs.length) 0)) v))
          exec (.mtwaitT g n d h r t) s = .next t' ∧ exec (.mtwait g n d h r t) s = .next t')) ∧
    (k < m.n → exec (.mttag g n d h i) s =
      .next (retDev d (wd ((m.out % 2 ^ 32).toNat + (nth 0 m.rs k % 2 ^ 32).toNat * 2 ^ 32)) s)) ∧
    (m.n ≤ k → exec (.mttag g n d h i) s = .next (retStatus d 6 s)) ∧
    exec (.mtdel g n d h) s = .next (retStatus d 0 (onGrp (fun y =>
      { y with meets := y.meets.filter (fun z => !z.is m.scope m.inst m.mnum) }) s))))

/-- TRAP and BRK enter the handler with their causes at slot 0 (R317, R324). -/
def Obligations.TrapAndBreakEnterTheHandler : Prop :=
  ∀ (s : State) (g n im : Nat), guardOk g n s = true → (s.core.x.pl = true → s.core.x.ack = true) → s.core.iss.slot = 0 →
  let z := drain s
  (∃ t, exec (.trap g n im) s = .next t ∧ Claims.entered z t 18 (wd im) 0 s.core.iss.pc s.core.iss.seq 0) ∧
  (∃ t, exec (.brk g n im) s = .next t ∧ Claims.entered z t 17 (wd im) 0 s.core.iss.pc s.core.iss.seq 0)

/-- An exception enters the handler as the spec lays it out (R317). -/
def Obligations.HandlerEntry : Prop :=
  ∀ (s : State) (e : Entry), (s.core.x.pl = true → s.core.x.ack = true) →
  Claims.entered (drain s) (enter e s) e.word e.fa (wd e.slot) e.pc e.npc e.fpc

/-- A fault in a handler that has not acknowledged its cause halts the core (R322). -/
def Obligations.DoubleFault : Prop :=
  ∀ (s : State) (e : Entry), s.core.x.pl = true → s.core.x.ack = false →
  let t := enter e s
  t.core.st = .dhalt ∧ t.core.x = { s.core.x with cause2 := e.word, fa2 := e.fa, dh := true, pp := false } ∧
  t.core.iss.roll = some false ∧ t.core.iss.busy = false ∧ t.core.sc = s.core.sc ∧ t.core.vec = s.core.vec ∧ t.mem = s.mem ∧
  t.ctl.events = s.ctl.events ++ [(1, (coreId s).toNat, s.core.x.cause.toNat % 2 ^ 18 + 2 ^ 18 * e.word.toNat)]

/-- XRET restores what an entry saved; TACK acknowledges; PREQ asks for pre-emption (R309, R320, R321, R327). -/
def Obligations.ReturnFromTheHandler : Prop :=
  ∀ (s : State) (g n : Nat), guardOk g n s = true → s.core.ctl = false →
  (s.core.x.pl = true →
    exec (.tack g n) s = .next (emit 1 .ack s) ∧
    exec (.preq g n) s = .next (emit 1 .pp s) ∧
    (let z := drain s
     let x := z.core.x
     let slot := fld x.xslot 3 0
     ∃ t, exec (.xret g n) s = .next t ∧ t.core.x.pl = x.ppl ∧ t.core.x.mode = x.xmode.setWidth 8 ∧ t.core.x.ack = x.ppl ∧
       (bitAt x.cause 16 = true → t.core.iss.npc = x.xnpc ∧ t.core.iss.from_ = 0) ∧
       (bitAt x.cause 16 = false → t.core.iss.npc = x.xpc ∧
         t.core.iss.from_ = if bitAt x.cause 17 = true ∨ slot = 14 then 0 else slot) ∧
       (x.ppl = false → rdA t 15 = x.xsp ∧ t.core.x.xsp = rdA z 15 ∧ t.core.sc.loops = z.core.sc.frozen.getD [] ∧ t.core.sc.frozen = none ∧
         t.core.st = .run) ∧
       (x.ppl = true → rdA t 15 = rdA z 15 ∧ t.core.x.xsp = x.xsp ∧ t.core.sc.loops = [] ∧ t.core.st = .handler) ∧
       (∀ r, r ≠ 15 → rdA t r = rdA z r) ∧ (∀ r, rdS t r = rdS z r) ∧ t.core.sc.p = z.core.sc.p ∧ t.core.vec.v = z.core.vec.v ∧
       t.core.x.xbase = x.xbase ∧ t.core.x.fpstat = x.fpstat ∧ t.core.x.ttb = x.ttb ∧ t.mem = z.mem ∧ t.core.sp = z.core.sp)) ∧
  (s.core.x.pl = false → ∀ i, (i = .tack g n ∨ i = .preq g n ∨ i = .xret g n) → exec i s = .next (trap cPRIV 0 s.core.iss.pc s))

/-- ICINV and the TINV forms complete; TINV raises PRIV at user level (R325, R326). -/
def Obligations.InvalidationForms : Prop :=
  ∀ (s : State) (g n a b : Nat), guardOk g n s = true →
  (exposed s = false → s.core.cp.cmds = [] → podClear s = true →
    exec (.icinv g n) s = .next (onCore (fun c => { c with path := { lines := [] } }) s)) ∧
  (s.core.x.pl = true → exposed s = false →
    let k := fld (rdS s b) 11 0
    let v := (rdS s a).toNat % 2 ^ 57
    let kept := fun (p : TlbE → Bool) (q : WalkE → Bool) (t : State) =>
      (∀ c, (coreAt t c).cm.tlb = (coreAt s c).cm.tlb.filter (fun x => !p x)) ∧
      t.home.quad = s.home.quad.map (fun x => (x.1, x.2.filter (fun y => !p y))) ∧
      t.home.walk = s.home.walk.map (fun x => (x.1, x.2.filter (fun y => !q y))) ∧
      t.core = { s.core with cm := { s.core.cm with tlb := t.core.cm.tlb } } ∧ t.mem = s.mem ∧ t.dist = s.dist
    (∃ t, exec (.tinvAll g n) s = .next t ∧ kept (fun _ => true) (fun _ => true) t) ∧
    (∃ t, exec (.tinvAsid g n b) s = .next t ∧ kept (fun x => decide (x.asid = k)) (fun x => decide (x.asid = k)) t) ∧
    (∃ t, exec (.tinvPage g n a b) s = .next t ∧ kept (fun x => x.hits k v) (fun x => x.hits k v) t)) ∧
  (s.core.x.pl = false → ∀ i, (i = .tinvAll g n ∨ i = .tinvAsid g n b ∨ i = .tinvPage g n a b) →
    exec i s = .next (trap cPRIV 0 s.core.iss.pc s))

/-- MFS, MFSR, MTS and MTSR complete, and trap on unlisted or supervisor registers (R314, R315, R316, R382). -/
def Obligations.SpecialRegisterMoves : Prop :=
  ∀ (s : State) (g n d a b i : Nat), guardOk g n s = true →
  let ok := fun (j : Nat) (sup : Bool) => srListed s.core.ctl j = true ∧ (s.core.x.pl = true ∨ sup = false)
  let j := fld (rdS s a) 15 0
  let seen := fun (k : Nat) => if 0x030 ≤ k ∧ k ≤ 0x033 then mget 0 (s.core.iss.pm0.getD s.core.pm.pmc) (k - 0x030) else readSr s k
  let write := fun (k : Nat) (v : Word) => emit 1 (if k = 0x010 then .mode (v.setWidth 8) else .sr k v) s
  (ok i (srSupRead i) → exec (.mfs g n d i) s = .next (emit 1 (.s d (seen i)) s)) ∧
  (ok i (srSupWrite i) → exec (.mts g n d i) s = .next (write i (rdS s d))) ∧
  (ok j (srSupRead j) → exec (.mfsr g n d a) s = .next (emit 1 (.s d (seen j)) s)) ∧
  (ok j (srSupWrite j) → exec (.mtsr g n a b) s = .next (write j (rdS s b))) ∧
  (srListed s.core.ctl i = false → exec (.mfs g n d i) s = .next (illop s) ∧ exec (.mts g n d i) s = .next (illop s)) ∧
  (srListed s.core.ctl j = false → exec (.mfsr g n d a) s = .next (illop s) ∧ exec (.mtsr g n a b) s = .next (illop s)) ∧
  (s.core.x.pl = false →
    (srListed s.core.ctl i = true → srSupRead i = true → exec (.mfs g n d i) s = .next (trap cPRIV 0 s.core.iss.pc s)) ∧
    (srListed s.core.ctl i = true → srSupWrite i = true → exec (.mts g n d i) s = .next (trap cPRIV 0 s.core.iss.pc s)))

/-- PMEN, PMZ, MPH, and MBEGIN and MEND on a quiet core complete (R384, R385, R386, R387, R388). That a write of the
pass's task at a home of another package leaves the pass BROKEN is log 158's (DEDUCED). -/
def Obligations.CounterForms : Prop :=
  ∀ (s : State) (g n d a : Nat), guardOk g n s = true →
  exec (.pmen g n a) s = .next ((List.range 4).foldl (fun t i => emit 1 (.sr (0x034 + i)
    ((srNext t (0x034 + i) &&& ~~~0x100#64) ||| (if bitAt (rdS s a) i then 0x100#64 else 0))) t) s) ∧
  exec (.pmz g n a) s = .next ((List.range 4).foldl (fun t i => if bitAt (rdS s a) i then emit 1 (.sr (0x030 + i) 0) t else t) s) ∧
  exec (.mph g n d) s = .next (emit 1 (.s d s.core.pm.cph) s) ∧
  (exposed s = false → s.core.x.pl = false → s.core.ctl = false →
    let z := drain s
    let team := teamNum z.core
    let area := fun (k : Nat) => mfind? z.ctl.meas (areaKey (teamAsid z team) k)
    let ws := (List.range 8).filterMap (fun k => (mfind? z.home.mwins (winKey team k)).map (fun w => (k, w)))
    let pm := z.core.pm
    quiet z.core = true →
    ((rdS s a).toNat < 2 →
      (pm.open_ = true → exec (.mbegin g n d a) s = .next (emit 1 (.s d 1) z)) ∧
      (pm.open_ = false → (∃ k, k < 8 ∧ area k = none) → exec (.mbegin g n d a) s = .next (emit 1 (.s d 2) z)) ∧
      (pm.open_ = false → (∀ k, k < 8 → area k ≠ none) → ws ≠ [] → exec (.mbegin g n d a) s = .next (emit 1 (.s d 5) z)) ∧
      (pm.open_ = false → (∀ k, k < 8 → area k ≠ none) → ws = [] →
        exec (.mbegin g n d a) s = .next (emit 1 (.s d 0) ((List.range 4).foldl (fun t i =>
            emit 1 (.sr (0x034 + i) (srNext t (0x034 + i) ||| 0x100#64)) (emit 1 (.sr (0x030 + i) 0) t))
          { z with core := { z.core with pm := { pm with open_ := true, refp := bitAt (rdS z a) 0, cph := 0 } },
                   home := { z.home with mwins := (List.range 8).foldl (fun m k => mput m (winKey team k) ⟨[], false, [], 0, [], []⟩) z.home.mwins } })))) ∧
    (pm.open_ = false → exec (.mend g n d) s = .next (emit 1 (.s d 3) z)) ∧
    (pm.open_ = true →
      let fresh := decide (pm.refp = true ∨ pm.ref_ = none)
      let bad := !fresh && decide (pm.ref_ ≠ some pm.cph)
      let word := wd ((if ws.any (fun p => p.2.broken) then 4 else 0) + 2 ^ 8 * b2n bad + 2 ^ 32 * (ws.map (fun p => p.2.caps.length)).sum)
      ∃ y, exec (.mend g n d) s = .next (emit 1 (.s d word) y) ∧
        y.core.pm = { pm with open_ := false, refp := false, ref_ := if fresh then some pm.cph else pm.ref_,
                              sel := (List.range 4).foldl (fun m i => mset 0 m i (mget 0 m i &&& ~~~0x100#64)) pm.sel } ∧
        y.core.cm.rc = [] ∧ y.core.cm.tlb = [] ∧ y.core.sc = z.core.sc ∧ y.core.vec = z.core.vec ∧ y.core.x = z.core.x ∧
        y.core.sp = z.core.sp ∧ y.core.pend = z.core.pend ∧
        (∀ k, mfind? y.home.mwins k = if k / 8 = team then none else mfind? z.home.mwins k) ∧
        (∀ x, Claims.passClear z ws area x → (∀ p ∈ ws, ∀ c ∈ p.2.caps, x < c.1 ∨ c.1 + 4096 ≤ x) → memByte y.mem x = memByte z.mem x) ∧
        (∀ p ∈ ws, ∀ c ∈ p.2.caps, ∀ ar i, area p.1 = some ar → c.1 % 4096 = 0 → i < 4096 →
          let x := c.1 + i
          let src := own z (ar.data + 4096 * c.2) + i
          (∀ p' ∈ ws, ∀ c' ∈ p'.2.caps, (c'.1 ≤ x → x < c'.1 + 4096 → p' = p ∧ c' = c) ∧ (src < c'.1 ∨ c'.1 + 4096 ≤ src)) →
          inLog z (lineOf x) = false → Claims.passClear z ws area x → Claims.passClear z ws area src →
          memByte y.mem x = memByte z.mem src)))

/-- PHASE, PHASE.END, DIGEST and RCMP complete (R369, R370, R373, R374). That DIGEST's predicate lands with its status is
the model's reading (DEDUCED, log 106). -/
def Obligations.ReplayForms : Prop :=
  ∀ (s : State) (g n d e a b r : Nat), guardOk g n s = true → s.core.ctl = false → exposed s = false →
  (quiet s.core = true →
    (ownLineFault false (rdA s r) 64 s = none → spadFault s 0 false (rdA s r) 64 [(0, 64)] = none → Claims.portsFree s →
      let line := spadBytes s.core 1 ((rdA s r).toNat % 2 ^ 20) 64
      let es := (List.range 8).map (fun i => leAt line (8 * i) 8)
      let rs := es.filterMap phaseEnt
      es.any phaseEntBad = false → phaseDispute rs = none → ∃ v, Claims.onlyIss s v ∧
        (phaseRoom s.core rs = true → exec (.phase g n d r) s = .next (retStatus d 0 (onCore (fun c => { c with phase := rs }) v))) ∧
        (phaseRoom s.core rs = false → exec (.phase g n d r) s = .next (retStatus d 1 v))) ∧
    exec (.phaseEnd g n) s = .next (onCore (fun c => { c with phase := [] }) s) ∧
    exec (.digest g n d e) s = .next (emit Config.devLat (predBit e (winsWhole s (teamNum s.core)))
      (retDev d (teamDigest s (teamNum s.core)) s))) ∧
  (let step := (rdS s b).toNat % 2 ^ 32
   (∀ y k, groupOf s (teamNum s.core) = some y → y.outcome step = some k → exec (.rcmp g n d a b) s = .next (retStatus d k s)) ∧
   (groupOf s (teamNum s.core) = none → exec (.rcmp g n d a b) s = .next (retStatus d 2 s)))

/-- CKPT of a team whose other cores are off records the checkpoint and opens new windows (R228, R333, R334). That the
team's dealing stops while the CKPT waits, and what its other tasks are asked, are log 83's (DEDUCED). -/
def Obligations.CheckpointForm : Prop :=
  ∀ (s : State) (g n d : Nat) (k : Cont) (x : Team), guardOk g n s = true → s.core.ctl = false → s.core.x.pl = false → exposed s = false →
  s.core.sc.loops = [] → s.core.pm.open_ = false → s.core.task.cont = some k → teamOf s k.team = some x →
  (x.ckBusy = none ∨ x.ckBusy = some s.focus) → (x.ckBusy = none → (areaStacks s x.asid).length = 8) →
  let v := drain (onTeam k.team (fun y => { y with ckBusy := some s.focus }) s)
  let z := onTeam k.team (fun y => { y with ckStop := true }) v
  quiet z.core = true → (coresOf z k.team).filter (fun c => decide (c ≠ z.focus)) = [] → teamHolds z k.team = false →
  let me : Cont := { k with pc := z.core.iss.seq, keep := true }
  ∃ t y u, exec (.ckpt g n d) s = .next t ∧ teamOf t k.team = some y ∧ y.ckBusy = none ∧ y.ckStop = false ∧ y.live = x.live ∧ y.ready = x.ready ∧
    me ∈ y.ck.ready ∧ (∀ c ∈ x.ready, c ∈ y.ck.ready) ∧ y.ck.live = x.live ∧ y.ck.nextIdx = x.nextIdx ∧
    t = emit 1 (.s d (wd (x.rolls * 2 ^ 32))) u ∧ t.core.sc = z.core.sc ∧ t.core.vec = z.core.vec ∧
    (∀ j, j < 8 → mfind? t.home.wins (winKey k.team j) =
      if (mfind? s.ctl.caps (areaKey x.asid j)).isSome = true then some ⟨[], false, [], 0, [], []⟩ else none) ∧
    (∀ i, i / 8 ≠ k.team → mfind? t.home.wins i = mfind? z.home.wins i)

/-- Collectives are accepted, or turned away with 0 when there is no room; LNKST completes (R350, R351, R352, R360). -/
def Obligations.CollectiveForms : Prop :=
  ∀ (s : State) (g n p r t d a : Nat), guardOk g n s = true → s.core.ctl = false →
  exec (.lnkst g n d a) s = .next (retDev d (linkWord s (fld (rdS s a) 3 0)) s) ∧
  (ownLineFault false (rdA s r) 128 s = none → spadFault s 0 false (rdA s r) 128 [(0, 128)] = none → Claims.portsFree s →
   let desc := spadBytes s.core 1 ((rdA s r).toNat % 2 ^ 20) 128
   let takes := fun (k : Nat) (o : Out) => ∃ v, Claims.onlyIss s v ∧ (clBad v k desc = false →
     ∀ m u, clAll (!v.core.x.pl) (clRanges v k desc) [] v = (.inr m, u) → m.any (fun x => decide (pkgOf (x.2 / 8 * 2 ^ 16) ≠ u.ctl.pkgNum)) = false →
     let c : Coll :=
       { id := u.net.nextColl, core := u.focus, team := teamNum u.core, slot := (u.core.task.cont.map Cont.ctx).getD 0, sup := u.core.x.pl,
         kind := k, tag := t, desc := desc, pages := m, ring := [], at_ := 0, status := 0,
         flags := flNone, bytes := 0, notes := [], data := none }
     let room := u.core.cm.colOut < 8 ∧ u.net.colls.length < 256 ∧ evRoom u.core = true
     (room → o = .next (emit 1 (predBit p true) (onNet (fun x => { x with colls := x.colls ++ [c], nextColl := x.nextColl + 1 })
       (onCm (fun x => { x with colOut := x.colOut + 1 }) (onCp (fun x => { x with resv := x.resv + 1 }) u))))) ∧
     (¬ room → o = .next (emit 1 (predBit p false) u)))
   takes 0 (exec (.rscat g n p r t) s) ∧
   takes 1 (exec (.agath g n p r t) s) ∧
   takes 2 (exec (.ared g n p r t) s) ∧
   takes 3 (exec (.send g n p r t) s) ∧
   takes 4 (exec (.recv g n p r t) s))

/-- The steps of a core's clock complete (R117, R118, R255, R285, R286, R310, R328). That a request whose two log records
find no room stays pending is the model's reading (DEDUCED, log 144). -/
def Obligations.CoreClockSteps : Prop :=
  ∀ (s : State),
  (s.ctl.halted = false →
    ((s.core.st = .run ∨ s.core.st = .handler) → homing s = false →
      (unanswered s = false →
        (lookOut s = none → exec .issueBundle s = .next (fetchBundle s)) ∧
        (∀ t, lookOut s = some t → exec .issueBundle s = .next (onIss (fun i => { i with busy := false }) t))) ∧
      (unanswered s = true → exposed s = true → exec .issueBundle s = .next (onIss (fun i => { i with busy := false }) (freeze 1 s)))) ∧
    (homing s = true ∨ (s.core.st ≠ .run ∧ s.core.st ≠ .handler) →
      exec .issueBundle s = .next (onIss (fun i => { i with busy := false }) (pass 1 s)))) ∧
  (issuesExposed s = true → exec .resultLands s = .next s ∧ exec .s12Landing s = .next s) ∧
  (∀ p r, issuesExposed s = false → s.core.pend = p :: r → exec .resultLands s = .next (pass (p.due + 1 - s.core.now) s)) ∧
  (∀ f r, issuesExposed s = false → s.core.mx.flight = f :: r → ∃ k, exec .s12Landing s = .next (pass (k + 1 - s.core.now) s) ∧
    (∃ x ∈ s.core.mx.flight, x.land = k) ∧ (∀ x ∈ s.core.mx.flight, k ≤ x.land)) ∧
  (s.core.st = .run → s.core.x.pl = false → fld s.core.x.wdogr 63 32 = 1 → exec .watchdogExpiry s = .next (pass 1 (if issuesExposed s then onCore (putOff 1) s else s))) ∧
  (s.core.st = .run → s.core.x.pl = false → s.core.iss.from_ = 0 → leavable s.core = true → s.core.ev.fpx = none →
    let z := drain s
    (forcedDue s.core = true → (∀ t, boundary s = some t → exec .forcedBoundary s = .next t) ∧
      (z.core.ev.fpx = none → z.core.x.pl = false → z.core.x.pp = false → z.core.ev.late = [] → z.core.ev.wdog = true →
        exec .forcedBoundary s = .next (takeWdog true z))) ∧
    (s.core.x.pp = true → (s.core.ev.stopped = true ∨ forcedDue s.core = true) → z.core.ev.fpx = none → z.core.x.pl = false →
      z.core.x.pp = true → preMay s = true → exec .preemption s = .next (startSave z))) ∧
  (∀ k x, s.core.st = .save → saveReady s.core = true → s.core.task.cont = some k → teamOf s k.team = some x → ∃ t y, exec .saveComplete s = .next t ∧
    let c : Cont := { k with pc := s.core.iss.npc, keep := true, pre := true }
    (coreAt t s.focus).st = .idle ∧ (slotAt t k.ctx).st = .ready ∧ (slotAt t k.ctx).cont = some c ∧
    (slotAt t k.ctx).ctx = some { s.core with pend := [], sb := settleSb s.core.sb, vec := { s.core.vec with latch := [] }, x := { s.core.x with pp := false },
                                              cp := { s.core.cp with evq := s.core.cp.evq ++ s.core.cp.evNew.map Prod.snd, evNew := [] } } ∧
    (slotAt t k.ctx).held = s.core.cm.held ∧ (slotAt t k.ctx).regs = s.core.cm.regs ∧
    teamOf t k.team = some y ∧ y.ready = x.ready ++ [c] ∧ y.live = x.live) ∧
  (∀ c, c < 1024 → (coreAt s c).st = .dhalt → ∃ t, exec (.coreReset c) s = .next t ∧
    let now := if (coreAt s c).now < s.time then s.time else (coreAt s c).now
    coreAt t c = { Core.reset c false with now := now, born := now })

/-- The steps of the copy engine, Teasel, the Sorrel engines and the homes complete (R160, R162, R164, R166, R204, R206,
R258, R263, R264, R266, R267, R270). That an in-DRAM command is judged when it completes (DEDUCED, log 75), that a
reset stops an update after any number of a block's lines and leaves it at the head of its queue (DEDUCED, log 118)
and that lines of bound ranges it wrote stay (DEDUCED, log 156) are the model's clauses. -/
def Obligations.EngineSteps : Prop :=
  ∀ (s t : State) (k k' : CopyCmd) (r : TReq) (rest : List CopyCmd) (rs : List TReq) (i q : Nat) (rem : List Byte) (o : OutLine)
    (line : List Byte) (fl : Flags5) (f : EngFault) (x : Arr) (m : DramCmd),
  let u := teaselNorm s
  let h := hndOf k.arg
  let ours := fun (key : Nat) (z : State) => publish (fun x => decide (x.owner = key) && !x.bound) z.core.pm.open_ z
  let told := fun (key : Nat) (z : State) =>
    inFlight z (fun p => match p with | .tell c n a _ => decide (c = z.focus ∧ n = kPublish ∧ a = key) | _ => false)
  (s.core.cp.cmds = k :: rest → k.held = false →
    (k.kind ≠ .pref → k.kind ≠ .cpyq → (cdOf k.desc).empty = false → srcWaits k s = false → startCmd k rem s = (.inr k', t) → k'.out ≠ [] →
      o = nth ⟨0, 0, 0, 0, [], 0⟩ k'.out (i % k'.out.length) →
      (∀ z, landLine k' o t = .done z line fl → ∃ v, exec (.copyLineLands i rem) s = .next v ∧ v = lineDone k' o line fl z ∧ v.mem = z.mem ∧
        v.home = z.home ∧ (∀ n, (cdOf k'.desc).nb = false → chunkOf k' o = some n →
          ((k'.out ++ k'.sent).filter (fun x => decide (chunkOf k' x = some n))).length ≤ 1 →
          cbOf v.core k'.cb = cbOf z.core k'.cb ||| BitVec.ofNat 256 (2 ^ n))) ∧
      (∀ z p, landLine k' o t = .sent p z → exec (.copyLineLands i rem) s = .next (lineSent o p z))) ∧
    (k.kind = .cpyq → k.started = true → k.out ≠ [] → exec (.copyLineLands i rem) s = .next
      (landReq k (nth ⟨0, 0, 0, 0, [], 0⟩ k.out (i % k.out.length)) rem s)) ∧
    (k.kind ≠ .pref → k.kind ≠ .cpyq → ((cdOf k.desc).empty = true ∨ (k.started = true ∧ k.out = [] ∧ k.sent = [])) → k.far = [] →
      ∀ z b g, storeDigest k s = .done z b g → told z.focus z = false →
      let e := (cdOf k.desc).empty
      let nb := (cdOf k.desc).nb
      let p := ours z.focus (onHead (fun _ => { k with stage := if k.stage = 0 then 1 else k.stage }) z)
      ∃ v, exec .copyCommandCompletion s = .next v ∧ v.core.cp.cmds = p.core.cp.cmds.drop 1 ∧
        v.core.cp.evNew = p.core.cp.evNew ++ [(p.core.now, evRec 0 k.tag (if e then 1 else 0) (if nb then 1 else k.cb * 2) k.bytes)] ∧
        v.core.x.fpstat = p.core.x.fpstat ||| wd (k.flags.toNat * 2 ^ 45) ∧
        (nb = false → e = false → cbOf v.core k.cb = cbOf p.core k.cb ||| k.gap) ∧ (nb = true ∨ e = true → v.core.cp.cb = p.core.cp.cb) ∧
        v.mem = p.mem ∧ v.home = p.home ∧ v.core.sc = p.core.sc) ∧
    (k.kind = .cpyq → k.started = true → k.out = [] → k.sent = [] → k.notice = none → k.far = [] → told s.focus s = false →
      ∃ v, exec .copyCommandCompletion s = .next v ∧ Claims.noticed k (ours s.focus s) v) ∧
    (headFault k [] s = some f → exec .copyLateFault s = .next (onEv (fun e =>
      { e with late := e.late ++ [⟨f.1, f.2.1, f.2.2, k.pc, 13, s.core.iss.npc, 1⟩] }) (onHead (fun c => { c with held := true }) s))) ∧
    (k.kind = .cpyq → k.started = false → h.ok = true → h.pkg = s.ctl.pkgNum → ∀ e z, qPop ⟨k.sup, fld k.ttb 63 52⟩ h s = (0, e, z) →
      exec (.copyRequestPop rem) s = .next (takeReq e z))) ∧
  (s.core.cp.cmds = k :: rest → k.notice.isSome = true → ∃ v, exec (.noticePushRetry 1) s = .next v ∧ Claims.noticed k s v) ∧
  (∀ n, s.dist.notices.find? (fun n => !n.sent) = some n → exec (.noticePushRetry 0) s =
    .next (pushNotif n (onDist (fun d => { d with notices := d.notices.erase n }) s))) ∧
  (u.core.th.reqs = r :: rs → r.held = false →
    (∀ z, teaselUnit r rem u = .did z → exec (.teaselBlockComputed rem) s = .next (teaselNorm z)) ∧
    (r.pre = [] → r.todo = [] → (r.region = none ∨ (r.planned = true ∧ r.out = [] ∧ r.sent = [])) → r.far = [] → told (4096 + u.focus) u = false →
      let p := ours (4096 + u.focus) u
      ∃ v, exec .teaselRequestCompletion s = .next v ∧ v.core.th.reqs = p.core.th.reqs.drop 1 ∧
        v.core.x.fpstat = p.core.x.fpstat ||| wd (r.flags.toNat * 2 ^ 40) ∧ v.mem = p.mem ∧ v.home = p.home ∧ v.core.sc = p.core.sc ∧
        (r.kind ≤ 1 → cbOf v.core r.cb = cbOf p.core r.cb ||| endBits r ∧ v.core.cp.evNew = p.core.cp.evNew ++
          [(p.core.now, evRec (2 + r.kind) r.tag (if r.kind = 0 ∧ r.blocks = 0 then 1 else 0) (r.cb * 2) r.blocks)]) ∧
        (2 ≤ r.kind → v.core.cp = p.core.cp) ∧
        (r.kind = 2 → ∀ g e, r.region = some g → tvOf p.core r.tv = ⟨.pend e, some g⟩ → r.src = .node e → tvOf v.core r.tv = ⟨.homed, some g⟩)) ∧
    (∀ z pc, teaselUnit r [] u = .bad z pc → exec .teaselLateFault s = .next (onEv (fun e => { e with late := e.late ++ [⟨z.1, z.2.1, z.2.2, pc, 13, r.fpc, 2⟩] })
      (onReq (fun r => { r with held := true, busy := false }) u)))) ∧
  (∀ y w c b, mfind? s.home.queues q = some y → nextDue (fun _ => true) y = some w → w.who.core = some c → w.due = some b → isFar c = false →
    exec (.waiterDelivery q) s = .next (putQueue q { y with waits := y.waits.erase w } (onCoreAt c (fun z =>
      postEv (evRec 5 w.tag 0 0 64) (rcFilter (fun _ => true) (asyncBytes s.time 4 4096 (ownPorts 1 w.off 64) 1 w.off b z))) s))) ∧
  (s.home.arrivals[i]? = some x → x.ctl = none → (s.home.arrivals.take i).any (fun y => decide (y.rec_ = x.rec_) && x.rec_.isSome) = false →
    let leaves := fun (st b : Nat) (z v : State) => v.home.arrivals = z.home.arrivals.eraseIdx i ∧ v.mem = z.mem ∧
      (∀ c tag, x.core = some (c, tag) → x.coll = none → c < 1024 →
        (coreAt v c).cp.evNew = (coreAt z c).cp.evNew ++ [((coreAt z c).now, evRec 7 tag st 0 b)] ∧
        (coreAt v c).cm.msOut = (coreAt z c).cm.msOut - 1)
    (x.rec_.bind (fun a => s.home.regions.find? (fun g => decide (g.rec_ = a))) = none →
      ∃ v, exec (.arrival ⟨i, rem⟩) s = .next v ∧ leaves 3 0 s v) ∧
    (∀ y, x.rec_.bind (fun a => s.home.regions.find? (fun g => decide (g.rec_ = a))) = some y →
      let c := recAt s.mem y.rec_
      (x.run = none → arrRefused s y c x rem = true → ∃ v, exec (.arrival ⟨i, rem⟩) s = .next v ∧ leaves 3 0 (recCount y 0xB8 true s) v) ∧
      (x.run = none → arrRefused s y c x rem = false → inWindow s y c x = true → ∃ v, exec (.arrival ⟨i, rem⟩) s = .next v ∧
        leaves 1 0 (recCount y 0xB4 true ((pcsIn y.pages c.winb 32768).foldl (fun s p => msReads p.1 p.2 s) s)) v) ∧
      ((x.run = none → arrRefused s y c x rem = false ∧ inWindow s y c x = false) →
        let a := if x.run = none then acceptArr y c x rem s else (x, s)
        ∀ z go, engAcqAll (regHolder y) (regObjs a.2 y) a.2 = (go, z) →
          (go = false ∨ nextBlock y c a.1 (a.1.run.getD ⟨0, 0, [], flNone⟩) z = none → exec (.arrival ⟨i, rem⟩) s = .next (setArr i (some a.1) z)) ∧
          (go = true → ∀ w v, nextBlock y c a.1 (a.1.run.getD ⟨0, 0, [], flNone⟩) z = some (w, v) →
            (w.done < x.nblk → exec (.arrival ⟨i, rem⟩) s = .next (setArr i (some { a.1 with run := some w }) v)) ∧
            (x.nblk ≤ w.done → ∃ n, exec (.arrival ⟨i, rem⟩) s = .next n ∧
              let g := recPut y 0x70 (w.gens.flatMap (fun x => leBytes 4 x.toNat)) v
              let e := recPut y 0xBC (leBytes 4 (memNat g.mem (y.rec_ + 0xBC) 4 ||| w.fl.toNat)) g
              let ho := whoRegion e y
              leaves 0 (4 * c.count x.blk0 x.nblk)
                (recCount y 0xB0 false ((regObjs e y).foldl (fun s o => engRel (regHolder y) ho.key ho.meas o s) e)) n))))) ∧
  (s.home.dram[i]? = some m →
    let s0 := onHome (fun h => { h with dram := h.dram.eraseIdx i }) s
    (dramRefused s m = false → exec (.inDramCompletion i) s = .next (endMs m.core (evRec 6 m.tag 0 0 65536) (dramWrite m s0))) ∧
    (dramRefused s m = true → exec (.inDramCompletion i) s = .next (endMs m.core (evRec 6 m.tag 3 0 0)
      (onCoreAt m.core (fun c => { c with ev := { c.ev with late := c.ev.late ++ [⟨cENTRY, 0, m.va, m.pc, 13, m.pc, 0⟩] } }) s0)))) ∧
  (∀ y l, s.home.arrivals[i]? = some x → x.ctl = none → x.rec_ = some y.rec_ →
    s.home.regions.find? (fun z => decide (z.rec_ = y.rec_)) = some y → (s.home.arrivals.take i).any (fun z => decide (z.rec_ = x.rec_)) = false →
    let c := recAt s.mem y.rec_
    (x.run = none → arrRefused s y c x rem = false ∧ inWindow s y c x = false) →
    let a := if x.run = none then acceptArr y c x rem s else (x, s)
    let w := a.1.run.getD ⟨0, 0, [], flNone⟩
    ∀ z, engAcqAll (regHolder y) (regObjs a.2 y) a.2 = (true, z) →
      let b := updBlock z y c (hpOf z y.rec_) (x.blk0 + w.done) x.seq (fun k => gradAt a.1 (w.pos + k)) w.gens
      let n := blockLines y (whoRegion z y) ((blockWrites c (x.blk0 + w.done) x.seq b.lines).take l) z
      ∃ v, exec (.stackLogicDieReset (stackOf (paOf y.rec_)) i l rem) s = .next v ∧ v.home.arrivals = setNth n.home.arrivals i { a.1 with run := none } ∧
        v.mem = (publish (fun p => decide (p.owner = (whoRegion z y).key) &&
          (y.pcs n).any (fun q => decide (q.1 ≤ p.line ∧ p.line < q.1 + q.2))) (whoRegion z y).meas n).mem ∧ v.core.cp = n.core.cp)

/-- Picks, dispatch, reports and returns of the distributor complete (R277, R288, R289, R290, R293). That work counts only
where it can be placed and placement goes by the actual counts (DEDUCED, log 77), and that the tasks of a chunk are
handed out at its deal (DEDUCED, log 78), are the model's clauses. -/
def Obligations.DistributorSteps : Prop :=
  ∀ (s : State) (c die : Nat) (k : Cont) (x : Team),
  (let z := (s.dist.quadq.map QTask.quad).foldl (fun t q => handOut q t) s
   let ok := fun (p : Nat × Team) => (bestQuad z p.2.card.gang).isSome
   ((List.range 1024).any (coreFree z) = true → ∀ l ts n q j, pickLevel z ok = some (l, ts) → nextTeamOf (mget 4096 z.dist.rr l) ts = some n →
     teamOf z n = some x → bestQuad z x.card.gang = some q → freeOfQuad z q = some j → (∀ m ∈ x.ready, m.team = n) →
     let done := fun (Q : State → Team → Prop) => ∃ t y, exec .pick s = .next t ∧ teamOf t n = some y ∧ y.live = x.live ∧
       t.dist.rr = mput z.dist.rr l n ∧ t.dist.age = ageAfter z ok l ∧ (logD z n 0 = none → t.mem = z.mem ∧ t.core = z.core) ∧ Q t y
     (∀ m, firstReady x.card.det (readyAt z x l) = some m →
       let placed := if x.card.gang then (gangOf m (readyAt z x l)).map (fun i => (4 * q + i.idx % 4, i)) else [(j, m)]
       done (fun t y => t.dist.toDo = z.dist.toDo ++ placed ∧ y.ready = placed.foldl (fun r p => r.erase p.2) x.ready)) ∧
     (readyAt z x l = [] → dealRoom z n x = true →
       (x.card.fixed = false →
         let us := x.units.take (chunkSize z x)
         let ns := if x.card.gang then us.flatMap (fun u => (List.range 4).map (fun p => 4 * u + p)) else us
         done (fun t y => y.ready = x.ready ∧ y.conts = x.conts + ns.length ∧ y.back = x.back.filter (fun u => !us.contains u) ∧
           ∀ i ∈ ns, (∃ w ∈ t.dist.quadq, w.quad = q ∧ w.cont = freshCont n x.card none 0 i) ∨
             (∃ p ∈ t.dist.toDo, p.1 / 4 = q ∧ p.2 = freshCont n x.card none 0 i))) ∧
       (x.card.fixed = true → ∀ i us, x.units = i :: us →
         let lo := x.slotFrom i
         done (fun t y => y.ready = x.ready ∧ t.dist.toDo = z.dist.toDo ++
           (if x.card.gang then (List.range 4).map (fun p => (4 * q + p, freshCont n x.card (some i) 0 (4 * lo + p)))
            else [(j, freshCont n x.card (some i) (x.slotCtx i) lo)]))))) ∧
   ((List.range 1024).any (coreFree z) = false → ∀ l ts j m, pickLevel z (fun _ => true) = some (l, ts) → victim z l = some (j, m) →
     ∃ t, exec .pick s = .next t ∧ t.mem = z.mem ∧ t.dist.toDo = z.dist.toDo ∧
       (∀ i ∈ preCores z j m, (coreAt z i).task.cont.isSome = true → (coreAt z i).iss.wait ≠ 3 → (coreAt t i).x.pp = true))) ∧
  (let w := if c < 1024 ∧ s.dist.toDo.all (fun p => decide (p.1 ≠ c)) = true then takeQuad c s else s
   s.ctl.run = true → w.dist.toDo.find? (fun p => decide (p.1 = c)) = some (c, k) → teamOf w k.team = some x → (coreAt w c).st = .idle →
   x.ckStop = false → ∀ slot u, takeSlot k w = (some slot, u) →
   ∃ t, exec (.dispatch c) s = .next t ∧ (coreAt t c).st = .run ∧ (coreAt t c).iss.npc = k.pc ∧
     (coreAt t c).task.cont = some { k with ctx := slot, fresh := false } ∧ t.dist.toDo = w.dist.toDo.erase (c, k) ∧
     (slotAt t slot).st = .running ∧ (slotAt t slot).team = k.team ∧
     (coreAt t c).x.ttb = (supOf w x.asid).ttb &&& ~~~0xFFF#64 ∧ (coreAt t c).x.xbase = (supOf w x.asid).xbase &&& ~~~3#64 ∧
     (k.keep = false → (slotAt w slot).ret = none → let r := mget 0 (coreAt t c).sc.s
       (∀ i, i < 6 → r (i + 1) = nth 0 k.args i) ∧ r 7 = wd k.task ∧ r 8 = wd k.team ∧ ∀ i, (i = 0 ∨ 9 ≤ i) → r i = 0)) ∧
  (die < 4 → ∃ t, exec (.freeCoreReport die) s = .next t ∧ (∀ d, d ≠ die → mget 0 t.dist.freeRep d = mget 0 s.dist.freeRep d) ∧
    mget 0 t.dist.freeRep die = ((List.range 256).filter (fun i => coreFree s (256 * die + i))).length ∧
    t = onDist (fun d => { d with freeRep := t.dist.freeRep }) s) ∧
  (let late := fun (q : QTask) => decide (q.since + 4096 ≤ s.time)
   ∃ t, exec .untakenTasksReturn s = .next t ∧ t.dist.quadq = s.dist.quadq.filter (fun q => !late q) ∧ t.dist.toDo = s.dist.toDo ∧
     t.core = s.core ∧ t.mem = s.mem ∧
     (∀ n, teamOf s n = some x → ∃ y, teamOf t n = some y ∧ y.live = x.live ∧ y.ready = x.ready ∧ y.nextIdx = x.nextIdx ∧
       let old := s.dist.quadq.filter (fun q => late q && decide (q.cont.team = n))
       y.conts = x.conts - old.length ∧
       ∀ u, u ∈ y.back ↔ u ∈ x.back ∨ ∃ q ∈ old, u = if x.card.gang then q.cont.idx / 4 else q.cont.idx))

/-- Flits, packets, acknowledgements and the steps of a collective complete (R253, R343, R344, R345, R346, R347, R348,
R353, R354, R357, R358, R359). How an ACK or a NAK names its flit (DEDUCED, log 97), that what the others give is the
step's input (DESIGN CHOICE, log 101), how offers match commands (DEDUCED, log 147), and that a gap brings one NAK and
a marker goes on by one link (log 157) are the model's clauses. -/
def Obligations.TorusSteps : Prop :=
  ∀ (s : State) (k i n o : Nat) (f : List Byte) (p : Pkt) (c : Coll) (b : List Byte) (d e : Nat) (r : PktReq),
  ((linkAt s k).st = 0 → flitGood f = true →
    let l := linkKept s k
    let q := flitSeq f
    let z := putLink k { l with rx := (q + 1) % 4096, pos := (q + 1) % 4096, nak := false } s
    let pl := (f.drop 2).take 58
    (q = l.rx →
      (flitType f = 1 → exec (.flitData k f) s = .next (replyFlit k 2 q (keepPayload k f z))) ∧
      (flitType f = 4 → ∀ a h, Config.markRef pl = (a, h) →
        (h = s.ctl.pkgNum → exec (.flitMarker k f) s = .next (replyFlit k 2 q (onNet (fun n =>
          { n with markers := mset 0 n.markers a (mget 0 n.markers a + 1) }) z))) ∧
        (∀ j v, h ≠ s.ctl.pkgNum → chooseLink z a h = (some j, v) →
          exec (.flitMarker k f) s = .next (replyFlit k 2 q (putFlits j 4 ⟨a, h, 2 ^ 32, false⟩ [pl] v))))) ∧
    (q ≠ l.rx → flitType f = 1 →
      (2048 ≤ (q + 4096 - l.rx) % 4096 → exec (.flitData k f) s = .next (replyFlit k 2 q s)) ∧
      ((q + 4096 - l.rx) % 4096 < 2048 → l.nak = false →
        exec (.flitData k f) s = .next (replyFlit k 3 l.rx (putLink k { l with pos := (q + 1) % 4096, nak := true } s))) ∧
      ((q + 4096 - l.rx) % 4096 < 2048 → l.nak = true → (q + 4096 - l.pos) % 4096 < 2048 →
        exec (.flitData k f) s = .next (putLink k { l with pos := (q + 1) % 4096 } s))) ∧
    (∀ x y, l.unack.dropWhile (fun z => decide (z.seq ≠ flitAns f)) = x :: y →
      (flitType f = 2 → exec (.flitAck k f) s = .next (drained (putLink k { l with unack := y } s))) ∧
      (flitType f = 3 → x.again = false → l.retry + y.length + 1 < 65536 → exec (.flitNak k f) s = .next (putLink k
        { l with unack := l.unack.takeWhile (fun z => decide (z.seq ≠ flitAns f)) ++ { x with again := true } :: y,
                 retry := l.retry + y.length + 1 } s)))) ∧
  ((linkAt s k).st = 1 → exec (.linkTrained k) s = .next (putLink k { linkKept s k with st := 0, tx := 0, rx := 0, pos := 0, nak := false } s)) ∧
  (0 < n → o + n ≤ (linkKept s k).inb.length →
    let line := ((reqLine r).map (· + 1)).getD 0
    let v := (mfind? s.net.seen d).getD .new
    let held := v.wait.find? (fun w => decide (w.1 = e))
    let twice := if everyCopy r then false else if forEngine r then v.eng.contains e else v.had e && held.isNone
    let since := (held.map (fun w => w.2.1)).getD s.time
    let w := v.put e
    let rest := w.wait.filter (fun x => decide (x.1 ≠ e))
    let here := s.ctl.pkgNum
    (∀ h, h ≠ here → exec (.packetArrival ⟨k, o, n⟩ ⟨d, h, e⟩ r) s = .next (routeRef ⟨d, h, e, false⟩ (usePayloads k o n s)).2) ∧
    (twice = false → w.behind e line since s.time = false →
      ∀ st x u, farReq d r s = some (st, x, u) → ∃ t, exec (.packetArrival ⟨k, o, n⟩ ⟨d, here, e⟩ r) s = .next t ∧
        t.net.acks = u.net.acks ++ [(d, e, st, x)] ∧ t.mem = u.mem ∧ t.home = u.home ∧ t.core = u.core ∧
        mfind? t.net.seen d = some { (if line = 0 then w else w.past e) with
          wait := rest, eng := if forEngine r then (e :: w.eng).take 4096 else w.eng }) ∧
    (twice = false → w.behind e line since s.time = true → (∀ c z k a b, r ≠ .ask c z k a b) → exec (.packetArrival ⟨k, o, n⟩ ⟨d, here, e⟩ r) s =
      .next (onNet (fun n => { n with seen := mput n.seen d { w with wait := rest ++ [(e, since, line)] } }) s)) ∧
    (twice = true → ∀ x, s.net.acks.find? (fun y => decide (y.1 = d ∧ y.2.1 = e)) = some x →
      ∃ t, exec (.packetArrival ⟨k, o, n⟩ ⟨d, here, e⟩ r) s = .next t ∧ t.net.acks = s.net.acks ++ [x] ∧ t.mem = s.mem ∧ t.home = s.home ∧
        t.core = s.core ∧ t.net.seen = s.net.seen)) ∧
  (s.net.pkts.find? (fun x => decide (x.dst = d ∧ x.eseq = e)) = some p → ∀ st v,
    (∀ c z a bs y, p.req = .store c z a bs y → st = 0 → exec (.endToEndAck d e st v) s = .next (dropPkt d e s)) ∧
    (∀ c z a bs pc va, p.req = .store c z a bs (some (pc, va)) → 2 ≤ st → exec (.endToEndAck d e st v) s = .next (onCoreAt c (fun x =>
      { x with ev := { x.ev with late := x.ev.late ++ [⟨cENTRY, 0, va, pc, 3, pc, 0⟩] } }) (dropPkt d e s))) ∧
    (∀ c z a bs y, p.req = .ask c z a bs y → lastAsk s p = true →
      exec (.endToEndAck d e st v) s = .next (answer c (if st = 0 then some v else none) (dropPkt d e s)))) ∧
  (s.net.pkts[i]? = some p →
    (p.again < 3 → p.last + 16384 ≤ s.time → exec (.retransmission i) s = .next (resend p (onNet (fun n => { n with pkts := n.pkts.map (fun q =>
      if q = p then { q with again := p.again + 1, last := s.time } else q) }) s))) ∧
    (p.first + 131072 ≤ s.time → exec (.packetDeclaredFailed i) s = .next (failPkt p.via.toList p s))) ∧
  (collAt s i = some c →
    let ended := fun (x : Coll) (st : Nat) (z : State) => onHome (fun h => { h with objs := h.objs.map (engGone (collHolder x.id)) })
      (putColl { x with at_ := 3, status := st, bytes := 0, notes := [] } z)
    (c.at_ = 0 → clBehind s c = false →
      let x := { c with ring := clRing s c }
      ((c.kind < 3 ∧ ringBad s x.ring = true) ∨ (c.kind = 3 ∧ (clGone s false (clSource x) = true ∨ clTorn s (clSource x) = true)) →
        exec (.collectiveStart i false) s = .next (ended x 3 s)) ∧
      ((c.kind < 3 → ringBad s x.ring = false) → (c.kind = 3 → clGone s false (clSource x) = false ∧ clTorn s (clSource x) = false) →
        (clOthers s x).findSome? (deadDir s) = none →
        let y := { x with at_ := 4 }
        let z := if c.kind < 3 ∧ clRk c.desc = 0 then netReads (whoNet c.team 0 false) (clPcs c.pages (clRlist c.desc) (2 * clP s c.desc)) s else s
        exec (.collectiveStart i false) s = .next (clMatch y ((clOthers z y).foldl (fun z m => sendPkt m (.offer x.id y.sig) z) (putColl y z))))) ∧
    (c.at_ = 4 →
      let ms := clOthers s c
      let os := ms.filterMap (fun m => (offerOf s c m).map (fun o => (m, o)))
      let z := onNet (fun n => { n with offers := os.foldl (fun xs o => xs.erase o) n.offers }) s
      (os.length < ms.length → exec (.collectiveStart i true) s = .next s) ∧
      (ms.length ≤ os.length → os.all (fun o => offerFits c o.2) = false → exec (.collectiveStart i true) s = .next (ended c 5 z)) ∧
      (ms.length ≤ os.length → os.all (fun o => offerFits c o.2) = true → exec (.collectiveStart i true) s = .next (clSend c z))) ∧
    (c.at_ = 1 →
      let got := if c.kind = 4 then c.data.getD [] else b
      let asked := inFlight s (fun q => match q with | .coll k => decide (k = c.id) | _ => false)
      let src := clSource c
      (asked = true ∨ got.length ≠ clRemote c ∨ c.kind = 3 → exec (.collectiveCompletion i b) s = .next s) ∧
      (asked = false → got.length = clRemote c → c.kind ≠ 3 →
        (clGone s false src = true ∨ clTorn s src = true → exec (.collectiveCompletion i b) s = .next (ended c 3 s)) ∧
        (clGone s false src = false → clTorn s src = false →
          (clLen c.desc = 0 → c.notes = [] → exec (.collectiveCompletion i b) s =
            .next (Claims.collPosted { c with at_ := 3, status := 1 } (putColl { c with at_ := 3, status := 1 } s))) ∧
          (clLen c.desc ≠ 0 → clDopt c.desc = false → clNq c.desc = 0 →
            let ds := (clDeliver s c got).1
            let z := netReads (whoNet c.team 0 false) (clSourcePcs c) s
            let ps := plainPcs (ds.flatMap (fun d => clPcs c.pages (clDst c.desc + d.1) d.2.1.length))
            let os := objsOver z ps
            let x := { c with at_ := 3, status := 0, flags := (clDeliver s c got).2, bytes := (ds.map (fun d => d.2.1.length)).sum, notes := [] }
            (clGone z true ps = true ∨ os.any (fun o => !engineIn z none o) = true → exec (.collectiveCompletion i b) s = .next (ended c 3 z)) ∧
            (clGone z true ps = false → os.any (fun o => !engineIn z none o) = false → ∀ go u, engAcqAll (collHolder c.id) os z = (go, u) →
              (go = false ∨ netWaits u (collHolder c.id) ps = true → exec (.collectiveCompletion i b) s = .next u) ∧
              (go = true → netWaits u (collHolder c.id) ps = false → exec (.collectiveCompletion i b) s =
                .next (Claims.collPosted x (putColl x (clWrite c ds (os.map (fun o => (objAt u o.line).getD o)) u))))))))) ∧
    (c.at_ = 3 → c.status ≠ 0 → exec (.collectiveCompletion i b) s = .next (Claims.collPosted c s)) ∧
    (∀ x y, c.at_ = 3 → c.notes = x :: y →
      let h := hndOf (clNq c.desc)
      h.ok = true → h.pkg = s.ctl.pkgNum → ∀ st z, qPush ⟨c.sup, teamAsid s c.team⟩ h x s = (st, z) →
        (st = qFULL → exec (.noticePushRetry (i + 2)) s = .next s) ∧
        (st = qOK → y = [] → exec (.noticePushRetry (i + 2)) s = .next (Claims.collPosted c (putColl { c with notes := [] } z)))))

/-- Power windows, temperatures, reset, frames and package register writes complete (R393, R399, R402, R403, R404). Which
draws count as work in a window (DEDUCED, log 109), which cycles are withheld and that the window's own T holds again
below 100 degrees (DEDUCED, log 110), and how frames meet their descriptors (DESIGN CHOICE, log 111) are the model's
clauses. -/
def Obligations.PowerResetAndRegisterSteps : Prop :=
  ∀ (s : State) (m v l c t : Nat) (w : Word) (fr d : List Byte) (port die : Nat),
  (let p := m + v + min l 150 + c
   let b := min (s.ctl.pcap - 360) 1440
   let lev := if p ≤ b then 0 else min ((64 * (p - b) + (m + v) - 1) / (m + v)) 63
   0 < m + v → ∃ u, exec (.powerWindow m v l c) s = .next u ∧ fld u.ctl.pwr 31 20 = b ∧ fld u.ctl.pwr 43 32 = min p 4095 ∧ u.ctl.tNow = lev ∧
     fld u.ctl.pwr 5 0 = (if s.ctl.forced = true then 63 else lev) ∧ u.core = s.core ∧ u.mem = s.mem) ∧
  (let hot := decide (105 ≤ t) || (s.ctl.forced && decide (100 ≤ t))
   let level := fun (u : State) => u.ctl.forced = hot ∧ fld u.ctl.pwr 5 0 = (if hot then 63 else s.ctl.tNow % 64) ∧ fld u.ctl.pwr 19 10 = min t 1023 ∧
     u.core = s.core ∧ u.others = s.others ∧ u.mem = s.mem
   (∃ u, exec (.thermalLimit t) s = .next u ∧ level u ∧ u.ctl.halted = s.ctl.halted) ∧
   (∃ u, exec (.thermalRecovery t) s = .next u ∧ level u ∧ u.ctl.halted = s.ctl.halted) ∧
   (∃ u, exec (.thermalTrip t) s = .next u ∧ level u ∧ u.ctl.halted = (s.ctl.halted || decide (115 ≤ t)) ∧
     (115 ≤ t → fld u.ctl.pwr 9 9 = 1 ∧ u.ctl.events = s.ctl.events ++ [(6, t, 0)]))) ∧
  (∃ u, exec .resetSequence s = .next u ∧ u.core = State.reset.core ∧ u.others = State.reset.others ∧ u.mem = State.reset.mem ∧
    u.home = State.reset.home ∧ u.dist = State.reset.dist ∧ u.grp = State.reset.grp ∧ u.net = State.reset.net ∧ u.ctl.pkgNum = s.ctl.pkgNum) ∧
  (port < 2 → let x := portAt s port
    (fr.length ≤ 9216 →
      (addDesc d x.rx = [] → exec (.frameReceived port fr d) s = .next (putPort port { x with drop := x.drop + 1 } s)) ∧
      (∀ b r, addDesc d x.rx = b :: r →
        let z := putPort port { x with rx := r } s
        (portBuf s (portDesc b).1 (portDesc b).2 = true → fr.length ≤ (portDesc b).2 → exec (.frameReceived port fr d) s =
          .next (netPut whoXd [(own s (portDesc b).1, fr.length, 0)] fr { z with free := z.free + 1 })) ∧
        (portBuf s (portDesc b).1 (portDesc b).2 = false → exec (.frameReceived port fr d) s =
          .next (putPort port { x with rx := r, drop := x.drop + 1 } { z with free := z.free + 1 })))) ∧
    (∀ b r, addDesc d x.tx = b :: r → 
      let sent := if portBuf s (portDesc b).1 (portDesc b).2 = true ∧ (portDesc b).2 ≤ 9216 then
        x.sent ++ [memBytes s.mem (own s (portDesc b).1) (portDesc b).2] else x.sent
      exec (.frameTransmit port d) s = .next (putPort port { x with tx := r, sent := sent } s))) ∧
  (die < 4 → fld w 3 0 + fld w 7 4 + fld w 11 8 ≤ 16 → ∃ u, exec (.l2quotaWrite die w) s = .next u ∧
    u.ctl.l2q = mset (wd (16 * 2 ^ 16)) s.ctl.l2q die ((w &&& 0xFFF) ||| wd ((16 - (fld w 3 0 + fld w 7 4 + fld w 11 8)) * 2 ^ 16)) ∧
    u.core = s.core ∧ u.mem = s.mem) ∧
  (600 ≤ fld w 10 0 → fld w 10 0 ≤ 1800 → exec (.pcapWrite w) s = .next (onCtl (fun x => { x with pcap := fld w 10 0 }) s)) ∧
  ((bitAt w 15 = bitAt s.ctl.podcfg 15 ∨ netQuiet s = true) →
    exec (.podcfgWrite w) s = .next (onCtl (fun x => { x with podcfg := w &&& 0xFFFF, podNext := none }) s)) ∧
  (w.toNat % 64 = 0 → w.toNat < 2 ^ 39 → exec (.packageRegisterWrite 0x4000 w) s = .next (onCtl (fun x => { x with ccmd := x.ccmd ++ [w.toNat] }) s))

/-- Management requests are performed and answered (R12, R336, R337, R394, R399, R400, R401). SHA-384 is FIPS 180-4's
(PRESUMED, log 60), Ed25519 RFC 8032's and ML-DSA-65 FIPS 204's (PRESUMED, log 61), the seeds of the identity are free
values (log 21); the layouts of the bodies (DEDUCED, log 112; of LOADOS, DESIGN CHOICE, log 135) and the card of a
management LAUNCH (DEDUCED, log 114) are the model's clauses. -/
def Obligations.ManagementSteps : Prop :=
  ∀ (s : State) (q more far : List Byte) (t len : Nat) (ed ml : Bool),
  let u := onCtl (fun c => { c with lastSeq := leAt q 4 8 }) s
  let x := mgNum q
  let sig : Sigs := ⟨ed, ml⟩
  let req := fun (c : Nat) (v : Option Sigs) => Claims.request s c v q
  (req 0x01 none → exec (.getid q) s = .next (mgReply q 0 (pkgId s ++ edKey (secret 1 32 []) ++ (mlKeys (secret 2 32 [])).bytes ++ Config.secretBytes 3 []) s)) ∧
  (req 0x02 none → let b := attestBody ((q.drop 12).take 32) s
    exec (.attest q) s = .next (mgReply q 0 (b ++ (edSign (secret 1 32 []) b ++ mlSign (secret 2 32 []) (secret 5 32 b) b)) s)) ∧
  (let i := leAt (mgBody q) 0 1
   let a := leAt (mgBody q) 8 8
   let im := ((mgBody q).drop 24 ++ more).take len
   req 0x10 (some sig) → s.ctl.run = false → i < 8 → im.length ≤ 2 ^ 28 → portBuf s a im.length = true →
   let m := sha384 (mget (List.replicate 48 0) s.ctl.mreg i ++ sha384 im)
   exec (.loados q more len ed ml) s = .next (mgReply q 0 [] (let z := onCtl (fun c => { c with mreg := mput c.mreg i m, entry := leAt (mgBody q) 16 8 }) u
     { z with mem := memPut im (own s a) s.mem }))) ∧
  (req 0x11 (some sig) → s.ctl.run = false → exec (.start q sig) s = .next (mgReply q 0 [] (startCtl (onCtl (fun c => { c with run := true }) u)))) ∧
  (leAt q 0 2 = 0x11 → 44 ≤ q.length → sig = sigsOf q → mgAuth s sig q = false → exec (.start q sig) s = .next (mgReply q 1 [] s)) ∧
  (req 0x12 (some sig) → exec (.reset q sig) s = .next (mgReply q 0 [] (resetSeq u))) ∧
  (req 0x20 (some sig) → exec (.podset q sig) s = .next (mgReply q 0 [] (podWrite (wd x) u))) ∧
  (req 0x21 (some sig) → exec (.linktrain q sig) s = .next (mgReply q 0 [] ((List.range 12).foldl (fun z k =>
    if x / 2 ^ k % 2 = 1 && !linkAbsent z k then linkDown k 1 z else z) u))) ∧
  (req 0x22 (some sig) → 600 ≤ fld (wd x) 10 0 → fld (wd x) 10 0 ≤ 1800 →
    exec (.pcapset q sig) s = .next (mgReply q 0 [] (onCtl (fun c => { c with pcap := fld (wd x) 10 0 }) u))) ∧
  (req 0x30 (some sig) → x % 2 ^ 16 = 0 → x < 2 ^ 39 → s.ctl.retired.contains (x / 2 ^ 16) = false → s.ctl.retired.length < 1024 →
    exec (.retire q sig) s = .next (mgReply q 0 [] (onCtl (fun c => { c with retired := c.retired ++ [x / 2 ^ 16] }) u))) ∧
  (req 0x31 (some sig) → (wd x).toNat % 64 = 0 → ∀ p l z args z', translate 1024 (supOf u 0).ttb false false .rd (wd x) u = (.ok p l, z) →
    isReg p = false → retired z p = false →
    let b := if pkgOf p = z.ctl.pkgNum then memBytes z.mem p 64 else far.take 64
    readArgs false 1024 (supOf u 0).ttb (far.drop 64) (leAt b 0x14 4 % 8) (leAt b 8 8) z = (args, z') →
    let xd := fun (c : Nat) => ({ whoXd with cls := c } : Who)
    let w := if args.isSome = true then argReads xd false 1024 (supOf u 0).ttb (leAt b 0x14 4 % 8) (leAt b 8 8) (l2Touch (xd (leafCls l)) false p z') else z'
    let r := launch 0 none b args w
    exec (.mgmtLaunch q far sig) s = .next (mgReply q 0 (leBytes 8 (r.1 + r.2.1 * 2 ^ 32)) r.2.2)) ∧
  (req 0x32 (some sig) → teamByHandle s x = some t → exec (.mgmtRollback q sig) s = .next (mgReply q 0 [] (rollTeam t false u))) ∧
  (∀ z d, mgReply q 0 d z = onCtl (fun c => { c with
    replies := c.replies ++ [q.take 2 ++ leBytes 2 d.length ++ (q.drop 4).take 40 ++ leBytes 4 0 ++ d] }) z) ∧
  (∀ z, let y := startCtl z
    y.mem = z.mem ∧ y.home = z.home ∧ y.dist = z.dist ∧ y.ctl = z.ctl ∧ ∀ k, k < 16 → ∃ n, coreAt y (1024 + k) =
      { Core.reset k true with st := .handler, now := n, iss := { Iss.reset with npc := wd z.ctl.entry } }) ∧
  (∀ z, let y := resetSeq z
    y.core = State.reset.core ∧ y.others = State.reset.others ∧ y.mem = State.reset.mem ∧ y.home = State.reset.home ∧ y.dist = State.reset.dist ∧
    y.grp = State.reset.grp ∧ y.net = State.reset.net ∧ y.ctl.pkgNum = z.ctl.pkgNum ∧ y.ctl.owner = z.ctl.owner ∧ y.ctl.run = false ∧
    y.ctl.replies = z.ctl.replies) ∧
  (∀ z, Claims.rolledBack t z (rollTeam t false z))

/-- Control commands are performed in order; RESULT and then STATUS are written (R336, R337, R395, R396, R397). Malformed
shapes and the choice of a queue's number (DEDUCED, log 115), empty areas, untranslated logs and stale handles
(DEDUCED, log 116), and that a refused line's block keeps its bytes (DEDUCED, log 136) are the model's clauses. -/
def Obligations.ControlCommandSteps : Prop :=
  ∀ (s : State) (pa t : Nat) (rest : List Nat), s.ctl.ccmd = pa :: rest →
  let op := fun (k : Nat) => memNat s.mem (own s pa + 8 * (k + 1)) 8
  let is := fun (code : Nat) => memNat s.mem (own s pa) 8 = code ∧ ccMalformed s pa = false ∧ retired s (own s pa) = false
  let noTeam := fun (asid : Nat) => s.dist.teams.any (fun x => decide (x.2.asid = asid)) = false
  let area := if op 2 = 0 then none else some (⟨op 1, op 2⟩ : CapArea)
  let key := areaKey (op 0 % 4096) (nbits (op 0) 18 16)
  (is 0x01 → (∃ i, i < 1024 ∧ ((mfind? s.home.queues (op 0 % 8 * 1024 + i)).map Queue.live) ≠ some true) →
    ∃ u i, exec .qcreate s = .next u ∧ i < 1024 ∧ ∃ g z, u = ccEnd pa (qHandle s.ctl.pkgNum (op 0 % 8) g i) 0 z ∧
      mfind? z.home.queues (op 0 % 8 * 1024 + i) = some { live := true, cap := 2 ^ nbits (op 0) 12 8, base := op 1, asid := op 2, hgen := g, ents := [], waits := ((mfind? s.home.queues (op 0 % 8 * 1024 + i)).map Queue.waits).getD [] } ∧ z.mem = s.mem) ∧
  (is 0x02 → ∀ q, (hndOf (wd (op 0))).pkg = s.ctl.pkgNum → (hndOf (wd (op 0))).v = true → qFind s ⟨true, 0⟩ (hndOf (wd (op 0))) = .inl q →
    exec .qdestroy s = .next (ccEnd pa 0 0 ((q.waits.filter (fun w => !w.due.isSome)).foldl (fun z w => staleTo w z)
      (putQueue (hndOf (wd (op 0))).key { q with live := false, ents := [], waits := q.waits.filter (fun w => w.due.isSome) } s)))) ∧
  (is 0x03 → s.dist.teams = [] → exec .poolset s = .next (ccEnd pa 0 0 (onDist (fun d => { d with pool := some (op 0, op 1) }) s))) ∧
  (is 0x04 → exec .supset s = .next (ccEnd pa 0 0 (onCtl (fun c => { c with sup := mput c.sup (op 0) ⟨wd (op 1), wd (op 2 / 4 * 4), wd (op 3), wd (op 4)⟩ }) s))) ∧
  (is 0x05 → noTeam (op 0 % 4096) → exec .capset s = .next (ccEnd pa 0 0 (onCtl (fun c => { c with caps := areaPut c.caps key area }) s))) ∧
  (is 0x06 → noTeam (op 0 % 4096) → exec .measset s = .next (ccEnd pa 0 0 (onCtl (fun c => { c with meas := areaPut c.meas key area }) s))) ∧
  (is 0x07 → teamByHandle s (op 0) = some t →
    let b := if op 1 = 0 then none else (teamPhys s t .rd (wd (op 1))).filter (fun a => isOwn s a)
    let z := onTeam t (fun x => { x with log := b }) s
    (b = none → exec .logset s = .next (ccEnd pa 0 0 z)) ∧ (∀ a, b = some a → exec .logset s = .next (ccEnd pa 0 0 (logsReset a z)))) ∧
  (is 0x08 → teamByHandle s (op 1) = some t →
    let far := fun (k : Nat) => (nbits (op k) 45 32, op k % 2 ^ 32)
    let others := far 3 :: (if op 2 = 3 then [far 4] else [])
    let ms := (s.ctl.pkgNum, op 1) :: others
    s.grp.anns.any (fun a => decide (a.2.1 = op 0) && !annStale s a.2.2 && (others.any (fun m => decide (m.1 = a.1)) || a.2.2.contains (s.ctl.pkgNum, op 1)) && !sameMems a.2.2 ms) = false →
    exec .repgrp s = .next (ccEnd pa 0 0 (putGroup t { num := op 0, mems := ms, subs := [], again := [], done := [] }
      (others.foldl (fun z m => tell m.1 36 (op 0) (groupBytes ms) z) s)))) ∧
  (is 0x09 → teamByHandle s (op 0) = some t → exec .rollback s = .next (ccEnd pa 0 0 (rollTeam t false s))) ∧
  (is 0x0A → (coreAt s (op 0)).st ≠ .dhalt → (coreAt s (op 0)).ev.ccreq = none →
    exec .creq s = .next (ccEnd pa 0 0 (onCoreAt (op 0) (fun c => { c with ev := { c.ev with ccreq := some (wd (op 1)) } }) s))) ∧
  (ccMalformed s pa = true → retired s (own s pa) = false → exec .malformedControlCommand s = .next (ccEnd pa 0 1 s)) ∧
  (∀ z r st, let y := ccEnd pa r st z
    let b := own z pa
    y.ctl.ccmd = z.ctl.ccmd.drop 1 ∧ (writeRefused z whoXd.key b = true → y.mem = z.mem) ∧
    (pa % 64 = 0 → pa + 64 ≤ 2 ^ 39 → inLog z b = false → z.home.regions = [] → writeRefused z whoXd.key b = false →
      memNat y.mem (b + 0x30) 8 = r % 2 ^ 64 ∧ memNat y.mem (b + 0x38) 8 = st % 2 ^ 64 ∧
      ∀ a, (a < b + 0x30 ∨ b + 0x40 ≤ a) → memByte y.mem a = memByte z.mem a)) ∧
  (∀ z, Claims.rolledBack t z (rollTeam t false z))

/-- A result issued with latency L is read from cycle t + L on and not before (R30, R31, R49, R57, R117). -/
def Obligations.ResultsLand : Prop :=
  ∀ (s : State) (lat k d r cl : Nat) (x : Word) (pm pv : BitVec 8) (w y : BitVec 16) (ls : List W32),
  s.core.pend = [] → s.core.mx.flight = [] → 1 ≤ lat →
  let after := fun (e : Land) => pass k (emit lat e s)
  (rdS (after (.s d x)) r = if r = d ∧ d ≠ 0 ∧ lat ≤ k then x else rdS s r) ∧
  (rdA (after (.a d x)) r = if r = d ∧ lat ≤ k then x else rdA s r) ∧
  (r < 8 → rdP (after (.p pm pv)) r = if r ≠ 0 ∧ bitAt pm r = true ∧ lat ≤ k then bitAt pv r else rdP s r) ∧
  (d < 8 → r < 8 → rdM (after (.m cl d w y)) cl r = if r = d ∧ d ≠ 0 ∧ lat ≤ k then mergeBits (rdM s cl d) w y else rdM s cl r) ∧
  (d < 48 → r < 48 → ∀ l, l < 16 → laneOf (after (.v cl d w ls)).core.vec.v cl r l =
    if r = d ∧ bitAt w l = true ∧ lat ≤ k then nth 0 ls l else laneOf s.core.vec.v cl r l) ∧
  (d < 16 → r < 16 → ftabWord (after (.sr (0x020 + d) x)) r = if r = d ∧ lat ≤ k then x.setWidth 32 else ftabWord s r) ∧
  (s.core.ctl = false → (after (.sr 0x011 x)).core.x.fpstat = if lat ≤ k then
      (x &&& 0x03FC000000000000#64) ||| (s.core.x.fpstat &&& ~~~x &&& 0x0003FFFFFFFFFFFF#64) else s.core.x.fpstat)

/-- A predicate-guarded instruction whose guard is false changes nothing (R45, R52). -/
def Obligations.NoEffectUnderFalseGuard : Prop :=
  ∀ (s : State) (i : Instr) (g n : Nat), guardOf i = some (g, n) → guardOk g n s = false →
  (∀ d k, (i = .mfs g n d k ∨ i = .mts g n d k) → srListed s.core.ctl k = true) → exec i s = .next s

/-- Decoding an encoded well-formed instruction gives it back, and what decodes is well formed (R43, R44, R51, R52). -/
def Obligations.EncodeDecodeRoundTrip : Prop :=
  (∀ (i : Instr) (j limm : Nat) (r : Row), rowOf i = some r → r ∈ rowsFor j → i.wf = true → i.encOk limm = true →
    encode i < 2 ^ 32 ∧ decodeSlot j limm (encode i) = some i) ∧
  (∀ (i : Instr) (j limm w : Nat), limm < 2 ^ 16 → decodeSlot j limm w = some i →
    i.wf = true ∧ i.encOk limm = true ∧ ∃ r, rowOf i = some r ∧ r ∈ rowsFor j)

/-- Example words of the spec's encoding tables decode to their instructions (R44, R51, R71, R83, R138, R155, R192, R248,
R279, R299, R315, R352). -/
def Obligations.ExampleWordsDecode : Prop :=
  decodeSlot 1 0 0x00020830 = some (.add 0 0 2 2 3) ∧
  decodeSlot 0 0 0x01000040 = some (.br 2 0 0x40) ∧
  decodeSlot 6 0 0x044C1870 = some (.vfma 0 1 12 6 7 0) ∧
  decodeSlot 3 0 0x18051000 = some (.ldd 0 0 5 1 0) ∧
  decodeSlot 3 0 0x8003084A = some (.aadd 0 0 3 2 4 2 2) ∧
  decodeSlot 13 0 0x10004031 = some (.cbwait 0 0 2 0 3) ∧
  decodeSlot 12 0 0x00040000 = some (.wload 0 0 1 0) ∧
  decodeSlot 13 0 0x48058104 = some (.tmm 0 0 5 64 65 0) ∧
  decodeSlot 0 0 0xC0030800 = some (.launch 0 0 3 2) ∧
  decodeSlot 13 0 0xA40108C4 = some (.mtarr 0 0 1 2 3 4) ∧
  decodeSlot 1 0 0xE0050001 = some (.mfs 0 0 5 1) ∧
  decodeSlot 1 0 0xF0000800 = some (.pmen 0 0 2) ∧
  decodeSlot 13 0 0xC0090005 = some (.rscat 0 0 1 2 5)

/-- The reset values the spec gives, and the form of the state that every step keeps (R18, R30, R67, R91, R164, R285,
R310, R312). -/
def Obligations.ResetState : Prop :=
  (∀ k, k < 1024 →
    let c := coreAt State.reset k
    let s := { State.reset with core := c }
    c.num = k ∧ c.ctl = false ∧ c.st = .idle ∧ c.x.pl = false ∧ c.sc.loops = [] ∧ c.pend = [] ∧ c.vec.latch = [] ∧
    (∀ r, rdS s r = 0 ∧ rdA s r = 0 ∧ rdLc s r = 0) ∧ (∀ r, rdP s r = decide (r = 0)) ∧
    (∀ cl r, rdM s cl r = if r = 0 then 0xFFFF else 0) ∧ (∀ cl r l, laneOf c.vec.v cl r l = 0) ∧
    (∀ n, n < 128 → genOf s n = seedState 0 n) ∧
    readSr s 0x000 = 0 ∧ readSr s 0x010 = 1 ∧ readSr s 0x011 = 0 ∧ readSr s 0x014 = 0x0100000001000000#64 ∧
    readSr s 0x020 = 0x0301FD78#64 ∧ readSr s 0x023 = 0x03401C34#64 ∧ readSr s 0x02B = 0x0441FC08#64 ∧ readSr s 0x02F = 0x0301FD78#64 ∧
    (∀ b, cbOf c b = 0) ∧ c.cp.evq = [] ∧ c.cp.cmds = [] ∧ c.th.nodes = [] ∧ (∀ v, tvOf c v = ⟨.undef, none⟩) ∧
    c.mx.p0.loaded = false ∧ c.mx.p1.loaded = false ∧ c.phase = []) ∧
  (∀ k, k < 16 → let c := coreAt State.reset (1024 + k); c.num = k ∧ c.ctl = true ∧ c.x.pl = true) ∧
  State.reset.ctl.pcap = 1800 ∧ State.reset.ctl.run = false ∧ State.reset.dist.teams = [] ∧ State.reset.home.objs = [] ∧
  Claims.formed State.reset ∧ (∀ s t, Claims.formed s → step s = .next t → Claims.formed t)

/-- A step issues the bundle at the pc and runs its decoded instructions in slot order; a scheduled event is run by its
meaning (R52, R54, R55, R60, R255, R332). That memory errors are inputs on the schedule (DEDUCED, log 119) and that
lower slots commit while a slot waits for them (DEDUCED, log 149) are the model's clauses; so is where the power
controller's holds stand (log 126). -/
def Obligations.StepRunsTheDecodedInstruction : Prop :=
  ∀ (s : State),
  (∀ i r, s.sched = .agent i :: r → ∀ t, exec i { s with sched := r } = .next t → step s = .next (settle t)) ∧
  (∀ n c r, s.sched = .core n c :: r → step s = .next (focusOn (coreKey n c) { s with sched := r })) ∧
  (∀ e r, s.sched = .error e :: r → step s = .next (settle (memError e { s with sched := r }))) ∧
  (s.sched = [] → s.ctl.halted = false → (s.core.st = .run ∨ s.core.st = .handler) → homing s = false →
    ((exposed s && unanswered s) = true → step s = .next (settle (waitAnswer s))) ∧
    ((exposed s && unanswered s) = false → lookOut s = none →
      let f := fetchBundle s
      let h := f.core.iss.hdr
      (f.core.iss.busy = false → (f.core.iss.trapped && unanswered s) = false → step s = .next (settle f)) ∧
      ((f.core.iss.trapped && unanswered s) = true → step s = .next (settle (waitAnswer s))) ∧
      (f.core.iss.busy = true → (f.core.iss.trapped && unanswered s) = false →
        (waitingPart f = none → f.core.iss.from_ = 0 →
          ∀ j w i, f.core.iss.words = [(j, w)] → decodeSlot j (fld h 31 16) w.toNat = some i → answerHold f h [(j, some i)] = false →
          let s0 := issueHolds h [(j, some i)] f
          let s1 := onCore (fun c => { rejoin c with iss := { (rejoin c).iss with from_ := 0, pm0 := some c.pm.pmc } }) s0
          let s2 := if j = 0 then s1 else slotZeroEnd s1.core.x.pl s1
          let pl := s2.core.x.pl
          let v := onIss (fun x => { x with slot := j }) s2
          let hit := if (guardOf i).all (fun p => guardOk p.1 p.2 v) then hitAt v j else none
          let gone := fun (t : State) =>
            if unanswered s0 then heldBundle 0x33 (onIss (fun x => { x with slot := j, wait := 2 }) s0) else endTrapped s0 t
          heldLook 0 f s0 = none → step1 h [] j i = true → (exposed v = true → bankOver [] (slotBankReads v h (j, some i)) = none) →
          ∀ t, exec i v = .next t →
          (t.core.iss.trapped = true → (hit = none ∨ beforeAccess (lastCause t) = true) → step s = .next (settle (gone t))) ∧
          (∀ e, t.core.iss.trapped = true → hit = some e → beforeAccess (lastCause t) = false → step s = .next (settle (gone (meetError e v)))) ∧
          (t.core.iss.trapped = false → ∀ ev u, t.core.iss.held = some ev → exec i (onIss (fun x => { x with slot := j }) s0) = .next u →
            u.core.iss.held.isSome = true → step s = .next (settle (heldBundle ev u))) ∧
          (t.core.iss.trapped = false → t.core.iss.held = none → writeClash v t = none →
            (∀ e, hit = some e → step s = .next (settle (gone (meetError e v)))) ∧
            (hit = none →
              let u := setLatches v h j i (countSlot v j i t)
              let z := if j = 0 then slotZeroEnd pl u else u
              (leftBundle u = true → step s = .next (settle (gone u))) ∧
              (leftBundle u = false → portWait z = 0 → step s = .next (settle (endBundle pl h z)))))) ∧
        (∀ t, runBundle exec f = .next t → step s = .next (settle t))))) ∧
  (∀ h pl s0 fin x r lower before t, runSlot exec h lower before x s = .done t →
    runSlots exec h pl s0 fin (x :: r) lower before s =
      runSlots exec h pl s0 fin r (lower ++ [x]) (before ++ slotBankReads s h x) (if x.1 = 0 then slotZeroEnd pl t else t)) ∧
  (∀ h pl s0 fin x r lower before t, runSlot exec h lower before x s = .gone t → unanswered s0 = false →
    runSlots exec h pl s0 fin (x :: r) lower before s = .next (endTrapped s0 t)) ∧
  (∀ h pl s0 fin x r lower before ev t, runSlot exec h lower before x s = .held ev t →
    (t.core.iss.split = true → (∃ y ∈ lower, firstSlot s0 ≤ y.1) →
      runSlots exec h pl s0 fin (x :: r) lower before s = .next (heldPart ev x.1 pl t)) ∧
    (t.core.iss.split = false → ∀ i u, x.2 = some i → exec i (onIss (fun z => { z with slot := x.1 }) s0) = .next u →
      u.core.iss.held.isSome = true → runSlots exec h pl s0 fin (x :: r) lower before s = .next (heldBundle ev u))) ∧
  (∀ h pl s0 fin lower before, runSlots exec h pl s0 fin [] lower before s = fin s)
end

