-- ==== Sys2Proof/Laws/SMap.lean ====
section
/-!
SUPPORT. Laws/SMap.lean: the read-over-write laws of the finite maps, and that a write keeps the canonical form.
-/
namespace Sys2Proof.Machine

variable {α : Type}

theorem mget_mdel_self (d : α) (m : SMap α) (k : Nat) : mget d (mdel m k) k = d := by
  induction m with
  | nil => rfl
  | cons p r ih => obtain ⟨j, v⟩ := p; by_cases h : j = k <;> simp [mdel, mget, h, ih]

theorem mget_mdel_ne (d : α) (m : SMap α) {k j : Nat} (h : j ≠ k) : mget d (mdel m k) j = mget d m j := by
  induction m with
  | nil => rfl
  | cons p r ih =>
    obtain ⟨i, v⟩ := p
    by_cases hi : i = k
    · subst hi; simp [mdel, mget, ih, Ne.symm h]
    · simp [mdel, mget, hi, ih]

theorem mget_mins_self (d : α) (m : SMap α) (k : Nat) (w : α) (h : mget d m k = d ∧ ∀ p ∈ m, p.1 ≠ k) :
    mget d (mins m k w) k = w := by
  induction m with
  | nil => simp [mins, mget]
  | cons p r ih =>
    obtain ⟨j, v⟩ := p
    have hj : j ≠ k := h.2 (j, v) (by simp)
    have ih' := ih ⟨by simpa [mget, hj] using h.1, fun q hq => h.2 q (by simp [hq])⟩
    by_cases hk : k < j <;> simp [mins, mget, hk, hj, ih']

theorem mget_mins_ne (d : α) (m : SMap α) {k j : Nat} (w : α) (h : j ≠ k) :
    mget d (mins m k w) j = mget d m j := by
  induction m with
  | nil => simp [mins, mget, Ne.symm h]
  | cons p r ih =>
    obtain ⟨i, v⟩ := p
    by_cases hk : k < i
    · simp [mins, mget, hk, Ne.symm h]
    · simp [mins, mget, hk, ih]

theorem mdel_no_key (m : SMap α) (k : Nat) : ∀ p ∈ mdel m k, p.1 ≠ k := by
  induction m with
  | nil => simp [mdel]
  | cons p r ih =>
    obtain ⟨j, v⟩ := p
    by_cases h : j = k
    · simpa [mdel, h] using ih
    · intro q hq
      simp only [mdel, h, if_false, List.mem_cons] at hq
      rcases hq with rfl | hq
      · exact h
      · exact ih q hq

@[simp] theorem mget_mput_self (d : α) (m : SMap α) (k : Nat) (w : α) : mget d (mput m k w) k = w :=
  mget_mins_self d _ k w ⟨mget_mdel_self d m k, mdel_no_key m k⟩

theorem mget_mput_ne (d : α) (m : SMap α) {k j : Nat} (w : α) (h : j ≠ k) : mget d (mput m k w) j = mget d m j := by
  rw [mput, mget_mins_ne d _ w h, mget_mdel_ne d m h]

/-- Every key of the map is at least `b`, and the keys rise. -/
def mabove : Nat → SMap α → Prop
  | _, [] => True
  | b, (j, _) :: r => b ≤ j ∧ mabove (j + 1) r

theorem mabove_mono {m : SMap α} {a b : Nat} (hab : a ≤ b) (h : mabove b m) : mabove a m := by
  cases m with
  | nil => trivial
  | cons p r => exact ⟨Nat.le_trans hab h.1, h.2⟩

theorem msorted_iff (m : SMap α) : msorted m = true ↔ mabove 0 m := by
  have key : ∀ (r : SMap α) (j : Nat) (v : α), msorted ((j, v) :: r) = true ↔ mabove (j + 1) r := by
    intro r
    induction r with
    | nil => intro j v; simp [msorted, mabove]
    | cons q r ih =>
      intro j v
      obtain ⟨i, w⟩ := q
      simp only [msorted, mabove, Bool.and_eq_true, decide_eq_true_eq, ih i w, Nat.succ_le_iff]
  cases m with
  | nil => simp [msorted, mabove]
  | cons p r => obtain ⟨j, v⟩ := p; simp [key r j v, mabove]

theorem mabove_mdel {m : SMap α} {b : Nat} (k : Nat) (h : mabove b m) : mabove b (mdel m k) := by
  induction m generalizing b with
  | nil => exact h
  | cons p r ih =>
    obtain ⟨j, v⟩ := p
    by_cases hj : j = k
    · simp only [mdel, hj, if_true]
      exact mabove_mono (by have := h.1; omega) (ih h.2)
    · simp only [mdel, hj, if_false]
      exact ⟨h.1, ih h.2⟩

theorem mabove_mins {m : SMap α} {b k : Nat} (w : α) (hk : b ≤ k) (hn : ∀ p ∈ m, p.1 ≠ k) (h : mabove b m) :
    mabove b (mins m k w) := by
  induction m generalizing b with
  | nil => exact ⟨hk, trivial⟩
  | cons p r ih =>
    obtain ⟨j, v⟩ := p
    have hj : j ≠ k := hn (j, v) (by simp)
    by_cases hkj : k < j
    · simp only [mins, hkj, if_true]
      exact ⟨hk, hkj, h.2⟩
    · simp only [mins, hkj, if_false]
      exact ⟨h.1, ih (by omega) (fun q hq => hn q (by simp [hq])) h.2⟩

theorem mem_mins {m : SMap α} {k : Nat} {w : α} {p : Nat × α} (h : p ∈ mins m k w) : p = (k, w) ∨ p ∈ m := by
  induction m with
  | nil => simpa [mins] using h
  | cons q r ih =>
    obtain ⟨j, v⟩ := q
    by_cases hk : k < j
    · simpa [mins, hk] using h
    · simp only [mins, hk, if_false, List.mem_cons] at h
      rcases h with rfl | h
      · simp
      · rcases ih h with h | h <;> simp [h]

theorem mem_mdel {m : SMap α} {k : Nat} {p : Nat × α} (h : p ∈ mdel m k) : p ∈ m := by
  induction m with
  | nil => simp [mdel] at h
  | cons q r ih =>
    obtain ⟨j, v⟩ := q
    by_cases hj : j = k
    · simp only [mdel, hj, if_true] at h; simp [ih h]
    · simp only [mdel, hj, if_false, List.mem_cons] at h
      rcases h with rfl | h
      · simp
      · simp [ih h]

variable [DecidableEq α]

@[simp] theorem mget_mset_self (d : α) (m : SMap α) (k : Nat) (w : α) : mget d (mset d m k w) k = w := by
  by_cases h : w = d
  · simp [mset, h, mget_mdel_self]
  · simp [mset, h]

theorem mget_mset_ne (e d : α) (m : SMap α) {k j : Nat} (w : α) (h : j ≠ k) :
    mget e (mset d m k w) j = mget e m j := by
  by_cases hw : w = d
  · simp [mset, hw, mget_mdel_ne e m h]
  · simp [mset, hw, mget_mput_ne e m w h]

/-- A write keeps the canonical form. -/
theorem mcanon_mset {d : α} {m : SMap α} (k : Nat) (w : α) (h : mcanon d m = true) :
    mcanon d (mset d m k w) = true := by
  simp only [mcanon, Bool.and_eq_true, msorted_iff, List.all_eq_true, decide_eq_true_eq] at h ⊢
  by_cases hw : w = d
  · simp only [mset, hw, if_true]
    exact ⟨mabove_mdel k h.1, fun p hp => h.2 p (mem_mdel hp)⟩
  · simp only [mset, hw, if_false, mput]
    refine ⟨mabove_mins w (Nat.zero_le k) (mdel_no_key m k) (mabove_mdel k h.1), fun p hp => ?_⟩
    rcases mem_mins hp with rfl | hp
    · exact hw
    · exact h.2 p (mem_mdel hp)

end Sys2Proof.Machine
end

