-- ==== Sys2Proof/Laws/Memory.lean ====
section
/-!
SUPPORT. Laws/Memory.lean: bytes of memory read after a write, and that every operation on memory keeps the canonical form.
-/
namespace Sys2Proof.Machine

/-! ### The canonical form -/

theorem wf_reset : Memory.wf State.reset.mem = true := rfl

theorem mabove_filter {α : Type} (q : Nat × α → Bool) {m : SMap α} {b : Nat} (h : mabove b m) : mabove b (m.filter q) := by
  induction m generalizing b with
  | nil => exact h
  | cons p r ih =>
    obtain ⟨j, v⟩ := p
    have h2 := ih h.2
    by_cases hq : q (j, v) = true
    · simp only [List.filter_cons, hq, if_true]
      exact ⟨h.1, h2⟩
    · simp only [List.filter_cons, hq]
      exact mabove_mono (by have := h.1; omega) h2

theorem mcanon_filter {α : Type} [DecidableEq α] {d : α} {m : SMap α} (q : Nat × α → Bool) (h : mcanon d m = true) :
    mcanon d (m.filter q) = true := by
  simp only [mcanon, Bool.and_eq_true, msorted_iff, List.all_eq_true, decide_eq_true_eq] at h ⊢
  exact ⟨mabove_filter q h.1, fun p hp => h.2 p (List.mem_filter.mp hp).1⟩

theorem wf_mset {m : SMap Byte} (a : Nat) (b : Byte) (h : Memory.wf m = true) : Memory.wf (mset 0 m a b) = true :=
  mcanon_mset a b h

theorem wf_memPut (bs : List Byte) (a : Nat) (m : SMap Byte) (h : Memory.wf m = true) : Memory.wf (memPut bs a m) = true := by
  induction bs generalizing a m with
  | nil => exact h
  | cons b r ih => exact ih _ _ (wf_mset a b h)

theorem wf_memCopy (a b n : Nat) (m : SMap Byte) (h : Memory.wf m = true) : Memory.wf (memCopy a b n m) = true := by
  have hf : ∀ (xs : List (Nat × Byte)) (m : SMap Byte), Memory.wf m = true →
      Memory.wf (xs.foldl (fun m p => mset 0 m (p.1 - a + b) p.2) m) = true := by
    intro xs
    induction xs with
    | nil => intro m h; exact h
    | cons x r ih => intro m h; exact ih _ (wf_mset _ _ h)
  exact hf _ _ (mcanon_filter _ h)

theorem wf_memMasked (a mask val : Nat) (m : SMap Byte) (h : Memory.wf m = true) : Memory.wf (memMasked a mask val m) = true := by
  have hf : ∀ (xs : List Nat) (m : SMap Byte), Memory.wf m = true → Memory.wf (xs.foldl (fun m i =>
      let k : Byte := BitVec.ofNat 8 (mask / 2 ^ (8 * i))
      if k = 0 then m else mset 0 m (a + i) (mergeBits (memByte m (a + i)) k (BitVec.ofNat 8 (val / 2 ^ (8 * i))))) m) = true := by
    intro xs
    induction xs with
    | nil => intro m h; exact h
    | cons x r ih =>
      intro m h
      simp only [List.foldl_cons]
      split
      · exact ih _ h
      · exact ih _ (wf_mset _ _ h)
  exact hf _ _ h

theorem wf_placedMem (hdr w : Nat) (m : SMap Byte) (h : Memory.wf m = true) : Memory.wf (placedMem hdr w m) = true := by
  simp only [placedMem, List.foldl_cons, List.foldl_nil]
  exact wf_memPut _ _ _ (wf_memPut _ _ _ (wf_memPut _ _ _ (wf_memPut _ _ _ (wf_memPut _ _ _ (wf_memPut _ _ _ h)))))

/-! ### Reading after a write -/

theorem memByte_mset_self (m : SMap Byte) (a : Nat) (b : Byte) : memByte (mset 0 m a b) a = b := mget_mset_self 0 m a b

theorem memByte_mset_ne (m : SMap Byte) {a x : Nat} (b : Byte) (h : x ≠ a) : memByte (mset 0 m a b) x = memByte m x :=
  mget_mset_ne 0 0 m b h

theorem memByte_memPut_below (bs : List Byte) {a x : Nat} (m : SMap Byte) (h : x < a) :
    memByte (memPut bs a m) x = memByte m x := by
  induction bs generalizing a m with
  | nil => rfl
  | cons b r ih => rw [memPut, ih _ (by omega), memByte_mset_ne _ _ (by omega)]

/-- Bytes stored from `a` up: inside them the stored byte is read, outside what was there. -/
theorem memByte_memPut (bs : List Byte) (a x : Nat) (m : SMap Byte) :
    memByte (memPut bs a m) x = if a ≤ x ∧ x < a + bs.length then bs.getD (x - a) 0 else memByte m x := by
  induction bs generalizing a m with
  | nil =>
    rw [if_neg (by simp only [List.length_nil]; omega)]
    rfl
  | cons b r ih =>
    rw [memPut]
    by_cases hx : x = a
    · subst hx
      rw [memByte_memPut_below _ _ (by omega), memByte_mset_self]
      simp
    · rw [ih, memByte_mset_ne _ _ hx]
      by_cases h : a + 1 ≤ x ∧ x < a + 1 + r.length
      · have h2 : a ≤ x ∧ x < a + (b :: r).length := by simp; omega
        have h3 : x - a = (x - (a + 1)) + 1 := by omega
        simp [h, h2, h3]
        omega
      · have h2 : ¬ (a ≤ x ∧ x < a + (b :: r).length) := by simp; omega
        rw [if_neg h, if_neg h2]

theorem memBytes_length (m : SMap Byte) (a n : Nat) : (memBytes m a n).length = n := by simp [memBytes]

theorem memByte_maskedStep (a mask val i x : Nat) (m : SMap Byte) :
    memByte (let k : Byte := BitVec.ofNat 8 (mask / 2 ^ (8 * i))
      if k = 0 then m else mset 0 m (a + i) (mergeBits (memByte m (a + i)) k (BitVec.ofNat 8 (val / 2 ^ (8 * i))))) x =
    if x = a + i then mergeBits (memByte m x) (BitVec.ofNat 8 (mask / 2 ^ (8 * i))) (BitVec.ofNat 8 (val / 2 ^ (8 * i)))
    else memByte m x := by
  by_cases hx : x = a + i
  · subst hx
    by_cases hk : BitVec.ofNat 8 (mask / 2 ^ (8 * i)) = 0
    · simp only [hk, if_true, mergeBits]
      simpa using (BitVec.and_allOnes (x := memByte m (a + i))).symm
    · simp only [hk, if_false, if_true, memByte_mset_self]
  · by_cases hk : BitVec.ofNat 8 (mask / 2 ^ (8 * i)) = 0
    · simp only [hk, if_true, hx, if_false]
    · simp only [hk, if_false, hx, memByte_mset_ne _ _ hx]

theorem memByte_maskedRange (a mask val n x : Nat) (m : SMap Byte) :
    memByte ((List.range n).foldl (fun m i =>
      let k : Byte := BitVec.ofNat 8 (mask / 2 ^ (8 * i))
      if k = 0 then m else mset 0 m (a + i) (mergeBits (memByte m (a + i)) k (BitVec.ofNat 8 (val / 2 ^ (8 * i))))) m) x =
    if a ≤ x ∧ x < a + n then
      mergeBits (memByte m x) (BitVec.ofNat 8 (mask / 2 ^ (8 * (x - a)))) (BitVec.ofNat 8 (val / 2 ^ (8 * (x - a))))
    else memByte m x := by
  induction n with
  | zero =>
    rw [if_neg (by omega)]
    rfl
  | succ n ih =>
    rw [List.range_succ, List.foldl_append, List.foldl_cons, List.foldl_nil, memByte_maskedStep, ih]
    by_cases hx : x = a + n
    · subst hx
      have h1 : ¬ (a ≤ a + n ∧ a + n < a + n) := by omega
      have h2 : a ≤ a + n ∧ a + n < a + (n + 1) := by omega
      simp [h2]
    · by_cases h : a ≤ x ∧ x < a + n
      · have h2 : a ≤ x ∧ x < a + (n + 1) := by omega
        simp only [hx, h, h2, if_false]
      · have h2 : ¬ (a ≤ x ∧ x < a + (n + 1)) := by omega
        rw [if_neg hx, if_neg h, if_neg h2]

/-- Bits of a line replaced: a byte of the line keeps the bits outside the mask, every other byte is as it was. -/
theorem memByte_memMasked (a mask val x : Nat) (m : SMap Byte) :
    memByte (memMasked a mask val m) x =
    if a ≤ x ∧ x < a + 64 then
      mergeBits (memByte m x) (BitVec.ofNat 8 (mask / 2 ^ (8 * (x - a)))) (BitVec.ofNat 8 (val / 2 ^ (8 * (x - a))))
    else memByte m x := memByte_maskedRange a mask val 64 x m

end Sys2Proof.Machine
end

