-- ==== Sys2Proof/Laws/State.lean ====
section
/-!
SUPPORT. Laws/State.lean: what each update of a part of the state leaves and writes, field by field, so that no proof unfolds a
record update.
-/
namespace Sys2Proof.Machine
variable (s : State)

/-! ### `onCore` -/

@[simp] theorem onCore_core (f : Core → Core) : (onCore f s).core = f s.core := rfl
@[simp] theorem onCore_others (f : Core → Core) : (onCore f s).others = s.others := rfl
@[simp] theorem onCore_mem (f : Core → Core) : (onCore f s).mem = s.mem := rfl
@[simp] theorem onCore_home (f : Core → Core) : (onCore f s).home = s.home := rfl
@[simp] theorem onCore_dist (f : Core → Core) : (onCore f s).dist = s.dist := rfl
@[simp] theorem onCore_grp (f : Core → Core) : (onCore f s).grp = s.grp := rfl
@[simp] theorem onCore_net (f : Core → Core) : (onCore f s).net = s.net := rfl
@[simp] theorem onCore_ctl (f : Core → Core) : (onCore f s).ctl = s.ctl := rfl
@[simp] theorem onCore_time (f : Core → Core) : (onCore f s).time = s.time := rfl
@[simp] theorem onCore_sched (f : Core → Core) : (onCore f s).sched = s.sched := rfl
@[simp] theorem onCore_free (f : Core → Core) : (onCore f s).free = s.free := rfl

/-! ### `onSc` -/

@[simp] theorem onSc_others (f : ScalarSt → ScalarSt) : (onSc f s).others = s.others := rfl
@[simp] theorem onSc_mem (f : ScalarSt → ScalarSt) : (onSc f s).mem = s.mem := rfl
@[simp] theorem onSc_home (f : ScalarSt → ScalarSt) : (onSc f s).home = s.home := rfl
@[simp] theorem onSc_dist (f : ScalarSt → ScalarSt) : (onSc f s).dist = s.dist := rfl
@[simp] theorem onSc_grp (f : ScalarSt → ScalarSt) : (onSc f s).grp = s.grp := rfl
@[simp] theorem onSc_net (f : ScalarSt → ScalarSt) : (onSc f s).net = s.net := rfl
@[simp] theorem onSc_ctl (f : ScalarSt → ScalarSt) : (onSc f s).ctl = s.ctl := rfl
@[simp] theorem onSc_time (f : ScalarSt → ScalarSt) : (onSc f s).time = s.time := rfl
@[simp] theorem onSc_sched (f : ScalarSt → ScalarSt) : (onSc f s).sched = s.sched := rfl
@[simp] theorem onSc_free (f : ScalarSt → ScalarSt) : (onSc f s).free = s.free := rfl
@[simp] theorem onSc_core_num (f : ScalarSt → ScalarSt) : (onSc f s).core.num = s.core.num := rfl
@[simp] theorem onSc_core_ctl (f : ScalarSt → ScalarSt) : (onSc f s).core.ctl = s.core.ctl := rfl
@[simp] theorem onSc_core_st (f : ScalarSt → ScalarSt) : (onSc f s).core.st = s.core.st := rfl
@[simp] theorem onSc_core_now (f : ScalarSt → ScalarSt) : (onSc f s).core.now = s.core.now := rfl
@[simp] theorem onSc_core_born (f : ScalarSt → ScalarSt) : (onSc f s).core.born = s.core.born := rfl
@[simp] theorem onSc_core_sc (f : ScalarSt → ScalarSt) : (onSc f s).core.sc = f s.core.sc := rfl
@[simp] theorem onSc_core_vec (f : ScalarSt → ScalarSt) : (onSc f s).core.vec = s.core.vec := rfl
@[simp] theorem onSc_core_pend (f : ScalarSt → ScalarSt) : (onSc f s).core.pend = s.core.pend := rfl
@[simp] theorem onSc_core_iss (f : ScalarSt → ScalarSt) : (onSc f s).core.iss = s.core.iss := rfl
@[simp] theorem onSc_core_path (f : ScalarSt → ScalarSt) : (onSc f s).core.path = s.core.path := rfl
@[simp] theorem onSc_core_x (f : ScalarSt → ScalarSt) : (onSc f s).core.x = s.core.x := rfl
@[simp] theorem onSc_core_ev (f : ScalarSt → ScalarSt) : (onSc f s).core.ev = s.core.ev := rfl
@[simp] theorem onSc_core_sp (f : ScalarSt → ScalarSt) : (onSc f s).core.sp = s.core.sp := rfl
@[simp] theorem onSc_core_sb (f : ScalarSt → ScalarSt) : (onSc f s).core.sb = s.core.sb := rfl
@[simp] theorem onSc_core_cp (f : ScalarSt → ScalarSt) : (onSc f s).core.cp = s.core.cp := rfl
@[simp] theorem onSc_core_mx (f : ScalarSt → ScalarSt) : (onSc f s).core.mx = s.core.mx := rfl
@[simp] theorem onSc_core_th (f : ScalarSt → ScalarSt) : (onSc f s).core.th = s.core.th := rfl
@[simp] theorem onSc_core_task (f : ScalarSt → ScalarSt) : (onSc f s).core.task = s.core.task := rfl
@[simp] theorem onSc_core_cm (f : ScalarSt → ScalarSt) : (onSc f s).core.cm = s.core.cm := rfl
@[simp] theorem onSc_core_pm (f : ScalarSt → ScalarSt) : (onSc f s).core.pm = s.core.pm := rfl
@[simp] theorem onSc_core_phase (f : ScalarSt → ScalarSt) : (onSc f s).core.phase = s.core.phase := rfl

/-! ### `onVec` -/

@[simp] theorem onVec_others (f : VecSt → VecSt) : (onVec f s).others = s.others := rfl
@[simp] theorem onVec_mem (f : VecSt → VecSt) : (onVec f s).mem = s.mem := rfl
@[simp] theorem onVec_home (f : VecSt → VecSt) : (onVec f s).home = s.home := rfl
@[simp] theorem onVec_dist (f : VecSt → VecSt) : (onVec f s).dist = s.dist := rfl
@[simp] theorem onVec_grp (f : VecSt → VecSt) : (onVec f s).grp = s.grp := rfl
@[simp] theorem onVec_net (f : VecSt → VecSt) : (onVec f s).net = s.net := rfl
@[simp] theorem onVec_ctl (f : VecSt → VecSt) : (onVec f s).ctl = s.ctl := rfl
@[simp] theorem onVec_time (f : VecSt → VecSt) : (onVec f s).time = s.time := rfl
@[simp] theorem onVec_sched (f : VecSt → VecSt) : (onVec f s).sched = s.sched := rfl
@[simp] theorem onVec_free (f : VecSt → VecSt) : (onVec f s).free = s.free := rfl
@[simp] theorem onVec_core_num (f : VecSt → VecSt) : (onVec f s).core.num = s.core.num := rfl
@[simp] theorem onVec_core_ctl (f : VecSt → VecSt) : (onVec f s).core.ctl = s.core.ctl := rfl
@[simp] theorem onVec_core_st (f : VecSt → VecSt) : (onVec f s).core.st = s.core.st := rfl
@[simp] theorem onVec_core_now (f : VecSt → VecSt) : (onVec f s).core.now = s.core.now := rfl
@[simp] theorem onVec_core_born (f : VecSt → VecSt) : (onVec f s).core.born = s.core.born := rfl
@[simp] theorem onVec_core_sc (f : VecSt → VecSt) : (onVec f s).core.sc = s.core.sc := rfl
@[simp] theorem onVec_core_vec (f : VecSt → VecSt) : (onVec f s).core.vec = f s.core.vec := rfl
@[simp] theorem onVec_core_pend (f : VecSt → VecSt) : (onVec f s).core.pend = s.core.pend := rfl
@[simp] theorem onVec_core_iss (f : VecSt → VecSt) : (onVec f s).core.iss = s.core.iss := rfl
@[simp] theorem onVec_core_path (f : VecSt → VecSt) : (onVec f s).core.path = s.core.path := rfl
@[simp] theorem onVec_core_x (f : VecSt → VecSt) : (onVec f s).core.x = s.core.x := rfl
@[simp] theorem onVec_core_ev (f : VecSt → VecSt) : (onVec f s).core.ev = s.core.ev := rfl
@[simp] theorem onVec_core_sp (f : VecSt → VecSt) : (onVec f s).core.sp = s.core.sp := rfl
@[simp] theorem onVec_core_sb (f : VecSt → VecSt) : (onVec f s).core.sb = s.core.sb := rfl
@[simp] theorem onVec_core_cp (f : VecSt → VecSt) : (onVec f s).core.cp = s.core.cp := rfl
@[simp] theorem onVec_core_mx (f : VecSt → VecSt) : (onVec f s).core.mx = s.core.mx := rfl
@[simp] theorem onVec_core_th (f : VecSt → VecSt) : (onVec f s).core.th = s.core.th := rfl
@[simp] theorem onVec_core_task (f : VecSt → VecSt) : (onVec f s).core.task = s.core.task := rfl
@[simp] theorem onVec_core_cm (f : VecSt → VecSt) : (onVec f s).core.cm = s.core.cm := rfl
@[simp] theorem onVec_core_pm (f : VecSt → VecSt) : (onVec f s).core.pm = s.core.pm := rfl
@[simp] theorem onVec_core_phase (f : VecSt → VecSt) : (onVec f s).core.phase = s.core.phase := rfl

/-! ### `onIss` -/

@[simp] theorem onIss_others (f : Iss → Iss) : (onIss f s).others = s.others := rfl
@[simp] theorem onIss_mem (f : Iss → Iss) : (onIss f s).mem = s.mem := rfl
@[simp] theorem onIss_home (f : Iss → Iss) : (onIss f s).home = s.home := rfl
@[simp] theorem onIss_dist (f : Iss → Iss) : (onIss f s).dist = s.dist := rfl
@[simp] theorem onIss_grp (f : Iss → Iss) : (onIss f s).grp = s.grp := rfl
@[simp] theorem onIss_net (f : Iss → Iss) : (onIss f s).net = s.net := rfl
@[simp] theorem onIss_ctl (f : Iss → Iss) : (onIss f s).ctl = s.ctl := rfl
@[simp] theorem onIss_time (f : Iss → Iss) : (onIss f s).time = s.time := rfl
@[simp] theorem onIss_sched (f : Iss → Iss) : (onIss f s).sched = s.sched := rfl
@[simp] theorem onIss_free (f : Iss → Iss) : (onIss f s).free = s.free := rfl
@[simp] theorem onIss_core_num (f : Iss → Iss) : (onIss f s).core.num = s.core.num := rfl
@[simp] theorem onIss_core_ctl (f : Iss → Iss) : (onIss f s).core.ctl = s.core.ctl := rfl
@[simp] theorem onIss_core_st (f : Iss → Iss) : (onIss f s).core.st = s.core.st := rfl
@[simp] theorem onIss_core_now (f : Iss → Iss) : (onIss f s).core.now = s.core.now := rfl
@[simp] theorem onIss_core_born (f : Iss → Iss) : (onIss f s).core.born = s.core.born := rfl
@[simp] theorem onIss_core_sc (f : Iss → Iss) : (onIss f s).core.sc = s.core.sc := rfl
@[simp] theorem onIss_core_vec (f : Iss → Iss) : (onIss f s).core.vec = s.core.vec := rfl
@[simp] theorem onIss_core_pend (f : Iss → Iss) : (onIss f s).core.pend = s.core.pend := rfl
@[simp] theorem onIss_core_iss (f : Iss → Iss) : (onIss f s).core.iss = f s.core.iss := rfl
@[simp] theorem onIss_core_path (f : Iss → Iss) : (onIss f s).core.path = s.core.path := rfl
@[simp] theorem onIss_core_x (f : Iss → Iss) : (onIss f s).core.x = s.core.x := rfl
@[simp] theorem onIss_core_ev (f : Iss → Iss) : (onIss f s).core.ev = s.core.ev := rfl
@[simp] theorem onIss_core_sp (f : Iss → Iss) : (onIss f s).core.sp = s.core.sp := rfl
@[simp] theorem onIss_core_sb (f : Iss → Iss) : (onIss f s).core.sb = s.core.sb := rfl
@[simp] theorem onIss_core_cp (f : Iss → Iss) : (onIss f s).core.cp = s.core.cp := rfl
@[simp] theorem onIss_core_mx (f : Iss → Iss) : (onIss f s).core.mx = s.core.mx := rfl
@[simp] theorem onIss_core_th (f : Iss → Iss) : (onIss f s).core.th = s.core.th := rfl
@[simp] theorem onIss_core_task (f : Iss → Iss) : (onIss f s).core.task = s.core.task := rfl
@[simp] theorem onIss_core_cm (f : Iss → Iss) : (onIss f s).core.cm = s.core.cm := rfl
@[simp] theorem onIss_core_pm (f : Iss → Iss) : (onIss f s).core.pm = s.core.pm := rfl
@[simp] theorem onIss_core_phase (f : Iss → Iss) : (onIss f s).core.phase = s.core.phase := rfl

/-! ### `onX` -/

@[simp] theorem onX_others (f : XRegs → XRegs) : (onX f s).others = s.others := rfl
@[simp] theorem onX_mem (f : XRegs → XRegs) : (onX f s).mem = s.mem := rfl
@[simp] theorem onX_home (f : XRegs → XRegs) : (onX f s).home = s.home := rfl
@[simp] theorem onX_dist (f : XRegs → XRegs) : (onX f s).dist = s.dist := rfl
@[simp] theorem onX_grp (f : XRegs → XRegs) : (onX f s).grp = s.grp := rfl
@[simp] theorem onX_net (f : XRegs → XRegs) : (onX f s).net = s.net := rfl
@[simp] theorem onX_ctl (f : XRegs → XRegs) : (onX f s).ctl = s.ctl := rfl
@[simp] theorem onX_time (f : XRegs → XRegs) : (onX f s).time = s.time := rfl
@[simp] theorem onX_sched (f : XRegs → XRegs) : (onX f s).sched = s.sched := rfl
@[simp] theorem onX_free (f : XRegs → XRegs) : (onX f s).free = s.free := rfl
@[simp] theorem onX_core_num (f : XRegs → XRegs) : (onX f s).core.num = s.core.num := rfl
@[simp] theorem onX_core_ctl (f : XRegs → XRegs) : (onX f s).core.ctl = s.core.ctl := rfl
@[simp] theorem onX_core_st (f : XRegs → XRegs) : (onX f s).core.st = s.core.st := rfl
@[simp] theorem onX_core_now (f : XRegs → XRegs) : (onX f s).core.now = s.core.now := rfl
@[simp] theorem onX_core_born (f : XRegs → XRegs) : (onX f s).core.born = s.core.born := rfl
@[simp] theorem onX_core_sc (f : XRegs → XRegs) : (onX f s).core.sc = s.core.sc := rfl
@[simp] theorem onX_core_vec (f : XRegs → XRegs) : (onX f s).core.vec = s.core.vec := rfl
@[simp] theorem onX_core_pend (f : XRegs → XRegs) : (onX f s).core.pend = s.core.pend := rfl
@[simp] theorem onX_core_iss (f : XRegs → XRegs) : (onX f s).core.iss = s.core.iss := rfl
@[simp] theorem onX_core_path (f : XRegs → XRegs) : (onX f s).core.path = s.core.path := rfl
@[simp] theorem onX_core_x (f : XRegs → XRegs) : (onX f s).core.x = f s.core.x := rfl
@[simp] theorem onX_core_ev (f : XRegs → XRegs) : (onX f s).core.ev = s.core.ev := rfl
@[simp] theorem onX_core_sp (f : XRegs → XRegs) : (onX f s).core.sp = s.core.sp := rfl
@[simp] theorem onX_core_sb (f : XRegs → XRegs) : (onX f s).core.sb = s.core.sb := rfl
@[simp] theorem onX_core_cp (f : XRegs → XRegs) : (onX f s).core.cp = s.core.cp := rfl
@[simp] theorem onX_core_mx (f : XRegs → XRegs) : (onX f s).core.mx = s.core.mx := rfl
@[simp] theorem onX_core_th (f : XRegs → XRegs) : (onX f s).core.th = s.core.th := rfl
@[simp] theorem onX_core_task (f : XRegs → XRegs) : (onX f s).core.task = s.core.task := rfl
@[simp] theorem onX_core_cm (f : XRegs → XRegs) : (onX f s).core.cm = s.core.cm := rfl
@[simp] theorem onX_core_pm (f : XRegs → XRegs) : (onX f s).core.pm = s.core.pm := rfl
@[simp] theorem onX_core_phase (f : XRegs → XRegs) : (onX f s).core.phase = s.core.phase := rfl

/-! ### `onEv` -/

@[simp] theorem onEv_others (f : EventSt → EventSt) : (onEv f s).others = s.others := rfl
@[simp] theorem onEv_mem (f : EventSt → EventSt) : (onEv f s).mem = s.mem := rfl
@[simp] theorem onEv_home (f : EventSt → EventSt) : (onEv f s).home = s.home := rfl
@[simp] theorem onEv_dist (f : EventSt → EventSt) : (onEv f s).dist = s.dist := rfl
@[simp] theorem onEv_grp (f : EventSt → EventSt) : (onEv f s).grp = s.grp := rfl
@[simp] theorem onEv_net (f : EventSt → EventSt) : (onEv f s).net = s.net := rfl
@[simp] theorem onEv_ctl (f : EventSt → EventSt) : (onEv f s).ctl = s.ctl := rfl
@[simp] theorem onEv_time (f : EventSt → EventSt) : (onEv f s).time = s.time := rfl
@[simp] theorem onEv_sched (f : EventSt → EventSt) : (onEv f s).sched = s.sched := rfl
@[simp] theorem onEv_free (f : EventSt → EventSt) : (onEv f s).free = s.free := rfl
@[simp] theorem onEv_core_num (f : EventSt → EventSt) : (onEv f s).core.num = s.core.num := rfl
@[simp] theorem onEv_core_ctl (f : EventSt → EventSt) : (onEv f s).core.ctl = s.core.ctl := rfl
@[simp] theorem onEv_core_st (f : EventSt → EventSt) : (onEv f s).core.st = s.core.st := rfl
@[simp] theorem onEv_core_now (f : EventSt → EventSt) : (onEv f s).core.now = s.core.now := rfl
@[simp] theorem onEv_core_born (f : EventSt → EventSt) : (onEv f s).core.born = s.core.born := rfl
@[simp] theorem onEv_core_sc (f : EventSt → EventSt) : (onEv f s).core.sc = s.core.sc := rfl
@[simp] theorem onEv_core_vec (f : EventSt → EventSt) : (onEv f s).core.vec = s.core.vec := rfl
@[simp] theorem onEv_core_pend (f : EventSt → EventSt) : (onEv f s).core.pend = s.core.pend := rfl
@[simp] theorem onEv_core_iss (f : EventSt → EventSt) : (onEv f s).core.iss = s.core.iss := rfl
@[simp] theorem onEv_core_path (f : EventSt → EventSt) : (onEv f s).core.path = s.core.path := rfl
@[simp] theorem onEv_core_x (f : EventSt → EventSt) : (onEv f s).core.x = s.core.x := rfl
@[simp] theorem onEv_core_ev (f : EventSt → EventSt) : (onEv f s).core.ev = f s.core.ev := rfl
@[simp] theorem onEv_core_sp (f : EventSt → EventSt) : (onEv f s).core.sp = s.core.sp := rfl
@[simp] theorem onEv_core_sb (f : EventSt → EventSt) : (onEv f s).core.sb = s.core.sb := rfl
@[simp] theorem onEv_core_cp (f : EventSt → EventSt) : (onEv f s).core.cp = s.core.cp := rfl
@[simp] theorem onEv_core_mx (f : EventSt → EventSt) : (onEv f s).core.mx = s.core.mx := rfl
@[simp] theorem onEv_core_th (f : EventSt → EventSt) : (onEv f s).core.th = s.core.th := rfl
@[simp] theorem onEv_core_task (f : EventSt → EventSt) : (onEv f s).core.task = s.core.task := rfl
@[simp] theorem onEv_core_cm (f : EventSt → EventSt) : (onEv f s).core.cm = s.core.cm := rfl
@[simp] theorem onEv_core_pm (f : EventSt → EventSt) : (onEv f s).core.pm = s.core.pm := rfl
@[simp] theorem onEv_core_phase (f : EventSt → EventSt) : (onEv f s).core.phase = s.core.phase := rfl

/-! ### `onSb` -/

@[simp] theorem onSb_others (f : SbSt → SbSt) : (onSb f s).others = s.others := rfl
@[simp] theorem onSb_mem (f : SbSt → SbSt) : (onSb f s).mem = s.mem := rfl
@[simp] theorem onSb_home (f : SbSt → SbSt) : (onSb f s).home = s.home := rfl
@[simp] theorem onSb_dist (f : SbSt → SbSt) : (onSb f s).dist = s.dist := rfl
@[simp] theorem onSb_grp (f : SbSt → SbSt) : (onSb f s).grp = s.grp := rfl
@[simp] theorem onSb_net (f : SbSt → SbSt) : (onSb f s).net = s.net := rfl
@[simp] theorem onSb_ctl (f : SbSt → SbSt) : (onSb f s).ctl = s.ctl := rfl
@[simp] theorem onSb_time (f : SbSt → SbSt) : (onSb f s).time = s.time := rfl
@[simp] theorem onSb_sched (f : SbSt → SbSt) : (onSb f s).sched = s.sched := rfl
@[simp] theorem onSb_free (f : SbSt → SbSt) : (onSb f s).free = s.free := rfl
@[simp] theorem onSb_core_num (f : SbSt → SbSt) : (onSb f s).core.num = s.core.num := rfl
@[simp] theorem onSb_core_ctl (f : SbSt → SbSt) : (onSb f s).core.ctl = s.core.ctl := rfl
@[simp] theorem onSb_core_st (f : SbSt → SbSt) : (onSb f s).core.st = s.core.st := rfl
@[simp] theorem onSb_core_now (f : SbSt → SbSt) : (onSb f s).core.now = s.core.now := rfl
@[simp] theorem onSb_core_born (f : SbSt → SbSt) : (onSb f s).core.born = s.core.born := rfl
@[simp] theorem onSb_core_sc (f : SbSt → SbSt) : (onSb f s).core.sc = s.core.sc := rfl
@[simp] theorem onSb_core_vec (f : SbSt → SbSt) : (onSb f s).core.vec = s.core.vec := rfl
@[simp] theorem onSb_core_pend (f : SbSt → SbSt) : (onSb f s).core.pend = s.core.pend := rfl
@[simp] theorem onSb_core_iss (f : SbSt → SbSt) : (onSb f s).core.iss = s.core.iss := rfl
@[simp] theorem onSb_core_path (f : SbSt → SbSt) : (onSb f s).core.path = s.core.path := rfl
@[simp] theorem onSb_core_x (f : SbSt → SbSt) : (onSb f s).core.x = s.core.x := rfl
@[simp] theorem onSb_core_ev (f : SbSt → SbSt) : (onSb f s).core.ev = s.core.ev := rfl
@[simp] theorem onSb_core_sp (f : SbSt → SbSt) : (onSb f s).core.sp = s.core.sp := rfl
@[simp] theorem onSb_core_sb (f : SbSt → SbSt) : (onSb f s).core.sb = f s.core.sb := rfl
@[simp] theorem onSb_core_cp (f : SbSt → SbSt) : (onSb f s).core.cp = s.core.cp := rfl
@[simp] theorem onSb_core_mx (f : SbSt → SbSt) : (onSb f s).core.mx = s.core.mx := rfl
@[simp] theorem onSb_core_th (f : SbSt → SbSt) : (onSb f s).core.th = s.core.th := rfl
@[simp] theorem onSb_core_task (f : SbSt → SbSt) : (onSb f s).core.task = s.core.task := rfl
@[simp] theorem onSb_core_cm (f : SbSt → SbSt) : (onSb f s).core.cm = s.core.cm := rfl
@[simp] theorem onSb_core_pm (f : SbSt → SbSt) : (onSb f s).core.pm = s.core.pm := rfl
@[simp] theorem onSb_core_phase (f : SbSt → SbSt) : (onSb f s).core.phase = s.core.phase := rfl

/-! ### `onCp` -/

@[simp] theorem onCp_others (f : CopySt → CopySt) : (onCp f s).others = s.others := rfl
@[simp] theorem onCp_mem (f : CopySt → CopySt) : (onCp f s).mem = s.mem := rfl
@[simp] theorem onCp_home (f : CopySt → CopySt) : (onCp f s).home = s.home := rfl
@[simp] theorem onCp_dist (f : CopySt → CopySt) : (onCp f s).dist = s.dist := rfl
@[simp] theorem onCp_grp (f : CopySt → CopySt) : (onCp f s).grp = s.grp := rfl
@[simp] theorem onCp_net (f : CopySt → CopySt) : (onCp f s).net = s.net := rfl
@[simp] theorem onCp_ctl (f : CopySt → CopySt) : (onCp f s).ctl = s.ctl := rfl
@[simp] theorem onCp_time (f : CopySt → CopySt) : (onCp f s).time = s.time := rfl
@[simp] theorem onCp_sched (f : CopySt → CopySt) : (onCp f s).sched = s.sched := rfl
@[simp] theorem onCp_free (f : CopySt → CopySt) : (onCp f s).free = s.free := rfl
@[simp] theorem onCp_core_num (f : CopySt → CopySt) : (onCp f s).core.num = s.core.num := rfl
@[simp] theorem onCp_core_ctl (f : CopySt → CopySt) : (onCp f s).core.ctl = s.core.ctl := rfl
@[simp] theorem onCp_core_st (f : CopySt → CopySt) : (onCp f s).core.st = s.core.st := rfl
@[simp] theorem onCp_core_now (f : CopySt → CopySt) : (onCp f s).core.now = s.core.now := rfl
@[simp] theorem onCp_core_born (f : CopySt → CopySt) : (onCp f s).core.born = s.core.born := rfl
@[simp] theorem onCp_core_sc (f : CopySt → CopySt) : (onCp f s).core.sc = s.core.sc := rfl
@[simp] theorem onCp_core_vec (f : CopySt → CopySt) : (onCp f s).core.vec = s.core.vec := rfl
@[simp] theorem onCp_core_pend (f : CopySt → CopySt) : (onCp f s).core.pend = s.core.pend := rfl
@[simp] theorem onCp_core_iss (f : CopySt → CopySt) : (onCp f s).core.iss = s.core.iss := rfl
@[simp] theorem onCp_core_path (f : CopySt → CopySt) : (onCp f s).core.path = s.core.path := rfl
@[simp] theorem onCp_core_x (f : CopySt → CopySt) : (onCp f s).core.x = s.core.x := rfl
@[simp] theorem onCp_core_ev (f : CopySt → CopySt) : (onCp f s).core.ev = s.core.ev := rfl
@[simp] theorem onCp_core_sp (f : CopySt → CopySt) : (onCp f s).core.sp = s.core.sp := rfl
@[simp] theorem onCp_core_sb (f : CopySt → CopySt) : (onCp f s).core.sb = s.core.sb := rfl
@[simp] theorem onCp_core_cp (f : CopySt → CopySt) : (onCp f s).core.cp = f s.core.cp := rfl
@[simp] theorem onCp_core_mx (f : CopySt → CopySt) : (onCp f s).core.mx = s.core.mx := rfl
@[simp] theorem onCp_core_th (f : CopySt → CopySt) : (onCp f s).core.th = s.core.th := rfl
@[simp] theorem onCp_core_task (f : CopySt → CopySt) : (onCp f s).core.task = s.core.task := rfl
@[simp] theorem onCp_core_cm (f : CopySt → CopySt) : (onCp f s).core.cm = s.core.cm := rfl
@[simp] theorem onCp_core_pm (f : CopySt → CopySt) : (onCp f s).core.pm = s.core.pm := rfl
@[simp] theorem onCp_core_phase (f : CopySt → CopySt) : (onCp f s).core.phase = s.core.phase := rfl

/-! ### `onMx` -/

@[simp] theorem onMx_others (f : MatSt → MatSt) : (onMx f s).others = s.others := rfl
@[simp] theorem onMx_mem (f : MatSt → MatSt) : (onMx f s).mem = s.mem := rfl
@[simp] theorem onMx_home (f : MatSt → MatSt) : (onMx f s).home = s.home := rfl
@[simp] theorem onMx_dist (f : MatSt → MatSt) : (onMx f s).dist = s.dist := rfl
@[simp] theorem onMx_grp (f : MatSt → MatSt) : (onMx f s).grp = s.grp := rfl
@[simp] theorem onMx_net (f : MatSt → MatSt) : (onMx f s).net = s.net := rfl
@[simp] theorem onMx_ctl (f : MatSt → MatSt) : (onMx f s).ctl = s.ctl := rfl
@[simp] theorem onMx_time (f : MatSt → MatSt) : (onMx f s).time = s.time := rfl
@[simp] theorem onMx_sched (f : MatSt → MatSt) : (onMx f s).sched = s.sched := rfl
@[simp] theorem onMx_free (f : MatSt → MatSt) : (onMx f s).free = s.free := rfl
@[simp] theorem onMx_core_num (f : MatSt → MatSt) : (onMx f s).core.num = s.core.num := rfl
@[simp] theorem onMx_core_ctl (f : MatSt → MatSt) : (onMx f s).core.ctl = s.core.ctl := rfl
@[simp] theorem onMx_core_st (f : MatSt → MatSt) : (onMx f s).core.st = s.core.st := rfl
@[simp] theorem onMx_core_now (f : MatSt → MatSt) : (onMx f s).core.now = s.core.now := rfl
@[simp] theorem onMx_core_born (f : MatSt → MatSt) : (onMx f s).core.born = s.core.born := rfl
@[simp] theorem onMx_core_sc (f : MatSt → MatSt) : (onMx f s).core.sc = s.core.sc := rfl
@[simp] theorem onMx_core_vec (f : MatSt → MatSt) : (onMx f s).core.vec = s.core.vec := rfl
@[simp] theorem onMx_core_pend (f : MatSt → MatSt) : (onMx f s).core.pend = s.core.pend := rfl
@[simp] theorem onMx_core_iss (f : MatSt → MatSt) : (onMx f s).core.iss = s.core.iss := rfl
@[simp] theorem onMx_core_path (f : MatSt → MatSt) : (onMx f s).core.path = s.core.path := rfl
@[simp] theorem onMx_core_x (f : MatSt → MatSt) : (onMx f s).core.x = s.core.x := rfl
@[simp] theorem onMx_core_ev (f : MatSt → MatSt) : (onMx f s).core.ev = s.core.ev := rfl
@[simp] theorem onMx_core_sp (f : MatSt → MatSt) : (onMx f s).core.sp = s.core.sp := rfl
@[simp] theorem onMx_core_sb (f : MatSt → MatSt) : (onMx f s).core.sb = s.core.sb := rfl
@[simp] theorem onMx_core_cp (f : MatSt → MatSt) : (onMx f s).core.cp = s.core.cp := rfl
@[simp] theorem onMx_core_mx (f : MatSt → MatSt) : (onMx f s).core.mx = f s.core.mx := rfl
@[simp] theorem onMx_core_th (f : MatSt → MatSt) : (onMx f s).core.th = s.core.th := rfl
@[simp] theorem onMx_core_task (f : MatSt → MatSt) : (onMx f s).core.task = s.core.task := rfl
@[simp] theorem onMx_core_cm (f : MatSt → MatSt) : (onMx f s).core.cm = s.core.cm := rfl
@[simp] theorem onMx_core_pm (f : MatSt → MatSt) : (onMx f s).core.pm = s.core.pm := rfl
@[simp] theorem onMx_core_phase (f : MatSt → MatSt) : (onMx f s).core.phase = s.core.phase := rfl

/-! ### `onTh` -/

@[simp] theorem onTh_others (f : ThunkSt → ThunkSt) : (onTh f s).others = s.others := rfl
@[simp] theorem onTh_mem (f : ThunkSt → ThunkSt) : (onTh f s).mem = s.mem := rfl
@[simp] theorem onTh_home (f : ThunkSt → ThunkSt) : (onTh f s).home = s.home := rfl
@[simp] theorem onTh_dist (f : ThunkSt → ThunkSt) : (onTh f s).dist = s.dist := rfl
@[simp] theorem onTh_grp (f : ThunkSt → ThunkSt) : (onTh f s).grp = s.grp := rfl
@[simp] theorem onTh_net (f : ThunkSt → ThunkSt) : (onTh f s).net = s.net := rfl
@[simp] theorem onTh_ctl (f : ThunkSt → ThunkSt) : (onTh f s).ctl = s.ctl := rfl
@[simp] theorem onTh_time (f : ThunkSt → ThunkSt) : (onTh f s).time = s.time := rfl
@[simp] theorem onTh_sched (f : ThunkSt → ThunkSt) : (onTh f s).sched = s.sched := rfl
@[simp] theorem onTh_free (f : ThunkSt → ThunkSt) : (onTh f s).free = s.free := rfl
@[simp] theorem onTh_core_num (f : ThunkSt → ThunkSt) : (onTh f s).core.num = s.core.num := rfl
@[simp] theorem onTh_core_ctl (f : ThunkSt → ThunkSt) : (onTh f s).core.ctl = s.core.ctl := rfl
@[simp] theorem onTh_core_st (f : ThunkSt → ThunkSt) : (onTh f s).core.st = s.core.st := rfl
@[simp] theorem onTh_core_now (f : ThunkSt → ThunkSt) : (onTh f s).core.now = s.core.now := rfl
@[simp] theorem onTh_core_born (f : ThunkSt → ThunkSt) : (onTh f s).core.born = s.core.born := rfl
@[simp] theorem onTh_core_sc (f : ThunkSt → ThunkSt) : (onTh f s).core.sc = s.core.sc := rfl
@[simp] theorem onTh_core_vec (f : ThunkSt → ThunkSt) : (onTh f s).core.vec = s.core.vec := rfl
@[simp] theorem onTh_core_pend (f : ThunkSt → ThunkSt) : (onTh f s).core.pend = s.core.pend := rfl
@[simp] theorem onTh_core_iss (f : ThunkSt → ThunkSt) : (onTh f s).core.iss = s.core.iss := rfl
@[simp] theorem onTh_core_path (f : ThunkSt → ThunkSt) : (onTh f s).core.path = s.core.path := rfl
@[simp] theorem onTh_core_x (f : ThunkSt → ThunkSt) : (onTh f s).core.x = s.core.x := rfl
@[simp] theorem onTh_core_ev (f : ThunkSt → ThunkSt) : (onTh f s).core.ev = s.core.ev := rfl
@[simp] theorem onTh_core_sp (f : ThunkSt → ThunkSt) : (onTh f s).core.sp = s.core.sp := rfl
@[simp] theorem onTh_core_sb (f : ThunkSt → ThunkSt) : (onTh f s).core.sb = s.core.sb := rfl
@[simp] theorem onTh_core_cp (f : ThunkSt → ThunkSt) : (onTh f s).core.cp = s.core.cp := rfl
@[simp] theorem onTh_core_mx (f : ThunkSt → ThunkSt) : (onTh f s).core.mx = s.core.mx := rfl
@[simp] theorem onTh_core_th (f : ThunkSt → ThunkSt) : (onTh f s).core.th = f s.core.th := rfl
@[simp] theorem onTh_core_task (f : ThunkSt → ThunkSt) : (onTh f s).core.task = s.core.task := rfl
@[simp] theorem onTh_core_cm (f : ThunkSt → ThunkSt) : (onTh f s).core.cm = s.core.cm := rfl
@[simp] theorem onTh_core_pm (f : ThunkSt → ThunkSt) : (onTh f s).core.pm = s.core.pm := rfl
@[simp] theorem onTh_core_phase (f : ThunkSt → ThunkSt) : (onTh f s).core.phase = s.core.phase := rfl

/-! ### `onTask` -/

@[simp] theorem onTask_others (f : TaskSt → TaskSt) : (onTask f s).others = s.others := rfl
@[simp] theorem onTask_mem (f : TaskSt → TaskSt) : (onTask f s).mem = s.mem := rfl
@[simp] theorem onTask_home (f : TaskSt → TaskSt) : (onTask f s).home = s.home := rfl
@[simp] theorem onTask_dist (f : TaskSt → TaskSt) : (onTask f s).dist = s.dist := rfl
@[simp] theorem onTask_grp (f : TaskSt → TaskSt) : (onTask f s).grp = s.grp := rfl
@[simp] theorem onTask_net (f : TaskSt → TaskSt) : (onTask f s).net = s.net := rfl
@[simp] theorem onTask_ctl (f : TaskSt → TaskSt) : (onTask f s).ctl = s.ctl := rfl
@[simp] theorem onTask_time (f : TaskSt → TaskSt) : (onTask f s).time = s.time := rfl
@[simp] theorem onTask_sched (f : TaskSt → TaskSt) : (onTask f s).sched = s.sched := rfl
@[simp] theorem onTask_free (f : TaskSt → TaskSt) : (onTask f s).free = s.free := rfl
@[simp] theorem onTask_core_num (f : TaskSt → TaskSt) : (onTask f s).core.num = s.core.num := rfl
@[simp] theorem onTask_core_ctl (f : TaskSt → TaskSt) : (onTask f s).core.ctl = s.core.ctl := rfl
@[simp] theorem onTask_core_st (f : TaskSt → TaskSt) : (onTask f s).core.st = s.core.st := rfl
@[simp] theorem onTask_core_now (f : TaskSt → TaskSt) : (onTask f s).core.now = s.core.now := rfl
@[simp] theorem onTask_core_born (f : TaskSt → TaskSt) : (onTask f s).core.born = s.core.born := rfl
@[simp] theorem onTask_core_sc (f : TaskSt → TaskSt) : (onTask f s).core.sc = s.core.sc := rfl
@[simp] theorem onTask_core_vec (f : TaskSt → TaskSt) : (onTask f s).core.vec = s.core.vec := rfl
@[simp] theorem onTask_core_pend (f : TaskSt → TaskSt) : (onTask f s).core.pend = s.core.pend := rfl
@[simp] theorem onTask_core_iss (f : TaskSt → TaskSt) : (onTask f s).core.iss = s.core.iss := rfl
@[simp] theorem onTask_core_path (f : TaskSt → TaskSt) : (onTask f s).core.path = s.core.path := rfl
@[simp] theorem onTask_core_x (f : TaskSt → TaskSt) : (onTask f s).core.x = s.core.x := rfl
@[simp] theorem onTask_core_ev (f : TaskSt → TaskSt) : (onTask f s).core.ev = s.core.ev := rfl
@[simp] theorem onTask_core_sp (f : TaskSt → TaskSt) : (onTask f s).core.sp = s.core.sp := rfl
@[simp] theorem onTask_core_sb (f : TaskSt → TaskSt) : (onTask f s).core.sb = s.core.sb := rfl
@[simp] theorem onTask_core_cp (f : TaskSt → TaskSt) : (onTask f s).core.cp = s.core.cp := rfl
@[simp] theorem onTask_core_mx (f : TaskSt → TaskSt) : (onTask f s).core.mx = s.core.mx := rfl
@[simp] theorem onTask_core_th (f : TaskSt → TaskSt) : (onTask f s).core.th = s.core.th := rfl
@[simp] theorem onTask_core_task (f : TaskSt → TaskSt) : (onTask f s).core.task = f s.core.task := rfl
@[simp] theorem onTask_core_cm (f : TaskSt → TaskSt) : (onTask f s).core.cm = s.core.cm := rfl
@[simp] theorem onTask_core_pm (f : TaskSt → TaskSt) : (onTask f s).core.pm = s.core.pm := rfl
@[simp] theorem onTask_core_phase (f : TaskSt → TaskSt) : (onTask f s).core.phase = s.core.phase := rfl

/-! ### `onCm` -/

@[simp] theorem onCm_others (f : CMem → CMem) : (onCm f s).others = s.others := rfl
@[simp] theorem onCm_mem (f : CMem → CMem) : (onCm f s).mem = s.mem := rfl
@[simp] theorem onCm_home (f : CMem → CMem) : (onCm f s).home = s.home := rfl
@[simp] theorem onCm_dist (f : CMem → CMem) : (onCm f s).dist = s.dist := rfl
@[simp] theorem onCm_grp (f : CMem → CMem) : (onCm f s).grp = s.grp := rfl
@[simp] theorem onCm_net (f : CMem → CMem) : (onCm f s).net = s.net := rfl
@[simp] theorem onCm_ctl (f : CMem → CMem) : (onCm f s).ctl = s.ctl := rfl
@[simp] theorem onCm_time (f : CMem → CMem) : (onCm f s).time = s.time := rfl
@[simp] theorem onCm_sched (f : CMem → CMem) : (onCm f s).sched = s.sched := rfl
@[simp] theorem onCm_free (f : CMem → CMem) : (onCm f s).free = s.free := rfl
@[simp] theorem onCm_core_num (f : CMem → CMem) : (onCm f s).core.num = s.core.num := rfl
@[simp] theorem onCm_core_ctl (f : CMem → CMem) : (onCm f s).core.ctl = s.core.ctl := rfl
@[simp] theorem onCm_core_st (f : CMem → CMem) : (onCm f s).core.st = s.core.st := rfl
@[simp] theorem onCm_core_now (f : CMem → CMem) : (onCm f s).core.now = s.core.now := rfl
@[simp] theorem onCm_core_born (f : CMem → CMem) : (onCm f s).core.born = s.core.born := rfl
@[simp] theorem onCm_core_sc (f : CMem → CMem) : (onCm f s).core.sc = s.core.sc := rfl
@[simp] theorem onCm_core_vec (f : CMem → CMem) : (onCm f s).core.vec = s.core.vec := rfl
@[simp] theorem onCm_core_pend (f : CMem → CMem) : (onCm f s).core.pend = s.core.pend := rfl
@[simp] theorem onCm_core_iss (f : CMem → CMem) : (onCm f s).core.iss = s.core.iss := rfl
@[simp] theorem onCm_core_path (f : CMem → CMem) : (onCm f s).core.path = s.core.path := rfl
@[simp] theorem onCm_core_x (f : CMem → CMem) : (onCm f s).core.x = s.core.x := rfl
@[simp] theorem onCm_core_ev (f : CMem → CMem) : (onCm f s).core.ev = s.core.ev := rfl
@[simp] theorem onCm_core_sp (f : CMem → CMem) : (onCm f s).core.sp = s.core.sp := rfl
@[simp] theorem onCm_core_sb (f : CMem → CMem) : (onCm f s).core.sb = s.core.sb := rfl
@[simp] theorem onCm_core_cp (f : CMem → CMem) : (onCm f s).core.cp = s.core.cp := rfl
@[simp] theorem onCm_core_mx (f : CMem → CMem) : (onCm f s).core.mx = s.core.mx := rfl
@[simp] theorem onCm_core_th (f : CMem → CMem) : (onCm f s).core.th = s.core.th := rfl
@[simp] theorem onCm_core_task (f : CMem → CMem) : (onCm f s).core.task = s.core.task := rfl
@[simp] theorem onCm_core_cm (f : CMem → CMem) : (onCm f s).core.cm = f s.core.cm := rfl
@[simp] theorem onCm_core_pm (f : CMem → CMem) : (onCm f s).core.pm = s.core.pm := rfl
@[simp] theorem onCm_core_phase (f : CMem → CMem) : (onCm f s).core.phase = s.core.phase := rfl

/-! ### `onPm` -/

@[simp] theorem onPm_others (f : PmSt → PmSt) : (onPm f s).others = s.others := rfl
@[simp] theorem onPm_mem (f : PmSt → PmSt) : (onPm f s).mem = s.mem := rfl
@[simp] theorem onPm_home (f : PmSt → PmSt) : (onPm f s).home = s.home := rfl
@[simp] theorem onPm_dist (f : PmSt → PmSt) : (onPm f s).dist = s.dist := rfl
@[simp] theorem onPm_grp (f : PmSt → PmSt) : (onPm f s).grp = s.grp := rfl
@[simp] theorem onPm_net (f : PmSt → PmSt) : (onPm f s).net = s.net := rfl
@[simp] theorem onPm_ctl (f : PmSt → PmSt) : (onPm f s).ctl = s.ctl := rfl
@[simp] theorem onPm_time (f : PmSt → PmSt) : (onPm f s).time = s.time := rfl
@[simp] theorem onPm_sched (f : PmSt → PmSt) : (onPm f s).sched = s.sched := rfl
@[simp] theorem onPm_free (f : PmSt → PmSt) : (onPm f s).free = s.free := rfl
@[simp] theorem onPm_core_num (f : PmSt → PmSt) : (onPm f s).core.num = s.core.num := rfl
@[simp] theorem onPm_core_ctl (f : PmSt → PmSt) : (onPm f s).core.ctl = s.core.ctl := rfl
@[simp] theorem onPm_core_st (f : PmSt → PmSt) : (onPm f s).core.st = s.core.st := rfl
@[simp] theorem onPm_core_now (f : PmSt → PmSt) : (onPm f s).core.now = s.core.now := rfl
@[simp] theorem onPm_core_born (f : PmSt → PmSt) : (onPm f s).core.born = s.core.born := rfl
@[simp] theorem onPm_core_sc (f : PmSt → PmSt) : (onPm f s).core.sc = s.core.sc := rfl
@[simp] theorem onPm_core_vec (f : PmSt → PmSt) : (onPm f s).core.vec = s.core.vec := rfl
@[simp] theorem onPm_core_pend (f : PmSt → PmSt) : (onPm f s).core.pend = s.core.pend := rfl
@[simp] theorem onPm_core_iss (f : PmSt → PmSt) : (onPm f s).core.iss = s.core.iss := rfl
@[simp] theorem onPm_core_path (f : PmSt → PmSt) : (onPm f s).core.path = s.core.path := rfl
@[simp] theorem onPm_core_x (f : PmSt → PmSt) : (onPm f s).core.x = s.core.x := rfl
@[simp] theorem onPm_core_ev (f : PmSt → PmSt) : (onPm f s).core.ev = s.core.ev := rfl
@[simp] theorem onPm_core_sp (f : PmSt → PmSt) : (onPm f s).core.sp = s.core.sp := rfl
@[simp] theorem onPm_core_sb (f : PmSt → PmSt) : (onPm f s).core.sb = s.core.sb := rfl
@[simp] theorem onPm_core_cp (f : PmSt → PmSt) : (onPm f s).core.cp = s.core.cp := rfl
@[simp] theorem onPm_core_mx (f : PmSt → PmSt) : (onPm f s).core.mx = s.core.mx := rfl
@[simp] theorem onPm_core_th (f : PmSt → PmSt) : (onPm f s).core.th = s.core.th := rfl
@[simp] theorem onPm_core_task (f : PmSt → PmSt) : (onPm f s).core.task = s.core.task := rfl
@[simp] theorem onPm_core_cm (f : PmSt → PmSt) : (onPm f s).core.cm = s.core.cm := rfl
@[simp] theorem onPm_core_pm (f : PmSt → PmSt) : (onPm f s).core.pm = f s.core.pm := rfl
@[simp] theorem onPm_core_phase (f : PmSt → PmSt) : (onPm f s).core.phase = s.core.phase := rfl

/-! ### `onHome` -/

@[simp] theorem onHome_core (f : HomeSt → HomeSt) : (onHome f s).core = s.core := rfl
@[simp] theorem onHome_others (f : HomeSt → HomeSt) : (onHome f s).others = s.others := rfl
@[simp] theorem onHome_mem (f : HomeSt → HomeSt) : (onHome f s).mem = s.mem := rfl
@[simp] theorem onHome_home (f : HomeSt → HomeSt) : (onHome f s).home = f s.home := rfl
@[simp] theorem onHome_dist (f : HomeSt → HomeSt) : (onHome f s).dist = s.dist := rfl
@[simp] theorem onHome_grp (f : HomeSt → HomeSt) : (onHome f s).grp = s.grp := rfl
@[simp] theorem onHome_net (f : HomeSt → HomeSt) : (onHome f s).net = s.net := rfl
@[simp] theorem onHome_ctl (f : HomeSt → HomeSt) : (onHome f s).ctl = s.ctl := rfl
@[simp] theorem onHome_time (f : HomeSt → HomeSt) : (onHome f s).time = s.time := rfl
@[simp] theorem onHome_sched (f : HomeSt → HomeSt) : (onHome f s).sched = s.sched := rfl
@[simp] theorem onHome_free (f : HomeSt → HomeSt) : (onHome f s).free = s.free := rfl

/-! ### `onDist` -/

@[simp] theorem onDist_core (f : DistSt → DistSt) : (onDist f s).core = s.core := rfl
@[simp] theorem onDist_others (f : DistSt → DistSt) : (onDist f s).others = s.others := rfl
@[simp] theorem onDist_mem (f : DistSt → DistSt) : (onDist f s).mem = s.mem := rfl
@[simp] theorem onDist_home (f : DistSt → DistSt) : (onDist f s).home = s.home := rfl
@[simp] theorem onDist_dist (f : DistSt → DistSt) : (onDist f s).dist = f s.dist := rfl
@[simp] theorem onDist_grp (f : DistSt → DistSt) : (onDist f s).grp = s.grp := rfl
@[simp] theorem onDist_net (f : DistSt → DistSt) : (onDist f s).net = s.net := rfl
@[simp] theorem onDist_ctl (f : DistSt → DistSt) : (onDist f s).ctl = s.ctl := rfl
@[simp] theorem onDist_time (f : DistSt → DistSt) : (onDist f s).time = s.time := rfl
@[simp] theorem onDist_sched (f : DistSt → DistSt) : (onDist f s).sched = s.sched := rfl
@[simp] theorem onDist_free (f : DistSt → DistSt) : (onDist f s).free = s.free := rfl

/-! ### `onGrp` -/

@[simp] theorem onGrp_core (f : GrpSt → GrpSt) : (onGrp f s).core = s.core := rfl
@[simp] theorem onGrp_others (f : GrpSt → GrpSt) : (onGrp f s).others = s.others := rfl
@[simp] theorem onGrp_mem (f : GrpSt → GrpSt) : (onGrp f s).mem = s.mem := rfl
@[simp] theorem onGrp_home (f : GrpSt → GrpSt) : (onGrp f s).home = s.home := rfl
@[simp] theorem onGrp_dist (f : GrpSt → GrpSt) : (onGrp f s).dist = s.dist := rfl
@[simp] theorem onGrp_grp (f : GrpSt → GrpSt) : (onGrp f s).grp = f s.grp := rfl
@[simp] theorem onGrp_net (f : GrpSt → GrpSt) : (onGrp f s).net = s.net := rfl
@[simp] theorem onGrp_ctl (f : GrpSt → GrpSt) : (onGrp f s).ctl = s.ctl := rfl
@[simp] theorem onGrp_time (f : GrpSt → GrpSt) : (onGrp f s).time = s.time := rfl
@[simp] theorem onGrp_sched (f : GrpSt → GrpSt) : (onGrp f s).sched = s.sched := rfl
@[simp] theorem onGrp_free (f : GrpSt → GrpSt) : (onGrp f s).free = s.free := rfl

/-! ### `onNet` -/

@[simp] theorem onNet_core (f : NetSt → NetSt) : (onNet f s).core = s.core := rfl
@[simp] theorem onNet_others (f : NetSt → NetSt) : (onNet f s).others = s.others := rfl
@[simp] theorem onNet_mem (f : NetSt → NetSt) : (onNet f s).mem = s.mem := rfl
@[simp] theorem onNet_home (f : NetSt → NetSt) : (onNet f s).home = s.home := rfl
@[simp] theorem onNet_dist (f : NetSt → NetSt) : (onNet f s).dist = s.dist := rfl
@[simp] theorem onNet_grp (f : NetSt → NetSt) : (onNet f s).grp = s.grp := rfl
@[simp] theorem onNet_net (f : NetSt → NetSt) : (onNet f s).net = f s.net := rfl
@[simp] theorem onNet_ctl (f : NetSt → NetSt) : (onNet f s).ctl = s.ctl := rfl
@[simp] theorem onNet_time (f : NetSt → NetSt) : (onNet f s).time = s.time := rfl
@[simp] theorem onNet_sched (f : NetSt → NetSt) : (onNet f s).sched = s.sched := rfl
@[simp] theorem onNet_free (f : NetSt → NetSt) : (onNet f s).free = s.free := rfl

/-! ### `onCtl` -/

@[simp] theorem onCtl_core (f : CtlSt → CtlSt) : (onCtl f s).core = s.core := rfl
@[simp] theorem onCtl_others (f : CtlSt → CtlSt) : (onCtl f s).others = s.others := rfl
@[simp] theorem onCtl_mem (f : CtlSt → CtlSt) : (onCtl f s).mem = s.mem := rfl
@[simp] theorem onCtl_home (f : CtlSt → CtlSt) : (onCtl f s).home = s.home := rfl
@[simp] theorem onCtl_dist (f : CtlSt → CtlSt) : (onCtl f s).dist = s.dist := rfl
@[simp] theorem onCtl_grp (f : CtlSt → CtlSt) : (onCtl f s).grp = s.grp := rfl
@[simp] theorem onCtl_net (f : CtlSt → CtlSt) : (onCtl f s).net = s.net := rfl
@[simp] theorem onCtl_ctl (f : CtlSt → CtlSt) : (onCtl f s).ctl = f s.ctl := rfl
@[simp] theorem onCtl_time (f : CtlSt → CtlSt) : (onCtl f s).time = s.time := rfl
@[simp] theorem onCtl_sched (f : CtlSt → CtlSt) : (onCtl f s).sched = s.sched := rfl
@[simp] theorem onCtl_free (f : CtlSt → CtlSt) : (onCtl f s).free = s.free := rfl

/-! ### `emit: a result is put in line; nothing else changes` -/

@[simp] theorem emit_others (lat : Nat) (e : Land) : (emit lat e s).others = s.others := rfl
@[simp] theorem emit_mem (lat : Nat) (e : Land) : (emit lat e s).mem = s.mem := rfl
@[simp] theorem emit_home (lat : Nat) (e : Land) : (emit lat e s).home = s.home := rfl
@[simp] theorem emit_dist (lat : Nat) (e : Land) : (emit lat e s).dist = s.dist := rfl
@[simp] theorem emit_grp (lat : Nat) (e : Land) : (emit lat e s).grp = s.grp := rfl
@[simp] theorem emit_net (lat : Nat) (e : Land) : (emit lat e s).net = s.net := rfl
@[simp] theorem emit_ctl (lat : Nat) (e : Land) : (emit lat e s).ctl = s.ctl := rfl
@[simp] theorem emit_time (lat : Nat) (e : Land) : (emit lat e s).time = s.time := rfl
@[simp] theorem emit_sched (lat : Nat) (e : Land) : (emit lat e s).sched = s.sched := rfl
@[simp] theorem emit_free (lat : Nat) (e : Land) : (emit lat e s).free = s.free := rfl
@[simp] theorem emit_core_num (lat : Nat) (e : Land) : (emit lat e s).core.num = s.core.num := rfl
@[simp] theorem emit_core_ctl (lat : Nat) (e : Land) : (emit lat e s).core.ctl = s.core.ctl := rfl
@[simp] theorem emit_core_st (lat : Nat) (e : Land) : (emit lat e s).core.st = s.core.st := rfl
@[simp] theorem emit_core_now (lat : Nat) (e : Land) : (emit lat e s).core.now = s.core.now := rfl
@[simp] theorem emit_core_born (lat : Nat) (e : Land) : (emit lat e s).core.born = s.core.born := rfl
@[simp] theorem emit_core_sc (lat : Nat) (e : Land) : (emit lat e s).core.sc = s.core.sc := rfl
@[simp] theorem emit_core_vec (lat : Nat) (e : Land) : (emit lat e s).core.vec = s.core.vec := rfl
@[simp] theorem emit_core_iss (lat : Nat) (e : Land) : (emit lat e s).core.iss = s.core.iss := rfl
@[simp] theorem emit_core_path (lat : Nat) (e : Land) : (emit lat e s).core.path = s.core.path := rfl
@[simp] theorem emit_core_x (lat : Nat) (e : Land) : (emit lat e s).core.x = s.core.x := rfl
@[simp] theorem emit_core_ev (lat : Nat) (e : Land) : (emit lat e s).core.ev = s.core.ev := rfl
@[simp] theorem emit_core_sp (lat : Nat) (e : Land) : (emit lat e s).core.sp = s.core.sp := rfl
@[simp] theorem emit_core_sb (lat : Nat) (e : Land) : (emit lat e s).core.sb = s.core.sb := rfl
@[simp] theorem emit_core_cp (lat : Nat) (e : Land) : (emit lat e s).core.cp = s.core.cp := rfl
@[simp] theorem emit_core_mx (lat : Nat) (e : Land) : (emit lat e s).core.mx = s.core.mx := rfl
@[simp] theorem emit_core_th (lat : Nat) (e : Land) : (emit lat e s).core.th = s.core.th := rfl
@[simp] theorem emit_core_task (lat : Nat) (e : Land) : (emit lat e s).core.task = s.core.task := rfl
@[simp] theorem emit_core_cm (lat : Nat) (e : Land) : (emit lat e s).core.cm = s.core.cm := rfl
@[simp] theorem emit_core_pm (lat : Nat) (e : Land) : (emit lat e s).core.pm = s.core.pm := rfl
@[simp] theorem emit_core_phase (lat : Nat) (e : Land) : (emit lat e s).core.phase = s.core.phase := rfl
@[simp] theorem emit_core_pend (lat : Nat) (e : Land) : (emit lat e s).core.pend = insPend ⟨s.core.now + lat - 1, s.core.now, s.core.iss.pc, s.core.iss.slot, e⟩ (trimPend s.core.now e s.core.pend) := rfl

/-! ### `cntEv` -/

@[simp] theorem cntEv_others (e n : Nat) : (cntEv e n s).others = s.others := rfl
@[simp] theorem cntEv_mem (e n : Nat) : (cntEv e n s).mem = s.mem := rfl
@[simp] theorem cntEv_home (e n : Nat) : (cntEv e n s).home = s.home := rfl
@[simp] theorem cntEv_dist (e n : Nat) : (cntEv e n s).dist = s.dist := rfl
@[simp] theorem cntEv_grp (e n : Nat) : (cntEv e n s).grp = s.grp := rfl
@[simp] theorem cntEv_net (e n : Nat) : (cntEv e n s).net = s.net := rfl
@[simp] theorem cntEv_ctl (e n : Nat) : (cntEv e n s).ctl = s.ctl := rfl
@[simp] theorem cntEv_time (e n : Nat) : (cntEv e n s).time = s.time := rfl
@[simp] theorem cntEv_sched (e n : Nat) : (cntEv e n s).sched = s.sched := rfl
@[simp] theorem cntEv_free (e n : Nat) : (cntEv e n s).free = s.free := rfl
@[simp] theorem cntEv_core_num (e n : Nat) : (cntEv e n s).core.num = s.core.num := rfl
@[simp] theorem cntEv_core_ctl (e n : Nat) : (cntEv e n s).core.ctl = s.core.ctl := rfl
@[simp] theorem cntEv_core_st (e n : Nat) : (cntEv e n s).core.st = s.core.st := rfl
@[simp] theorem cntEv_core_now (e n : Nat) : (cntEv e n s).core.now = s.core.now := rfl
@[simp] theorem cntEv_core_born (e n : Nat) : (cntEv e n s).core.born = s.core.born := rfl
@[simp] theorem cntEv_core_sc (e n : Nat) : (cntEv e n s).core.sc = s.core.sc := rfl
@[simp] theorem cntEv_core_vec (e n : Nat) : (cntEv e n s).core.vec = s.core.vec := rfl
@[simp] theorem cntEv_core_pend (e n : Nat) : (cntEv e n s).core.pend = s.core.pend := rfl
@[simp] theorem cntEv_core_iss (e n : Nat) : (cntEv e n s).core.iss = { s.core.iss with cnt := mset 0 s.core.iss.cnt e (mget 0 s.core.iss.cnt e + n) } := rfl
@[simp] theorem cntEv_core_path (e n : Nat) : (cntEv e n s).core.path = s.core.path := rfl
@[simp] theorem cntEv_core_x (e n : Nat) : (cntEv e n s).core.x = s.core.x := rfl
@[simp] theorem cntEv_core_ev (e n : Nat) : (cntEv e n s).core.ev = s.core.ev := rfl
@[simp] theorem cntEv_core_sp (e n : Nat) : (cntEv e n s).core.sp = s.core.sp := rfl
@[simp] theorem cntEv_core_sb (e n : Nat) : (cntEv e n s).core.sb = s.core.sb := rfl
@[simp] theorem cntEv_core_cp (e n : Nat) : (cntEv e n s).core.cp = s.core.cp := rfl
@[simp] theorem cntEv_core_mx (e n : Nat) : (cntEv e n s).core.mx = s.core.mx := rfl
@[simp] theorem cntEv_core_th (e n : Nat) : (cntEv e n s).core.th = s.core.th := rfl
@[simp] theorem cntEv_core_task (e n : Nat) : (cntEv e n s).core.task = s.core.task := rfl
@[simp] theorem cntEv_core_cm (e n : Nat) : (cntEv e n s).core.cm = s.core.cm := rfl
@[simp] theorem cntEv_core_pm (e n : Nat) : (cntEv e n s).core.pm = s.core.pm := rfl
@[simp] theorem cntEv_core_phase (e n : Nat) : (cntEv e n s).core.phase = s.core.phase := rfl

/-! ### `hold` -/

@[simp] theorem hold_others (ev : Nat) : (hold ev s).others = s.others := rfl
@[simp] theorem hold_mem (ev : Nat) : (hold ev s).mem = s.mem := rfl
@[simp] theorem hold_home (ev : Nat) : (hold ev s).home = s.home := rfl
@[simp] theorem hold_dist (ev : Nat) : (hold ev s).dist = s.dist := rfl
@[simp] theorem hold_grp (ev : Nat) : (hold ev s).grp = s.grp := rfl
@[simp] theorem hold_net (ev : Nat) : (hold ev s).net = s.net := rfl
@[simp] theorem hold_ctl (ev : Nat) : (hold ev s).ctl = s.ctl := rfl
@[simp] theorem hold_time (ev : Nat) : (hold ev s).time = s.time := rfl
@[simp] theorem hold_sched (ev : Nat) : (hold ev s).sched = s.sched := rfl
@[simp] theorem hold_free (ev : Nat) : (hold ev s).free = s.free := rfl
@[simp] theorem hold_core_num (ev : Nat) : (hold ev s).core.num = s.core.num := rfl
@[simp] theorem hold_core_ctl (ev : Nat) : (hold ev s).core.ctl = s.core.ctl := rfl
@[simp] theorem hold_core_st (ev : Nat) : (hold ev s).core.st = s.core.st := rfl
@[simp] theorem hold_core_now (ev : Nat) : (hold ev s).core.now = s.core.now := rfl
@[simp] theorem hold_core_born (ev : Nat) : (hold ev s).core.born = s.core.born := rfl
@[simp] theorem hold_core_sc (ev : Nat) : (hold ev s).core.sc = s.core.sc := rfl
@[simp] theorem hold_core_vec (ev : Nat) : (hold ev s).core.vec = s.core.vec := rfl
@[simp] theorem hold_core_pend (ev : Nat) : (hold ev s).core.pend = s.core.pend := rfl
@[simp] theorem hold_core_iss (ev : Nat) : (hold ev s).core.iss = { s.core.iss with held := some ev } := rfl
@[simp] theorem hold_core_path (ev : Nat) : (hold ev s).core.path = s.core.path := rfl
@[simp] theorem hold_core_x (ev : Nat) : (hold ev s).core.x = s.core.x := rfl
@[simp] theorem hold_core_ev (ev : Nat) : (hold ev s).core.ev = s.core.ev := rfl
@[simp] theorem hold_core_sp (ev : Nat) : (hold ev s).core.sp = s.core.sp := rfl
@[simp] theorem hold_core_sb (ev : Nat) : (hold ev s).core.sb = s.core.sb := rfl
@[simp] theorem hold_core_cp (ev : Nat) : (hold ev s).core.cp = s.core.cp := rfl
@[simp] theorem hold_core_mx (ev : Nat) : (hold ev s).core.mx = s.core.mx := rfl
@[simp] theorem hold_core_th (ev : Nat) : (hold ev s).core.th = s.core.th := rfl
@[simp] theorem hold_core_task (ev : Nat) : (hold ev s).core.task = s.core.task := rfl
@[simp] theorem hold_core_cm (ev : Nat) : (hold ev s).core.cm = s.core.cm := rfl
@[simp] theorem hold_core_pm (ev : Nat) : (hold ev s).core.pm = s.core.pm := rfl
@[simp] theorem hold_core_phase (ev : Nat) : (hold ev s).core.phase = s.core.phase := rfl

/-! ### `holdAs` -/

@[simp] theorem holdAs_others (k ev : Nat) : (holdAs k ev s).others = s.others := rfl
@[simp] theorem holdAs_mem (k ev : Nat) : (holdAs k ev s).mem = s.mem := rfl
@[simp] theorem holdAs_home (k ev : Nat) : (holdAs k ev s).home = s.home := rfl
@[simp] theorem holdAs_dist (k ev : Nat) : (holdAs k ev s).dist = s.dist := rfl
@[simp] theorem holdAs_grp (k ev : Nat) : (holdAs k ev s).grp = s.grp := rfl
@[simp] theorem holdAs_net (k ev : Nat) : (holdAs k ev s).net = s.net := rfl
@[simp] theorem holdAs_ctl (k ev : Nat) : (holdAs k ev s).ctl = s.ctl := rfl
@[simp] theorem holdAs_time (k ev : Nat) : (holdAs k ev s).time = s.time := rfl
@[simp] theorem holdAs_sched (k ev : Nat) : (holdAs k ev s).sched = s.sched := rfl
@[simp] theorem holdAs_free (k ev : Nat) : (holdAs k ev s).free = s.free := rfl
@[simp] theorem holdAs_core_num (k ev : Nat) : (holdAs k ev s).core.num = s.core.num := rfl
@[simp] theorem holdAs_core_ctl (k ev : Nat) : (holdAs k ev s).core.ctl = s.core.ctl := rfl
@[simp] theorem holdAs_core_st (k ev : Nat) : (holdAs k ev s).core.st = s.core.st := rfl
@[simp] theorem holdAs_core_now (k ev : Nat) : (holdAs k ev s).core.now = s.core.now := rfl
@[simp] theorem holdAs_core_born (k ev : Nat) : (holdAs k ev s).core.born = s.core.born := rfl
@[simp] theorem holdAs_core_sc (k ev : Nat) : (holdAs k ev s).core.sc = s.core.sc := rfl
@[simp] theorem holdAs_core_vec (k ev : Nat) : (holdAs k ev s).core.vec = s.core.vec := rfl
@[simp] theorem holdAs_core_pend (k ev : Nat) : (holdAs k ev s).core.pend = s.core.pend := rfl
@[simp] theorem holdAs_core_iss (k ev : Nat) : (holdAs k ev s).core.iss = { s.core.iss with held := some ev, wait := k } := rfl
@[simp] theorem holdAs_core_path (k ev : Nat) : (holdAs k ev s).core.path = s.core.path := rfl
@[simp] theorem holdAs_core_x (k ev : Nat) : (holdAs k ev s).core.x = s.core.x := rfl
@[simp] theorem holdAs_core_ev (k ev : Nat) : (holdAs k ev s).core.ev = s.core.ev := rfl
@[simp] theorem holdAs_core_sp (k ev : Nat) : (holdAs k ev s).core.sp = s.core.sp := rfl
@[simp] theorem holdAs_core_sb (k ev : Nat) : (holdAs k ev s).core.sb = s.core.sb := rfl
@[simp] theorem holdAs_core_cp (k ev : Nat) : (holdAs k ev s).core.cp = s.core.cp := rfl
@[simp] theorem holdAs_core_mx (k ev : Nat) : (holdAs k ev s).core.mx = s.core.mx := rfl
@[simp] theorem holdAs_core_th (k ev : Nat) : (holdAs k ev s).core.th = s.core.th := rfl
@[simp] theorem holdAs_core_task (k ev : Nat) : (holdAs k ev s).core.task = s.core.task := rfl
@[simp] theorem holdAs_core_cm (k ev : Nat) : (holdAs k ev s).core.cm = s.core.cm := rfl
@[simp] theorem holdAs_core_pm (k ev : Nat) : (holdAs k ev s).core.pm = s.core.pm := rfl
@[simp] theorem holdAs_core_phase (k ev : Nat) : (holdAs k ev s).core.phase = s.core.phase := rfl

/-! ### Registers read -/

@[simp] theorem rdS_zero : rdS s 0 = 0 := rfl
@[simp] theorem rdP_zero : rdP s 0 = true := rfl
@[simp] theorem rdM_zero (c : Nat) : rdM s c 0 = 0xFFFF := rfl

@[simp] theorem rdS_emit (lat : Nat) (e : Land) (r : Nat) : rdS (emit lat e s) r = rdS s r := rfl
@[simp] theorem rdA_emit (lat : Nat) (e : Land) (r : Nat) : rdA (emit lat e s) r = rdA s r := rfl
@[simp] theorem rdP_emit (lat : Nat) (e : Land) (r : Nat) : rdP (emit lat e s) r = rdP s r := rfl
@[simp] theorem rdLc_emit (lat : Nat) (e : Land) (r : Nat) : rdLc (emit lat e s) r = rdLc s r := rfl
@[simp] theorem rdM_emit (lat : Nat) (e : Land) (c r : Nat) : rdM (emit lat e s) c r = rdM s c r := rfl
@[simp] theorem rdS_cntEv (e n : Nat) (r : Nat) : rdS (cntEv e n s) r = rdS s r := rfl
@[simp] theorem rdA_cntEv (e n : Nat) (r : Nat) : rdA (cntEv e n s) r = rdA s r := rfl
@[simp] theorem rdP_cntEv (e n : Nat) (r : Nat) : rdP (cntEv e n s) r = rdP s r := rfl
@[simp] theorem rdLc_cntEv (e n : Nat) (r : Nat) : rdLc (cntEv e n s) r = rdLc s r := rfl
@[simp] theorem rdM_cntEv (e n : Nat) (c r : Nat) : rdM (cntEv e n s) c r = rdM s c r := rfl
@[simp] theorem rdS_onIss (f : Iss → Iss) (r : Nat) : rdS (onIss f s) r = rdS s r := rfl
@[simp] theorem rdA_onIss (f : Iss → Iss) (r : Nat) : rdA (onIss f s) r = rdA s r := rfl
@[simp] theorem rdP_onIss (f : Iss → Iss) (r : Nat) : rdP (onIss f s) r = rdP s r := rfl
@[simp] theorem rdLc_onIss (f : Iss → Iss) (r : Nat) : rdLc (onIss f s) r = rdLc s r := rfl
@[simp] theorem rdM_onIss (f : Iss → Iss) (c r : Nat) : rdM (onIss f s) c r = rdM s c r := rfl
@[simp] theorem rdS_onX (f : XRegs → XRegs) (r : Nat) : rdS (onX f s) r = rdS s r := rfl
@[simp] theorem rdA_onX (f : XRegs → XRegs) (r : Nat) : rdA (onX f s) r = rdA s r := rfl
@[simp] theorem rdP_onX (f : XRegs → XRegs) (r : Nat) : rdP (onX f s) r = rdP s r := rfl
@[simp] theorem rdLc_onX (f : XRegs → XRegs) (r : Nat) : rdLc (onX f s) r = rdLc s r := rfl
@[simp] theorem rdM_onX (f : XRegs → XRegs) (c r : Nat) : rdM (onX f s) c r = rdM s c r := rfl
@[simp] theorem rdS_onCp (f : CopySt → CopySt) (r : Nat) : rdS (onCp f s) r = rdS s r := rfl
@[simp] theorem rdA_onCp (f : CopySt → CopySt) (r : Nat) : rdA (onCp f s) r = rdA s r := rfl
@[simp] theorem rdP_onCp (f : CopySt → CopySt) (r : Nat) : rdP (onCp f s) r = rdP s r := rfl
@[simp] theorem rdLc_onCp (f : CopySt → CopySt) (r : Nat) : rdLc (onCp f s) r = rdLc s r := rfl
@[simp] theorem rdM_onCp (f : CopySt → CopySt) (c r : Nat) : rdM (onCp f s) c r = rdM s c r := rfl
@[simp] theorem rdS_onTh (f : ThunkSt → ThunkSt) (r : Nat) : rdS (onTh f s) r = rdS s r := rfl
@[simp] theorem rdA_onTh (f : ThunkSt → ThunkSt) (r : Nat) : rdA (onTh f s) r = rdA s r := rfl
@[simp] theorem rdP_onTh (f : ThunkSt → ThunkSt) (r : Nat) : rdP (onTh f s) r = rdP s r := rfl
@[simp] theorem rdLc_onTh (f : ThunkSt → ThunkSt) (r : Nat) : rdLc (onTh f s) r = rdLc s r := rfl
@[simp] theorem rdM_onTh (f : ThunkSt → ThunkSt) (c r : Nat) : rdM (onTh f s) c r = rdM s c r := rfl
@[simp] theorem rdS_onCm (f : CMem → CMem) (r : Nat) : rdS (onCm f s) r = rdS s r := rfl
@[simp] theorem rdA_onCm (f : CMem → CMem) (r : Nat) : rdA (onCm f s) r = rdA s r := rfl
@[simp] theorem rdP_onCm (f : CMem → CMem) (r : Nat) : rdP (onCm f s) r = rdP s r := rfl
@[simp] theorem rdLc_onCm (f : CMem → CMem) (r : Nat) : rdLc (onCm f s) r = rdLc s r := rfl
@[simp] theorem rdM_onCm (f : CMem → CMem) (c r : Nat) : rdM (onCm f s) c r = rdM s c r := rfl
@[simp] theorem rdS_onHome (f : HomeSt → HomeSt) (r : Nat) : rdS (onHome f s) r = rdS s r := rfl
@[simp] theorem rdA_onHome (f : HomeSt → HomeSt) (r : Nat) : rdA (onHome f s) r = rdA s r := rfl
@[simp] theorem rdP_onHome (f : HomeSt → HomeSt) (r : Nat) : rdP (onHome f s) r = rdP s r := rfl
@[simp] theorem rdLc_onHome (f : HomeSt → HomeSt) (r : Nat) : rdLc (onHome f s) r = rdLc s r := rfl
@[simp] theorem rdM_onHome (f : HomeSt → HomeSt) (c r : Nat) : rdM (onHome f s) c r = rdM s c r := rfl
@[simp] theorem rdS_onCtl (f : CtlSt → CtlSt) (r : Nat) : rdS (onCtl f s) r = rdS s r := rfl
@[simp] theorem rdA_onCtl (f : CtlSt → CtlSt) (r : Nat) : rdA (onCtl f s) r = rdA s r := rfl
@[simp] theorem rdP_onCtl (f : CtlSt → CtlSt) (r : Nat) : rdP (onCtl f s) r = rdP s r := rfl
@[simp] theorem rdLc_onCtl (f : CtlSt → CtlSt) (r : Nat) : rdLc (onCtl f s) r = rdLc s r := rfl
@[simp] theorem rdM_onCtl (f : CtlSt → CtlSt) (c r : Nat) : rdM (onCtl f s) c r = rdM s c r := rfl
@[simp] theorem rdS_onDist (f : DistSt → DistSt) (r : Nat) : rdS (onDist f s) r = rdS s r := rfl
@[simp] theorem rdA_onDist (f : DistSt → DistSt) (r : Nat) : rdA (onDist f s) r = rdA s r := rfl
@[simp] theorem rdP_onDist (f : DistSt → DistSt) (r : Nat) : rdP (onDist f s) r = rdP s r := rfl
@[simp] theorem rdLc_onDist (f : DistSt → DistSt) (r : Nat) : rdLc (onDist f s) r = rdLc s r := rfl
@[simp] theorem rdM_onDist (f : DistSt → DistSt) (c r : Nat) : rdM (onDist f s) c r = rdM s c r := rfl
@[simp] theorem rdS_onGrp (f : GrpSt → GrpSt) (r : Nat) : rdS (onGrp f s) r = rdS s r := rfl
@[simp] theorem rdA_onGrp (f : GrpSt → GrpSt) (r : Nat) : rdA (onGrp f s) r = rdA s r := rfl
@[simp] theorem rdP_onGrp (f : GrpSt → GrpSt) (r : Nat) : rdP (onGrp f s) r = rdP s r := rfl
@[simp] theorem rdLc_onGrp (f : GrpSt → GrpSt) (r : Nat) : rdLc (onGrp f s) r = rdLc s r := rfl
@[simp] theorem rdM_onGrp (f : GrpSt → GrpSt) (c r : Nat) : rdM (onGrp f s) c r = rdM s c r := rfl
@[simp] theorem rdS_onNet (f : NetSt → NetSt) (r : Nat) : rdS (onNet f s) r = rdS s r := rfl
@[simp] theorem rdA_onNet (f : NetSt → NetSt) (r : Nat) : rdA (onNet f s) r = rdA s r := rfl
@[simp] theorem rdP_onNet (f : NetSt → NetSt) (r : Nat) : rdP (onNet f s) r = rdP s r := rfl
@[simp] theorem rdLc_onNet (f : NetSt → NetSt) (r : Nat) : rdLc (onNet f s) r = rdLc s r := rfl
@[simp] theorem rdM_onNet (f : NetSt → NetSt) (c r : Nat) : rdM (onNet f s) c r = rdM s c r := rfl

/-! ### Guards -/

theorem guarded_of_true {g n : Nat} (f : State → State) (h : guardOk g n s = true) : guarded g n f s = f s := by simp [guarded, h]
theorem guarded_of_false {g n : Nat} (f : State → State) (h : guardOk g n s = false) : guarded g n f s = s := by simp [guarded, h]
theorem need_of_true {b : Bool} (f : State → State) (h : b = true) : need b f s = f s := by simp [need, h]
theorem need_of_false {b : Bool} (f : State → State) (h : b = false) : need b f s = illop s := by simp [need, h]
theorem priv_of_super (f : State → State) (h : s.core.x.pl = true) : priv f s = f s := by simp [priv, h]
theorem priv_of_user (f : State → State) (h : s.core.x.pl = false) : priv f s = privFault s := by simp [priv, h]

/-! ### Cores by number -/

@[simp] theorem coreAt_focus : coreAt s s.focus = s.core := by simp [coreAt]
@[simp] theorem onCoreAt_focus (f : Core → Core) : onCoreAt s.focus f s = onCore f s := by simp [onCoreAt, setCoreAt, onCore]

end Sys2Proof.Machine
end

