-- ==== Sys2Proof/Laws/Frames.lean ====
section
/-!
SUPPORT. Laws/Frames.lean: for each shared operation, everything it can change.
-/
namespace Sys2Proof.Laws
open Sys2Proof.Machine Sys2Proof.Claims

/-! ### What only touches caches, counters and the bundle's bookkeeping -/

theorem caches_refl (s : State) : onlyCaches s s := rfl

theorem caches_trans {s t u : State} (h : onlyCaches s t) (k : onlyCaches t u) : onlyCaches s u := by
  unfold onlyCaches at h k ⊢
  rw [k, h]

theorem caches_count (e n : Nat) (s : State) : onlyCaches s (onCore (pmAdd e n) s) := by
  unfold onlyCaches onCore pmAdd
  split <;> rfl

theorem caches_onIss (f : Iss → Iss) (s : State) : onlyCaches s (onIss f s) := rfl
theorem caches_cntEv (e n : Nat) (s : State) : onlyCaches s (cntEv e n s) := rfl
theorem caches_draw (s : State) : onlyCaches s (draw s).2 := rfl
theorem caches_rcFill (a : Nat) (s : State) : onlyCaches s (rcFill a s) := by
  by_cases h : s.core.cm.rc.length < 256 <;> simp only [rcFill, h, if_true, if_false] <;> rfl
theorem caches_rcClear (s : State) : onlyCaches s (rcClear s) := rfl

theorem caches_focus {s t : State} (h : onlyCaches s t) : t.focus = s.focus := by
  rw [h]; rfl

/-- A step that keeps to the caches of the core in focus, after one that did. -/
theorem caches_atFocus {s t : State} {f : Core → Core} (h : onlyCaches s t) (hf : ∀ u : State, onlyCaches u (onCore f u)) :
    onlyCaches s (onCoreAt s.focus f t) := by
  rw [← caches_focus h, onCoreAt_focus]
  exact caches_trans h (hf t)

theorem caches_onL2 (m : SMap (List L2Line)) (s : State) : onlyCaches s (onHome (fun h => { h with l2 := m }) s) := rfl

theorem caches_fillWalk (d : Nat) (ws : List WalkE) (s : State) : onlyCaches s (fillWalk d ws s) := rfl
theorem caches_useWalk (d a v : Nat) (s : State) : onlyCaches s (useWalk d a v s) := by
  unfold useWalk
  split <;> rfl
theorem caches_fillQuad (key : Nat) (t : TlbE) (s : State) : onlyCaches s (fillQuad key t s) := rfl

theorem caches_fillCore {s t : State} (b : Bool) (x : TlbE) (h : onlyCaches s t) : onlyCaches s (fillCore b s.focus x t) := by
  unfold fillCore
  split
  · exact caches_atFocus h (fun _ => rfl)
  · exact h

/-- A read or write of the L2 by the core in focus, or by a unit that is no core, changes caches and counters only. -/
theorem caches_l2Touch (w : Who) (wr : Bool) (a : Nat) {s t : State} (k : onlyCaches s t) (h : w.key = s.focus ∨ 1024 ≤ w.key) :
    onlyCaches s (l2Touch w wr a t) := by
  unfold l2Touch
  split
  · simp only
    split
    · rcases h with h | h
      · rw [h]; exact caches_atFocus (caches_trans k (caches_onL2 _ t)) (caches_count _ _)
      · omega
    · exact caches_trans k (caches_onL2 _ t)
  · exact k

theorem caches_reads (w : Who) (wr : Bool) (f : Nat → State → Nat) (as : List Nat) {s t : State} (k : onlyCaches s t)
    (h : w.key = s.focus ∨ 1024 ≤ w.key) : onlyCaches s (as.foldl (fun u a => l2Touch w wr (f a u) u) t) := by
  induction as generalizing t with
  | nil => exact k
  | cons a r ih => exact ih (caches_l2Touch w wr _ k h)

/-- A walk changes no more than what caches hold and what counters count. -/
theorem caches_freshWalk (ttb : Word) (b user : Bool) (k : Acq) (va : Word) {s t : State} (h : onlyCaches s t) :
    onlyCaches s (freshWalk s.focus ttb b user k va t).2 := by
  have hk : whoWalker.key = s.focus ∨ 1024 ≤ whoWalker.key := .inr (by decide)
  have h1 := fun d a v as => caches_reads whoWalker false (fun a u => own u a) as (caches_trans h (caches_useWalk d a v t)) hk
  unfold freshWalk
  dsimp only
  split
  · exact h1 _ _ _ _
  · split
    · exact caches_fillCore _ _ (caches_trans (caches_trans (h1 _ _ _ _) (caches_fillWalk _ _ _)) (caches_fillQuad _ _ _))
    · exact h1 _ _ _ _

/-- A translation changes no more than what caches hold and what counters count. -/
theorem caches_transCore (k : Acq) (va : Word) (s : State) : onlyCaches s (transCore k va s).2 := by
  have hp : ∀ e, onlyCaches s (onCoreAt s.focus (pmAdd e 1) s) := fun e => caches_atFocus (caches_refl s) (caches_count e 1)
  unfold transCore Machine.translate
  simp only [if_true]
  split
  · exact caches_refl s
  · split
    · exact caches_fillCore true _ (caches_refl s)
    · split
      · exact caches_fillCore true _ (caches_trans (hp _) (caches_fillQuad _ _ _))
      · exact caches_freshWalk _ _ _ _ _ (caches_atFocus (hp _) (fun u => caches_trans (caches_count 0x2C 1 u) (caches_count 0x2D 1 _)))

end Sys2Proof.Laws
end

