-- ==== Sys2Proof/Laws/PerInstr.lean ====
section
/-!
SUPPORT. Laws/PerInstr.lean: for each constructor, the fields of its row put back make the instruction, and the row's
places have the widths of its operand fields. With Laws/Rows.lean this is what an encoding's round trip rests on.
-/
namespace Sys2Proof.Laws.RowFields

/-- The row of an instruction makes it from its operand fields and gives each field its width; an agent's step, which has
no row, has no operand field. -/
def Statement (i : Instr) : Prop :=
  match rowOf i with
  | none => i.ops = []
  | some r => r.make (i.ops.map Opnd.val) = some i ∧ r.pos.map Prod.snd = i.ops.map Opnd.width

theorem issueBundle : Statement .issueBundle := rfl
theorem watchdogExpiry : Statement .watchdogExpiry := rfl
theorem forcedBoundary : Statement .forcedBoundary := rfl
theorem resultLands : Statement .resultLands := rfl
theorem preemption : Statement .preemption := rfl
theorem saveComplete : Statement .saveComplete := rfl
theorem copyLineLands : ∀ a b, Statement (.copyLineLands a b) := fun _ _ => rfl
theorem copyCommandCompletion : Statement .copyCommandCompletion := rfl
theorem copyLateFault : Statement .copyLateFault := rfl
theorem copyRequestPop : ∀ a, Statement (.copyRequestPop a) := fun _ => rfl
theorem noticePushRetry : ∀ a, Statement (.noticePushRetry a) := fun _ => rfl
theorem s12Landing : Statement .s12Landing := rfl
theorem teaselBlockComputed : ∀ a, Statement (.teaselBlockComputed a) := fun _ => rfl
theorem teaselRequestCompletion : Statement .teaselRequestCompletion := rfl
theorem teaselLateFault : Statement .teaselLateFault := rfl
theorem waiterDelivery : ∀ a, Statement (.waiterDelivery a) := fun _ => rfl
theorem arrival : ∀ a, Statement (.arrival a) := fun _ => rfl
theorem inDramCompletion : ∀ a, Statement (.inDramCompletion a) := fun _ => rfl
theorem pick : Statement .pick := rfl
theorem dispatch : ∀ a, Statement (.dispatch a) := fun _ => rfl
theorem freeCoreReport : ∀ a, Statement (.freeCoreReport a) := fun _ => rfl
theorem untakenTasksReturn : Statement .untakenTasksReturn := rfl
theorem collectiveStart : ∀ a b, Statement (.collectiveStart a b) := fun _ _ => rfl
theorem collectiveCompletion : ∀ a b, Statement (.collectiveCompletion a b) := fun _ _ => rfl
theorem flitData : ∀ a b, Statement (.flitData a b) := fun _ _ => rfl
theorem flitMarker : ∀ a b, Statement (.flitMarker a b) := fun _ _ => rfl
theorem flitAck : ∀ a b, Statement (.flitAck a b) := fun _ _ => rfl
theorem flitNak : ∀ a b, Statement (.flitNak a b) := fun _ _ => rfl
theorem packetArrival : ∀ a b c, Statement (.packetArrival a b c) := fun _ _ _ => rfl
theorem endToEndAck : ∀ a b c d, Statement (.endToEndAck a b c d) := fun _ _ _ _ => rfl
theorem retransmission : ∀ a, Statement (.retransmission a) := fun _ => rfl
theorem packetDeclaredFailed : ∀ a, Statement (.packetDeclaredFailed a) := fun _ => rfl
theorem powerWindow : ∀ a b c d, Statement (.powerWindow a b c d) := fun _ _ _ _ => rfl
theorem thermalLimit : ∀ a, Statement (.thermalLimit a) := fun _ => rfl
theorem thermalRecovery : ∀ a, Statement (.thermalRecovery a) := fun _ => rfl
theorem thermalTrip : ∀ a, Statement (.thermalTrip a) := fun _ => rfl
theorem resetSequence : Statement .resetSequence := rfl
theorem frameReceived : ∀ a b c, Statement (.frameReceived a b c) := fun _ _ _ => rfl
theorem frameTransmit : ∀ a b, Statement (.frameTransmit a b) := fun _ _ => rfl
theorem getid : ∀ a, Statement (.getid a) := fun _ => rfl
theorem attest : ∀ a, Statement (.attest a) := fun _ => rfl
theorem loados : ∀ a b c d e, Statement (.loados a b c d e) := fun _ _ _ _ _ => rfl
theorem start : ∀ a b, Statement (.start a b) := fun _ _ => rfl
theorem reset : ∀ a b, Statement (.reset a b) := fun _ _ => rfl
theorem podset : ∀ a b, Statement (.podset a b) := fun _ _ => rfl
theorem linktrain : ∀ a b, Statement (.linktrain a b) := fun _ _ => rfl
theorem pcapset : ∀ a b, Statement (.pcapset a b) := fun _ _ => rfl
theorem retire : ∀ a b, Statement (.retire a b) := fun _ _ => rfl
theorem mgmtLaunch : ∀ a b c, Statement (.mgmtLaunch a b c) := fun _ _ _ => rfl
theorem mgmtRollback : ∀ a b, Statement (.mgmtRollback a b) := fun _ _ => rfl
theorem qcreate : Statement .qcreate := rfl
theorem qdestroy : Statement .qdestroy := rfl
theorem poolset : Statement .poolset := rfl
theorem supset : Statement .supset := rfl
theorem capset : Statement .capset := rfl
theorem measset : Statement .measset := rfl
theorem logset : Statement .logset := rfl
theorem repgrp : Statement .repgrp := rfl
theorem rollback : Statement .rollback := rfl
theorem creq : Statement .creq := rfl
theorem l2quotaWrite : ∀ a b, Statement (.l2quotaWrite a b) := fun _ _ => rfl
theorem pcapWrite : ∀ a, Statement (.pcapWrite a) := fun _ => rfl
theorem podcfgWrite : ∀ a, Statement (.podcfgWrite a) := fun _ => rfl
theorem packageRegisterWrite : ∀ a b, Statement (.packageRegisterWrite a b) := fun _ _ => rfl
theorem add : ∀ a b c d e, Statement (.add a b c d e) := fun _ _ _ _ _ => ⟨rfl, rfl⟩
theorem sub : ∀ a b c d e, Statement (.sub a b c d e) := fun _ _ _ _ _ => ⟨rfl, rfl⟩
theorem and : ∀ a b c d e, Statement (.and a b c d e) := fun _ _ _ _ _ => ⟨rfl, rfl⟩
theorem or : ∀ a b c d e, Statement (.or a b c d e) := fun _ _ _ _ _ => ⟨rfl, rfl⟩
theorem xor : ∀ a b c d e, Statement (.xor a b c d e) := fun _ _ _ _ _ => ⟨rfl, rfl⟩
theorem andn : ∀ a b c d e, Statement (.andn a b c d e) := fun _ _ _ _ _ => ⟨rfl, rfl⟩
theorem shl : ∀ a b c d e, Statement (.shl a b c d e) := fun _ _ _ _ _ => ⟨rfl, rfl⟩
theorem shr : ∀ a b c d e, Statement (.shr a b c d e) := fun _ _ _ _ _ => ⟨rfl, rfl⟩
theorem sar : ∀ a b c d e, Statement (.sar a b c d e) := fun _ _ _ _ _ => ⟨rfl, rfl⟩
theorem rol : ∀ a b c d e, Statement (.rol a b c d e) := fun _ _ _ _ _ => ⟨rfl, rfl⟩
theorem ror : ∀ a b c d e, Statement (.ror a b c d e) := fun _ _ _ _ _ => ⟨rfl, rfl⟩
theorem min : ∀ a b c d e, Statement (.min a b c d e) := fun _ _ _ _ _ => ⟨rfl, rfl⟩
theorem max : ∀ a b c d e, Statement (.max a b c d e) := fun _ _ _ _ _ => ⟨rfl, rfl⟩
theorem minu : ∀ a b c d e, Statement (.minu a b c d e) := fun _ _ _ _ _ => ⟨rfl, rfl⟩
theorem maxu : ∀ a b c d e, Statement (.maxu a b c d e) := fun _ _ _ _ _ => ⟨rfl, rfl⟩
theorem mul : ∀ a b c d e, Statement (.mul a b c d e) := fun _ _ _ _ _ => ⟨rfl, rfl⟩
theorem mulh : ∀ a b c d e, Statement (.mulh a b c d e) := fun _ _ _ _ _ => ⟨rfl, rfl⟩
theorem mulhu : ∀ a b c d e, Statement (.mulhu a b c d e) := fun _ _ _ _ _ => ⟨rfl, rfl⟩
theorem mulhsu : ∀ a b c d e, Statement (.mulhsu a b c d e) := fun _ _ _ _ _ => ⟨rfl, rfl⟩
theorem div : ∀ a b c d e, Statement (.div a b c d e) := fun _ _ _ _ _ => ⟨rfl, rfl⟩
theorem divu : ∀ a b c d e, Statement (.divu a b c d e) := fun _ _ _ _ _ => ⟨rfl, rfl⟩
theorem rem : ∀ a b c d e, Statement (.rem a b c d e) := fun _ _ _ _ _ => ⟨rfl, rfl⟩
theorem remu : ∀ a b c d e, Statement (.remu a b c d e) := fun _ _ _ _ _ => ⟨rfl, rfl⟩
theorem clz : ∀ a b c d, Statement (.clz a b c d) := fun _ _ _ _ => ⟨rfl, rfl⟩
theorem ctz : ∀ a b c d, Statement (.ctz a b c d) := fun _ _ _ _ => ⟨rfl, rfl⟩
theorem popc : ∀ a b c d, Statement (.popc a b c d) := fun _ _ _ _ => ⟨rfl, rfl⟩
theorem brev : ∀ a b c d, Statement (.brev a b c d) := fun _ _ _ _ => ⟨rfl, rfl⟩
theorem bswap : ∀ a b c d, Statement (.bswap a b c d) := fun _ _ _ _ => ⟨rfl, rfl⟩
theorem cmpeq : ∀ a b c d e, Statement (.cmpeq a b c d e) := fun _ _ _ _ _ => ⟨rfl, rfl⟩
theorem cmpne : ∀ a b c d e, Statement (.cmpne a b c d e) := fun _ _ _ _ _ => ⟨rfl, rfl⟩
theorem cmplt : ∀ a b c d e, Statement (.cmplt a b c d e) := fun _ _ _ _ _ => ⟨rfl, rfl⟩
theorem cmple : ∀ a b c d e, Statement (.cmple a b c d e) := fun _ _ _ _ _ => ⟨rfl, rfl⟩
theorem cmpltu : ∀ a b c d e, Statement (.cmpltu a b c d e) := fun _ _ _ _ _ => ⟨rfl, rfl⟩
theorem cmpleu : ∀ a b c d e, Statement (.cmpleu a b c d e) := fun _ _ _ _ _ => ⟨rfl, rfl⟩
theorem sel : ∀ a b c d e f, Statement (.sel a b c d e f) := fun _ _ _ _ _ _ => ⟨rfl, rfl⟩
theorem pand : ∀ a b c d e, Statement (.pand a b c d e) := fun _ _ _ _ _ => ⟨rfl, rfl⟩
theorem por : ∀ a b c d e, Statement (.por a b c d e) := fun _ _ _ _ _ => ⟨rfl, rfl⟩
theorem pxor : ∀ a b c d e, Statement (.pxor a b c d e) := fun _ _ _ _ _ => ⟨rfl, rfl⟩
theorem pandn : ∀ a b c d e, Statement (.pandn a b c d e) := fun _ _ _ _ _ => ⟨rfl, rfl⟩
theorem pnot : ∀ a b c d, Statement (.pnot a b c d) := fun _ _ _ _ => ⟨rfl, rfl⟩
theorem prd : ∀ a b c, Statement (.prd a b c) := fun _ _ _ => ⟨rfl, rfl⟩
theorem pwr : ∀ a b c, Statement (.pwr a b c) := fun _ _ _ => ⟨rfl, rfl⟩
theorem bext : ∀ a b c d e, Statement (.bext a b c d e) := fun _ _ _ _ _ => ⟨rfl, rfl⟩
theorem bextu : ∀ a b c d e, Statement (.bextu a b c d e) := fun _ _ _ _ _ => ⟨rfl, rfl⟩
theorem bins : ∀ a b c d e, Statement (.bins a b c d e) := fun _ _ _ _ _ => ⟨rfl, rfl⟩
theorem addi : ∀ a b c d e, Statement (.addi a b c d e) := fun _ _ _ _ _ => ⟨rfl, rfl⟩
theorem andi : ∀ a b c d e, Statement (.andi a b c d e) := fun _ _ _ _ _ => ⟨rfl, rfl⟩
theorem ori : ∀ a b c d e, Statement (.ori a b c d e) := fun _ _ _ _ _ => ⟨rfl, rfl⟩
theorem xori : ∀ a b c d e, Statement (.xori a b c d e) := fun _ _ _ _ _ => ⟨rfl, rfl⟩
theorem shli : ∀ a b c d e, Statement (.shli a b c d e) := fun _ _ _ _ _ => ⟨rfl, rfl⟩
theorem shri : ∀ a b c d e, Statement (.shri a b c d e) := fun _ _ _ _ _ => ⟨rfl, rfl⟩
theorem sari : ∀ a b c d e, Statement (.sari a b c d e) := fun _ _ _ _ _ => ⟨rfl, rfl⟩
theorem rori : ∀ a b c d e, Statement (.rori a b c d e) := fun _ _ _ _ _ => ⟨rfl, rfl⟩
theorem muli : ∀ a b c d e, Statement (.muli a b c d e) := fun _ _ _ _ _ => ⟨rfl, rfl⟩
theorem mini : ∀ a b c d e, Statement (.mini a b c d e) := fun _ _ _ _ _ => ⟨rfl, rfl⟩
theorem maxi : ∀ a b c d e, Statement (.maxi a b c d e) := fun _ _ _ _ _ => ⟨rfl, rfl⟩
theorem cmpeqi : ∀ a b c d e, Statement (.cmpeqi a b c d e) := fun _ _ _ _ _ => ⟨rfl, rfl⟩
theorem cmpnei : ∀ a b c d e, Statement (.cmpnei a b c d e) := fun _ _ _ _ _ => ⟨rfl, rfl⟩
theorem cmplti : ∀ a b c d e, Statement (.cmplti a b c d e) := fun _ _ _ _ _ => ⟨rfl, rfl⟩
theorem cmplei : ∀ a b c d e, Statement (.cmplei a b c d e) := fun _ _ _ _ _ => ⟨rfl, rfl⟩
theorem cmpgti : ∀ a b c d e, Statement (.cmpgti a b c d e) := fun _ _ _ _ _ => ⟨rfl, rfl⟩
theorem cmpgei : ∀ a b c d e, Statement (.cmpgei a b c d e) := fun _ _ _ _ _ => ⟨rfl, rfl⟩
theorem cmpltui : ∀ a b c d e, Statement (.cmpltui a b c d e) := fun _ _ _ _ _ => ⟨rfl, rfl⟩
theorem cmpgtui : ∀ a b c d e, Statement (.cmpgtui a b c d e) := fun _ _ _ _ _ => ⟨rfl, rfl⟩
theorem movi : ∀ a b c d, Statement (.movi a b c d) := fun _ _ _ _ => ⟨rfl, rfl⟩
theorem moviz : ∀ a b c d, Statement (.moviz a b c d) := fun _ _ _ _ => ⟨rfl, rfl⟩
theorem movk0 : ∀ a b c d, Statement (.movk0 a b c d) := fun _ _ _ _ => ⟨rfl, rfl⟩
theorem movk1 : ∀ a b c d, Statement (.movk1 a b c d) := fun _ _ _ _ => ⟨rfl, rfl⟩
theorem movk2 : ∀ a b c d, Statement (.movk2 a b c d) := fun _ _ _ _ => ⟨rfl, rfl⟩
theorem movk3 : ∀ a b c d, Statement (.movk3 a b c d) := fun _ _ _ _ => ⟨rfl, rfl⟩
theorem adda : ∀ a b c d e, Statement (.adda a b c d e) := fun _ _ _ _ _ => ⟨rfl, rfl⟩
theorem adda2 : ∀ a b c d e, Statement (.adda2 a b c d e) := fun _ _ _ _ _ => ⟨rfl, rfl⟩
theorem adda4 : ∀ a b c d e, Statement (.adda4 a b c d e) := fun _ _ _ _ _ => ⟨rfl, rfl⟩
theorem adda8 : ∀ a b c d e, Statement (.adda8 a b c d e) := fun _ _ _ _ _ => ⟨rfl, rfl⟩
theorem difa : ∀ a b c d e, Statement (.difa a b c d e) := fun _ _ _ _ _ => ⟨rfl, rfl⟩
theorem movas : ∀ a b c d, Statement (.movas a b c d) := fun _ _ _ _ => ⟨rfl, rfl⟩
theorem movsa : ∀ a b c d, Statement (.movsa a b c d) := fun _ _ _ _ => ⟨rfl, rfl⟩
theorem addai : ∀ a b c d e, Statement (.addai a b c d e) := fun _ _ _ _ _ => ⟨rfl, rfl⟩
theorem movai : ∀ a b c d, Statement (.movai a b c d) := fun _ _ _ _ => ⟨rfl, rfl⟩
theorem andai : ∀ a b c d e, Statement (.andai a b c d e) := fun _ _ _ _ _ => ⟨rfl, rfl⟩
theorem br : ∀ a b c, Statement (.br a b c) := fun _ _ _ => ⟨rfl, rfl⟩
theorem call : ∀ a b c, Statement (.call a b c) := fun _ _ _ => ⟨rfl, rfl⟩
theorem jmp : ∀ a b c, Statement (.jmp a b c) := fun _ _ _ => ⟨rfl, rfl⟩
theorem callr : ∀ a b c, Statement (.callr a b c) := fun _ _ _ => ⟨rfl, rfl⟩
theorem ret : ∀ a b, Statement (.ret a b) := fun _ _ => ⟨rfl, rfl⟩
theorem loop : ∀ a b c d e, Statement (.loop a b c d e) := fun _ _ _ _ _ => ⟨rfl, rfl⟩
theorem mtlc : ∀ a b c d, Statement (.mtlc a b c d) := fun _ _ _ _ => ⟨rfl, rfl⟩
theorem mflc : ∀ a b c d, Statement (.mflc a b c d) := fun _ _ _ _ => ⟨rfl, rfl⟩
theorem lmode : ∀ a b c, Statement (.lmode a b c) := fun _ _ _ => ⟨rfl, rfl⟩
theorem lmodeL : ∀ a b c, Statement (.lmodeL a b c) := fun _ _ _ => ⟨rfl, rfl⟩
theorem vfadd : ∀ a b c d e f, Statement (.vfadd a b c d e f) := fun _ _ _ _ _ _ => ⟨rfl, rfl⟩
theorem vfsub : ∀ a b c d e f, Statement (.vfsub a b c d e f) := fun _ _ _ _ _ _ => ⟨rfl, rfl⟩
theorem vfmul : ∀ a b c d e f, Statement (.vfmul a b c d e f) := fun _ _ _ _ _ _ => ⟨rfl, rfl⟩
theorem vfmin : ∀ a b c d e f, Statement (.vfmin a b c d e f) := fun _ _ _ _ _ _ => ⟨rfl, rfl⟩
theorem vfmax : ∀ a b c d e f, Statement (.vfmax a b c d e f) := fun _ _ _ _ _ _ => ⟨rfl, rfl⟩
theorem vfminn : ∀ a b c d e f, Statement (.vfminn a b c d e f) := fun _ _ _ _ _ _ => ⟨rfl, rfl⟩
theorem vfmaxn : ∀ a b c d e f, Statement (.vfmaxn a b c d e f) := fun _ _ _ _ _ _ => ⟨rfl, rfl⟩
theorem vfma : ∀ a b c d e f, Statement (.vfma a b c d e f) := fun _ _ _ _ _ _ => ⟨rfl, rfl⟩
theorem vfms : ∀ a b c d e f, Statement (.vfms a b c d e f) := fun _ _ _ _ _ _ => ⟨rfl, rfl⟩
theorem vfnma : ∀ a b c d e f, Statement (.vfnma a b c d e f) := fun _ _ _ _ _ _ => ⟨rfl, rfl⟩
theorem vfnms : ∀ a b c d e f, Statement (.vfnms a b c d e f) := fun _ _ _ _ _ _ => ⟨rfl, rfl⟩
theorem vfabs : ∀ a b c d, Statement (.vfabs a b c d) := fun _ _ _ _ => ⟨rfl, rfl⟩
theorem vfneg : ∀ a b c d, Statement (.vfneg a b c d) := fun _ _ _ _ => ⟨rfl, rfl⟩
theorem vfsqrt : ∀ a b c d, Statement (.vfsqrt a b c d) := fun _ _ _ _ => ⟨rfl, rfl⟩
theorem vfrcp : ∀ a b c d, Statement (.vfrcp a b c d) := fun _ _ _ _ => ⟨rfl, rfl⟩
theorem vfrsq : ∀ a b c d, Statement (.vfrsq a b c d) := fun _ _ _ _ => ⟨rfl, rfl⟩
theorem vfdiv : ∀ a b c d e f, Statement (.vfdiv a b c d e f) := fun _ _ _ _ _ _ => ⟨rfl, rfl⟩
theorem vexp2 : ∀ a b c d, Statement (.vexp2 a b c d) := fun _ _ _ _ => ⟨rfl, rfl⟩
theorem vlog2 : ∀ a b c d, Statement (.vlog2 a b c d) := fun _ _ _ _ => ⟨rfl, rfl⟩
theorem vexp : ∀ a b c d, Statement (.vexp a b c d) := fun _ _ _ _ => ⟨rfl, rfl⟩
theorem vln : ∀ a b c d, Statement (.vln a b c d) := fun _ _ _ _ => ⟨rfl, rfl⟩
theorem vtanh : ∀ a b c d, Statement (.vtanh a b c d) := fun _ _ _ _ => ⟨rfl, rfl⟩
theorem vsigm : ∀ a b c d, Statement (.vsigm a b c d) := fun _ _ _ _ => ⟨rfl, rfl⟩
theorem vfceq : ∀ a b c d e f, Statement (.vfceq a b c d e f) := fun _ _ _ _ _ _ => ⟨rfl, rfl⟩
theorem vfcne : ∀ a b c d e f, Statement (.vfcne a b c d e f) := fun _ _ _ _ _ _ => ⟨rfl, rfl⟩
theorem vfclt : ∀ a b c d e f, Statement (.vfclt a b c d e f) := fun _ _ _ _ _ _ => ⟨rfl, rfl⟩
theorem vfcle : ∀ a b c d e f, Statement (.vfcle a b c d e f) := fun _ _ _ _ _ _ => ⟨rfl, rfl⟩
theorem vfcun : ∀ a b c d e f, Statement (.vfcun a b c d e f) := fun _ _ _ _ _ _ => ⟨rfl, rfl⟩
theorem vfrsum : ∀ a b c d, Statement (.vfrsum a b c d) := fun _ _ _ _ => ⟨rfl, rfl⟩
theorem vfrmax : ∀ a b c d, Statement (.vfrmax a b c d) := fun _ _ _ _ => ⟨rfl, rfl⟩
theorem vfrmin : ∀ a b c d, Statement (.vfrmin a b c d) := fun _ _ _ _ => ⟨rfl, rfl⟩
theorem vadd : ∀ a b c d e f, Statement (.vadd a b c d e f) := fun _ _ _ _ _ _ => ⟨rfl, rfl⟩
theorem vsub : ∀ a b c d e f, Statement (.vsub a b c d e f) := fun _ _ _ _ _ _ => ⟨rfl, rfl⟩
theorem vmul : ∀ a b c d e f, Statement (.vmul a b c d e f) := fun _ _ _ _ _ _ => ⟨rfl, rfl⟩
theorem vmulh : ∀ a b c d e f, Statement (.vmulh a b c d e f) := fun _ _ _ _ _ _ => ⟨rfl, rfl⟩
theorem vmulhu : ∀ a b c d e f, Statement (.vmulhu a b c d e f) := fun _ _ _ _ _ _ => ⟨rfl, rfl⟩
theorem vadds : ∀ a b c d e f, Statement (.vadds a b c d e f) := fun _ _ _ _ _ _ => ⟨rfl, rfl⟩
theorem vsubs : ∀ a b c d e f, Statement (.vsubs a b c d e f) := fun _ _ _ _ _ _ => ⟨rfl, rfl⟩
theorem vaddsu : ∀ a b c d e f, Statement (.vaddsu a b c d e f) := fun _ _ _ _ _ _ => ⟨rfl, rfl⟩
theorem vand : ∀ a b c d e f, Statement (.vand a b c d e f) := fun _ _ _ _ _ _ => ⟨rfl, rfl⟩
theorem vor : ∀ a b c d e f, Statement (.vor a b c d e f) := fun _ _ _ _ _ _ => ⟨rfl, rfl⟩
theorem vxor : ∀ a b c d e f, Statement (.vxor a b c d e f) := fun _ _ _ _ _ _ => ⟨rfl, rfl⟩
theorem vandn : ∀ a b c d e f, Statement (.vandn a b c d e f) := fun _ _ _ _ _ _ => ⟨rfl, rfl⟩
theorem vshl : ∀ a b c d e f, Statement (.vshl a b c d e f) := fun _ _ _ _ _ _ => ⟨rfl, rfl⟩
theorem vshr : ∀ a b c d e f, Statement (.vshr a b c d e f) := fun _ _ _ _ _ _ => ⟨rfl, rfl⟩
theorem vsar : ∀ a b c d e f, Statement (.vsar a b c d e f) := fun _ _ _ _ _ _ => ⟨rfl, rfl⟩
theorem vror : ∀ a b c d e f, Statement (.vror a b c d e f) := fun _ _ _ _ _ _ => ⟨rfl, rfl⟩
theorem vmin : ∀ a b c d e f, Statement (.vmin a b c d e f) := fun _ _ _ _ _ _ => ⟨rfl, rfl⟩
theorem vmax : ∀ a b c d e f, Statement (.vmax a b c d e f) := fun _ _ _ _ _ _ => ⟨rfl, rfl⟩
theorem vminu : ∀ a b c d e f, Statement (.vminu a b c d e f) := fun _ _ _ _ _ _ => ⟨rfl, rfl⟩
theorem vmaxu : ∀ a b c d e f, Statement (.vmaxu a b c d e f) := fun _ _ _ _ _ _ => ⟨rfl, rfl⟩
theorem vclz : ∀ a b c d, Statement (.vclz a b c d) := fun _ _ _ _ => ⟨rfl, rfl⟩
theorem vpopc : ∀ a b c d, Statement (.vpopc a b c d) := fun _ _ _ _ => ⟨rfl, rfl⟩
theorem vabs : ∀ a b c d, Statement (.vabs a b c d) := fun _ _ _ _ => ⟨rfl, rfl⟩
theorem vceq : ∀ a b c d e f, Statement (.vceq a b c d e f) := fun _ _ _ _ _ _ => ⟨rfl, rfl⟩
theorem vcne : ∀ a b c d e f, Statement (.vcne a b c d e f) := fun _ _ _ _ _ _ => ⟨rfl, rfl⟩
theorem vclt : ∀ a b c d e f, Statement (.vclt a b c d e f) := fun _ _ _ _ _ _ => ⟨rfl, rfl⟩
theorem vcle : ∀ a b c d e f, Statement (.vcle a b c d e f) := fun _ _ _ _ _ _ => ⟨rfl, rfl⟩
theorem vcltu : ∀ a b c d e f, Statement (.vcltu a b c d e f) := fun _ _ _ _ _ _ => ⟨rfl, rfl⟩
theorem vcleu : ∀ a b c d e f, Statement (.vcleu a b c d e f) := fun _ _ _ _ _ _ => ⟨rfl, rfl⟩
theorem vaddi : ∀ a b c d e, Statement (.vaddi a b c d e) := fun _ _ _ _ _ => ⟨rfl, rfl⟩
theorem vandi : ∀ a b c d e, Statement (.vandi a b c d e) := fun _ _ _ _ _ => ⟨rfl, rfl⟩
theorem vori : ∀ a b c d e, Statement (.vori a b c d e) := fun _ _ _ _ _ => ⟨rfl, rfl⟩
theorem vxori : ∀ a b c d e, Statement (.vxori a b c d e) := fun _ _ _ _ _ => ⟨rfl, rfl⟩
theorem vshli : ∀ a b c d e, Statement (.vshli a b c d e) := fun _ _ _ _ _ => ⟨rfl, rfl⟩
theorem vshri : ∀ a b c d e, Statement (.vshri a b c d e) := fun _ _ _ _ _ => ⟨rfl, rfl⟩
theorem vsari : ∀ a b c d e, Statement (.vsari a b c d e) := fun _ _ _ _ _ => ⟨rfl, rfl⟩
theorem mand : ∀ a b c d, Statement (.mand a b c d) := fun _ _ _ _ => ⟨rfl, rfl⟩
theorem mor : ∀ a b c d, Statement (.mor a b c d) := fun _ _ _ _ => ⟨rfl, rfl⟩
theorem mxor : ∀ a b c d, Statement (.mxor a b c d) := fun _ _ _ _ => ⟨rfl, rfl⟩
theorem mandn : ∀ a b c d, Statement (.mandn a b c d) := fun _ _ _ _ => ⟨rfl, rfl⟩
theorem mnot : ∀ a b c, Statement (.mnot a b c) := fun _ _ _ => ⟨rfl, rfl⟩
theorem vmovi : ∀ a b c, Statement (.vmovi a b c) := fun _ _ _ => ⟨rfl, rfl⟩
theorem virsum : ∀ a b c d, Statement (.virsum a b c d) := fun _ _ _ _ => ⟨rfl, rfl⟩
theorem virmax : ∀ a b c d, Statement (.virmax a b c d) := fun _ _ _ _ => ⟨rfl, rfl⟩
theorem virmin : ∀ a b c d, Statement (.virmin a b c d) := fun _ _ _ _ => ⟨rfl, rfl⟩
theorem virmaxu : ∀ a b c d, Statement (.virmaxu a b c d) := fun _ _ _ _ => ⟨rfl, rfl⟩
theorem virminu : ∀ a b c d, Statement (.virminu a b c d) := fun _ _ _ _ => ⟨rfl, rfl⟩
theorem vcvtRne : ∀ a b c d e, Statement (.vcvtRne a b c d e) := fun _ _ _ _ _ => ⟨rfl, rfl⟩
theorem vcvtRtz : ∀ a b c d e, Statement (.vcvtRtz a b c d e) := fun _ _ _ _ _ => ⟨rfl, rfl⟩
theorem vcvtSr : ∀ a b c d e, Statement (.vcvtSr a b c d e) := fun _ _ _ _ _ => ⟨rfl, rfl⟩
theorem vcvtDyn : ∀ a b c d e, Statement (.vcvtDyn a b c d e) := fun _ _ _ _ _ => ⟨rfl, rfl⟩
theorem vqsc : ∀ a b c d e, Statement (.vqsc a b c d e) := fun _ _ _ _ _ => ⟨rfl, rfl⟩
theorem vqel : ∀ a b c d e f g, Statement (.vqel a b c d e f g) := fun _ _ _ _ _ _ _ => ⟨rfl, rfl⟩
theorem vqelSr : ∀ a b c d e f g, Statement (.vqelSr a b c d e f g) := fun _ _ _ _ _ _ _ => ⟨rfl, rfl⟩
theorem vseed : ∀ a b, Statement (.vseed a b) := fun _ _ => ⟨rfl, rfl⟩
theorem vgrd : ∀ a b, Statement (.vgrd a b) := fun _ _ => ⟨rfl, rfl⟩
theorem vgwr : ∀ a b c, Statement (.vgwr a b c) := fun _ _ _ => ⟨rfl, rfl⟩
theorem vshuf : ∀ a b c d e, Statement (.vshuf a b c d e) := fun _ _ _ _ _ => ⟨rfl, rfl⟩
theorem xcopy : ∀ a b c d e, Statement (.xcopy a b c d e) := fun _ _ _ _ _ => ⟨rfl, rfl⟩
theorem vbcs : ∀ a b c, Statement (.vbcs a b c) := fun _ _ _ => ⟨rfl, rfl⟩
theorem vext : ∀ a b c d e, Statement (.vext a b c d e) := fun _ _ _ _ _ => ⟨rfl, rfl⟩
theorem vins : ∀ a b c d, Statement (.vins a b c d) := fun _ _ _ _ => ⟨rfl, rfl⟩
theorem vm2s : ∀ a b c, Statement (.vm2s a b c) := fun _ _ _ => ⟨rfl, rfl⟩
theorem vs2m : ∀ a b c, Statement (.vs2m a b c) := fun _ _ _ => ⟨rfl, rfl⟩
theorem viota : ∀ a b, Statement (.viota a b) := fun _ _ => ⟨rfl, rfl⟩
theorem vpld : ∀ a b c d, Statement (.vpld a b c d) := fun _ _ _ _ => ⟨rfl, rfl⟩
theorem ldb : ∀ a b c d e, Statement (.ldb a b c d e) := fun _ _ _ _ _ => ⟨rfl, rfl⟩
theorem ldbu : ∀ a b c d e, Statement (.ldbu a b c d e) := fun _ _ _ _ _ => ⟨rfl, rfl⟩
theorem ldh : ∀ a b c d e, Statement (.ldh a b c d e) := fun _ _ _ _ _ => ⟨rfl, rfl⟩
theorem ldhu : ∀ a b c d e, Statement (.ldhu a b c d e) := fun _ _ _ _ _ => ⟨rfl, rfl⟩
theorem ldw : ∀ a b c d e, Statement (.ldw a b c d e) := fun _ _ _ _ _ => ⟨rfl, rfl⟩
theorem ldwu : ∀ a b c d e, Statement (.ldwu a b c d e) := fun _ _ _ _ _ => ⟨rfl, rfl⟩
theorem ldd : ∀ a b c d e, Statement (.ldd a b c d e) := fun _ _ _ _ _ => ⟨rfl, rfl⟩
theorem lda : ∀ a b c d e, Statement (.lda a b c d e) := fun _ _ _ _ _ => ⟨rfl, rfl⟩
theorem stb : ∀ a b c d e, Statement (.stb a b c d e) := fun _ _ _ _ _ => ⟨rfl, rfl⟩
theorem sth : ∀ a b c d e, Statement (.sth a b c d e) := fun _ _ _ _ _ => ⟨rfl, rfl⟩
theorem stw : ∀ a b c d e, Statement (.stw a b c d e) := fun _ _ _ _ _ => ⟨rfl, rfl⟩
theorem std : ∀ a b c d e, Statement (.std a b c d e) := fun _ _ _ _ _ => ⟨rfl, rfl⟩
theorem sta : ∀ a b c d e, Statement (.sta a b c d e) := fun _ _ _ _ _ => ⟨rfl, rfl⟩
theorem sldb : ∀ a b c d e, Statement (.sldb a b c d e) := fun _ _ _ _ _ => ⟨rfl, rfl⟩
theorem sldbu : ∀ a b c d e, Statement (.sldbu a b c d e) := fun _ _ _ _ _ => ⟨rfl, rfl⟩
theorem sldh : ∀ a b c d e, Statement (.sldh a b c d e) := fun _ _ _ _ _ => ⟨rfl, rfl⟩
theorem sldhu : ∀ a b c d e, Statement (.sldhu a b c d e) := fun _ _ _ _ _ => ⟨rfl, rfl⟩
theorem sldw : ∀ a b c d e, Statement (.sldw a b c d e) := fun _ _ _ _ _ => ⟨rfl, rfl⟩
theorem sldwu : ∀ a b c d e, Statement (.sldwu a b c d e) := fun _ _ _ _ _ => ⟨rfl, rfl⟩
theorem sldd : ∀ a b c d e, Statement (.sldd a b c d e) := fun _ _ _ _ _ => ⟨rfl, rfl⟩
theorem slda : ∀ a b c d e, Statement (.slda a b c d e) := fun _ _ _ _ _ => ⟨rfl, rfl⟩
theorem sstb : ∀ a b c d e, Statement (.sstb a b c d e) := fun _ _ _ _ _ => ⟨rfl, rfl⟩
theorem ssth : ∀ a b c d e, Statement (.ssth a b c d e) := fun _ _ _ _ _ => ⟨rfl, rfl⟩
theorem sstw : ∀ a b c d e, Statement (.sstw a b c d e) := fun _ _ _ _ _ => ⟨rfl, rfl⟩
theorem sstd : ∀ a b c d e, Statement (.sstd a b c d e) := fun _ _ _ _ _ => ⟨rfl, rfl⟩
theorem ssta : ∀ a b c d e, Statement (.ssta a b c d e) := fun _ _ _ _ _ => ⟨rfl, rfl⟩
theorem vld : ∀ a b c d, Statement (.vld a b c d) := fun _ _ _ _ => ⟨rfl, rfl⟩
theorem vst : ∀ a b c d e, Statement (.vst a b c d e) := fun _ _ _ _ _ => ⟨rfl, rfl⟩
theorem vgath : ∀ a b c d, Statement (.vgath a b c d) := fun _ _ _ _ => ⟨rfl, rfl⟩
theorem vgathh : ∀ a b c d, Statement (.vgathh a b c d) := fun _ _ _ _ => ⟨rfl, rfl⟩
theorem vgathb : ∀ a b c d, Statement (.vgathb a b c d) := fun _ _ _ _ => ⟨rfl, rfl⟩
theorem vscat : ∀ a b c d e, Statement (.vscat a b c d e) := fun _ _ _ _ _ => ⟨rfl, rfl⟩
theorem vscath : ∀ a b c d e, Statement (.vscath a b c d e) := fun _ _ _ _ _ => ⟨rfl, rfl⟩
theorem vscatb : ∀ a b c d e, Statement (.vscatb a b c d e) := fun _ _ _ _ _ => ⟨rfl, rfl⟩
theorem sbcfg : ∀ a b c d, Statement (.sbcfg a b c d) := fun _ _ _ _ => ⟨rfl, rfl⟩
theorem sbatt : ∀ a b c d, Statement (.sbatt a b c d) := fun _ _ _ _ => ⟨rfl, rfl⟩
theorem sbadrp : ∀ a b c d, Statement (.sbadrp a b c d) := fun _ _ _ _ => ⟨rfl, rfl⟩
theorem sbadrc : ∀ a b c d, Statement (.sbadrc a b c d) := fun _ _ _ _ => ⟨rfl, rfl⟩
theorem sbrd : ∀ a b c d, Statement (.sbrd a b c d) := fun _ _ _ _ => ⟨rfl, rfl⟩
theorem sbwaitf : ∀ a b c d, Statement (.sbwaitf a b c d) := fun _ _ _ _ => ⟨rfl, rfl⟩
theorem sbwaite : ∀ a b c d, Statement (.sbwaite a b c d) := fun _ _ _ _ => ⟨rfl, rfl⟩
theorem sbadvp : ∀ a b c d, Statement (.sbadvp a b c d) := fun _ _ _ _ => ⟨rfl, rfl⟩
theorem sbadvc : ∀ a b c d, Statement (.sbadvc a b c d) := fun _ _ _ _ => ⟨rfl, rfl⟩
theorem cpy : ∀ a b c d e f, Statement (.cpy a b c d e f) := fun _ _ _ _ _ _ => ⟨rfl, rfl⟩
theorem cpya : ∀ a b c d e f, Statement (.cpya a b c d e f) := fun _ _ _ _ _ _ => ⟨rfl, rfl⟩
theorem cpym : ∀ a b c d e f g, Statement (.cpym a b c d e f g) := fun _ _ _ _ _ _ _ => ⟨rfl, rfl⟩
theorem cpyq : ∀ a b c d e, Statement (.cpyq a b c d e) := fun _ _ _ _ _ => ⟨rfl, rfl⟩
theorem cbtest : ∀ a b c d e f, Statement (.cbtest a b c d e f) := fun _ _ _ _ _ _ => ⟨rfl, rfl⟩
theorem cbwait : ∀ a b c d e, Statement (.cbwait a b c d e) := fun _ _ _ _ _ => ⟨rfl, rfl⟩
theorem cbclr : ∀ a b c d e, Statement (.cbclr a b c d e) := fun _ _ _ _ _ => ⟨rfl, rfl⟩
theorem cbrd : ∀ a b c d e, Statement (.cbrd a b c d e) := fun _ _ _ _ _ => ⟨rfl, rfl⟩
theorem evpop : ∀ a b c d, Statement (.evpop a b c d) := fun _ _ _ _ => ⟨rfl, rfl⟩
theorem wload : ∀ a b c d, Statement (.wload a b c d) := fun _ _ _ _ => ⟨rfl, rfl⟩
theorem wsel : ∀ a b c, Statement (.wsel a b c) := fun _ _ _ => ⟨rfl, rfl⟩
theorem mmaR : ∀ a b c d e, Statement (.mmaR a b c d e) := fun _ _ _ _ _ => ⟨rfl, rfl⟩
theorem mmaC : ∀ a b c d e, Statement (.mmaC a b c d e) := fun _ _ _ _ _ => ⟨rfl, rfl⟩
theorem mmazR : ∀ a b c d e, Statement (.mmazR a b c d e) := fun _ _ _ _ _ => ⟨rfl, rfl⟩
theorem mmazC : ∀ a b c d e, Statement (.mmazC a b c d e) := fun _ _ _ _ _ => ⟨rfl, rfl⟩
theorem mdrain : ∀ a b c d e f, Statement (.mdrain a b c d e f) := fun _ _ _ _ _ _ => ⟨rfl, rfl⟩
theorem mscale : ∀ a b c, Statement (.mscale a b c) := fun _ _ _ => ⟨rfl, rfl⟩
theorem mhist : ∀ a b c d, Statement (.mhist a b c d) := fun _ _ _ _ => ⟨rfl, rfl⟩
theorem tcfg : ∀ a b c d, Statement (.tcfg a b c d) := fun _ _ _ _ => ⟨rfl, rfl⟩
theorem thome : ∀ a b c d, Statement (.thome a b c d) := fun _ _ _ _ => ⟨rfl, rfl⟩
theorem tseed : ∀ a b c, Statement (.tseed a b c) := fun _ _ _ => ⟨rfl, rfl⟩
theorem thomex : ∀ a b c, Statement (.thomex a b c) := fun _ _ _ => ⟨rfl, rfl⟩
theorem tdcfg : ∀ a b c d, Statement (.tdcfg a b c d) := fun _ _ _ _ => ⟨rfl, rfl⟩
theorem tdsav : ∀ a b c d, Statement (.tdsav a b c d) := fun _ _ _ _ => ⟨rfl, rfl⟩
theorem tmm : ∀ a b c d e f, Statement (.tmm a b c d e f) := fun _ _ _ _ _ _ => ⟨rfl, rfl⟩
theorem tadd : ∀ a b c d e f, Statement (.tadd a b c d e f) := fun _ _ _ _ _ _ => ⟨rfl, rfl⟩
theorem tmul : ∀ a b c d e f, Statement (.tmul a b c d e f) := fun _ _ _ _ _ _ => ⟨rfl, rfl⟩
theorem tact : ∀ a b c d e, Statement (.tact a b c d e) := fun _ _ _ _ _ => ⟨rfl, rfl⟩
theorem tcvt : ∀ a b c d e f, Statement (.tcvt a b c d e f) := fun _ _ _ _ _ _ => ⟨rfl, rfl⟩
theorem tqnt : ∀ a b c d e f, Statement (.tqnt a b c d e f) := fun _ _ _ _ _ _ => ⟨rfl, rfl⟩
theorem tred : ∀ a b c d e f, Statement (.tred a b c d e f) := fun _ _ _ _ _ _ => ⟨rfl, rfl⟩
theorem ttopk : ∀ a b c d e f, Statement (.ttopk a b c d e f) := fun _ _ _ _ _ _ => ⟨rfl, rfl⟩
theorem tsoft : ∀ a b c d, Statement (.tsoft a b c d) := fun _ _ _ _ => ⟨rfl, rfl⟩
theorem tmap : ∀ a b c d e, Statement (.tmap a b c d e) := fun _ _ _ _ _ => ⟨rfl, rfl⟩
theorem tforce : ∀ a b c d e f g, Statement (.tforce a b c d e f g) := fun _ _ _ _ _ _ _ => ⟨rfl, rfl⟩
theorem tstore : ∀ a b c d e f g, Statement (.tstore a b c d e f g) := fun _ _ _ _ _ _ _ => ⟨rfl, rfl⟩
theorem tstoreH : ∀ a b c d e f, Statement (.tstoreH a b c d e f) := fun _ _ _ _ _ _ => ⟨rfl, rfl⟩
theorem tdrop : ∀ a b c, Statement (.tdrop a b c) := fun _ _ _ => ⟨rfl, rfl⟩
theorem tstat : ∀ a b c d, Statement (.tstat a b c d) := fun _ _ _ _ => ⟨rfl, rfl⟩
theorem pref : ∀ a b c d e f g, Statement (.pref a b c d e f g) := fun _ _ _ _ _ _ _ => ⟨rfl, rfl⟩
theorem bind : ∀ a b c d e f, Statement (.bind a b c d e f) := fun _ _ _ _ _ _ => ⟨rfl, rfl⟩
theorem unbind : ∀ a b c d, Statement (.unbind a b c d) := fun _ _ _ _ => ⟨rfl, rfl⟩
theorem acqs : ∀ a b c d e, Statement (.acqs a b c d e) := fun _ _ _ _ _ => ⟨rfl, rfl⟩
theorem acqsT : ∀ a b c d e, Statement (.acqsT a b c d e) := fun _ _ _ _ _ => ⟨rfl, rfl⟩
theorem acqx : ∀ a b c d e, Statement (.acqx a b c d e) := fun _ _ _ _ _ => ⟨rfl, rfl⟩
theorem acqxT : ∀ a b c d e, Statement (.acqxT a b c d e) := fun _ _ _ _ _ => ⟨rfl, rfl⟩
theorem rel : ∀ a b c d e, Statement (.rel a b c d e) := fun _ _ _ _ _ => ⟨rfl, rfl⟩
theorem fence : ∀ a b c d, Statement (.fence a b c d) := fun _ _ _ _ => ⟨rfl, rfl⟩
theorem aadd : ∀ a b c d e f g, Statement (.aadd a b c d e f g) := fun _ _ _ _ _ _ _ => ⟨rfl, rfl⟩
theorem aand : ∀ a b c d e f g, Statement (.aand a b c d e f g) := fun _ _ _ _ _ _ _ => ⟨rfl, rfl⟩
theorem aor : ∀ a b c d e f g, Statement (.aor a b c d e f g) := fun _ _ _ _ _ _ _ => ⟨rfl, rfl⟩
theorem axor : ∀ a b c d e f g, Statement (.axor a b c d e f g) := fun _ _ _ _ _ _ _ => ⟨rfl, rfl⟩
theorem amin : ∀ a b c d e f g, Statement (.amin a b c d e f g) := fun _ _ _ _ _ _ _ => ⟨rfl, rfl⟩
theorem amax : ∀ a b c d e f g, Statement (.amax a b c d e f g) := fun _ _ _ _ _ _ _ => ⟨rfl, rfl⟩
theorem aminu : ∀ a b c d e f g, Statement (.aminu a b c d e f g) := fun _ _ _ _ _ _ _ => ⟨rfl, rfl⟩
theorem amaxu : ∀ a b c d e f g, Statement (.amaxu a b c d e f g) := fun _ _ _ _ _ _ _ => ⟨rfl, rfl⟩
theorem aswap : ∀ a b c d e f g, Statement (.aswap a b c d e f g) := fun _ _ _ _ _ _ _ => ⟨rfl, rfl⟩
theorem acas : ∀ a b c d e f g, Statement (.acas a b c d e f g) := fun _ _ _ _ _ _ _ => ⟨rfl, rfl⟩
theorem aaddF32 : ∀ a b c d e f g, Statement (.aaddF32 a b c d e f g) := fun _ _ _ _ _ _ _ => ⟨rfl, rfl⟩
theorem ard : ∀ a b c d e f, Statement (.ard a b c d e f) := fun _ _ _ _ _ _ => ⟨rfl, rfl⟩
theorem ald : ∀ a b c d e f, Statement (.ald a b c d e f) := fun _ _ _ _ _ _ => ⟨rfl, rfl⟩
theorem ast : ∀ a b c d e f, Statement (.ast a b c d e f) := fun _ _ _ _ _ _ => ⟨rfl, rfl⟩
theorem qpush : ∀ a b c d e, Statement (.qpush a b c d e) := fun _ _ _ _ _ => ⟨rfl, rfl⟩
theorem qpop : ∀ a b c d e, Statement (.qpop a b c d e) := fun _ _ _ _ _ => ⟨rfl, rfl⟩
theorem qpopB : ∀ a b c d e f, Statement (.qpopB a b c d e f) := fun _ _ _ _ _ _ => ⟨rfl, rfl⟩
theorem optreg : ∀ a b c d, Statement (.optreg a b c d) := fun _ _ _ _ => ⟨rfl, rfl⟩
theorem optgrad : ∀ a b c d e f, Statement (.optgrad a b c d e f) := fun _ _ _ _ _ _ => ⟨rfl, rfl⟩
theorem dereg : ∀ a b c d, Statement (.dereg a b c d) := fun _ _ _ _ => ⟨rfl, rfl⟩
theorem sethp : ∀ a b c d e, Statement (.sethp a b c d e) := fun _ _ _ _ _ => ⟨rfl, rfl⟩
theorem clrf : ∀ a b c d e, Statement (.clrf a b c d e) := fun _ _ _ _ _ => ⟨rfl, rfl⟩
theorem dzero : ∀ a b c d e, Statement (.dzero a b c d e) := fun _ _ _ _ _ => ⟨rfl, rfl⟩
theorem dcopy : ∀ a b c d e f, Statement (.dcopy a b c d e f) := fun _ _ _ _ _ _ => ⟨rfl, rfl⟩
theorem launch : ∀ a b c d, Statement (.launch a b c d) := fun _ _ _ _ => ⟨rfl, rfl⟩
theorem trigger : ∀ a b, Statement (.trigger a b) := fun _ _ => ⟨rfl, rfl⟩
theorem spawn : ∀ a b c d e, Statement (.spawn a b c d e) := fun _ _ _ _ _ => ⟨rfl, rfl⟩
theorem resume : ∀ a b c d, Statement (.resume a b c d) := fun _ _ _ _ => ⟨rfl, rfl⟩
theorem susp : ∀ a b c d, Statement (.susp a b c d) := fun _ _ _ _ => ⟨rfl, rfl⟩
theorem suspK : ∀ a b c d, Statement (.suspK a b c d) := fun _ _ _ _ => ⟨rfl, rfl⟩
theorem yield : ∀ a b, Statement (.yield a b) := fun _ _ => ⟨rfl, rfl⟩
theorem yieldK : ∀ a b, Statement (.yieldK a b) := fun _ _ => ⟨rfl, rfl⟩
theorem endTask : ∀ a b, Statement (.endTask a b) := fun _ _ => ⟨rfl, rfl⟩
theorem wfe : ∀ a b, Statement (.wfe a b) := fun _ _ => ⟨rfl, rfl⟩
theorem mtcfg : ∀ a b c d, Statement (.mtcfg a b c d) := fun _ _ _ _ => ⟨rfl, rfl⟩
theorem mtarr : ∀ a b c d e f, Statement (.mtarr a b c d e f) := fun _ _ _ _ _ _ => ⟨rfl, rfl⟩
theorem mtwait : ∀ a b c d e f, Statement (.mtwait a b c d e f) := fun _ _ _ _ _ _ => ⟨rfl, rfl⟩
theorem mtwaitT : ∀ a b c d e f, Statement (.mtwaitT a b c d e f) := fun _ _ _ _ _ _ => ⟨rfl, rfl⟩
theorem mttag : ∀ a b c d e, Statement (.mttag a b c d e) := fun _ _ _ _ _ => ⟨rfl, rfl⟩
theorem mtdel : ∀ a b c d, Statement (.mtdel a b c d) := fun _ _ _ _ => ⟨rfl, rfl⟩
theorem bar : ∀ a b c d e, Statement (.bar a b c d e) := fun _ _ _ _ _ => ⟨rfl, rfl⟩
theorem barT : ∀ a b c d e, Statement (.barT a b c d e) := fun _ _ _ _ _ => ⟨rfl, rfl⟩
theorem trap : ∀ a b c, Statement (.trap a b c) := fun _ _ _ => ⟨rfl, rfl⟩
theorem brk : ∀ a b c, Statement (.brk a b c) := fun _ _ _ => ⟨rfl, rfl⟩
theorem tack : ∀ a b, Statement (.tack a b) := fun _ _ => ⟨rfl, rfl⟩
theorem xret : ∀ a b, Statement (.xret a b) := fun _ _ => ⟨rfl, rfl⟩
theorem preq : ∀ a b, Statement (.preq a b) := fun _ _ => ⟨rfl, rfl⟩
theorem icinv : ∀ a b, Statement (.icinv a b) := fun _ _ => ⟨rfl, rfl⟩
theorem tinvAll : ∀ a b, Statement (.tinvAll a b) := fun _ _ => ⟨rfl, rfl⟩
theorem tinvAsid : ∀ a b c, Statement (.tinvAsid a b c) := fun _ _ _ => ⟨rfl, rfl⟩
theorem tinvPage : ∀ a b c d, Statement (.tinvPage a b c d) := fun _ _ _ _ => ⟨rfl, rfl⟩
theorem ckpt : ∀ a b c, Statement (.ckpt a b c) := fun _ _ _ => ⟨rfl, rfl⟩
theorem mfs : ∀ a b c d, Statement (.mfs a b c d) := fun _ _ _ _ => ⟨rfl, rfl⟩
theorem mts : ∀ a b c d, Statement (.mts a b c d) := fun _ _ _ _ => ⟨rfl, rfl⟩
theorem mfsr : ∀ a b c d, Statement (.mfsr a b c d) := fun _ _ _ _ => ⟨rfl, rfl⟩
theorem mtsr : ∀ a b c d, Statement (.mtsr a b c d) := fun _ _ _ _ => ⟨rfl, rfl⟩
theorem pmen : ∀ a b c, Statement (.pmen a b c) := fun _ _ _ => ⟨rfl, rfl⟩
theorem pmz : ∀ a b c, Statement (.pmz a b c) := fun _ _ _ => ⟨rfl, rfl⟩
theorem mbegin : ∀ a b c d, Statement (.mbegin a b c d) := fun _ _ _ _ => ⟨rfl, rfl⟩
theorem mend : ∀ a b c, Statement (.mend a b c) := fun _ _ _ => ⟨rfl, rfl⟩
theorem mph : ∀ a b c, Statement (.mph a b c) := fun _ _ _ => ⟨rfl, rfl⟩
theorem rscat : ∀ a b c d e, Statement (.rscat a b c d e) := fun _ _ _ _ _ => ⟨rfl, rfl⟩
theorem agath : ∀ a b c d e, Statement (.agath a b c d e) := fun _ _ _ _ _ => ⟨rfl, rfl⟩
theorem ared : ∀ a b c d e, Statement (.ared a b c d e) := fun _ _ _ _ _ => ⟨rfl, rfl⟩
theorem send : ∀ a b c d e, Statement (.send a b c d e) := fun _ _ _ _ _ => ⟨rfl, rfl⟩
theorem recv : ∀ a b c d e, Statement (.recv a b c d e) := fun _ _ _ _ _ => ⟨rfl, rfl⟩
theorem lnkst : ∀ a b c d, Statement (.lnkst a b c d) := fun _ _ _ _ => ⟨rfl, rfl⟩
theorem phase : ∀ a b c d, Statement (.phase a b c d) := fun _ _ _ _ => ⟨rfl, rfl⟩
theorem phaseEnd : ∀ a b, Statement (.phaseEnd a b) := fun _ _ => ⟨rfl, rfl⟩
theorem digest : ∀ a b c d, Statement (.digest a b c d) := fun _ _ _ _ => ⟨rfl, rfl⟩
theorem rcmp : ∀ a b c d e, Statement (.rcmp a b c d e) := fun _ _ _ _ _ => ⟨rfl, rfl⟩
theorem coreReset : ∀ a, Statement (.coreReset a) := fun _ => rfl
theorem linkTrained : ∀ a, Statement (.linkTrained a) := fun _ => rfl
theorem stackLogicDieReset : ∀ a b c d, Statement (.stackLogicDieReset a b c d) := fun _ _ _ _ => rfl
theorem malformedControlCommand : Statement .malformedControlCommand := rfl

end Sys2Proof.Laws.RowFields
end

