-- ==== Sys2Proof/Laws/Rows.lean ====
section
/-!
SUPPORT. Laws/Rows.lean: the encoding rows, checked by evaluation: no word matches two rows of a slot's class, and the
fixed bits and the fields of a row fill its word without overlap.
-/
namespace Sys2Proof.Laws

/-- No word matches two rows of the list. -/
def rowsApart : List Row → Bool
  | [] => true
  | r :: rs => rs.all (fun q => decide ((r.mat ^^^ q.mat) &&& r.mask &&& q.mask ≠ 0)) && rowsApart rs

/-- The bits a list of fields takes. -/
def fieldBits (ps : List (Nat × Nat)) : Nat := (ps.map (fun p => (2 ^ p.2 - 1) * 2 ^ p.1)).sum

/-- The fixed bits lie in the mask, and mask and fields together are the 32 bits of a word, each once. -/
def rowFills (r : Row) : Bool :=
  decide (r.mat &&& r.mask = r.mat) && decide (r.mask + fieldBits r.pos = 0xFFFFFFFF) &&
  decide (r.pos.foldl (fun a p => a ||| (2 ^ p.2 - 1) * 2 ^ p.1) r.mask = 0xFFFFFFFF)

theorem rowsApart_classes : ([0, 1, 2, 3, 4, 12, 13].all (fun j => rowsApart (rowsFor j))) = true := by decide +kernel

theorem rowFills_classes : ([0, 1, 2, 3, 4, 12, 13].all (fun j => (rowsFor j).all rowFills)) = true := by decide +kernel

end Sys2Proof.Laws
end

