-- ==== Sys2Proof/Tests/Slice0.lean ====
section
/-!
SUPPORT. Tests/Slice0.lean: our own tests. Words written out from the spec's encodings decode to their instructions;
states and operands that meet the hypotheses of each obligation (test_meets_…); single steps with results worked out
from the spec's worked examples; ill-formed terms that the well-formedness check refuses.
-/
namespace Sys2Proof.Tests
open Sys2Proof Sys2Proof.Machine
set_option Elab.async false

/-- A cached leaf of 1 GiB (readable, writable, executable, user, PIN) that maps address 0. -/
def leaf0 : TlbE := ⟨0, 0, 30, 0x13D#64, []⟩
/-- Core 0 runs at user level; its translation cache and its quad's and the control cores' hold `leaf0`. -/
def base : State :=
  { State.reset with core := { State.reset.core with st := .run, cm := { CMem.reset with tlb := [leaf0] } },
                     home := { HomeSt.reset with quad := [(0, [leaf0]), (256, [leaf0])] },
                     ctl := { CtlSt.reset with run := true } }

def regS (r : Nat) (x : Word) : State → State := onSc (fun c => { c with s := mset 0 c.s r x })
def regA (r : Nat) (x : Word) : State → State := onSc (fun c => { c with a := mset 0 c.a r x })
def aBuf (o : Nat) (bs : List Byte) : State → State := onCore (fun c => { c with sp := { c.sp with a := memPut bs o c.sp.a } })
def supv : State → State := onX (fun x => { x with pl := true, ack := true })

def cont0 : Cont :=
  { pc := 0x1000, keep := false, task := 3, team := 1, prio := 0, det := false, ctx := 1, args := [], idx := 0, slot := none, fresh := false,
    pre := false }
def card0 : Card :=
  { entry := 0x1000, narg := 0, n := 8, det := false, gang := false, prio := 0, deal := 0, fw := 0, fa := 0, fc := 0, size := 1,
    e0 := 0, e1 := 0, e2 := 0, perm := 0, after := none, doneq := 0, args := [] }
def team0 : Team :=
  { gen := 0, card := card0, asid := 0, live := 2, conts := 2, back := [], nextIdx := 8, trig := [], trigd := false, ready := [],
    gangEnd := [], rolls := 0, log := none, logRes := 0, dealRes := 0, pre := [], part := [],
    ck := { ready := [], back := [], nextIdx := 0, live := 0, conts := 0, slots := [], gangEnd := [], part := [] }, ckBusy := none, ckStop := false }
/-- `base`, where core 0 runs a continuation of team 1 with pool slot 1. -/
def task : State :=
  { base with core := { base.core with task := { base.core.task with cont := some cont0 } },
              dist := { DistSt.reset with teams := [(1, team0)], pool := some (2 ^ 30, 4),
                                          slots := [(1, { st := .running, team := 1, ctx := none, cont := some cont0, ret := none, held := [], regs := [], posts := [] })] } }

/-- Object line 0x2000 at package scope with one range, held as given. -/
def obj0 (h : Holding) : Obj :=
  { line := 0x2000, scope := 2, inst := 0, ranges := [⟨0x8000, 64, [(0x8000, 64)]⟩], hold := h, wait := [], rel := 0, maker := 1, inWin := true }
theorem test_meets_IntegerRegisterForms : guardOk 0 0 base = true := by decide +kernel
theorem test_meets_BitFieldForms : let s := regS 2 0x0804 base
    guardOk 0 0 s = true ∧ 4 = fld (rdS s 2) 5 0 ∧ 12 = min (4 + fld (rdS s 2) 14 8) 64 := by decide +kernel
theorem test_meets_MultiplyAndDivideForms : guardOk 0 0 base = true ∧ (0x04000008 < 2 ^ 32 ∧ 0x04000008 / 2 ^ 26 = 1 ∧ 8 ≤ 0x04000008 % 16) ∧
    (0x07FFFFFF < 2 ^ 32 ∧ 0x07FFFFFF / 2 ^ 26 = 1 ∧ 8 ≤ 0x07FFFFFF % 16) := by decide +kernel
theorem test_meets_ImmediateAndAddressForms : guardOk 0 0 base = true := by decide +kernel
theorem test_meets_CompareAndPredicateForms : guardOk 1 1 base = true := by decide +kernel
theorem test_meets_VectorArithmeticForms : fpRm base < 5 ∧ fpRm (onX (fun x => { x with fpstat := wd (4 * 2 ^ 55) }) base) = 4 := by decide +kernel

/-! ### Words of the spec's encodings -/

/-- Every word of the list decodes in its slot to the instruction beside it. -/
noncomputable def decodesAll (ws : List (Nat × Nat × Instr)) : Bool := ws.all (fun p => decodeSlot p.1 0 p.2.1 == some p.2.2)

/-- Words written out in 04 R71 and its worked example, 06, 18, 19, 22. -/
theorem test_decode_scalar_and_control : decodesAll [(1, 0x68010005, .movi 0 0 1 5), (0, 0x0C000401, .loop 0 0 0 1 1), (1, 0x00020830, .add 0 0 2 2 3), (2, 0x1C030C01, .addi 0 0 3 3 1), (1, 0x00040803, .or 0 0 4 2 0), (0, 0x01000040, .br 2 0 0x40), (1, 0x40061804, .mini 0 0 6 6 4), (1, 0x6C018000, .moviz 0 0 1 0x8000), (1, 0x0C025000, .cmpeq 0 0 2 20 0), (0, 0x14000001, .lmode 0 0 1), (0, 0x14000002, .lmodeL 0 0 0), (2, 0xC0031005, .movas 0 0 3 4), (2, 0xC4000420, .addai 0 0 0 1 0x20)] = true := by decide +kernel

/-- Words written out in 05 Table 5-10, 06, 05 R112. -/
theorem test_decode_vector : decodesAll [(6, 0x044C1870, .vfma 0 1 12 6 7 0), (4, 0xC1032430, .vcvtRne 2 0 3 9 0x30), (5, 0xD0145403, .vqsc 0 0 20 21 3), (5, 0xD4165D40, .vqel 0 0 22 23 20 0 0), (4, 0xF4051401, .xcopy 0 0 5 5 1), (4, 0xB0170000, .vmovi 0 23 0), (4, 0x00400010, .vfadd 0 1 0 0 1 0)] = true := by decide +kernel

/-- Words written out in 07, 13, 15, 18, 19, 22. -/
theorem test_decode_memory_and_objects : decodesAll [(3, 0x18051000, .ldd 0 0 5 1 0), (3, 0x2C052000, .std 0 0 5 2 0), (3, 0x14126000, .ldwu 0 0 18 6 0), (3, 0x68021000, .sstw 0 0 2 1 0), (3, 0x54052000, .sldwu 0 0 5 2 0), (3, 0x6C0D2001, .sstd 0 0 13 2 1), (3, 0xC0010842, .bind 0 0 1 2 4 2), (3, 0xC801080A, .acqx 0 0 1 2 2), (3, 0xCC010802, .rel 0 0 1 2 2), (3, 0xD0070005, .fence 0 0 7 5), (3, 0x8003084A, .aadd 0 0 3 2 4 2 2), (3, 0xA4050460, .acas 0 0 5 1 6 0 0)] = true := by decide +kernel

/-- Words written out in 07, 08, 14, 15. -/
theorem test_decode_copy_and_streams : decodesAll [(3, 0xE0020400, .sbcfg 0 0 2 1), (3, 0xE4020001, .sbwaitf 0 0 2 1), (13, 0x0008A2A0, .cpy 0 0 1 1 2 0x2A), (13, 0x10004031, .cbwait 0 0 2 0 3), (13, 0x14040C00, .evpop 0 0 4 3), (13, 0x800108C0, .qpush 0 0 1 2 3), (13, 0x840408E9, .qpopB 0 0 4 2 3 9), (13, 0x9808A303, .dcopy 0 0 1 5 6 3), (13, 0x95088001, .dzero 2 0 1 4 1), (13, 0x88140400, .optreg 0 0 20 1)] = true := by decide +kernel

/-- Words written out in 09, 10, 11, 20. -/
theorem test_decode_matrix_and_thunks : decodesAll [(12, 0x00040000, .wload 0 0 1 0), (12, 0x04000000, .wsel 0 0 0), (12, 0x1C000400, .mscale 0 0 1), (12, 0x10000800, .mmazR 0 0 0 0 2), (12, 0x14000C00, .mmazC 0 0 0 0 3), (12, 0x08041400, .mmaR 0 0 1 0 5), (12, 0x18108200, .mdrain 0 0 4 2 0 2), (12, 0x20030800, .mhist 0 0 3 2), (13, 0x40000420, .tcfg 0 0 1 2), (13, 0x44044000, .tdcfg 0 0 1 1), (13, 0x48058104, .tmm 0 0 5 64 65 0), (13, 0x48018709, .tmm 0 0 1 67 66 1), (13, 0x54060A00, .tact 0 0 6 5 0), (13, 0x7008C647, .tforce 0 0 1 6 3 1 7), (13, 0x74102A84, .tstore 0 0 2 1 5 2 2), (13, 0x7C051800, .tstat 0 0 5 6)] = true := by decide +kernel

/-- Words written out in 16, 17, 18. -/
theorem test_decode_tasks_and_meetings : decodesAll [(0, 0xC0030800, .launch 0 0 3 2), (0, 0xC8041480, .spawn 0 0 4 5 8), (0, 0xC8040401, .resume 0 0 4 1), (0, 0xCC000004, .endTask 0 0), (13, 0xA0020040, .mtcfg 0 0 2 1), (13, 0xA40108C4, .mtarr 0 0 1 2 3 4), (13, 0xA80508C6, .mtwait 0 0 5 2 3 6), (13, 0xB0090840, .mttag 0 0 9 2 4), (13, 0xB4070082, .bar 0 0 7 8 2)] = true := by decide +kernel

/-- Words written out in 19, 23, 24, 21. -/
theorem test_decode_system_and_counters : decodesAll [(0, 0x80000005, .trap 0 0 5), (0, 0x84000000, .brk 0 0 0), (0, 0x88000000, .tack 0 0), (0, 0x88000001, .xret 0 0), (0, 0x88000002, .preq 0 0), (0, 0x88000003, .icinv 0 0), (0, 0x8C000832, .tinvPage 0 0 2 3), (0, 0x90040000, .ckpt 0 0 4), (1, 0xE0050001, .mfs 0 0 5 1), (1, 0xE403000B, .mts 0 0 3 0x0B), (1, 0xE8010800, .mfsr 0 0 1 2), (1, 0xEC000830, .mtsr 0 0 2 3), (1, 0xF0000800, .pmen 0 0 2), (1, 0xF0000801, .pmz 0 0 2), (1, 0xF40E5800, .mbegin 0 0 14 22), (1, 0xF80F0000, .mend 0 0 15), (1, 0xFC030000, .mph 0 0 3)] = true := by decide +kernel

/-- Words written out in 21, 23. -/
theorem test_decode_collectives_and_replay : decodesAll [(13, 0xC0090005, .rscat 0 0 1 2 5), (13, 0xD4031000, .lnkst 0 0 3 4), (13, 0xE0032000, .phase 0 0 3 2), (13, 0xE0000001, .phaseEnd 0 0), (13, 0xE4044000, .digest 0 0 4 2), (13, 0xE8051060, .rcmp 0 0 5 4 6)] = true := by decide +kernel


theorem portsFree_base : Claims.portsFree base := ⟨rfl, rfl, fun _ => rfl⟩

/-- A tile descriptor, row order, without scales. -/
def td (b rows cols pitch fmt : Nat) : BitVec 256 :=
  BitVec.ofNat 256 (b + (rows - 1) * 2 ^ 64 + (cols - 1) * 2 ^ 80 + pitch * 2 ^ 96 + fmt * 2 ^ 124)
def setTd (t : Nat) (d : BitVec 256) : State → State := onMx (fun m => { m with td := mset 0 m.td t d })

theorem test_meets_ConversionForms : elemLegal (fmtOf (ftabWord base (imm10n base 0x30 % 16))) = true ∧
    elemLegal (fmtOf (ftabWord base (imm10n base 0x30 / 16 % 16))) = true ∧ (fmtOf (ftabWord base (imm10n base 0x30 % 16))).cont ≤ 32 ∧
    (fmtOf (ftabWord base (imm10n base 0x30 / 16 % 16))).cont ≤ 32 ∧ fpRm base < 5 ∧
    (∀ i ∈ [0, 5], elemLegal (fmtOf (ftabWord base (3 + i))) = true) := by decide +kernel
theorem test_meets_ControlTransferForms : let s := regA 14 8 (regA 3 4 base)
    guardOk 0 0 s = true ∧ s.core.sc.loops.all (fun l => decide (l.last ≠ s.core.iss.pc)) = true ∧ (rdA s 3).toNat % 4 = 0 ∧
    (rdA s 14).toNat % 4 = 0 ∧ s.core.ctl = false := by decide +kernel
/-- Memory holds NOP bundles at 0x1000 (its headers are 0, memory's reset contents). -/
def code : State := onIss (fun i => { i with pc := 0xFFC, seq := 0x1000 }) base
/-- `code`, in the body of a loop of four bundles whose first is the LOOP's own. -/
def nested : State := onSc (fun c => { c with loops := [⟨0, 0xFFC, 0x1008, 4, [], [0xFFC, 0x1000, 0x1004, 0x1008]⟩] }) code
theorem test_meets_LoopStartsItsBody : (∀ s ∈ [code, nested], guardOk 0 0 s = true ∧
    s.core.sc.loops.all (fun l => decide (l.k ≠ 1) && decide (l.last ≠ s.core.iss.pc)) = true ∧ (bitAt (modeNext s) 1 && bitAt (modeNext s) 3) = false ∧
    (remaining s).any (fun k => decide (k < imm10n s 2)) = false ∧
    (bodyEnd (s.core.sc.loops.head?.map LoopEnt.last) [] (imm10n s 2 - 1) s.core.iss.seq s).1 = .ok 0x1004 0 [0x1000, 0x1004] ∧
    rdS s 0 = 0 ∧ rdS (regS 1 5 s) 1 ≠ 0) ∧
    (let m := onX (fun x => { x with mode := 2 }) (regS 1 5 code)
     rdS m 1 ≠ 0 ∧ bitAt (modeNext m) 1 = true ∧ (bitAt (modeNext m) 1 && bitAt (modeNext m) 3) = false) ∧
    (remaining nested).any (fun k => decide (k < 4)) = true := by decide +kernel
/-- `leaf0`; a page of package 1, one of this package by a leaf that names a package, and the register space. -/
def leaves : List TlbE := [leaf0, ⟨0, 2 ^ 30, 30, 0x001000000000033D#64, []⟩, ⟨0, 2 ^ 31, 30, 0x33D#64, []⟩, ⟨0, 3 * 2 ^ 30, 30, 0x800000011D#64, []⟩]
def spaces (s : State) : State := onHome (fun h => { h with quad := [(0, leaves), (256, leaves)] }) (onCm (fun c => { c with tlb := leaves }) s)
theorem test_meets_DeviceLoadForms : let s := regA 1 0x40 base
    guardOk 0 0 s = true ∧ (∀ sz ∈ [1, 2, 4, 8], let ea := rdA s 1 + BitVec.ofInt 64 (sgn 12 0xFFF * ((sz : Nat) : Int))
      ea.toNat % sz = 0 ∧ let a := 0x40 - sz
      (transCore .rd ea s).1 = .ok a 0x13D ∧ paOf a / 2 ^ 39 ≠ 1 ∧ pkgOf a = s.ctl.pkgNum ∧ retired s a = false ∧ pairTorn s a = false ∧
      0x13D / 2 ^ 9 % 2 = 0) ∧
    (let s := onCm (fun c => { c with rem := some (some (some 7)) }) (spaces (regA 1 (2 ^ 30) base))
     (transCore .rd (rdA s 1) s).1 = .ok (2 ^ 52) 0x1000000000033D ∧ paOf (2 ^ 52) / 2 ^ 39 ≠ 1 ∧ pkgOf (2 ^ 52) ≠ s.ctl.pkgNum ∧
     retired s (2 ^ 52) = false ∧ pairTorn s (2 ^ 52) = false ∧ s.core.cm.rem = some (some (some 7))) ∧
    (let s := spaces (regA 1 (2 ^ 31) base)
     (transCore .rd (rdA s 1) s).1 = .ok 0 0x33D ∧ pkgOf 0 = s.ctl.pkgNum ∧ 0x33D / 2 ^ 9 % 2 = 1) ∧
    (let s := spaces (regA 1 (3 * 2 ^ 30) (supv base))
     (transCore .rd (rdA s 1) s).1 = .ok (2 ^ 39) 0x800000011D ∧ paOf (2 ^ 39) / 2 ^ 39 = 1) := by decide +kernel
theorem test_meets_DeviceStoreForms : let s := regA 1 0x40 base
    guardOk 0 0 s = true ∧ (∀ sz ∈ [1, 2, 4, 8], let ea := rdA s 1 + BitVec.ofInt 64 (sgn 12 0xFFF * ((sz : Nat) : Int))
      ea.toNat % sz = 0 ∧ let a := 0x40 - sz
      (transCore .wr ea s).1 = .ok a 0x13D ∧ paOf a / 2 ^ 39 = 0 ∧ pkgOf a = s.ctl.pkgNum ∧ retired s a = false ∧
      hazardAt s.core 3 ea.toNat (ea.toNat + sz) = none ∧ writeRefused s s.focus a = false ∧ a % 64 + sz ≤ 64) ∧
    (let s := onHome (fun h => { h with objs := [obj0 .free] }) (regA 1 0x8000 base)
     (transCore .wr (rdA s 1) s).1 = .ok 0x8000 0x13D ∧ writeRefused s s.focus 0x8000 = true) ∧
    (let s := spaces (regA 1 (2 ^ 30) (onCtl (fun c => { c with podcfg := 1 }) base))
     let x := transCore .wr (rdA s 1) s
     let dead := onNet (fun n => { n with links := (List.range 12).map (fun i => (i, ({ st := 2, tx := 0, rx := 0, pos := 0, nak := false, unack := [], retry := 0, efail := 0, replies := [], inb := [] } : Link))) }) s
     x.1 = .ok (2 ^ 52) 0x1000000000033D ∧ retired s (2 ^ 52) = false ∧ deadDir x.2 1 = none ∧ hazardAt s.core 3 (2 ^ 30) (2 ^ 30 + 8) = none ∧
     deadDir (transCore .wr (rdA dead 1) dead).2 1 ≠ none) ∧
    (let s := spaces (regA 1 (3 * 2 ^ 30) (supv base))
     (transCore .wr (rdA s 1) s).1 = .ok (2 ^ 39) 0x800000011D ∧ paOf (2 ^ 39) / 2 ^ 39 = 1) := by decide +kernel
/-- `Claims.windowFree`, as a check. -/
def windowFreeB (s : State) (ea : Word) (n : Nat) : Bool :=
  let k := spadTarget s ea.toNat
  decide (k = s.focus) || decide (mget 0 s.core.iss.cnt (0x200 + k % 4) ≠ 0) ||
  asyncRoom s.time (coreAt s k) (matePorts (ea.toNat / 2 ^ 20 % 4) (ea.toNat % 2 ^ 20) n)
theorem windowFree_of_check {s : State} {ea : Word} {n : Nat} (h : windowFreeB s ea n = true) : Claims.windowFree s ea n := by
  simpa only [Claims.windowFree, windowFreeB, Bool.or_eq_true, decide_eq_true_eq, or_assoc] using h
theorem windowFree_regA : ∀ a ∈ [0x100000, 0x200000, 0x1100000, 0x1500000], ∀ sz ∈ [1, 2, 4, 8], Claims.windowFree (regA 1 (wd a) base) (wd a) sz :=
  fun a ha sz hs => windowFree_of_check ((by decide +kernel : ∀ a ∈ [0x100000, 0x200000, 0x1100000, 0x1500000], ∀ sz ∈ [1, 2, 4, 8],
    windowFreeB (regA 1 (wd a) base) (wd a) sz = true) a ha sz hs)
theorem portsFree_regA (r : Nat) (x : Word) : Claims.portsFree (regA r x base) := ⟨rfl, rfl, fun _ => rfl⟩
/-- The last bytes of the A-buffer, and the first of the C-buffer. -/
theorem test_meets_ScratchpadLoadForms : Claims.portsFree (regA 1 0x100000 base) ∧
    (guardOk 0 0 base = true ∧ ∀ a ∈ [0x100000, 0x200000, 0x1100000, 0x1500000], ∀ sz ∈ [1, 2, 4, 8], let s := regA 1 (wd a) base
      let ea := rdA s 1 + BitVec.ofInt 64 (sgn 12 0 * ((sz : Nat) : Int))
      ea.toNat % sz = 0 ∧ spadFault s 0 false ea sz [(0, sz)] = none ∧ writesMet s (spRef s ea) sz = []) := ⟨portsFree_regA _ _, by decide +kernel⟩
theorem test_meets_ScratchpadStoreForms : Claims.portsFree (regA 1 0x100000 base) ∧
    (guardOk 0 0 base = true ∧ ∀ a ∈ [0x100000, 0x1100000, 0x1500000], ∀ sz ∈ [1, 2, 4, 8], let s := regA 1 (wd a) base
      let ea := rdA s 1 + BitVec.ofInt 64 (sgn 12 0 * ((sz : Nat) : Int))
      let key := spadTarget s ea.toNat
      ea.toNat % sz = 0 ∧ spadFault s 0 true ea sz [(0, sz)] = none ∧
      hazardAt (coreAt s key) (ea.toNat / 2 ^ 20 % 4) (ea.toNat % 2 ^ 20) (ea.toNat % 2 ^ 20 + sz) = none) :=
  ⟨portsFree_regA _ _, by decide +kernel⟩
/-- Lane 0 of every cluster is active in m1, v1 and a1 hold `ea`; the word runs in every cluster or in cluster 0. -/
def vecs (all : Bool) (ea : Nat) : State :=
  onVec (fun v => { v with m := (List.range 8).foldl (fun m c => mset 0 m (8 * c + 1) 1) v.m,
                           v := (List.range 8).foldl (fun m c => mset 0 m ((48 * c + 1) * 16) (BitVec.ofNat 32 ea)) v.v })
    (onIss (fun i => { i with hdr := if all then 0x8000 else 0, slot := 4 }) (regA 1 (wd ea) base))
/-- The hypotheses of `plain` for a word's accesses. -/
def vecMeets (s : State) (agent : Nat) (wr : Bool) (xs : List VAcc) : Bool :=
  !xs.isEmpty && xs.all (fun x => decide (alignedFault s agent wr x.ea x.size x.parts = none ∧ writesMet s (spRef s x.ea) x.size = []) && windowFreeB s x.ea x.size &&
    x.parts.all (fun p => (hazardAt s.core (x.ea.toNat / 2 ^ 20 % 4) (x.ea.toNat % 2 ^ 20 + p.1) (x.ea.toNat % 2 ^ 20 + p.1 + p.2)).isNone)) &&
  (List.range 48).all (fun p => decide (((xs.filterMap (fun x => if bitAt x.ea 24 then none else
    portOf (x.ea.toNat / 2 ^ 20 % 4) (x.ea.toNat % 2 ^ 20) x.size wr)).map (fun q => if q.1 = p then q.2 else 0)).sum ≤ portWidth p))
/-- Loads from the A-buffer, the C-buffer, the W-buffer and a mate's A-buffer; stores to the A- and the C-buffer. -/
theorem test_meets_VectorMemoryForms : (∀ all ea, Claims.portsFree (vecs all ea)) ∧ exposed (vecs true 0x100000) = false ∧
    (∀ e ∈ [(true, 0x100000), (true, 0x200000), (false, 0), (false, 0x1500000)], let s := vecs e.1 e.2
      vecMeets s 1 false (vmAccs 1 1 0 s) = true ∧ (e.2 ≠ 0x200000 → ∀ sz ∈ [1, 2, 4], vecMeets s 2 false (vgAccs 1 1 sz s) = true)) ∧
    (∀ ea ∈ [0x100000, 0x200000], vecMeets (vecs true ea) 1 true (vmAccs 1 1 0 (vecs true ea)) = true) ∧
    (∀ sz ∈ [1, 2, 4], vecMeets (vecs true 0x100000) 2 true (vgAccs 1 1 sz (vecs true 0x100000)) = true) :=
  ⟨fun _ _ => ⟨rfl, rfl, fun _ => rfl⟩, by decide +kernel⟩
/-- Entry 2 of core 0 holds a stream buffer of 4 slots, with core 0 on both ends, one slot filled; handle 3 names it. -/
def sbState (pp : Nat) : State := onSb (fun b => { b with hnd := [(3, (0, 2))], ent := [(2, ⟨{ SbCfg.reset with v := true, cnt := 4, buf := 1, pp := BitVec.ofNat 32 pp }, []⟩)] }) base
theorem test_meets_StreamBufferForms : guardOk 0 0 (sbState 1) = true ∧ (sbState 1).core.ctl = false ∧
    sbLegal false (rdS (regS 1 (wd (3 * 2 ^ 18 + 0x103)) base) 1) = true ∧ mfind? (sbState 1).core.sb.hnd 3 = some (0, 2) ∧
    (∀ pp ∈ [1, 4], let s := sbState pp
      let c := sbView s (0, 2)
      c.v = true ∧ imm10n s 1 ≤ c.cnt ∧ s.core.num % 4 = c.cons ∧ imm10n s 1 ≤ (c.pp - c.cc).toNat ∧ imm10n s 1 ≠ 0) ∧
    (∀ pp ∈ [0, 3], let s := sbState pp
      let c := sbView s (0, 2)
      c.v = true ∧ imm10n s 1 ≤ c.cnt ∧ s.core.num % 4 = c.prod ∧ imm10n s 1 ≤ c.cnt - (c.pp - c.cc).toNat) := by decide +kernel
/-- A descriptor at A-buffer offset 0: 4 elements of entry 0 from A-buffer 0x100 to scratchpad `dst`. -/
def copyAt (dst : Nat) : State := regA 2 0x100000 (aBuf 0 (leBytes 8 0xC0000 ++ leBytes 8 0x100100 ++ leBytes 8 dst ++
  leBytes 8 0x0001000100010004 ++ leBytes 4 0x10001) base)
/-- The hypotheses of `accepts` for one kind of command. -/
def copyMeets (s : State) (kind : CopyKind) (tgt : Nat) : Bool :=
  let d := cdOf (spadBytes s.core 1 ((rdA s 2).toNat % 2 ^ 20) 128)
  let fs := ftabWord s d.fs
  let fd := ftabWord s d.fd
  let rs := d.ranges (fmtOf fs).cont (fmtOf fd).cont
  d.legal kind tgt fs fd (ftabWord s d.fsc) (d.rmNow (fpRm s)) && decide (spadRefused s kind tgt rs = none) &&
  decide (d.misaligned (fmtOf fs).cont (fmtOf fd).cont = none) && !rangesClash s kind tgt rs && d.spanOk (fmtOf fd).cont &&
  decide (copyPhase s kind tgt rs = none) && decide (copyAlias s kind tgt rs = none) && !d.nb && !d.empty &&
  decide ((d.span (fmtOf fd).cont).2 = 1)
/-- A command of no lines, to fill the queue with. -/
def idleCmd : CopyCmd := { newCmd .cpyq 0 base with held := true }
theorem test_meets_CopyCommandForms : (Claims.portsFree (copyAt 0x100200) ∧ Claims.portsFree (copyAt 0x200000)) ∧
    (let s := copyAt 0x100200
     guardOk 0 0 s = true ∧ ownLineFault false (rdA s 2) 128 s = none ∧ spadFault s 0 false (rdA s 2) 128 [(0, 128)] = none ∧
     copyMeets s .cpy 0 = true ∧ copyMeets (copyAt 0x200000) .cpya 0 = true ∧ copyMeets s .cpym 2 = true ∧
     s.core.cp.cmds.length < 16 ∧ evRoom s.core = true ∧
     ¬ (onCp (fun c => { c with cmds := List.replicate 16 idleCmd }) s).core.cp.cmds.length < 16) :=
  ⟨⟨⟨rfl, rfl, fun _ => rfl⟩, ⟨rfl, rfl, fun _ => rfl⟩⟩, by decide +kernel⟩
/-- Bitmap 2 has window 0 all set but bit 63; the event queue holds one record. -/
def marks : State := onCp (fun c => { c with cb := [(2, BitVec.ofNat 256 (2 ^ 63 - 1))], evq := [0x7] }) (regS 3 0xFF (regS 4 (wd (2 ^ 30)) base))
theorem test_meets_BitmapAndEventForms : guardOk 0 0 marks = true ∧ exposed marks = false ∧
    (let win : Word := BitVec.ofNat 64 ((cbOf marks.core 2).toNat / 2 ^ (64 * 0)); win &&& rdS marks 3 = rdS marks 3) ∧
    marks.core.cp.evq = 0x7 :: [] ∧ base.core.cp.evq = [] ∧ (rdS marks 4).toNat ≤ 2 ^ 30 ∧ nonCanon (rdS marks 3).toNat = false ∧
    (rdS marks 3).toNat + (rdS marks 4).toNat ≤ 2 ^ 64 ∧ marks.core.cp.cmds.length < 16 ∧ evRoom marks.core = true := by decide +kernel
theorem matrixFree_base : Claims.matrixFree base := ⟨rfl, rfl, rfl, rfl, by decide +kernel⟩
/-- Tiles: W-buffer, C-buffer (FP32) and A-buffer, 4 by 4; the last one quantised would need scales, so both are plain. -/
def tiles : State := setTd 1 (td 0 4 4 16 0) (setTd 2 (td 0x200000 4 4 16 0) (setTd 3 (td 0x100400 4 4 16 0) base))
def fq : State := setTd 4 (td 0x100800 4 4 4 3 ||| BitVec.ofNat 256 (2 ^ 119 + 11 * 2 ^ 120 + 0x100900 * 2 ^ 128)) tiles
/-- `Claims.s12Clear` of a core in interlocked mode, as a check. -/
theorem s12Clear_of_check {s : State} {k : S12Need} (h : (!exposed s && !teaselHolds s.core && !s12Busy s k &&
      k.rdRuns.all (fun r => decide (phaseBad s.core 2 false r.1 r.2.1 r.2.2 = none)) &&
      k.wrRuns.all (fun r => decide (phaseBad s.core 2 true r.1 r.2.1 r.2.2 = none ∧ hazardAt s.core r.1 r.2.1 r.2.2 = none))) = true) :
    Claims.s12Clear s k := by
  simp only [Bool.and_eq_true, Bool.not_eq_true', List.all_eq_true, decide_eq_true_eq] at h
  exact ⟨h.1.1.1.2, h.1.1.2, h.1.2, h.2, fun he => by simp [h.1.1.1.1] at he⟩
theorem test_meets_WeightAndDrainForms :
    (let w := tdReg tiles 1
     let cs := (fmtOf (ftabWord tiles w.fmt)).cont
     Claims.s12Clear tiles ⟨false, false, [0], tdRanges w cs w.mx, [], tdRuns w cs w.mx, []⟩) ∧
    (∀ x ∈ [(3, 0), (4, 4)], let dt := tdReg fq x.1
     let ct := tdReg fq 2
     let cr := tdRanges ct (fmtOf (ftabWord fq ct.fmt)).cont false
     let df := fmtOf (ftabWord fq dt.fmt)
     Claims.s12Clear fq ⟨false, true, [], cr, tdRanges dt df.cont (decide (x.2 = 4)), tdRuns ct (fmtOf (ftabWord fq ct.fmt)).cont false,
       tdRuns dt df.cont (decide (x.2 = 4))⟩) ∧
    (teaselHolds tiles.core = false ∧ exposed tiles = false ∧ tiles.core.mx.flight.any (fun k => k.isH) = false) ∧
    (guardOk 0 0 tiles = true ∧
     (let w := tdReg tiles 1
      let cs := (fmtOf (ftabWord tiles w.fmt)).cont
      w.base < 2 ^ 19 ∧ w.mx = false ∧ w.rows ≤ 128 ∧ w.cols ≤ 128 ∧ w.shapeOk cs = true ∧ w.scaleOk (ftabWord tiles w.sfmt) = true ∧
      elemLegal (fmtOf (ftabWord tiles w.fmt)) = true ∧ tdRefused tiles [0] w cs w.mx = none) ∧
     (∀ x ∈ [(3, 0, 0), (4, 4, 4)], let s := fq
      let dt := tdReg s x.1
      let ct := tdReg s 2
      let df := fmtOf (ftabWord s dt.fmt)
      let cw := ftabWord s ct.fmt
      let rm := if x.2.1 = 7 then fpRm s else x.2.1
      let fq := decide (x.2.2 / 4 % 2 = 1)
      tdRefused s [2] ct (fmtOf cw).cont false = none ∧ tdRefused s [0, 1] dt df.cont fq = none ∧ ct.rows ≤ 128 ∧ ct.cols ≤ 128 ∧
      (cw = fp32Word ∨ cw = fp64Word) ∧ ct.shapeOk (fmtOf cw).cont = true ∧ dt.rows = ct.rows ∧ dt.cols = ct.cols ∧
      dt.shapeOk df.cont = true ∧ elemLegal df = true ∧ dt.mx = fq ∧ (fq = true → dt.scaleOk (ftabWord s dt.sfmt) = true) ∧
      rm ≤ 4 ∧ (fq = true → rm = 0 ∨ rm = 4))) := ⟨s12Clear_of_check (by decide +kernel), fun x hx => by
    simp only [List.mem_cons, List.not_mem_nil, or_false] at hx
    rcases hx with rfl | rfl <;> exact s12Clear_of_check (by decide +kernel), by decide +kernel, by decide +kernel⟩
/-- Plane 0 loaded, in FP32. -/
def planes : State := onMx (fun m => { m with p0 := { m.p0 with loaded := true } }) tiles
theorem test_meets_MatrixMultiplyForms : Claims.matrixFree planes ∧ (guardOk 0 0 planes = true ∧ mmaProt planes (mmaArgs planes 3 1 2) = none ∧
    mmaLegal planes false (mmaArgs planes 3 1 2) = true ∧ mmaLegal planes true (mmaArgs planes 3 1 2) = true) :=
  ⟨⟨rfl, rfl, rfl, rfl, by decide +kernel⟩, by decide +kernel⟩

/-- `Claims.tileReady`, as a check. -/
def tileReadyB (s : State) (d : Nat) (xs : List (Option TSrc × Option TD)) (rows cols : Nat) : Bool :=
  arenaOn s.core && xs.all (fun x => x.2.all (fun t => leafOk s t && decide (leafProt s t = none))) &&
  xs.all (fun x => x.1.all (fun y => elemLegal (fmtOf (srcFmt s.core y).1))) &&
  (tvOf s.core d).home.all (fun h => decide ((tdOf h.1).rows = rows) && decide ((tdOf h.1).cols = cols)) &&
  tableRoom s.core (xs.filterMap Prod.fst)

theorem tileReady_of_check {s : State} {d : Nat} {xs : List (Option TSrc × Option TD)} {rows cols : Nat}
    (h : tileReadyB s d xs rows cols = true) : Claims.tileReady s d xs rows cols := by
  simp only [tileReadyB, Bool.and_eq_true, List.all_eq_true, Option.all_eq_true, decide_eq_true_eq] at h
  obtain ⟨⟨⟨⟨h1, h2⟩, h3⟩, h4⟩, h5⟩ := h
  exact ⟨h1, fun x hx t ht => h2 x hx t ht, fun x hx y hy => h3 x hx y hy, fun h hh => h4 h hh, h5⟩

/-- The arena is on; value 1 is pending on node 5 (4 by 4), value 2 is at home in tile 3. -/
def leaf3 : BitVec 256 × W32 := (td 0x100400 4 4 16 0, fp32Word)
def node5 : TNode :=
  { seq := 5, word := 0, pc := 0, srcs := [.leaf leaf3.1 leaf3.2], map0 := 0, map1 := 0, rows := 4, cols := 4, fmt := fp32Word, mx := false,
    mode := 0, seed := 0, blks := [], perm := false }
def thunks : State := onTh (fun t => { t with arenaA := 1, nextSeq := 6, nodes := [node5], tv := [(1, ⟨.pend 5, none⟩), (2, ⟨.homed, some leaf3⟩)] })
  (regA 1 0x100000 tiles)
theorem test_meets_ThunkConfigurationForms : Claims.portsFree thunks ∧
    (guardOk 0 0 thunks = true ∧ arenaLegal thunks.core (rdS (regS 4 1 thunks) 4) (rdS thunks 0) = true ∧
     leafOk thunks (tdOf (rdTd thunks 3)) = true ∧ leafProt thunks (tdOf (rdTd thunks 3)) = none ∧
     elemLegal (fmtOf (ftabWord thunks (tdOf (rdTd thunks 3)).fmt)) = true ∧
     (tvOf thunks.core 1).st = .pend 5 ∧ arenaOn thunks.core = true ∧
     srcShape thunks.core (.node 5) = ((tdOf (rdTd thunks 3)).rows, (tdOf (rdTd thunks 3)).cols) ∧
     (tvOf thunks.core 2).st = .homed ∧ (tvOf thunks.core 3).st = .undef ∧
     (rdA thunks 1).toNat % 32 = 0 ∧ (rdA thunks 1).toNat / 2 ^ 20 = 1 ∧
     spadFault thunks 0 false (rdA thunks 1) 32 [(0, 32)] = none ∧ spadFault thunks 0 true (rdA thunks 1) 32 [(0, 32)] = none) :=
  ⟨⟨rfl, rfl, fun _ => rfl⟩, by decide +kernel⟩
/-- Value 1 (a node) and descriptor 3 (field 0x43) as sources, of 4 by 4 each; the destination value 2 has a home of that shape. -/
theorem test_meets_ThunkNodesOfTwoSources :
    (guardOk 0 0 thunks = true ∧ (srcField thunks 1).1 = some (.node 5) ∧ (srcField thunks 1).2 = none ∧
     (srcField thunks 0x43).1 = some (.leaf leaf3.1 leaf3.2) ∧ (srcField thunks 0x43).2 = some (tdOf leaf3.1) ∧
     srcShape thunks.core (.node 5) = (4, 4) ∧ srcShape thunks.core (.leaf leaf3.1 leaf3.2) = (4, 4)) ∧
    Claims.tileReady thunks 2 [(some (.node 5), none), (some (.leaf leaf3.1 leaf3.2), some (tdOf leaf3.1))] 4 4 :=
  ⟨by decide +kernel, tileReady_of_check (by decide +kernel)⟩
/-- A source of one row, for the form that spreads it. -/
theorem test_meets_spread_row : let s := setTd 5 (td 0x100500 1 4 16 0) thunks
    srcShape s.core (.leaf (rdTd s 5) fp32Word) = (1, 4) ∧ (srcField s 0x45).1 = some (.leaf (rdTd s 5) fp32Word) := by decide +kernel
theorem test_meets_ThunkNodesOfOneSource :
    (guardOk 0 0 thunks = true ∧ (srcField thunks 1).1 = some (.node 5) ∧ (srcField thunks 1).2 = none ∧ srcShape thunks.core (.node 5) = (4, 4) ∧
     elemLegal (fmtOf (ftabWord thunks 15)) = true ∧ elemLegal (fmtOf (ftabWord thunks 3)) = true ∧ (fmtOf (ftabWord thunks 3)).cont ≤ 8 ∧
     fpRm thunks ≤ 4 ∧ fld (rdS thunks 2) 63 48 = 0 ∧ fld (rdS thunks 3) 63 32 = 0 ∧ fld (rdS thunks 3) 15 0 + 1 = 1) ∧
    Claims.tileReady thunks 9 [(some (.node 5), none)] 4 4 ∧ Claims.tileReady thunks 9 [(some (.node 5), none)] 1 4 ∧
    Claims.tileReady thunks 9 [(some (.node 5), none)] 4 1 ∧ Claims.tileReady thunks 9 [(some (.node 5), none)] 1 1 :=
  ⟨by decide +kernel, tileReady_of_check (by decide +kernel), tileReady_of_check (by decide +kernel), tileReady_of_check (by decide +kernel),
    tileReady_of_check (by decide +kernel)⟩
theorem test_meets_ThunkRequestForms : let s := thunks
    guardOk 0 0 s = true ∧ arenaOn s.core = true ∧ (tvOf s.core 2).src = some (.leaf leaf3.1 leaf3.2) ∧ (tvOf s.core 1).src = some (.node 5) ∧
    (s.core.th.reqs.filter (fun r => decide (r.kind ≤ 1))).length < 8 ∧ evRoom s.core = true ∧
    evRoom (onCp (fun c => { c with resv := 64 }) s).core = false ∧
    (let w := tdOf (rdTd s 3)
     w.resv = 0 ∧ w.row0 + w.rows ≤ (srcShape s.core (.node 5)).1 ∧ w.col0 + w.cols ≤ (srcShape s.core (.node 5)).2 ∧
     (blocksOf w.row0 w.rows w.col0 w.cols).length ≤ 256 ∧ leafOk s w = true ∧ leafProt s w = none ∧
     elemLegal (fmtOf (ftabWord s w.fmt)) = true ∧ regionSpan w (fmtOf (ftabWord s w.fmt)).cont ≤ 256 ∧ w.virt = false ∧
     regionArena s.core (rdTd s 3, ftabWord s w.fmt) = none) ∧
    (tvOf s.core 2).home = some leaf3 ∧ 0 + (tdOf leaf3.1).rows ≤ (srcShape s.core (.leaf leaf3.1 leaf3.2)).1 := by decide +kernel

/-- The state after a translation by the core in focus. -/
def seen (k : Acq) (va : Word) (s : State) : State := (transCore k va s).2
def inMem (a : Nat) (bs : List Byte) (s : State) : State := { s with mem := memPut bs a s.mem }

def objs (os : List Obj) : State := onHome (fun h => { h with objs := os }) (regA 1 0x2000 (regS 2 0x9000 (regS 3 64 task)))
/-- `Claims.atHome`, as a check. -/
theorem atHome_of_check {k : Acq} {va : Word} {n a e : Nat} {s : State}
    (h : (decide (va.toNat % n = 0) && decide ((transCore k va s).1 = .ok a e) && !isReg a && decide (pkgOf a = (seen k va s).ctl.pkgNum)) = true) :
    Claims.atHome k va n a e s (seen k va s) := by
  simp only [Bool.and_eq_true, decide_eq_true_eq, Bool.not_eq_true'] at h
  exact ⟨h.1.1.1, Prod.ext h.1.1.2 rfl, h.1.2, h.2⟩
theorem test_meets_ObjectForms :
    (Claims.atHome .rd (rdA (objs []) 1) 64 0x2000 0x13D (objs []) (seen .rd 0x2000 (objs [])) ∧
     Claims.atHome .rd (rdA (objs [obj0 .free]) 1) 64 0x2000 0x13D (objs [obj0 .free]) (seen .rd 0x2000 (objs [obj0 .free])) ∧
     Claims.atHome .rd (rdA (objs [obj0 (.excl ⟨1, 1, some 0⟩)]) 1) 64 0x2000 0x13D (objs [obj0 (.excl ⟨1, 1, some 0⟩)])
       (seen .rd 0x2000 (objs [obj0 (.excl ⟨1, 1, some 0⟩)]))) ∧
    (guardOk 0 0 (objs []) = true ∧ 0x13D / 2 ^ 8 % 2 = 1 ∧
     (let u := seen .rd 0x2000 (objs [])
      let base := rdS (objs []) 2
      let len := (rdS (objs []) 3).toNat
      base.toNat % 64 = 0 ∧ len % 64 = 0 ∧ 64 ≤ len ∧ len ≤ 2 ^ 36 ∧
      (bindPages (len / 2 ^ 16 + 2) base.toNat len [] true u).1 = .inr ([(0x9000, 64)], true) ∧
      [(0x9000, 64)].any (fun p => decide (pkgOf p.1 ≠ pkgOf 0x2000)) = false ∧ objAt u 0x2000 = none ∧ instOf u 2 u.focus = some 0 ∧
      instOf u 0 u.focus = some 0 ∧ u.home.objs.length = 0) ∧
     (let u := seen .rd 0x2000 (objs [obj0 .free])
      objAt u 0x2000 = some (obj0 .free) ∧ scopeBad u (obj0 .free) (some 2) = false ∧ scopeBad u (obj0 .free) none = false ∧
      (obj0 .free).ranges.length < 8 ∧ u.home.objs.any (fun x => x.ranges.any (fun y => pcsMeet y.pcs [(0x9000, 64)])) = false ∧
      u.core.cm.held.contains 0x2000 = false ∧ u.core.cm.held.length < 16 ∧ exposed (objs [obj0 .free]) = false) ∧
     (let me : Agent := ⟨1, 1, some 0⟩
      let o := obj0 (.excl me)
      let u := seen .rd 0x2000 (objs [o])
      agentOf u.focus u.core = me ∧ objAt u 0x2000 = some o ∧ scopeBad u o (some 2) = false ∧ o.holds me = true ∧ relWaits u = false ∧ retired u 0x2000 = false ∧ podClear u = true ∧ u.core.cm.reach = [])) :=
  ⟨⟨atHome_of_check (by decide +kernel), atHome_of_check (by decide +kernel), atHome_of_check (by decide +kernel)⟩, by decide +kernel⟩

/-- Address 0x3000 for atomics, of a task that is not DET, or that is. -/
def atom (det : Bool) : State :=
  { regA 1 0x3000 task with core := { (regA 1 0x3000 task).core with task := { task.core.task with cont := some { cont0 with det := det } } } }
/-- The same, where team 1's log is on for stack 0. -/
def atomLog : State := inMem 0x40040 (leBytes 8 0x50000 ++ leBytes 8 0x51000 ++ leBytes 8 0x50020 ++ leBytes 8 1)
  (onDist (fun d => { d with teams := [(1, { team0 with log := some 0x40000 })] }) (atom true))
theorem test_meets_AtomicForms_logged : Claims.atHome .wr (rdA atomLog 1) 8 0x3000 0x13D atomLog (seen .wr 0x3000 atomLog) ∧
    (let u := seen .wr 0x3000 atomLog
     retired u 0x3000 = false ∧ writeRefused u u.focus 0x3000 = false ∧ writeRefused u 2048 0x40040 = false ∧
     logD u 1 2 = some ⟨0x40040, 0x50000, 0x51000, 0x50020⟩ ∧
     (∀ k ∈ [9, 10, 13, 14], logged u k 0x3000 = some { cont0 with det := true } ∧ (logged u k 0x3000).bind (fun c => logFull u c.team 2 32) = none)) :=
  ⟨atHome_of_check (by decide +kernel), by decide +kernel⟩
theorem test_meets_AtomicForms : (∀ det, Claims.atHome .wr (rdA (atom det) 1) 8 0x3000 0x13D (atom det) (seen .wr 0x3000 (atom det)) ∧
      Claims.atHome .rd (rdA (atom det) 1) 8 0x3000 0x13D (atom det) (seen .rd 0x3000 (atom det)) ∧
      Claims.atHome .wr (rdA (atom det) 1) 4 0x3000 0x13D (atom det) (seen .wr 0x3000 (atom det))) ∧
    (∀ det ∈ [false, true], let u := seen .wr 0x3000 (atom det)
      guardOk 0 0 (atom det) = true ∧ retired u 0x3000 = false ∧ podClear u = true ∧ u.core.cm.reach = [] ∧ writeRefused u u.focus 0x3000 = false ∧
      (∀ k ∈ [1, 9, 10, 11, 12, 14], (logged u k 0x3000).bind (fun c => logFull u c.team (2 + stackOf (paOf 0x3000)) 32) = none) ∧
      pairTorn u 0x3000 = false ∧ accFull u 0x3000 = false ∧ (u.core.task.cont.map Cont.det).getD false = det ∧
      (logged u 9 0x3000).isSome = false ∧ Claims.posByte u 0x3000 = false ∧ mfind? u.home.accs 0x3000 = none ∧
      mfind? (onHome (fun h => { h with accs := [(0x3000, .zero)] }) u).home.accs 0x3000 = some .zero) :=
  ⟨fun det => by cases det <;> exact ⟨atHome_of_check (by decide +kernel), atHome_of_check (by decide +kernel), atHome_of_check (by decide +kernel)⟩,
    by decide +kernel⟩

/-- Queue 5 of stack 0, of ASID 0 and two entries' room; its handle stands in s2. -/
def queue0 : Queue := { live := true, cap := 2, base := 0x4000, asid := 0, hgen := 1, ents := [], waits := [] }
def queues (q : Queue) : State := onHome (fun h => { h with queues := [(5, q)] }) (regS 2 (wd (2 ^ 63 + 2 ^ 10 + 5)) (regA 1 0x100000 task))
def wait0 : QWait := { who := ⟨1, 1, some 0⟩, off := 0, tag := 0, due := none }
theorem test_meets_QueueForms : (∀ q, Claims.portsFree (queues q)) ∧
    (∀ q ∈ [queue0, { queue0 with ents := [List.replicate 64 7] }, { queue0 with waits := [wait0] }], let s := queues q
      let h := hndOf (rdS s 2)
      guardOk 0 0 s = true ∧ h.ok = true ∧ h.pkg = s.ctl.pkgNum ∧ mfind? s.home.queues h.key = some q ∧ q.live = true ∧ q.hgen = h.hgen ∧
      fld s.core.x.ttb 63 52 = q.asid ∧ ownLineFault false (rdA s 1) 64 s = none ∧ ownLineFault true (rdA s 1) 64 s = none ∧
      spadFault s 0 false (rdA s 1) 64 [(0, 64)] = none ∧ spadFault s 0 true (rdA s 1) 64 [(0, 64)] = none ∧
      hazardAt s.core 1 ((rdA s 1).toNat % 2 ^ 20) ((rdA s 1).toNat % 2 ^ 20 + 64) = none ∧ q.ents.length < q.cap ∧
      q.waits.length < 64 ∧ evRoom s.core = true) := ⟨fun _ => ⟨rfl, rfl, fun _ => rfl⟩, by decide +kernel⟩

/-- Memory with the record of a 16 by 16 SGD region at 0x10000: CTRL, and the bases 0x20000, 0x20400, 0x20800, 0x30000. -/
def recMem : SMap Byte := [(0x10002, 15), (0x10004, 15), (0x1000A, 2), (0x10011, 4), (0x10012, 2), (0x10039, 8), (0x1003A, 2), (0x10042, 3)]
def region0 : Region := { rec_ := 0x10000, rcls := 0, pages := [(2, 16), (3, 24)], team := 1, sup := false }
def regions (rs : List Region) : State := { onHome (fun h => { h with regions := rs }) (regS 1 0x10000 (regA 1 0x100000 task)) with mem := recMem }
theorem test_meets_RegionForms :
    ((∀ rs, Claims.portsFree (regions rs)) ∧
     Claims.atHome .rd (rdS (regions [region0]) 1) 1 0x10000 0x13D (regions [region0]) (seen .rd 0x10000 (regions [region0]))) ∧
    (let s := regions []
     let u := (msPage .wr true (rdS s 1) s).2
     guardOk 0 0 s = true ∧ (rdS s 1).toNat % 256 = 0 ∧ (msPage .wr (!s.core.x.pl) (rdS s 1) s).1 = .inr (0x10000, 0) ∧
     pkgOf 0x10000 = u.ctl.pkgNum ∧ retired u 0x10000 = false ∧
     (let x := msRanges .wr (!s.core.x.pl) (recAt u.mem 0x10000).arrays [] u
      x.1 = .inr [(2, 16), (3, 24)] ∧ regStatus x.2 u.mem 0x10000 false [(2, 16), (3, 24)] = 0)) ∧
    (let s := regions [region0]
     let u := seen .rd 0x10000 s
     u.home.regions.find? (fun y => decide (y.rec_ = 0x10000)) = some region0 ∧
     ctlTurn u 0x10000 u.focus = true ∧
     ownLineFault false (rdA s 1) 64 s = none ∧ spadFault s 0 false (rdA s 1) 64 [(0, 64)] = none ∧
     ((spadBytes s.core 1 ((rdA s 1).toNat % 2 ^ 20) 64).drop 36).any (fun b => decide (b ≠ 0)) = false) :=
  ⟨⟨fun _ => ⟨rfl, rfl, fun _ => rfl⟩, atHome_of_check (by decide +kernel)⟩, by decide +kernel, by decide +kernel⟩

/-- Two 64 KiB units of one stack; a gradient header at A-buffer 0 (one block). -/
def dram : State := aBuf 0 (List.replicate 0x14 0 ++ leBytes 4 1 ++ leBytes 8 0) (regS 1 0x40000 (regS 2 0x50000 (regA 1 0x100000 task)))
theorem test_meets_MemorySideCommandForms : Claims.portsFree dram ∧
    (let s := dram
     let u := (msPage .wr true (rdS s 1) s).2
     let w := (msPage .rd true (rdS s 2) u).2
     guardOk 0 0 s = true ∧ (rdS s 1).toNat % 65536 = 0 ∧ (msPage .wr true (rdS s 1) s).1 = .inr (0x40000, 0) ∧
     pkgOf 0x40000 = u.ctl.pkgNum ∧ hazardAt u.core 3 (rdS s 1).toNat ((rdS s 1).toNat + 65536) = none ∧ u.core.cm.msOut < 8 ∧ evRoom u.core = true ∧
     (rdS s 2).toNat % 65536 = 0 ∧ (msPage .rd true (rdS s 2) u).1 = .inr (0x50000, 0) ∧ pkgOf 0x50000 = w.ctl.pkgNum ∧ 0x50000 ≠ 0x40000 ∧
     stackOf (paOf 0x50000) = stackOf (paOf 0x40000) ∧ hazardAt w.core 3 (rdS s 1).toNat ((rdS s 1).toNat + 65536) = none ∧
     ¬ (onCm (fun c => { c with msOut := 8 }) u).core.cm.msOut < 8) ∧
    (let s := dram
     let h := spadBytes s.core 1 ((rdA s 1).toNat % 2 ^ 20) 64
     ownLineFault false (rdA s 1) 64 s = none ∧ spadFault s 0 false (rdA s 1) 64 [(0, 64)] = none ∧
     (h.drop 0x1E).any (fun x => decide (x ≠ 0)) = false ∧ leAt h 0x1C 2 < 2 ^ 14 ∧ 1 ≤ leAt h 0x14 4 ∧ leAt h 0x14 4 ≤ 65536 ∧ (arrivalOf h s.focus 0 s).2.1 = none ∧
     (arrivalOf h s.focus 0 s).2.2.core.cm.msOut < 8) ∧
    (let s := spaces (onCtl (fun c => { c with podcfg := 1 }) (aBuf 0 (leBytes 8 (2 ^ 30) ++ List.replicate 12 0 ++ leBytes 4 1) dram))
     let x := arrivalOf (spadBytes s.core 1 0 64) s.focus 0 s
     x.2.1 = some (2 ^ 52) ∧ deadDir x.2.2 1 = none ∧ x.2.2.core.cm.msOut < 8 ∧ evRoom x.2.2.core = true) :=
  ⟨⟨rfl, rfl, fun _ => rfl⟩, by decide +kernel, by decide +kernel, by decide +kernel⟩

/-- A job card of 8 tasks at 0x5000 with one argument of 8 values of 8 bytes at 0x6000, and in the A-buffer the record of a suspended
continuation of team 1 in pool slot 2. -/
def card1 : List Byte := leBytes 8 0x1000 ++ leBytes 8 0x5040 ++ leBytes 4 8 ++ leBytes 4 1 ++ List.replicate 40 0
def launchAt : State := inMem 0x5000 (card1 ++ leBytes 8 0x6000 ++ leBytes 8 (8 + 8 * 2 ^ 32)) (aBuf 0 (leBytes 8 0x1000 ++ leBytes 8 (2 ^ 28 + 2 * 2 ^ 12))
  (regA 1 0x5000 (regA 2 0x100000 (onDist (fun d => { d with slots := d.slots ++ [(2, { st := .suspended, team := 1, ctx := none, cont := some { cont0 with ctx := 2 }, ret := none, held := [], regs := [], posts := [] })] }) task))))
theorem logRoom_off (s : State) (t k : Nat) (h : logFree s t = none) : Claims.logRoom s t k := fun _ hm => absurd (h.symm.trans hm) (by simp)
/-- One team of two continuations fits. -/
theorem rsvFull_task {s : State} (h : s.dist.teams = [(1, team0)]) : rsvFull s = false := by
  have k : rsvFull s = decide (1024 + Config.rsvRoom s.ctl.rsvsz ≤ 3) := by
    simp only [rsvFull, h]
    rfl
  rw [k]
  exact decide_eq_false (by omega)
theorem test_meets_LaunchingForms :
    team0.ckStop = false ∧ launchAt.dist.teams = [(1, team0)] ∧ rsvFull launchAt = false ∧
    rsvFull (readArgs true 0 launchAt.core.x.ttb [] 1 0x5040 (seen .rd 0x5000 launchAt)).2 = false ∧
    (Claims.portsFree launchAt ∧ Claims.atHome .rd (rdA launchAt 1) 64 0x5000 0x13D launchAt (seen .rd 0x5000 launchAt) ∧
     (∀ k, Claims.logRoom launchAt 1 k)) ∧
    (let s := launchAt
     let u := seen .rd 0x5000 s
     let card := memBytes u.mem 0x5000 64
     let x := readArgs true u.focus s.core.x.ttb [] (leAt card 0x14 4 % 8) (leAt card 8 8) u
     guardOk 0 0 s = true ∧ s.core.ctl = false ∧ s.core.x.pl = false ∧ s.core.task.cont = some cont0 ∧ teamOf s 1 = some team0 ∧
     retired u 0x5000 = false ∧ cardBad card = false ∧ argsAway true u.focus s.core.x.ttb (leAt card 0x14 4 % 8) (leAt card 8 8) u = none ∧
     x.1 = some [(0x6000, 8, 8)] ∧ (cardOf card [(0x6000, 8)]).n = 8 ∧ freeTeam x.2 = some 0 ∧ x.2.dist = launchAt.dist ∧ podClear s = true ∧ s.core.cm.reach = [] ∧ logFree x.2 1 = none ∧
     (rdA s 1).toNat % 4 = 0 ∧ team0.conts < 2 ^ 20) ∧
    (let s := launchAt
     let rec_ := spadBytes s.core 1 ((rdA s 2).toNat % 2 ^ 20) 64
     ownLineFault false (rdA s 2) 64 s = none ∧ spadFault s 0 false (rdA s 2) 64 [(0, 64)] = none ∧ leAt rec_ 8 8 / 2 ^ 12 % 2 ^ 12 = 2 ∧
     (slotAt s 2).cont = some { cont0 with ctx := 2 } ∧ (slotAt s 2).st = .suspended ∧
     (slotAt s 2).team = (recordCont rec_ { cont0 with ctx := 2 }).team ∧ teamOf s 1 = some team0 ∧
     exposed s = false ∧ (onCp (fun c => { c with evq := [1] }) s).core.cp.evq ≠ []) :=
  ⟨by decide +kernel, rfl, rsvFull_task rfl, rsvFull_task (by decide +kernel),
   ⟨⟨rfl, rfl, fun _ => rfl⟩, atHome_of_check (by decide +kernel), fun k => logRoom_off launchAt 1 k rfl⟩, by decide +kernel, by decide +kernel⟩
/-- The last live task of a team, and one of two. -/
def susp (live : Nat) : State := onDist (fun d => { d with teams := [(1, { team0 with live := live })] }) (onIss (fun i => { i with seq := 0x1010 }) (queues queue0))
theorem test_meets_SuspensionForms : (∀ live, live ∈ [1, 2] → Claims.logRoom (drain (susp live)) 1 2) ∧
    (∀ live ∈ [1, 2], let s := susp live
     let z := drain s
     let h := hndOf (rdS s 2)
     guardOk 0 0 s = true ∧ s.core.ctl = false ∧ s.core.x.pl = false ∧ s.core.st = .run ∧ s.core.sc.loops = [] ∧
     s.core.task.cont = some cont0 ∧ teamOf s 1 = some { team0 with live := live } ∧ quiet z.core = true ∧ h.ok = true ∧ h.pkg = s.ctl.pkgNum ∧
     mfind? z.home.queues h.key = some queue0 ∧ queue0.hgen = h.hgen ∧ fld z.core.x.ttb 63 52 = queue0.asid) :=
  ⟨fun live _ => logRoom_off _ _ _ rfl, by decide +kernel⟩
/-- Core 0 before a barrier of two cores; `got` others have arrived. -/
def barAtB (got : Nat) (barp : Option (Nat × Nat × Nat)) : State := onCm (fun c => { c with barp := barp }) (onGrp (fun g => { g with bars := if got = 0 then [] else
  [{ scope := 0, team := 1, inst := 0, epi := 3, n := 2, got := got }] }) (regS 1 2 task))
theorem test_meets_BarrierForms :
    (∀ got ∈ [0, 1], let s := barAtB got none
     guardOk 0 0 s = true ∧ s.core.ctl = false ∧ (rdS s 1).toNat % 2 ^ 32 ≠ 0 ∧ (rdS s 1).toNat % 2 ^ 32 ≤ barMax 2 ∧ exposed s = false ∧
     s.core.cm.barp = none ∧ netInst s.core.num 0 = 0 ∧ (barAt s 0 (teamNum s.core) 0).got = got ∧ barRefusal s (barAt s 0 (teamNum s.core) 0) 2 = none) ∧
    (1 ≤ barMax 1 ∧ quiet (barAtB 0 none).core = true ∧ podClear (barAtB 0 none) = true) ∧
    (let s := barAtB 1 (some (0, 0, 2))
     s.core.cm.barp = some (0, 0, 2) ∧ 2 < (barAt s 0 (teamNum s.core) 0).epi ∧ ¬ 3 < (barAt s 0 (teamNum s.core) 0).epi) := by decide +kernel

/-- A meeting of two members, one word, operation 1, number 7 of quad 0; its handle. -/
def meet0 : Meet :=
  { team := 1, scope := 0, inst := 0, mnum := 7, hgen := 1, n := 2, k := 2, lag := 0, wgt := 0, op := 1, cw := 1, tile := none, t := 0,
    rs := [0, 0], as_ := [-1, -1], ontime := [], fold := [], pend := [], res := [0], resCnt := 0, resDrop := 0, resFl := 0 }
def meet1 : Meet := meet0.arrive 1 [5] []
def meets (m : Meet) (line : List Byte) : State := aBuf 0 line (onGrp (fun g => { g with meets := [m] })
  (regA 1 0x100000 (regS 2 (wd (meetHandle 0 0 0 1 7)) task)))
def meetLine (tile : Bool) : List Byte :=
  if tile then leBytes 8 (1 + 2 ^ 8 + 2 ^ 22 + 2 ^ 30) ++ leBytes 8 15 ++ leBytes 8 0x7000 else leBytes 8 (1 + 2 ^ 8 + 2 ^ 22 + 2 ^ 25)
theorem test_meets_MeetingForms : (∀ m line, Claims.portsFree (meets m line)) ∧
    (∀ tile ∈ [false, true], let s := meets meet0 (meetLine tile)
     let line := spadBytes s.core 1 ((rdA s 1).toNat % 2 ^ 20) 64
     let x := meetD (leAt line 0 8)
     guardOk 0 0 s = true ∧ s.core.ctl = false ∧ ownLineFault false (rdA s 1) 64 s = none ∧ spadFault s 0 false (rdA s 1) 64 [(0, 64)] = none ∧
     meetMalformed line (taskDet s) = false ∧ x.tile = tile ∧ freeMeets s x.sc (netInst s.core.num x.sc) ≠ []) ∧
    (let s := meets meet0 (meetLine true)
     (netPieces .wr (16 * 4 / 2 ^ 16 + 2) 0x7000 (16 * 4) [] s).1 = some [(0x7000, 64, 0)]) ∧
    (let s := meets meet0 []
     meetBad (rdS s 2) = false ∧ findMeet s (rdS s 2) = .inl meet0 ∧ meet0.refuses (rdS s 0).toNat = none ∧ (rdS s 0).toNat < meet0.n ∧
     (meet0.arrive 0 [0] []).closes = false) ∧
    (let s := meets meet1 []
     findMeet s (rdS s 2) = .inl meet1 ∧ meet1.refuses 0 = none ∧ (meet1.arrive 0 [0] []).closes = true ∧ logFull s 1 1 (96 * (1 + closesDue s 1)) = none ∧
     meet1.pend = [] ∧ ((meet1.arrive 0 [0] []).closeOf s).missing (meet1.arrive 0 [0] []) = [] ∧ podClear s = true ∧ s.core.cm.reach = []) ∧
    (let z : TileOut := ⟨16, [(0x7000, 64, 0)]⟩
     let m := { meet0 with tile := some z, cw := 0 }.arrive 1 [] [(2 ^ 52, 64, 0)]
     let s := onCtl (fun c => { c with podcfg := 1 }) (meets m (leBytes 8 0x7000))
     findMeet s (rdS s 2) = .inl m ∧ m.op ≠ 0 ∧ m.refuses 0 = none ∧ m.tile = some z ∧
     (netPieces .rd (z.n * 4 / 2 ^ 16 + 2) (leAt (spadBytes s.core 1 0 64) 0 8) (z.n * 4) [] s).1 = some [(0x7000, 64, 0)] ∧
     (let m' := m.arrive 0 [] [(0x7000, 64, 0)]
      m'.closes = true ∧ (m'.closeOf s).missing m' = [(2 ^ 52, 64, 0)] ∧ deadDir s (pkgOf (2 ^ 52)) = none)) ∧
    (let m := { meet0 with t := 1 }
     let s := meets m []
     findMeet s (rdS s 2) = .inl m ∧ m.met (rdS s 0) = true ∧ ownLineFault true (rdA s 1) 64 s = none ∧
     spadFault s 0 true (rdA s 1) 64 [(0, 64)] = none ∧
     hazardAt s.core 1 ((rdA s 1).toNat % 2 ^ 20) ((rdA s 1).toNat % 2 ^ 20 + 64) = none) ∧
    (let m := { meet0 with t := 1, op := 0, cw := 0 }
     findMeet (meets m []) (rdS (meets m []) 2) = .inl m ∧ m.met 0 = true) :=
  ⟨fun _ _ => ⟨rfl, rfl, fun _ => rfl⟩, by decide +kernel, by decide +kernel, by decide +kernel, by decide +kernel, by decide +kernel, by decide +kernel, by decide +kernel⟩

theorem test_meets_TrapAndBreakEnterTheHandler : guardOk 0 0 base = true ∧ (base.core.x.pl = true → base.core.x.ack = true) ∧ base.core.iss.slot = 0 ∧
    (supv base).core.x.pl = true ∧ (supv base).core.x.ack = true := by decide +kernel
theorem test_meets_HandlerEntry : base.core.x.pl = false ∧ (supv base).core.x.pl = true ∧ (supv base).core.x.ack = true := by decide +kernel
theorem test_meets_DoubleFault : let s := onX (fun x => { x with ack := false }) (supv base)
    s.core.x.pl = true ∧ s.core.x.ack = false := by decide +kernel
/-- Causes with and without the bit that makes the return take the next pc, at slot 3 and at slot 14. -/
theorem test_meets_ReturnFromTheHandler : guardOk 0 0 (supv base) = true ∧ (supv base).core.ctl = false ∧ (supv base).core.x.pl = true ∧
    base.core.x.pl = false ∧
    (∀ c ∈ [0x00012, 0x10012, 0x20012], ∀ k ∈ [3, 14], let s := onX (fun x => { x with cause := wd c, xslot := wd k, ppl := decide (k = 3) }) (supv base)
      s.core.x.pl = true ∧ fld (drain s).core.x.xslot 3 0 = k ∧ (drain s).core.x.ppl = decide (k = 3)) := by decide +kernel
theorem test_meets_InvalidationForms : guardOk 0 0 (supv base) = true ∧ exposed (supv base) = false ∧ (supv base).core.cp.cmds = [] ∧
    podClear (supv base) = true ∧ (supv base).core.x.pl = true ∧ base.core.x.pl = false := by decide +kernel
theorem test_meets_SpecialRegisterMoves : guardOk 0 0 base = true ∧
    (∀ i ∈ [0x000, 0x00B, 0x010, 0x015, 0x020, 0x038], Machine.srListed base.core.ctl i = true ∧ (supv base).core.x.pl = true) ∧
    Machine.srListed base.core.ctl 0x010 = true ∧ srSupRead 0x010 = false ∧ srSupWrite 0x010 = false ∧ Machine.srListed base.core.ctl 0x00C = false ∧
    srSupRead 0x001 = true ∧ srSupWrite 0x001 = true ∧ base.core.x.pl = false ∧
    fld (rdS (regS 2 0x010 base) 2) 15 0 = 0x010 ∧ fld (rdS (regS 2 0x00C base) 2) 15 0 = 0x00C := by decide +kernel
/-- Measurement and capture areas of 16 granules per stack, for ASID 0. -/
def areas : State := onCtl (fun c => { c with meas := (List.range 8).map (fun k => (areaKey 0 k, ⟨k * 2 ^ 36 + 2 ^ 20, 16⟩)), caps := (List.range 8).map (fun k => (areaKey 0 k, ⟨k * 2 ^ 36 + 2 ^ 21, 16⟩)) }) task
/-- A pass of team 1 is open on every stack; stack 0 has captured the granules at 0x5000 and 0x7000. -/
def pass0 : Win := { caps := [(0x5000, 0), (0x7000, 1)], broken := false, lines := [], digest := 0, accs := [], logs := [] }
def opened (b : Bool) (r : Option Word) (s : State) : State :=
  onHome (fun h => { h with mwins := (List.range 8).map (fun k => (winKey 1 k, if k = 0 then pass0 else { pass0 with caps := [] })) })
    (onCore (fun c => { c with pm := { c.pm with open_ := true, refp := b, ref_ := r } }) s)
theorem test_meets_CounterForms :
    (∀ s ∈ [task, areas, opened false none areas], let z := drain s
     guardOk 0 0 s = true ∧ exposed s = false ∧ s.core.x.pl = false ∧ s.core.ctl = false ∧ quiet z.core = true ∧ teamNum z.core = 1 ∧
     (rdS s 0).toNat < 2 ∧ (rdS (regS 1 1 s) 1).toNat < 2) ∧
    (let z := drain task
     z.core.pm.open_ = false ∧ mfind? z.ctl.meas (areaKey (teamAsid z 1) 0) = none) ∧
    (let z := drain areas
     z.core.pm.open_ = false ∧ (∀ k, k < 8 → (mfind? z.ctl.meas (areaKey (teamAsid z 1) k)).isSome = true ∧ mfind? z.home.mwins (winKey 1 k) = none)) ∧
    (let z := drain (onCore (fun c => { c with pm := { c.pm with open_ := false } }) (opened false none areas))
     z.core.pm.open_ = false ∧ (mfind? z.home.mwins (winKey 1 0)).isSome = true) ∧
    (∀ k ∈ [0, 1], ∀ b ∈ [false, true], let r : Option Word := if k = 0 then none else some 1
     let z := drain (opened b r areas)
     quiet z.core = true ∧ z.core.pm.open_ = true ∧ z.core.pm.ref_ = r ∧ z.core.pm.refp = b) := by decide +kernel
theorem passClear_of_check {z : State} {ws : List (Nat × Win)} {area : Nat → Option CapArea} {x : Nat}
    (h : (!z.ctl.caps.any (fun p => decide (own z p.2.base ≤ x ∧ x < own z p.2.base + cdiv (8 * p.2.n) 4096 * 4096 + 4096 * p.2.n)) &&
      ws.all (fun p => p.2.caps.all (fun c => (area p.1).all (fun ar => decide (x < own z (ar.base + 8 * c.2) ∨ own z (ar.base + 8 * c.2) + 8 ≤ x))))) = true) :
    Claims.passClear z ws area x := by
  simp only [Bool.and_eq_true, Bool.not_eq_true', List.all_eq_true, Option.all_eq_true, decide_eq_true_eq] at h
  exact ⟨h.1, fun p hp c hc ar ha => h.2 p hp c hc ar ha⟩
/-- The last byte of a captured granule of the pass, where its bytes were kept, and a byte in none. -/
theorem test_meets_CounterForms_mend : let z := drain (opened false none areas)
    let area := fun (k : Nat) => mfind? z.ctl.meas (areaKey (teamAsid z 1) k)
    let ws := (List.range 8).filterMap (fun k => (mfind? z.home.mwins (winKey 1 k)).map (fun w => (k, w)))
    let ar : CapArea := ⟨2 ^ 20, 16⟩
    let src := own z (ar.data + 4096 * 1) + 4095
    (Claims.passClear z ws area (0x7000 + 4095) ∧ Claims.passClear z ws area src ∧ Claims.passClear z ws area 0x9000) ∧
    (0, pass0) ∈ ws ∧ (0x7000, 1) ∈ pass0.caps ∧ area 0 = some ar ∧ inLog z (lineOf (0x7000 + 4095)) = false ∧
    (∀ p ∈ ws, ∀ c ∈ p.2.caps, (c.1 ≤ 0x7000 + 4095 → 0x7000 + 4095 < c.1 + 4096 → p = (0, pass0) ∧ c = (0x7000, 1)) ∧ (src < c.1 ∨ c.1 + 4096 ≤ src) ∧
      (0x9000 < c.1 ∨ c.1 + 4096 ≤ 0x9000)) :=
  ⟨⟨passClear_of_check (by decide +kernel), passClear_of_check (by decide +kernel), passClear_of_check (by decide +kernel)⟩, by decide +kernel⟩
/-- A phase list of one range (buffer and agent as the word says), in the A-buffer. -/
def group0 : Group := { num := 3, mems := [(0, 1), (1, 9)], subs := [(0, 4, 7), (1, 4, 7)], again := [], done := [] }
def phases (w : Nat) : State := aBuf 0 (leBytes 8 w) (onGrp (fun g => { g with groups := [(1, group0)] }) (regS 2 4 (regA 1 0x100000 task)))
/-- 64 pending values, each on a node with a leaf of its own: the region checker is full. -/
def full : State := onTh (fun t => { t with
  nodes := (List.range 64).map (fun i => { node5 with seq := i, srcs := [.leaf (td (0x100000 + 0x400 * i) 4 4 16 0) fp32Word] }), tv := (List.range 64).map (fun i => (i, ⟨.pend i, none⟩)) }) task
theorem test_meets_ReplayForms : (∀ w, Claims.portsFree (phases w)) ∧
    (∀ w ∈ [0x90, 0xB0 + 2 ^ 44 * (bufSize 1 - 1)], let s := phases w
     let line := spadBytes s.core 1 ((rdA s 1).toNat % 2 ^ 20) 64
     let es := (List.range 8).map (fun i => leAt line (8 * i) 8)
     let rs := es.filterMap phaseEnt
     guardOk 0 0 s = true ∧ s.core.ctl = false ∧ exposed s = false ∧ quiet s.core = true ∧ ownLineFault false (rdA s 1) 64 s = none ∧
     spadFault s 0 false (rdA s 1) 64 [(0, 64)] = none ∧ es.any phaseEntBad = false ∧ phaseDispute rs = none ∧ rs.length = 1 ∧
     phaseRoom s.core rs = true) ∧
    phaseRoom full.core [{ buf := 2, lo := 0, hi := 1, agent := 0, wr := true }] = false ∧
    (let s := phases 0
     groupOf s (teamNum s.core) = some group0 ∧ { group0 with done := [(4, 0)] }.outcome ((rdS s 2).toNat % 2 ^ 32) = some 0 ∧
     groupOf base (teamNum base.core) = none) := ⟨fun _ => ⟨rfl, rfl, fun _ => rfl⟩, by decide +kernel, by decide +kernel, by decide +kernel⟩
theorem test_meets_CheckpointForm : let s := areas
    let v := drain (onTeam 1 (fun y => { y with ckBusy := some s.focus }) s)
    let z := onTeam 1 (fun y => { y with ckStop := true }) v
    guardOk 0 0 s = true ∧ s.core.ctl = false ∧ s.core.x.pl = false ∧ exposed s = false ∧ s.core.sc.loops = [] ∧ s.core.pm.open_ = false ∧
    s.core.task.cont = some cont0 ∧ teamOf s 1 = some team0 ∧ team0.ckBusy = none ∧ (areaStacks s team0.asid).length = 8 ∧ quiet z.core = true ∧
    (coresOf z 1).filter (fun c => decide (c ≠ z.focus)) = [] ∧ teamHolds z 1 = false := by decide +kernel
/-- A descriptor in the A-buffer: kinds of data `dt`, `p` members, 128 bytes or none. -/
def collLine (dt p len : Nat) : State := aBuf 0 (leBytes 8 dt ++ leBytes 8 0x10000 ++ leBytes 8 0x20000 ++ leBytes 8 len ++ leBytes 8 0x30000 ++ leBytes 4 0 ++ leBytes 4 p)
  (regA 1 0x100000 task)
theorem test_meets_CollectiveForms : (∀ dt p len, Claims.portsFree (collLine dt p len)) ∧
    (∀ x ∈ [(0, 0, 2, 128), (1, 2, 2, 128), (2, 0, 2, 128), (3, 2, 0, 128), (4, 2, 0, 128), (3, 2, 0, 0)],
     let s := collLine x.2.1 x.2.2.1 x.2.2.2
     let desc := spadBytes s.core 1 ((rdA s 1).toNat % 2 ^ 20) 128
     let z := clAll (!s.core.x.pl) (clRanges s x.1 desc) [] s
     guardOk 0 0 s = true ∧ s.core.ctl = false ∧ ownLineFault false (rdA s 1) 128 s = none ∧ spadFault s 0 false (rdA s 1) 128 [(0, 128)] = none ∧
     clBad s x.1 desc = false ∧ (match z.1 with | .inr m => !m.any (fun y => decide (pkgOf (y.2 / 8 * 2 ^ 16) ≠ z.2.ctl.pkgNum)) | _ => false) = true ∧
     z.2.core.cm.colOut < 8 ∧ z.2.net.colls.length < 256 ∧ evRoom z.2.core = true ∧ ¬ (onCm (fun c => { c with colOut := 8 }) z.2).core.cm.colOut < 8) :=
  ⟨fun _ _ _ => ⟨rfl, rfl, fun _ => rfl⟩, by decide +kernel⟩

def withCmds (ks : List CopyCmd) (s : State) : State := onCp (fun c => { c with cmds := ks }) s
/-- The command of a descriptor in the A-buffer. -/
def cmdOf (s : State) : CopyCmd := let d := spadBytes s.core 1 0 128
  { newCmd .cpy 1 s with desc := d, fs := ftabWord s (cdOf d).fs, fd := ftabWord s (cdOf d).fd }
/-- Loads a command of one line to the A-buffer, or reads an address without a translation. -/
def cpyOk : State := withCmds [cmdOf (copyAt 0x100200)] (copyAt 0x100200)
def cpyBad : State := let s := aBuf 0 (leBytes 8 0x40000 ++ leBytes 8 0x40000000) (copyAt 0x100200)
  withCmds [cmdOf s] s
def q1 : Queue := { queue0 with ents := [List.replicate 64 7] }
theorem test_meets_CoreClockSteps :
    (base.ctl.halted = false ∧ base.core.st = .run ∧ base.core.iss.from_ = 0 ∧ homing base = false ∧ (lookOut base).isNone = true) ∧
    (let s := onEv (fun e => { e with late := [⟨9, 0, 0, 0, 3, 0, 0⟩] }) base
     s.ctl.halted = false ∧ s.core.st = .run ∧ homing s = false ∧ (lookOut s).isSome = true) ∧
    unanswered base = false ∧
    (let s := onX (fun x => { x with mode := 0 }) (onCm (fun c => { c with ans := [(1, 5)] }) base)
     unanswered s = true ∧ exposed s = true ∧ homing s = false ∧ issuesExposed s = true) ∧
    issuesExposed (emit 2 (.s 1 5) base) = false ∧
    homing (onCm (fun c => { c with due := 1 }) base) = true ∧
    (State.reset.ctl.halted = false ∧ State.reset.core.st ≠ .run ∧ State.reset.core.st ≠ .handler) ∧
    (emit 2 (.s 1 5) base).core.pend ≠ [] ∧ (onMx (fun m => { m with flight := [{ land := 9, arrayTill := 0, drainTill := 0, planeTill := [], reads := [], writes := [], ports := [], out := [], plane := [], hist := [], isH := false, flags := 0 }] }) base).core.mx.flight ≠ [] ∧
    (let s := onX (fun x => { x with wdogr := wd (2 ^ 32 + 5) }) base
     s.core.st = .run ∧ s.core.x.pl = false ∧ fld s.core.x.wdogr 63 32 = 1) ∧
    (let s := onEv (fun e => { e with ccreq := some 1, reqAge := 65536 }) base
     s.core.st = .run ∧ s.core.x.pl = false ∧ s.core.iss.from_ = 0 ∧ s.core.ev.fpx = none ∧ leavable s.core = true ∧ forcedDue s.core = true ∧
     (boundary s).isSome = true) ∧
    (let s := onEv (fun e => { e with wdog := true, wdogAge := 65536 }) base
     s.core.ev.fpx = none ∧ leavable s.core = true ∧ forcedDue s.core = true ∧ (drain s).core.ev.fpx = none ∧ (drain s).core.x.pl = false ∧
     (drain s).core.x.pp = false ∧ (drain s).core.ev.late = [] ∧ (drain s).core.ev.wdog = true) ∧
    (let s := onEv (fun e => { e with stopped := true }) (onX (fun x => { x with pp := true }) base)
     s.core.st = .run ∧ s.core.x.pl = false ∧ s.core.iss.from_ = 0 ∧ s.core.ev.fpx = none ∧ leavable s.core = true ∧ s.core.x.pp = true ∧
     s.core.ev.stopped = true ∧ (drain s).core.ev.fpx = none ∧ (drain s).core.x.pl = false ∧ (drain s).core.x.pp = true ∧ preMay s = true) ∧
    (let s := onEv (fun e => { e with ppAge := 65536 }) (onX (fun x => { x with pp := true }) base)
     forcedDue s.core = true ∧ preMay s = true) ∧
    (let s := onCore (fun c => { c with st := .save }) task
     s.core.st = .save ∧ saveReady s.core = true ∧ s.core.task.cont = some cont0 ∧ teamOf s 1 = some team0) ∧
    (0 < 1024 ∧ (coreAt (onCore (fun c => { c with st := .dhalt }) base) 0).st = .dhalt) := by decide +kernel
/-- The record in `recMem`. -/
def rec0 : RRec :=
  { ctrl := 15 * 2 ^ 16 + 15 * 2 ^ 32, cols := 16, rows := 16, eng := 0, mxc := false, adam := false, mwb := 0x20000, m1b := 0x20400, m2b := 0,
    mxeb := 0, mxsb := 0, mxfw := 0, ssh := 0, tagb := 0x20800, winb := 0x30000 }
/-- A gradient for all of region `region0`, staged by a collective. -/
def arr0 : Arr :=
  { rec_ := some 0x10000, core := none, coll := some 0, grad := 0, pages := [], data := some (List.replicate 1024 1), bad := false,
    blk0 := 0, nblk := 1, seq := 1, src := 0, run := none, ctl := none }
def dramCmd : DramCmd := { core := 0, tag := 1, dst := 0x40000, src := none, team := 1, va := 0x40000, pc := 0, cls := 0, written := false }
/-- A force of node 5, whose source is tile 3, and of one whose source has no translation (a TACT node). -/
def force (x : TSrc) : State := onTh (fun t => { t with arenaA := wd (1 + 256 * 2 + 64 * 2 ^ 11), nodes := [{ node5 with srcs := [x], word := tileWord 0x15 0 0 1 0x43 0 }], reqs := [{ newReq 0 thunks.core thunks with src := .node 5, rows := 4, cols := 4, todo := [(0, 0)], total := 1 }] }) thunks
def notice0 : Notice := { h := 1, bs := [], asid := 0, team := none, sent := false }
theorem test_meets_EngineSteps_copy :
    (let s := cpyOk
     let k := cmdOf (copyAt 0x100200)
     s.core.cp.cmds = k :: [] ∧ k.held = false ∧ k.kind = .cpy ∧ (cdOf k.desc).empty = false ∧ srcWaits k s = false ∧
     (match startCmd k [] s with
      | (.inr k', t) => (match k'.out with | o :: _ => (match landLine k' o t with | .done _ _ _ => !(cdOf k'.desc).nb && chunkOf k' o == some 0 && k'.out.length == 1 | _ => false) | [] => false)
      | _ => false) = true) ∧
    (let s := spaces (onCtl (fun c => { c with podcfg := 1 }) (aBuf 0 (leBytes 8 0x80000) (copyAt (2 ^ 30))))
     match startCmd (cmdOf s) [] s with
      | (.inr k', t) => (match k'.out with | o :: _ => (match landLine k' o t with | .sent _ _ => true | _ => false) | [] => false)
      | _ => false) = true ∧
    (let k := { newCmd .cpyq 0 base with started := true, out := [⟨0, 0, 0, 0, [], 0⟩] }
     (withCmds [k] base).core.cp.cmds = [k] ∧ k.kind = .cpyq ∧ k.started = true ∧ k.out ≠ [] ∧ k.held = false ∧
     { k with out := [] }.notice = none ∧ k.sent = []) ∧
    (let k := { cmdOf (copyAt 0x100200) with started := true }
     k.kind = .cpy ∧ k.started = true ∧ k.out = [] ∧ k.sent = [] ∧ k.held = false ∧ k.far = [] ∧
     (match storeDigest k (withCmds [k] cpyOk) with
      | .done z _ _ => !(z.net.pkts.any (fun p => match p.req with | .tell c n a _ => decide (c = z.focus ∧ n = kPublish ∧ a = z.focus) | _ => false))
      | _ => false) = true) ∧
    (headFault (cmdOf (aBuf 0 (leBytes 8 0x40000 ++ leBytes 8 0x40000000) (copyAt 0x100200))) [] cpyBad).isSome = true ∧
    (let k := { newCmd .cpyq 0 base with arg := wd (2 ^ 63 + 2 ^ 10 + 5) }
     let s := withCmds [k] (queues q1)
     let h := hndOf k.arg
     k.held = false ∧ k.started = false ∧ h.ok = true ∧ h.pkg = s.ctl.pkgNum ∧ (qPop ⟨k.sup, fld k.ttb 63 52⟩ h s).1 = 0) ∧
    { newCmd .cpyq 0 base with notice := some (1, []) }.notice.isSome = true ∧
    [notice0].find? (fun n => !n.sent) = some notice0 := by decide +kernel
theorem test_meets_EngineSteps_teasel :
    (let u := teaselNorm (force (.leaf leaf3.1 leaf3.2))
     (match u.core.th.reqs with | r :: _ => !r.held && (match teaselUnit r [] u with | .did _ => true | _ => false) | [] => false) = true) ∧
    (let s := onTh (fun t => { t with reqs := [newReq 0 thunks.core thunks] }) thunks
     (match (teaselNorm s).core.th.reqs with | r :: _ => !r.held && r.pre.isEmpty && r.todo.isEmpty && r.region.isNone && r.far.isEmpty | [] => false) = true ∧ (teaselNorm s).net.pkts = []) ∧
    (let z : BitVec 256 × W32 := leaf3
     let s := onTh (fun t => { t with tv := [(7, ⟨.pend 5, some z⟩)], reqs := [{ newReq 2 thunks.core thunks with src := .node 5, tv := 7, region := some z, preSet := true, planned := true }] }) thunks
     (match (teaselNorm s).core.th.reqs with
      | r :: _ => r.kind == 2 && !r.held && r.pre.isEmpty && r.todo.isEmpty && r.region == some z && r.planned && r.out.isEmpty && r.sent.isEmpty && r.src == .node 5 && r.tv == 7
      | [] => false) = true ∧ tvOf (teaselNorm s).core 7 = ⟨.pend 5, some z⟩) ∧
    (let u := teaselNorm (force (.leaf (td 0x40000000 4 4 16 0 ||| BitVec.ofNat 256 (2 ^ 223)) fp32Word))
     (match u.core.th.reqs with | r :: _ => !r.held && (match teaselUnit r [] u with | .bad _ _ => true | _ => false) | [] => false) = true) := by
  decide +kernel
theorem recMem_above (a : Nat) (h : 0x10042 < a) : memByte recMem a = 0 := by
  simp only [memByte, recMem, mget]
  repeat rw [if_neg (by omega)]
theorem window_empty : inWindow (onHome (fun h => { h with arrivals := [arr0] }) (regions [region0])) region0 rec0 arr0 = false := by
  refine List.any_eq_false.mpr fun k hk => ?_
  have hk : k < 4096 := List.mem_range.mp hk
  have hp : region0.phys (rec0.winb + 8 * k) = 0x30000 + 8 * k := by
    have h3 : (0x30000 + 8 * k) / 2 ^ 16 = 3 := by omega
    show mget 0 region0.pages ((0x30000 + 8 * k) / 2 ^ 16) / 8 * 2 ^ 16 + (0x30000 + 8 * k) % 2 ^ 16 = _
    rw [h3]
    show 24 / 8 * 2 ^ 16 + (0x30000 + 8 * k) % 2 ^ 16 = _
    omega
  have hz : ∀ i, memByte recMem (0x30000 + 8 * k + i) = 0 := fun i => recMem_above _ (by omega)
  have hv : regNat (onHome (fun h => { h with arrivals := [arr0] }) (regions [region0])) region0 (rec0.winb + 8 * k) 8 = 0 := by
    show memNat recMem (region0.phys (rec0.winb + 8 * k)) 8 = 0
    rw [hp]
    simp only [memNat, memBytes, hz]
    rfl
  rw [hv]
  decide
/-- An object bound to the first line of the region's weights, held by core 0. -/
def objW : Obj := { obj0 (.excl ⟨1, 1, some 0⟩) with ranges := [⟨0x20000, 64, [(0x20000, 64)]⟩] }
theorem test_meets_EngineSteps_homes :
    (let w := { wait0 with due := some (List.replicate 64 7) }
     let s := queues { queue0 with waits := [w] }
     mfind? s.home.queues 5 = some { queue0 with waits := [w] } ∧ nextDue (fun _ => true) { queue0 with waits := [w] } = some w ∧ isFar 0 = false ∧ w.who.core = some 0 ∧ w.due.isSome = true) ∧
    (let s := onHome (fun h => { h with arrivals := [arr0] }) base
     s.home.arrivals[0]? = some arr0 ∧ arr0.ctl = none ∧ arr0.rec_.bind (fun a => s.home.regions.find? (fun g => decide (g.rec_ = a))) = none ∧
     (s.home.arrivals.take 0).any (fun y => decide (y.rec_ = arr0.rec_) && arr0.rec_.isSome) = false) ∧
    (let s := onHome (fun h => { h with dram := [dramCmd] }) base
     s.home.dram[0]? = some dramCmd ∧ dramRefused s dramCmd = false ∧ dramRefused (onCtl (fun c => { c with retired := [4] }) s) dramCmd = true) ∧
    (let s := onHome (fun h => { h with arrivals := [arr0] }) (regions [region0])
     let c := rec0
     recAt s.mem 0x10000 = rec0 ∧ s.home.arrivals[0]? = some arr0 ∧ s.home.regions.find? (fun z => decide (z.rec_ = 0x10000)) = some region0 ∧ arr0.run = none ∧ arr0.ctl = none ∧
     arrRefused s region0 c arr0 [] = false ∧ arrRefused s region0 c { arr0 with bad := true } [] = true ∧
     (engAcqAll (regHolder region0) (regObjs (acceptArr region0 c arr0 [] s).2 region0) (acceptArr region0 c arr0 [] s).2).1 = true ∧
     (let z := acceptArr region0 c arr0 [] s
      (nextBlock region0 c z.1 ⟨0, 0, [], flNone⟩ z.2).map (fun p => p.1.done) = some 1)) ∧
    (let s := onHome (fun h => { h with objs := [objW] }) (regions [region0])
     arrRefused s region0 rec0 arr0 [] = false ∧ (engAcqAll (regHolder region0) (regObjs s region0) s).1 = false) := by decide +kernel
/-- The same {SRC, SEQ} as an entry of the window. -/
theorem test_meets_EngineSteps_window : inWindow (regions [region0]) region0 rec0 { arr0 with seq := 0 } = true :=
  List.any_eq_true.mpr ⟨0, List.mem_range.mpr (by decide), by decide +kernel⟩

/-- Every core is spoken for. -/
def allSpoken : List (Nat × Cont) := (List.range 1024).map (fun i => (i, cont0))
def busy : State := onDist (fun d => { d with toDo := allSpoken }) task
theorem busy_toDo : busy.dist.toDo = allSpoken := by simp only [busy, onDist]
theorem spoken (n k : Nat) (h : k ∈ List.range n) : ((List.range n).map (fun i => (i, cont0))).any (fun p => decide (p.1 = k)) = true :=
  List.any_eq_true.mpr ⟨(k, cont0), List.mem_map.mpr ⟨k, h, rfl⟩, decide_eq_true rfl⟩
theorem busy_none_free : (List.range 1024).any (coreFree busy) = false := by
  refine List.any_eq_false.mpr fun k hk => ?_
  have h := spoken 1024 k hk
  unfold coreFree
  rw [busy_toDo]
  unfold allSpoken
  rw [h, Bool.not_true, Bool.and_false, Bool.false_and]
  exact Bool.false_ne_true
/-- Core 1 free, nothing placed, and team 1 as given. -/
def pickS (x : Team) : State := onDist (fun d => { d with teams := [(1, x)], pool := some (2 ^ 30, 4) }) base
/-- What leads a pick with a core free to team 1 at level 0, to quad 64 of die 1 and its first core. -/
def pickMeets (x : Team) : Bool :=
  let z := pickS x
  z.dist.quadq.isEmpty && coreFree z 1 && decide (pickLevel z (fun p => (bestQuad z p.2.card.gang).isSome) = some (0, [1])) &&
  decide (nextTeamOf (mget 4096 z.dist.rr 0) [1] = some 1) && decide (teamOf z 1 = some x) && decide (bestQuad z x.card.gang = some 64) &&
  decide (freeOfQuad z 64 = some 256) && x.ready.all (fun m => decide (m.team = 1)) && dealRoom z 1 x
def ready1 : Cont := { cont0 with fresh := false }
def four : List Cont := (List.range 4).map (fun i => { ready1 with idx := i })
theorem test_meets_DistributorSteps_pick :
    (let x := { team0 with ready := [ready1] }
     pickMeets x = true ∧ firstReady x.card.det (readyAt (pickS x) x 0) = some ready1) ∧
    (let x := { team0 with card := { card0 with gang := true }, ready := four }
     pickMeets x = true ∧ (firstReady x.card.det (readyAt (pickS x) x 0)).isSome = true ∧ (gangOf ready1 (readyAt (pickS x) x 0)).length = 4) ∧
    (∀ gang ∈ [false, true], ∀ fixed ∈ [0, 1], let x := { team0 with card := { card0 with gang := gang, deal := fixed, e0 := 1 }, nextIdx := 0 }
     pickMeets x = true ∧ readyAt (pickS x) x 0 = [] ∧ x.card.fixed = decide (fixed = 1) ∧ x.units ≠ []) := by decide +kernel
theorem test_meets_DistributorSteps : (busy.dist.quadq = [] ∧ (List.range 1024).any (coreFree busy) = false) ∧
    (let s := onDist (fun d => { d with toDo := [(5, { cont0 with ctx := 0 })] }) task
     s.ctl.run = true ∧ s.dist.toDo.find? (fun p => decide (p.1 = 5)) = some (5, { cont0 with ctx := 0 }) ∧ teamOf s 1 = some team0 ∧
     (coreAt s 5).st = .idle ∧ team0.ckStop = false ∧ (takeSlot cont0 s).1 = some 1 ∧ freeSlots s ≠ []) ∧ 3 < 4 :=
  ⟨⟨rfl, busy_none_free⟩, by decide +kernel, by decide⟩
/-- A pod of 2 by 1 by 1 packages; a flit with its CRC. -/
def pod : State := onCtl (fun c => { c with podcfg := 1 }) base
def flit (ty seq ans : Nat) : List Byte := let b := leBytes 2 (seq + ty * 2 ^ 12) ++ leBytes 2 ans ++ List.replicate 56 0; b ++ leBytes 4 (crc32c b)
def flit0 : Flit := { seq := 0, ref := ⟨0, 1, 3, false⟩, bytes := [], again := false }
def link0 : Link := { st := 0, tx := 2, rx := 7, pos := 7, nak := false, unack := [flit0, { flit0 with seq := 1 }], retry := 0, efail := 0, replies := [], inb := [[0], [1]] }
def pkt0 : Pkt := { dst := 1, eseq := 3, first := 0, last := 0, again := 0, via := some 0, req := .store 0 0 (2 ^ 52) [1] none }
def pkt1 : Pkt := { pkt0 with eseq := 4, req := .ask 0 0 1 (2 ^ 52) [] }
def coll0 (at_ st : Nat) : Coll :=
  { id := 0, core := 0, team := 1, slot := 1, sup := false, kind := 3, tag := 0, desc := leBytes 8 2 ++ List.replicate 16 0 ++ leBytes 8 64, pages := [],
    ring := [1], at_ := at_, status := st, flags := 0, bytes := 0, notes := [[]], data := none }
theorem test_meets_TorusSteps_links : let s := putLink 0 link0 pod
    (linkAt s 0).st = 0 ∧ (∀ ty ∈ [1, 2, 3, 4], flitGood (flit ty 7 1) = true ∧ flitType (flit ty 7 1) = ty ∧ flitSeq (flit ty 7 1) = (linkKept s 0).rx) ∧
    (∀ q ∈ [6, 8], flitGood (flit 1 q 1) = true ∧ flitType (flit 1 q 1) = 1 ∧ flitSeq (flit 1 q 1) ≠ (linkKept s 0).rx) ∧
    2048 ≤ (flitSeq (flit 1 6 1) + 4096 - (linkKept s 0).rx) % 4096 ∧ (flitSeq (flit 1 8 1) + 4096 - (linkKept s 0).rx) % 4096 < 2048 ∧ (linkKept s 0).nak = false ∧
    (flitSeq (flit 1 8 1) + 4096 - { link0 with pos := 8, nak := true }.pos) % 4096 < 2048 ∧
    (linkKept s 0).unack.dropWhile (fun z => decide (z.seq ≠ flitAns (flit 3 7 1))) = [{ flit0 with seq := 1 }] ∧ (linkKept s 0).retry + 1 + 1 < 65536 ∧
    (linkAt (putLink 0 { link0 with st := 1 } pod) 0).st = 1 := by decide +kernel
/-- Whatever packages a marker's payload names, there is a package it is for, and one of the pod that hands it on. -/
def markPod (h : Nat) : State := onCtl (fun c => { c with pkgNum := 1 - h % 2 }) pod
theorem routeDirs_markPod (h : Nat) : routeDirs (markPod h) (1 - h % 2) h = [0] := by
  have hp : (markPod h).ctl.podcfg = 1 := rfl
  have e0 : extentOf (markPod h) 0 = 2 := by rw [extentOf, hp]; decide
  have e1 : extentOf (markPod h) 1 = 1 := by rw [extentOf, hp]; decide
  have e2 : extentOf (markPod h) 2 = 1 := by rw [extentOf, hp]; decide
  have hq : recov (markPod h) = false := by rw [recov, hp]; decide
  have hc : (coordOf h 0 + 2 - coordOf (1 - h % 2) 0 % 2) % 2 = 1 := by simp only [coordOf, if_true]; omega
  simp only [routeDirs, show List.range 3 = [0, 1, 2] from rfl, List.flatMap_cons, List.flatMap_nil, e0, e1, e2, hc, hq, Nat.mod_one]
  rfl
theorem test_meets_TorusSteps_markers (a h : Nat) : h ≠ (markPod h).ctl.pkgNum ∧ ∃ j v, chooseLink (putLink 0 link0 (markPod h)) a h = (some j, v) := by
  refine ⟨fun e => ?_, ?_⟩
  · replace e : h = 1 - h % 2 := e
    omega
  · have hr : routeDirs (putLink 0 link0 (markPod h)) (putLink 0 link0 (markPod h)).ctl.pkgNum h = [0] := routeDirs_markPod h
    have hp : (putLink 0 link0 (markPod h)).ctl.podcfg = 1 := rfl
    have hq : recov (putLink 0 link0 (markPod h)) = false := by rw [recov, hp]; decide
    have e0 : extentOf (putLink 0 link0 (markPod h)) 0 = 2 := by rw [extentOf, hp]; decide
    have la : ∀ i, i < 2 → linkAbsent (putLink 0 link0 (markPod h)) i = false := fun i hi => by
      have : i / 4 = 0 := by omega
      have : i / 2 = 0 := by omega
      simp [linkAbsent, *]
      omega
    have l0 : (linkAt (putLink 0 link0 (markPod h)) 0).st = 0 := by simp only [linkAt, la 0 (by omega)]; rfl
    have l1 : (linkAt (putLink 0 link0 (markPod h)) 1).st = 0 := by simp only [linkAt, la 1 (by omega)]; rfl
    simp only [chooseLink, usable, hr, hq]
    rcases Nat.mod_two_eq_zero_or_one (a + h) with e | e <;> simp [e, l0, l1]
/-- The first packet of package 1 that this one performed had ESEQ 9; 11 waits for older ones. -/
def seen1 : Seen := { low := 10, more := [], wait := [(11, 0, 193)], eng := [9] }
theorem test_meets_TorusSteps_packets : let s := onNet (fun n => { n with pkts := [pkt0, pkt1] }) (putLink 0 link0 { pod with time := 131072 })
    (0 < 1 ∧ 1 + 1 ≤ (linkKept s 0).inb.length ∧ s.ctl.pkgNum ≠ 1) ∧ mfind? s.net.seen 1 = none ∧
    (∀ r ∈ [PktReq.store 0 0 0x3000 [1] none, .ask 0 0 1 0x3000 (List.replicate 17 0), .grad 0 0 1 1 1 [], .other], (farReq 1 r s).isSome = true ∧
      (Seen.new.put 0).behind 0 (((reqLine r).map (· + 1)).getD 0) s.time s.time = false) ∧
    (let t := onNet (fun n => { n with seen := [(1, seen1)], acks := [(1, 9, 0, 0)] }) s
     mfind? t.net.seen 1 = some seen1 ∧ seen1.had 9 = true ∧ seen1.eng.contains 9 = true ∧ everyCopy .other = false ∧ everyCopy (.grad 0 0 1 1 1 []) = true ∧
     (∀ e ∈ [11, 12], let v := seen1
      let held := v.wait.find? (fun w => decide (w.1 = e))
      held.isSome = decide (e = 11) ∧ (v.had e && held.isNone) = false ∧
      (v.put e).behind e (0xC0 + 1) ((held.map (fun w => w.2.1)).getD t.time) (t.time - 1) = true) ∧
     (seen1.put 11).behind 11 193 0 t.time = false ∧ reqLine (.store 0 0 0x3000 [1] none) = some 0xC0 ∧
     t.net.acks.find? (fun y => decide (y.1 = 1 ∧ y.2.1 = 9)) = some (1, 9, 0, 0)) ∧
    s.net.pkts.find? (fun x => decide (x.dst = 1 ∧ x.eseq = 3)) = some pkt0 ∧ s.net.pkts.find? (fun x => decide (x.dst = 1 ∧ x.eseq = 4)) = some pkt1 ∧
    pkt0.req = .store 0 0 (2 ^ 52) [1] none ∧ pkt1.req = .ask 0 0 1 (2 ^ 52) [] ∧ lastAsk s pkt1 = true ∧ s.net.pkts[0]? = some pkt0 ∧
    pkt0.again < 3 ∧ pkt0.last + 16384 ≤ s.time ∧ pkt0.first + 131072 ≤ s.time := by decide +kernel
/-- An AGATH of 64 bytes in a ring of packages 0 and 1. -/
def gather (at_ st len : Nat) : Coll :=
  { coll0 at_ st with kind := 1, desc := leBytes 8 0 ++ leBytes 8 0x2000 ++ leBytes 8 0x3000 ++ leBytes 8 len ++ leBytes 8 0x4000 ++ leBytes 4 0 ++ leBytes 2 2 ++ List.replicate 80 0,
                      pages := [(0, 0)], sup := true, ring := [0, 1], notes := [] }
def colls (c : Coll) (os : List (Nat × List Nat)) : State := inMem 0x4002 [1] (onNet (fun n => { n with colls := [c], offers := os }) pod)
theorem test_meets_TorusSteps_collectives :
    (∀ x ∈ [(0, 0), (1, 0), (3, 1), (4, 0)], let s := onNet (fun n => { n with colls := [coll0 x.1 x.2] }) pod
     Machine.collAt s 0 = some (coll0 x.1 x.2) ∧ clBehind s (coll0 x.1 x.2) = false ∧ (coll0 x.1 x.2).kind = 3 ∧ (coll0 x.1 x.2).notes ≠ [] ∧
     clGone s false (clSource (coll0 x.1 x.2)) = false ∧ clTorn s (clSource (coll0 x.1 x.2)) = false ∧
     (clOthers s (coll0 x.1 x.2)).findSome? (deadDir s) = none) ∧
    (let c := gather 0 0 64
     let s := colls c []
     Machine.collAt s 0 = some c ∧ clBehind s c = false ∧ clRing s c = [0, 1] ∧ ringBad s (clRing s c) = false ∧ ringBad s (clRing { s with mem := [] } c) = true ∧
     (clOthers s { c with ring := clRing s c }).findSome? (deadDir s) = none) ∧
    (let c := gather 4 0 64
     let okOffer := (1, c.sig)
     let badOffer := (1, { c with desc := setNth c.desc 0x18 128 }.sig)
     let os := fun (s : State) => (clOthers s c).filterMap (fun m => (offerOf s c m).map (fun o => (m, o)))
     clOthers (colls c []) c = [1] ∧ os (colls c []) = [] ∧ os (colls c [okOffer]) = [okOffer] ∧ os (colls c [badOffer]) = [badOffer] ∧
     offerFits c okOffer.2 = true ∧ offerFits c badOffer.2 = false) ∧
    (let c := gather 1 0 64
     let s := colls c []
     let got := List.replicate 64 (5 : Byte)
     let ds := (clDeliver s c got).1
     let z := netReads (whoNet c.team 0 false) (clSourcePcs c) s
     let ps := plainPcs (ds.flatMap (fun d => clPcs c.pages (clDst c.desc + d.1) d.2.1.length))
     got.length = clRemote c ∧ c.kind = 1 ∧ s.net.pkts = [] ∧ clGone s false (clSource c) = false ∧ clTorn s (clSource c) = false ∧
     clLen c.desc ≠ 0 ∧ clDopt c.desc = false ∧ clNq c.desc = 0 ∧ clGone z true ps = false ∧ objsOver z ps = [] ∧
     netWaits z (collHolder 0) ps = false ∧
     clGone (onCtl (fun x => { x with retired := [0] }) s) false (clSource c) = true) ∧
    (let c := gather 1 0 0
     clLen c.desc = 0 ∧ clRemote c = 0 ∧ c.notes = []) ∧
    (let c := { coll0 3 0 with notes := [List.replicate 64 0], desc := leBytes 8 2 ++ List.replicate 56 0 ++ leBytes 8 (2 ^ 63 + 2 ^ 10 + 5) }
     let s := onNet (fun n => { n with colls := [c] }) (queues queue0)
     let h := hndOf (clNq c.desc)
     Machine.collAt s 0 = some c ∧ h.ok = true ∧ h.pkg = s.ctl.pkgNum ∧ (qPush ⟨c.sup, teamAsid s c.team⟩ h (List.replicate 64 0) s).1 = qOK) := by decide +kernel
theorem test_meets_PowerResetAndRegisterSteps : (0 < 1 ∧ 0 < 2000 + 400) ∧ (105 ≤ 105 ∧ 99 < 100 ∧ 115 ≤ 115) ∧
    (1 < 2 ∧ (List.replicate 64 (0 : Byte)).length ≤ 9216 ∧ addDesc [] (portAt base 1).rx = [] ∧
     (∀ d ∈ [leBytes 8 0x3000 ++ leBytes 2 64, leBytes 8 (2 ^ 39) ++ leBytes 2 64], addDesc d (portAt base 1).rx = d :: [] ∧ addDesc d (portAt base 1).tx = d :: []) ∧
     portDesc (leBytes 8 0x3000 ++ leBytes 2 64) = (0x3000, 64) ∧ portBuf base 0x3000 64 = true ∧ portBuf base (2 ^ 39) 64 = false) ∧
    (3 < 4 ∧ fld (0x888 : Word) 3 0 + fld (0x800 : Word) 7 4 + fld (0x888 : Word) 11 8 ≤ 16) ∧
    (∀ w ∈ [600, 1800], 600 ≤ fld (wd w) 10 0 ∧ fld (wd w) 10 0 ≤ 1800) ∧
    (bitAt (0x8001 : Word) 15 = bitAt base.ctl.podcfg 15 ∧ netQuiet base = true) ∧ ((wd 0x40).toNat % 64 = 0 ∧ (wd 0x40).toNat < 2 ^ 39) := by decide +kernel

/-- FIPS 202: SHAKE256 of no bytes. -/
theorem test_shake : shake 136 4 [] = [0x46, 0xb9, 0xdd, 0x2b] := by decide +kernel

/-- Keys under which a signature can be written down for any message: the identity as a point, and polynomials that are all zero. -/
def idKey : List Byte := 1 :: List.replicate 31 0
def idSig : List Byte := idKey ++ List.replicate 32 0
def zeroKey : List Byte := List.replicate 1952 0
def zeroRest : List Byte := (List.replicate 5 (mlPack 20 (List.replicate 256 (2 ^ 19)))).flatten ++ List.replicate 61 0
def zeroSig (m : List Byte) : List Byte := mlTag (mlDigest zeroKey m) (List.replicate 6 mlZero) ++ zeroRest

theorem edMul_id (n k : Nat) : edMul n k (0, 1) = (0, 1) := by
  have h : edAdd (0, 1) (0, 1) = (0, 1) := by decide +kernel
  induction n generalizing k with
  | zero => rfl
  | succ n ih => simp only [edMul, h, ih, ite_self]

theorem edMul_zero (n : Nat) (a : Nat × Nat) : edMul n 0 a = (0, 1) := by
  induction n generalizing a with
  | zero => rfl
  | succ n ih => simp [edMul, ih]

theorem idSig_verifies (m : List Byte) : edVerify idKey m idSig = true := by
  have h1 : edPoint idKey = some (0, 1) := by decide +kernel
  have h2 : idSig.take 32 = idKey := by decide +kernel
  have h3 : leNat (idSig.drop 32) = 0 := by decide +kernel
  have h4 : edAdd (0, 1) (0, 1) = (0, 1) := by decide +kernel
  have h5 : (0 : Nat) < edL := by decide +kernel
  simp only [edVerify, h1, h2, h3, edMul_id, edMul_zero, h4, h5, decide_true, Bool.and_self]

theorem mlMul_zero (a : Poly) : mlMul a mlZero = mlZero := by
  have h : ∀ n i, nth 0 (List.replicate n 0) i = 0 := by
    intro n
    induction n with
    | zero => intro i; rfl
    | succ n ih => intro i; cases i <;> simp [List.replicate, nth, ih]
  have : (fun i => nth 0 a i * nth 0 mlZero i % mlQ) = fun _ => 0 := by
    funext i; rw [show nth 0 mlZero i = 0 from h 256 i]; rfl
  rw [mlMul, this]; decide +kernel

theorem mlApply_zero (m : List (List Poly)) : mlApply m (List.replicate 5 mlZero) = m.map (fun _ => mlZero) := by
  have h0 : mlAdd mlZero mlZero = mlZero := by decide +kernel
  have hf : ∀ v : List Poly, (∀ p ∈ v, p = mlZero) → v.foldl mlAdd mlZero = mlZero := by
    intro v
    induction v with
    | nil => intro _; rfl
    | cons p v ih => intro h; rw [List.foldl_cons, h p (by simp), h0]; exact ih (fun q hq => h q (by simp [hq]))
  refine List.map_congr_left (fun row _ => hf _ (fun p hp => ?_))
  have hz : ∀ (n : Nat) (r : List Poly), ∀ p ∈ List.zipWith mlMul r (List.replicate n mlZero), p = mlZero := by
    intro n
    induction n with
    | zero => intro r p hp; simp at hp
    | succ n ih =>
      intro r p hp
      cases r with
      | nil => simp at hp
      | cons a r =>
        rw [List.replicate_succ, List.zipWith_cons_cons, List.mem_cons, mlMul_zero] at hp
        exact hp.elim id (ih r p)
  exact hz 5 row p hp

theorem mlSeen_zero (tag : List Byte) : mlSeen zeroKey tag (List.replicate 5 mlZero) (List.replicate 6 []) = List.replicate 6 mlZero := by
  have hn : (List.replicate 5 mlZero).map mlNtt = List.replicate 5 mlZero := by decide +kernel
  have ht : (mlCut zeroKey 32 320 6).map (fun b => mlNtt ((mlUnpack 10 b).map (fun x => x * 8192 % mlQ))) = List.replicate 6 mlZero := by decide +kernel
  have hs : mlInv (mlSub mlZero mlZero) = mlZero := by decide +kernel
  have hh : List.zipWith (fun x i => mlHint (([] : List Nat).contains i) x) mlZero (List.range 256) = mlZero := by decide +kernel
  have hm : (mlMatrix (zeroKey.take 32)).map (fun _ => mlZero) = List.replicate 6 mlZero := by rw [mlMatrix, List.map_map]; rfl
  simp only [mlSeen, hn, ht, mlApply_zero]
  rw [hm, List.zipWith_replicate', mlMul_zero, hs, List.zipWith_replicate', hh]

theorem zeroSig_verifies (m : List Byte) : mlVerify zeroKey m (zeroSig m) = true := by
  have hl : ∀ mu w, (mlTag mu w).length = 48 := by intro mu w; simp [mlTag]
  have h1 : (mlCut (zeroSig m) 48 640 5).map mlWide = List.replicate 5 mlZero := by
    have hz : (mlCut zeroRest 0 640 5).map mlWide = List.replicate 5 mlZero := by decide +kernel
    rw [← hz]
    have hc : mlCut (zeroSig m) 48 640 5 = mlCut zeroRest 0 640 5 := by
      refine List.map_congr_left (fun i _ => ?_)
      rw [zeroSig, List.drop_append, hl, List.drop_eq_nil_of_le (by rw [hl]; omega), List.nil_append, Nat.add_sub_cancel_left, Nat.zero_add]
    rw [hc]
  have h2 : mlHints ((zeroSig m).drop 3248) = some (List.replicate 6 []) := by
    have hz : mlHints (zeroRest.drop 3200) = some (List.replicate 6 []) := by decide +kernel
    rw [← hz, zeroSig, List.drop_append, hl, List.drop_eq_nil_of_le (by rw [hl]; omega), List.nil_append]
  have h3 : (zeroSig m).take 48 = mlTag (mlDigest zeroKey m) (List.replicate 6 mlZero) := by
    rw [zeroSig, List.take_append_of_le_length (hl _ _ ▸ Nat.le_refl _), List.take_of_length_le (hl _ _ ▸ Nat.le_refl _)]
  have h4 : mlSmall (2 ^ 19 - 196) (List.replicate 5 mlZero) = true := by decide +kernel
  simp only [mlVerify, h1, h2, h3, h4, mlSeen_zero, decide_true, Bool.and_self]

theorem zeroSig_length (m : List Byte) : (zeroSig m).length = 3309 := by
  rw [zeroSig, List.length_append, mlTag, List.length_map, List.length_range, show zeroRest.length = 3261 by decide +kernel]

/-- A request with its body; a mutating one carries keys and signatures. -/
def mreq (c : Nat) (body : List Byte) : List Byte := leBytes 2 c ++ leBytes 2 body.length ++ leBytes 8 1 ++ List.replicate 32 0 ++ body
def sreq (c : Nat) (body : List Byte) : List Byte := mreq c body ++ idKey ++ zeroKey ++ idSig ++ zeroSig (mreq c body)
/-- Hash of the keys in `sreq`. -/
def keysHash : List Byte := sha384 (idKey ++ zeroKey)
/-- A package whose fused owner hash is that of the keys in `sreq`, before START. -/
def owned (s : State) : State := onCtl (fun c => { c with run := false, owner := keysHash }) s
def loadBody : List Byte := leBytes 8 7 ++ leBytes 8 0x7FFFFFFFFF ++ leBytes 8 0x1000 ++ [1]
def reqs : List (Nat × List Byte) := [(0x10, loadBody), (0x11, []), (0x12, []), (0x20, leBytes 8 0x8001), (0x21, leBytes 2 0xFFF), (0x22, leBytes 8 600),
  (0x22, leBytes 8 1800), (0x30, leBytes 8 0x7FFFFF0000), (0x31, leBytes 8 0x5000), (0x32, leBytes 8 1)]
theorem sreq_signed : ∀ x ∈ reqs, sigsOf (sreq x.1 x.2) = ⟨true, true⟩ := by
  have hs : ∀ x ∈ reqs, (sreq x.1 x.2).take (44 + mgLen (sreq x.1 x.2)) = mreq x.1 x.2 ∧
      ((sreq x.1 x.2).drop (44 + mgLen (sreq x.1 x.2) + 0)).take 32 = idKey ∧
      ((sreq x.1 x.2).drop (44 + mgLen (sreq x.1 x.2) + 32)).take 1952 = zeroKey ∧
      ((sreq x.1 x.2).drop (44 + mgLen (sreq x.1 x.2) + 1984)).take 64 = idSig ∧
      44 + mgLen (sreq x.1 x.2) + 2048 = (mreq x.1 x.2 ++ idKey ++ zeroKey ++ idSig).length := by decide +kernel
  intro x hx
  obtain ⟨h1, h2, h3, h4, h5⟩ := hs x hx
  have h6 : ((sreq x.1 x.2).drop (44 + mgLen (sreq x.1 x.2) + 2048)).take 3309 = zeroSig (mreq x.1 x.2) := by
    rw [h5]
    conv => lhs; arg 2; arg 2; rw [sreq]
    rw [List.drop_left, List.take_of_length_le (zeroSig_length _ ▸ Nat.le_refl _)]
  simp only [sigsOf, h1, h2, h3, h4, h6, idSig_verifies, zeroSig_verifies]
theorem owned_accepts (s : State) (h : s.ctl.lastSeq = 0) : ∀ x ∈ reqs, mgAuth (owned s) ⟨true, true⟩ (sreq x.1 x.2) = true := by
  have hs : ∀ x ∈ reqs, ((sreq x.1 x.2).drop (44 + mgLen (sreq x.1 x.2))).take 1984 = idKey ++ zeroKey ∧
      (sreq x.1 x.2).length = 44 + mgLen (sreq x.1 x.2) + 5357 ∧ leAt (sreq x.1 x.2) 4 8 = 1 := by decide +kernel
  intro x hx
  obtain ⟨h1, h2, h3⟩ := hs x hx
  have ho : (owned s).ctl.owner = keysHash := by simp only [owned, onCtl]
  have hl : (owned s).ctl.lastSeq = 0 := by simp only [owned, onCtl, h]
  simp only [mgAuth, h1, h2, h3, ho, hl, keysHash, decide_true, Bool.and_self, Nat.zero_lt_one]
/-- A request whose sequence number is not new is not accepted, whatever its signatures. -/
theorem stale_refused (s : State) (v : Sigs) (h : s.ctl.lastSeq = 1) : mgAuth s v (sreq 0x11 []) = false := by
  rw [mgAuth, h, show leAt (sreq 0x11 []) 4 8 = 1 by decide +kernel]; simp
theorem test_meets_ManagementSteps : (∀ x ∈ reqs, Claims.request (owned launchAt) x.1 (some ⟨true, true⟩) (sreq x.1 x.2)) ∧
    (∀ c ∈ [0x01, 0x02], Claims.request base c none (mreq c [])) ∧
    ((owned launchAt).ctl.run = false ∧ leAt (mgBody (sreq 0x10 loadBody)) 0 1 < 8 ∧
     (mgBody (sreq 0x10 loadBody)).drop 24 ++ [] = [1] ∧ portBuf (owned launchAt) (leAt (mgBody (sreq 0x10 loadBody)) 8 8) 1 = true) ∧
    (∀ n ∈ [600, 1800], 600 ≤ fld (wd (mgNum (sreq 0x22 (leBytes 8 n)))) 10 0 ∧ fld (wd (mgNum (sreq 0x22 (leBytes 8 n)))) 10 0 ≤ 1800) ∧
    (let x := mgNum (sreq 0x30 (leBytes 8 0x7FFFFF0000))
     x % 2 ^ 16 = 0 ∧ x < 2 ^ 39 ∧ (owned launchAt).ctl.retired.contains (x / 2 ^ 16) = false ∧ (owned launchAt).ctl.retired.length < 1024) ∧
    (let u := onCtl (fun c => { c with lastSeq := 1 }) (owned launchAt)
     let t := translate 1024 (supOf u 0).ttb false false .rd (wd (mgNum (sreq 0x31 (leBytes 8 0x5000)))) u
     (wd (mgNum (sreq 0x31 (leBytes 8 0x5000)))).toNat % 64 = 0 ∧ t.1 = .ok 0x5000 0x13D ∧ isReg 0x5000 = false ∧ retired t.2 0x5000 = false ∧
     pkgOf 0x5000 = t.2.ctl.pkgNum) ∧
    teamByHandle (owned launchAt) (mgNum (sreq 0x32 (leBytes 8 1))) = some 1 ∧
    (let s := onCtl (fun c => { c with lastSeq := 1 }) (owned launchAt)
     leAt (sreq 0x11 []) 0 2 = 0x11 ∧ 44 ≤ (sreq 0x11 []).length ∧ (⟨true, true⟩ : Sigs) = sigsOf (sreq 0x11 []) ∧
     mgAuth s ⟨true, true⟩ (sreq 0x11 []) = false) := by
  refine ⟨fun x hx => ⟨?_, ?_, ?_⟩, fun c hc => ⟨?_, ?_, fun v hv => by cases hv⟩, by decide +kernel, by decide +kernel, by decide +kernel, by decide +kernel,
    by decide +kernel, by decide +kernel, by decide +kernel, (sreq_signed (0x11, []) (by decide)).symm, stale_refused _ _ rfl⟩
  · exact (by decide +kernel : ∀ x ∈ reqs, leAt (sreq x.1 x.2) 0 2 = x.1) x hx
  · exact (by decide +kernel : ∀ x ∈ reqs, 44 + mgLen (sreq x.1 x.2) ≤ (sreq x.1 x.2).length) x hx
  · intro v hv
    obtain rfl : (⟨true, true⟩ : Sigs) = v := Option.some.inj hv
    exact ⟨(sreq_signed x hx).symm, owned_accepts launchAt rfl x hx⟩
  · exact (by decide +kernel : ∀ c ∈ [0x01, 0x02], leAt (mreq c []) 0 2 = c) c hc
  · exact (by decide +kernel : ∀ c ∈ [0x01, 0x02], 44 + mgLen (mreq c []) ≤ (mreq c []).length) c hc
/-- A control command block at 0x8000. -/
def block (ws : List Nat) (s : State) : State := onCtl (fun c => { c with ccmd := [0x8000] }) (inMem 0x8000 (ws.flatMap (leBytes 8)) s)
/-- Blocks of the commands 0x01 to 0x09 that are well formed in a package with team 1, and 0x0A. -/
def blocks : List (List Nat) := [[1, 0x200, 0x4000, 0], [2, 2 ^ 63 + 2 ^ 10 + 5], [3, 2 ^ 30, 4], [4, 0, 0x7000, 0x100, 0x200, 0x300],
  [5, 2 ^ 16, 2 ^ 36 + 2 ^ 20, 16], [6, 0, 0, 0], [7, 1, 0x9000], [7, 1, 0], [8, 3, 1, 2, 2 ^ 32 + 9], [9, 1], [10, 0, 5]]
theorem test_meets_ControlCommandSteps :
    (∀ b ∈ blocks, let s := block b (queues queue0)
     s.ctl.ccmd = [0x8000] ∧ memNat s.mem (own s 0x8000) 8 = b.headD 0 ∧ ccMalformed s 0x8000 = false ∧ retired s (own s 0x8000) = false) ∧
    (let s := block [7, 1, 0x9000] (queues queue0)
     (teamPhys s 1 .rd (wd 0x9000)).filter (fun a => isOwn s a) = some 0x9000) ∧
    (let s := block [2, 2 ^ 63 + 2 ^ 10 + 5] (queues queue0)
     let h := hndOf (wd (memNat s.mem (own s 0x8008) 8))
     h.pkg = s.ctl.pkgNum ∧ h.v = true ∧ (match qFind s ⟨true, 0⟩ h with | .inl q => decide (q = queue0) | _ => false) = true) ∧
    (let s := block [1, 0x200, 0x4000, 0] base
     s.dist.teams = [] ∧ ((mfind? s.home.queues 0).map Queue.live) ≠ some true ∧ s.dist.teams.any (fun x => decide (x.2.asid = 0)) = false) ∧
    (let s := block [8, 3, 1, 2, 2 ^ 32 + 9] (queues queue0)
     teamByHandle s 1 = some 1 ∧ s.grp.anns = [] ∧ (coreAt s 0).st ≠ .dhalt ∧ (coreAt s 0).ev.ccreq = none) ∧
    (inLog base 0x8000 = false ∧ base.home.regions = [] ∧ writeRefused base whoXd.key (own base 0x8000) = false ∧
     writeRefused (objs [obj0 .free]) whoXd.key (own base 0x8000) = true) ∧
    (teamOf task 1 = some team0 ∧ rollFails task 1 = false ∧
     rollFails (onHome (fun h => { h with wins := [(winKey 1 0, ⟨[], true, [], 0, [], []⟩)] }) task) 1 = true) ∧
    ccMalformed (block [3, 1] base) 0x8000 = true ∧ retired (block [3, 1] base) (own base 0x8000) = false := by decide +kernel
theorem test_meets_ResultsLand : base.core.pend = [] ∧ base.core.mx.flight = [] ∧ 1 ≤ 1 ∧ base.core.ctl = false := by decide +kernel
theorem test_meets_NoEffectUnderFalseGuard : guardOf (.add 2 0 1 1 1) = some (2, 0) ∧ guardOk 2 0 base = false ∧ guardOf (.mfs 0 1 1 0x010) = some (0, 1) ∧
    guardOk 0 1 base = false ∧ Machine.srListed base.core.ctl 0x010 = true := by decide +kernel
/-- The encoding of VINS with its lane at 15 and of LOOP with its longest body, given as the slot's class has them. -/
theorem test_meets_EncodeDecodeRoundTrip : (∀ i ∈ [(Instr.loop 7 1 5 31 64), .loop 0 0 0 0 0x200], (i.wf && i.encOk 64) = true ∧ (rowOf i).isSome = true ∧
    encode i < 2 ^ 32 ∧ decodeSlot 0 64 (encode i) = some i) ∧ decodeSlot 0 2 0x14000200 = some (.lmodeL 0 0 0) ∧ (Instr.lmodeL 0 0 0).encOk 2 = true := by
  decide +kernel
/-- `Claims.formed`, as a check. -/
def coreFormB (c : Core) : Bool :=
  mcanon 0 c.sc.s && mcanon 0 c.sc.a && mcanon 0 c.sc.lc && mcanon 0 c.vec.v && mcanon 0 c.vec.m && mcanon 0 c.cp.cb && msorted c.sp.w &&
  msorted c.sp.a && msorted c.sp.c && (decide (c.sp.epoch ≠ 0) || (mcanon 0 c.sp.w && mcanon 0 c.sp.a && mcanon 0 c.sp.c))
def formedB (s : State) : Bool :=
  Memory.wf s.mem && msorted s.others && msorted s.home.queues && msorted s.dist.teams && msorted s.dist.slots && (Claims.allCores s).all coreFormB
theorem formed_of_check {s : State} (h : formedB s = true) : Claims.formed s := by
  simp only [formedB, Bool.and_eq_true, List.all_eq_true] at h
  obtain ⟨⟨⟨⟨⟨h1, h2⟩, h3⟩, h4⟩, h5⟩, h6⟩ := h
  refine ⟨h1, h2, h3, h4, h5, fun c hc => ?_⟩
  have g := h6 c hc
  simp only [coreFormB, Bool.and_eq_true, Bool.or_eq_true, decide_eq_true_eq] at g
  obtain ⟨⟨⟨⟨⟨⟨⟨⟨⟨g1, g2⟩, g3⟩, g4⟩, g5⟩, g6⟩, g7⟩, g8⟩, g9⟩, g10⟩ := g
  exact ⟨g1, g2, g3, g4, g5, g6, g7, g8, g9, fun e => by simpa [e, and_assoc] using g10⟩
theorem test_meets_ResetState : (1023 < 1024 ∧ 127 < 128 ∧ 15 < 16) ∧ Claims.formed base ∧ (match step base with | .next _ => true | _ => false) = true :=
  ⟨by decide, formed_of_check (by decide +kernel), by decide +kernel⟩

/-- From reset, core 0 at user level where page 0 holds a bundle of one word `w`, in slot `j`. -/
noncomputable def placed (j w : Nat) : State :=
  onIss (fun i => { i with npc := 0, from_ := 0 }) (onX (fun x => { x with ttb := 0 }) (onCore (fun c => { c with st := .run })
    { State.reset with mem := placedMem (2 ^ j) w State.reset.mem }))
/-- The state in which a bundle's only slot runs. -/
noncomputable def atSlot (s : State) (j : Nat) (i : Instr) : State :=
  let f := fetchBundle s
  let s0 := issueHolds f.core.iss.hdr [(j, some i)] f
  let s1 := onCore (fun c => { rejoin c with iss := { (rejoin c).iss with from_ := 0, pm0 := some c.pm.pmc } }) s0
  onIss (fun x => { x with slot := j }) (if j = 0 then s1 else slotZeroEnd s1.core.x.pl s1)
noncomputable def slotChecks (s : State) (j w : Nat) (i : Instr) : Bool :=
  let f := fetchBundle s
  let h := f.core.iss.hdr
  let s0 := issueHolds h [(j, some i)] f
  s.sched.isEmpty && !s.ctl.halted && decide (s.core.st = .run) && !homing s && !(exposed s && unanswered s) && (lookOut s).isNone && f.core.iss.busy &&
  !(f.core.iss.trapped && unanswered s) && (waitingPart f).isNone && decide (f.core.iss.from_ = 0) &&
  decide (f.core.iss.words = [(j, BitVec.ofNat 32 w)]) && decide (decodeSlot j (fld h 31 16) w = some i) && !answerHold f h [(j, some i)] &&
  (heldLook 0 f s0).isNone && step1 h [] j i && decide (bankOver [] (slotBankReads (atSlot s j i) h (j, some i)) = none)
/-- What the slot's end leads to: 0 a handler for its own fault, 1 a hold, 2 the bundle's end, 4 a handler for the error its access
meets instead of its fault, 5 the same where it has none; 3 anything else. -/
noncomputable def slotEndKind (s : State) (j : Nat) (i : Instr) : Nat :=
  let f := fetchBundle s
  let h := f.core.iss.hdr
  let s0 := issueHolds h [(j, some i)] f
  let s2 := atSlot s j i
  match exec i s2, exec i (onIss (fun x => { x with slot := j }) s0) with
  | .next t, .next v =>
    if t.core.iss.trapped then (if (hitAt s2 j).isNone || beforeAccess (lastCause t) then 0 else 4)
    else if t.core.iss.held.isSome then (if v.core.iss.held.isSome then 1 else 3)
    else if (writeClash s2 t).isSome then 3
    else if (hitAt s2 j).isSome then 5
    else if !leftBundle (setLatches s2 h j i (countSlot s2 j i t)) &&
      decide (portWait (let u := setLatches s2 h j i (countSlot s2 j i t); if j = 0 then slotZeroEnd s2.core.x.pl u else u) = 0) then 2 else 3
  | _, _ => 3
/-- An access in slot `j` is to meet a lasting error. -/
noncomputable def hits (j : Nat) (s : State) : State := onIss (fun i => { i with err := some ⟨j, 1, 0x40, 0x40, none⟩ }) s
/-- A status of another package has not come. -/
noncomputable def asked (s : State) : State := onCm (fun c => { c with ans := [(9, 0)] }) s
theorem test_meets_StepRunsTheDecodedInstruction :
    (slotChecks (placed 0 0x80000005) 0 0x80000005 (.trap 0 0 5) = true ∧ slotEndKind (placed 0 0x80000005) 0 (.trap 0 0 5) = 0) ∧
    (slotChecks (hits 0 (placed 0 0x80000005)) 0 0x80000005 (.trap 0 0 5) = true ∧ slotEndKind (hits 0 (placed 0 0x80000005)) 0 (.trap 0 0 5) = 4) ∧
    (slotChecks (placed 2 0x00020830) 2 0x00020830 (.add 0 0 2 2 3) = true ∧ slotEndKind (placed 2 0x00020830) 2 (.add 0 0 2 2 3) = 2) ∧
    (slotChecks (hits 2 (placed 2 0x00020830)) 2 0x00020830 (.add 0 0 2 2 3) = true ∧ slotEndKind (hits 2 (placed 2 0x00020830)) 2 (.add 0 0 2 2 3) = 5) ∧
    (slotChecks (asked (placed 2 0x00020830)) 2 0x00020830 (.add 0 0 2 2 3) = true ∧ unanswered (asked (placed 2 0x00020830)) = true) ∧
    (slotChecks (placed 0 0xD0000000) 0 0xD0000000 (.wfe 0 0) = true ∧ slotEndKind (placed 0 0xD0000000) 0 (.wfe 0 0) = 1) ∧
    (let s := onIss (fun i => { i with npc := 0x40000000 }) base
     (fetchBundle s).core.iss.busy = false ∧ (fetchBundle s).core.iss.trapped = true ∧ unanswered s = false ∧
     unanswered (asked s) = true ∧ (fetchBundle (asked s)).core.iss.trapped = true) ∧
    (let s := onX (fun x => { x with mode := 0 }) (asked base)
     exposed s = true ∧ unanswered s = true) ∧
    (match exec .untakenTasksReturn base with | .next _ => true | _ => false) = true := by decide +kernel
/-- Slot ends: one runs, one traps, one waits. -/
theorem test_meets_StepRunsTheDecodedInstruction_slots :
    (match runSlot exec 0 [] [] (2, some (.add 0 0 2 2 3)) base with | .done _ => true | _ => false) = true ∧
    (match runSlot exec 0 [] [] (0, some (.trap 0 0 5)) base with | .gone _ => true | _ => false) = true ∧
    (match runSlot exec 0 [] [] (0, some (.wfe 0 0)) base with
      | .held _ t => !t.core.iss.split && (match exec (.wfe 0 0) base with | .next u => u.core.iss.held.isSome | _ => false)
      | _ => false) = true ∧
    (let s := onCm (fun c => { c with fCount := 1 }) (onNet (fun n => { n with pkts := [pkt0] }) task)
     (match runSlot exec 0 [(0, some (.call 0 0 1))] [] (3, some (.fence 0 0 2 5)) s with | .held _ t => t.core.iss.split && decide (firstSlot s ≤ 0) | _ => false) = true) := by decide +kernel

/-! ### One step of an instruction: results worked out from the spec -/

/-- The state after an instruction, with its results landed. -/
noncomputable def run (i : Instr) (s : State) : State := match exec i s with | .next t => drain t | _ => s
def r2 (x y : Word) : State := regS 1 x (regS 2 y base)

/-- 04 R71: sums wrap. -/
theorem test_add_wraps : rdS (run (.add 0 0 3 1 2) (r2 0xFFFFFFFFFFFFFFFF 2)) 3 = 1 := by decide +kernel
theorem test_false_guard : rdS (run (.add 0 1 3 1 2) (r2 5 2)) 3 = 0 := by decide +kernel
theorem test_sub_borrows : rdS (run (.sub 0 0 1 1 2) (r2 0 1)) 1 = 0xFFFFFFFFFFFFFFFF := by decide +kernel
theorem test_s0_reads_zero : rdS (run (.movi 0 0 0 5) base) 0 = 0 := by decide +kernel
/-- 04 R72: the low six bits of s[b] count. -/
theorem test_shl_masks_count : rdS (run (.shl 0 0 3 1 2) (r2 1 65)) 3 = 2 := by decide +kernel
theorem test_sar_sign : rdS (run (.sar 0 0 3 1 2) (r2 0x8000000000000000 63)) 3 = 0xFFFFFFFFFFFFFFFF := by decide +kernel
/-- 04 R74: the exact quotient 2^63 wraps; the remainder of that pair is 0; a divisor of 0 gives −1 and the dividend. -/
theorem test_div_corner : rdS (run (.div 0 0 3 1 2) (r2 0x8000000000000000 0xFFFFFFFFFFFFFFFF)) 3 = 0x8000000000000000 := by decide +kernel
theorem test_rem_corner : rdS (run (.rem 0 0 3 1 2) (r2 0x8000000000000000 0xFFFFFFFFFFFFFFFF)) 3 = 0 := by decide +kernel
theorem test_rem_sign : rdS (run (.rem 0 0 3 1 2) (r2 0xFFFFFFFFFFFFFFF9 2)) 3 = 0xFFFFFFFFFFFFFFFF := by decide +kernel
theorem test_divu_by_zero : rdS (run (.divu 0 0 3 1 2) (r2 7 0)) 3 = 0xFFFFFFFFFFFFFFFF := by decide +kernel
theorem test_mulh_negative : rdS (run (.mulh 0 0 3 1 2) (r2 0xFFFFFFFFFFFFFFFF 2)) 3 = 0xFFFFFFFFFFFFFFFF := by decide +kernel
/-- 04, worked example: a field that passes bit 63. -/
theorem test_bextu_past_63 : rdS (run (.bextu 0 0 3 1 2) (r2 0xA0000000000000FF 0x83C)) 3 = 0xA := by decide +kernel
theorem test_bext_past_63 : rdS (run (.bext 0 0 3 1 2) (r2 0xA0000000000000FF 0x83C)) 3 = 0xFFFFFFFFFFFFFFFA := by decide +kernel
theorem test_bins_past_63 : rdS (run (.bins 0 0 3 1 2) (r2 0xA0000000000000FF 0x83C)) 3 = 0xF000000000000000 := by decide +kernel
/-- 04 R78: p0 stays true. -/
theorem test_pwr_keeps_p0 : (rdP (run (.pwr 0 0 0) base) 0, rdP (run (.pwr 0 0 1) (r2 4 0)) 2) = (true, true) := by decide +kernel
theorem test_br_taken : (run (.br 0 0 0x3FFFFF) (onIss (fun i => { i with pc := 0x1000 }) base)).core.iss.npc = 0xFFC := by decide +kernel
theorem test_call_links : rdA (run (.call 0 0 1) (onIss (fun i => { i with pc := 0x1000, seq := 0x1008 }) base)) 14 = 0x1008 := by decide +kernel
/-- 04 R83: a target that is no multiple of 4 raises ALIGN. -/
theorem test_jmp_misaligned : (run (.jmp 0 0 3) (regA 3 6 base)).core.x.pl = true := by decide +kernel
theorem test_movk2 : rdS (run (.movk2 0 0 1 0xABCD) (r2 0x1111222233334444 0)) 1 = 0x1111ABCD33334444 := by decide +kernel

/-- Vector register `a` of every cluster filled lane by lane; FP32 words. -/
def lanes (a : Nat) (xs : List W32) : State → State := onVec (fun v =>
  { v with v := (List.range 8).foldl (fun m c => (xs.zip (List.range 16)).foldl (fun m p => mset 0 m ((48 * c + a) * 16 + p.2) p.1) m) v.v })
def lane (s : State) (c r l : Nat) : W32 := laneOf s.core.vec.v c r l
/-- The slot of cluster `c`. -/
def onCluster (c : Nat) : State → State := onIss (fun i => { i with slot := c + 4 })

/-- 05 R102, worked example: pairwise order; 2^24, 1, 1, −2^24 sum to 1.0 and NX. -/
theorem test_vfrsum_pairwise : let s := run (.vfrsum 0 0 9 8) (onCluster 0 (lanes 8 [0x4B800000, 0x3F800000, 0x3F800000, 0xCB800000] base))
    (lane s 0 9 0, lane s 0 9 15, lane s 1 9 0) = (0x3F800000, 0x3F800000, 0) := by decide +kernel
/-- 05 R114, worked example: the ring. -/
theorem test_xcopy_ring : lane (run (.xcopy 0 0 5 5 1) (onCluster 3 (onVec (fun v => { v with v := [((48 * 4 + 5) * 16, 4)] }) base))) 3 5 0 = 4 := by
  decide +kernel
/-- 05 R96, R97: 1.5 + 2.5 and 1.5 × 2.0 + 1.0, in FP32. -/
theorem test_vfadd : lane (run (.vfadd 0 0 3 1 2 0) (onCluster 0 (lanes 1 [0x3FC00000] (lanes 2 [0x40200000] base)))) 0 3 0 = 0x40800000 := by decide +kernel
theorem test_vfma : lane (run (.vfma 0 0 3 1 2 0) (onCluster 0 (lanes 1 [0x3FC00000] (lanes 2 [0x40000000] (lanes 3 [0x3F800000] base))))) 0 3 0 = 0x40800000 := by
  decide +kernel
/-- 05: VLOG2 of 8.0 gives 3.0. -/
theorem test_vlog2_of_8 : lane (run (.vlog2 0 0 3 1) (onCluster 0 (lanes 1 [0x41000000] base))) 0 3 0 = 0x40400000 := by decide +kernel
/-- 05 R109, R110, worked example: VQSC of 5.0 with FTAB3 gives 0x79, VQEL gives 0x7A, 0x5A and 0x80. -/
theorem test_vqsc : lane (run (.vqsc 0 0 20 21 3) (onCluster 1 (lanes 21 [0x40A00000] base))) 1 20 0 = 0x79 := by decide +kernel
theorem test_vqel : let s := run (.vqel 0 0 22 23 20 0 0) (onCluster 1 (lanes 23 [0x40A00000, 0x3E980000, 0x80000000] (lanes 20 [0x79, 0x79, 0x79] base)))
    (lane s 1 22 0, lane s 1 22 1, lane s 1 22 2) = (0x7A, 0x5A, 0x80) := by decide +kernel
/-- 02 R26, worked example: stochastic rounding to E2M1 from seed 0. -/
theorem test_seed_of_zero : seedState 0 0 = 1 := by decide +kernel
theorem test_sr_e2m1 : (let e := fmtOf (ftabReset 7)
    let a := encodeF e (decodeF fp32 0x40200000) 4 1
    let b := encodeF e (decodeF fp32 0x40008000) 4 a.2.2
    (a.1, a.2.2, b.1, b.2.2)) = (5, 0x00042021, 4, 0x04080601) := by decide +kernel
/-- 02 R25: 460 converts to E4M3 as 448, with NX, and 470 as 448 with OF and NX. -/
theorem test_e4m3_overflow : (let e := fmtOf (ftabReset 3)
    ((encodeF e (decodeF fp32 0x43E60000) 0 0).1, (encodeF e (decodeF fp32 0x43EB0000) 0 0).1,
     decide ((encodeF e (decodeF fp32 0x43E60000) 0 0).2.1 = (encodeF e (decodeF fp32 0x43EB0000) 0 0).2.1))) = (0x7E, 0x7E, false) := by decide +kernel
/-- 09 R171, worked example: element (5, 9) of a 16 by 16 Z-order tile is number 101; (9, 5) is 149. -/
theorem test_z_order : (zIndex 16 16 5 9, zIndex 16 16 9 5) = (101, 149) := by decide +kernel
/-- 12, worked example: the indices of 0x0000_7F00_0001_2345. -/
theorem test_walk_indices : (nbits 0x7F0000012345 56 48, nbits 0x7F0000012345 47 39, nbits 0x7F0000012345 20 16) = (0, 0xFE, 1) := by decide +kernel
theorem test_level_bits : ((levelLo 5, levelHi 5), (levelLo 4, levelHi 4), (levelLo 1, levelHi 1)) = ((48, 56), (39, 47), (16, 20)) := by decide +kernel
/-- 25 R403, worked example: both peaks at once. -/
theorem test_power_peaks : (match exec (.powerWindow 850 430 400 40) base with
    | .next t => (fld t.ctl.pwr 5 0, fld t.ctl.pwr 43 32, fld t.ctl.pwr 31 20) | _ => (0, 0, 0)) = (2, 1470, 1440) := by decide +kernel

/-- Stores then loads: the byte order, the sign, and the neighbours of a stored byte. -/
noncomputable def stored : State := run (.stw 0 0 2 1 0) (regS 2 0xFFFFFFFF80000001 (regA 1 0x40 base))
theorem test_stw_bytes : (memNat stored.mem 0x40 8, memByte stored.mem 0x43) = (0x80000001, 0x80) := by decide +kernel
theorem test_ldw_sign : rdS (run (.ldw 0 0 5 1 0) stored) 5 = 0xFFFFFFFF80000001 := by decide +kernel
theorem test_ldwu : rdS (run (.ldwu 0 0 5 1 0) stored) 5 = 0x80000001 := by decide +kernel
theorem test_ldd_misaligned : (run (.ldd 0 0 5 1 0) (regA 1 0x41 base)).core.x.cause = 3#64 := by decide +kernel
theorem test_sstw_sldw : rdS (run (.sldw 0 0 5 1 0) (run (.sstw 0 0 2 1 0) (regS 2 0x80000001 (regA 1 0x100040 base)))) 5 = 0xFFFFFFFF80000001 := by
  decide +kernel
/-- 13 R247: the old value comes back, the new one stays. -/
theorem test_aadd_returns_old : let s := run (.aadd 0 0 3 1 2 0 0) (regS 2 5 (regA 1 0x40 stored))
    (rdS s 3, memNat s.mem 0x40 8) = (0x80000001, 0x80000006) := by decide +kernel
theorem test_acas_keeps : let s := run (.acas 0 0 3 1 2 0 0) (regS 3 9 (regS 2 5 (regA 1 0x40 stored)))
    (rdS s 3, memNat s.mem 0x40 8) = (0x80000001, 0x80000001) := by decide +kernel
/-- 19 R317: the saved state of a trap with cause 18 from user level. -/
theorem test_trap_saves : let s := run (.trap 0 0 5) (onX (fun x => { x with xbase := 0x2000 }) (onIss (fun i => { i with pc := 0x1000, seq := 0x1008 }) base))
    (fld s.core.x.cause 7 0, s.core.x.fa, s.core.x.xpc, s.core.x.xnpc, s.core.iss.npc, s.core.x.pl) = (18, 5, 0x1000, 0x1008, 0x2000, true) := by
  decide +kernel
theorem test_tinv_at_user : (run (.tinvAll 0 0) base).core.x.pl = true := by decide +kernel
/-- 16 Table 16-7: COUNT is read-only. -/
theorem test_mts_mfs : rdS (run (.mfs 0 0 4 0x014) (run (.mts 0 0 1 0x014) (supv (r2 0x0000000700000009 0)))) 4 % 2 ^ 32 = 9 := by decide +kernel
/-- 19 R310: control cores run at supervisor level, compute cores at user level, all idle. -/
theorem test_reset_levels : ((coreAt State.reset 0).x.pl, (coreAt State.reset 1024).x.pl, (coreAt State.reset 1023).st) = (false, true, .idle) := by
  decide +kernel
/-- 02 Table 2-3. -/
theorem test_reset_formats : (ftabWord State.reset 0, ftabWord State.reset 3) = (0x0301FD78, 0x03401C34) := by decide +kernel
theorem test_memory_wf_reset : Memory.wf State.reset.mem = true := by decide +kernel
theorem test_memory_wf_store : Memory.wf stored.mem = true := by decide +kernel

/-! ### Ill-formed terms, refused -/

theorem test_wf_width : (Instr.movi 0 0 1 0x10000).wf = false := by decide +kernel
theorem test_wf_guard : (Instr.add 8 0 1 1 1).wf = false := by decide +kernel
theorem test_wf_scalar : (Instr.add 0 0 32 1 1).wf = false := by decide +kernel
theorem test_wf_address : (Instr.adda 0 0 16 1 1).wf = false := by decide +kernel
theorem test_wf_counter : (Instr.loop 0 0 6 1 1).wf = false := by decide +kernel
theorem test_wf_vector : (Instr.vfadd 0 0 48 1 1 0).wf = false := by decide +kernel
theorem test_wf_vector_source : (Instr.vfadd 0 0 1 48 1 0).wf = false := by decide +kernel
theorem test_wf_lane : (Instr.vext 0 0 1 1 16).wf = false := by decide +kernel
theorem test_wf_tile_source : (Instr.tsoft 0 0 1 80).wf = false := by decide +kernel
theorem test_wf_span : (Instr.spawn 0 0 1 1 27).wf = false := by decide +kernel
theorem test_wf_ok : (Instr.spawn 0 0 1 1 26).wf = true ∧ (Instr.tsoft 0 0 1 79).wf = true := by decide +kernel
/-- A shift of 64, a loop of 0 bundles, a ring step of 8, a scope of 6, a relaxed form with a scope, an unlisted register. -/
theorem test_illegal_codes : [Instr.shli 0 0 1 1 64, .loop 0 0 0 1 0, .vshli 0 0 1 1 32, .vcvtRne 0 0 1 1 0x1FF, .vqsc 0 0 1 1 16, .vqel 0 0 1 1 1 0 6,
    .vshuf 0 0 1 1 64, .vpld 0 0 1 64, .xcopy 0 0 1 1 8, .fence 0 0 1 6, .bar 0 0 1 1 0,
    .aadd 0 0 1 1 1 0 2, .mfs 0 0 1 0x00C, .mts 0 0 1 0x016].all (fun i => i.wf && !i.encOk 0) = true := by decide +kernel
/-- 05 R108, R109, R114: only the low ten bits of a long immediate are reserved. -/
theorem test_limm_high_bits : [(Instr.vqsc 0 0 1 1 0x200, 0x0403), (.xcopy 0 0 1 1 0x200, 0x0401), (.vcvtRne 0 0 1 1 0x200, 0x0430)].all (fun x => x.1.encOk x.2) = true := by
  decide +kernel
/-- 10 R192: a function code past 6 raises ILLOP (cause 1) under a true guard, and nothing under a false one. -/
theorem test_tact_code : ((run (.tact 0 0 9 1 7) thunks).core.x.cause, (run (.tact 0 1 9 1 7) thunks).core.x.cause) = (1, 0) := by decide +kernel
/-- Words no row has. -/
theorem test_rejected_words : (decodeSlot 1 0 0x04000008, decodeSlot 0 0 0xFC000000, decodeSlot 4 0 0x18000000, decodeSlot 14 0 0) = (none, none, none, none) := by
  decide +kernel

end Sys2Proof.Tests
end

section
/-!
PROOFS. Management requests (25 R394, R400). A rollback (19 R336, R337) is the hard part: `Apart` and `Settles` say what its
steps leave alone, and `rollTeam_rolledBack` puts the steps together. `mgmt_mutating` says once when a request is performed.
-/
namespace Sys2Proof.Proofs
open Sys2Proof.Machine Sys2Proof.Claims

/-! ### Finite maps: what is found after a change -/

section Maps
variable {α β : Type}

theorem mfind?_mdel_self (m : SMap α) (k : Nat) : mfind? (mdel m k) k = none := by
  induction m with
  | nil => rfl
  | cons p r ih => by_cases h : p.1 = k <;> simp [mdel, mfind?, h, ih]

theorem mfind?_mdel_ne (m : SMap α) {k j : Nat} (h : j ≠ k) : mfind? (mdel m k) j = mfind? m j := by
  induction m with
  | nil => rfl
  | cons p r ih =>
    by_cases hk : p.1 = k
    · simp [mdel, mfind?, hk, ih, Ne.symm h]
    · simp [mdel, mfind?, hk, ih]

theorem mfind?_mins_self (m : SMap α) (k : Nat) (w : α) (h : ∀ p ∈ m, p.1 ≠ k) : mfind? (mins m k w) k = some w := by
  induction m with
  | nil => simp [mins, mfind?]
  | cons p r ih =>
    have hp : p.1 ≠ k := h p (by simp)
    have hr := ih (fun q hq => h q (by simp [hq]))
    by_cases hk : k < p.1 <;> simp [mins, mfind?, hk, hp, hr]

theorem mfind?_mins_ne (m : SMap α) {k j : Nat} (w : α) (h : j ≠ k) : mfind? (mins m k w) j = mfind? m j := by
  induction m with
  | nil => simp [mins, mfind?, Ne.symm h]
  | cons p r ih => by_cases hk : k < p.1 <;> simp [mins, mfind?, hk, Ne.symm h, ih]

@[simp] theorem mfind?_mput_self (m : SMap α) (k : Nat) (w : α) : mfind? (mput m k w) k = some w :=
  mfind?_mins_self _ k w (mdel_no_key m k)

theorem mfind?_mput_ne (m : SMap α) {k j : Nat} (w : α) (h : j ≠ k) : mfind? (mput m k w) j = mfind? m j := by
  rw [mput, mfind?_mins_ne _ w h, mfind?_mdel_ne m h]

theorem mfind?_map (f : α → β) (m : SMap α) (k : Nat) :
    mfind? (m.map (fun p => (p.1, f p.2))) k = (mfind? m k).map f := by
  induction m with
  | nil => rfl
  | cons p r ih => by_cases h : p.1 = k <;> simp [mfind?, h, ih]

end Maps

/-! ### A core changed where it is -/

section Cores
variable (s : State) (k : Nat) (f : Core → Core)

@[simp] theorem onCoreAt_mem : (onCoreAt k f s).mem = s.mem := by unfold onCoreAt setCoreAt; split <;> rfl
@[simp] theorem onCoreAt_home : (onCoreAt k f s).home = s.home := by unfold onCoreAt setCoreAt; split <;> rfl
@[simp] theorem onCoreAt_dist : (onCoreAt k f s).dist = s.dist := by unfold onCoreAt setCoreAt; split <;> rfl
@[simp] theorem onCoreAt_ctl : (onCoreAt k f s).ctl = s.ctl := by unfold onCoreAt setCoreAt; split <;> rfl

variable {s k f}

/-- A change that keeps a core's number keeps its key. -/
theorem coreKey_kept (hn : ∀ c, (f c).num = c.num ∧ (f c).ctl = c.ctl) (h : k = s.focus) :
    coreKey (f s.core).num (f s.core).ctl = k := by rw [(hn _).1, (hn _).2, h, State.focus]

/-- A change of the core in focus that leaves its number leaves the focus. -/
theorem focus_onCoreAt (h : k = s.focus → coreKey (f s.core).num (f s.core).ctl = k) : (onCoreAt k f s).focus = s.focus := by
  by_cases hk : k = s.focus
  · subst hk
    rw [onCoreAt_focus]
    exact h rfl
  · rw [onCoreAt, setCoreAt, if_neg hk]
    rfl

theorem coreAt_onCoreAt_self (h : k = s.focus → coreKey (f s.core).num (f s.core).ctl = k) :
    coreAt (onCoreAt k f s) k = f (coreAt s k) := by
  have hf := focus_onCoreAt h
  by_cases hk : k = s.focus
  · subst hk
    rw [coreAt, hf, if_pos rfl, onCoreAt_focus, onCore_core, coreAt_focus]
  · rw [coreAt, hf, if_neg hk, onCoreAt, setCoreAt, if_neg hk, mfind?_mput_self]
    rfl

theorem coreAt_onCoreAt_ne (h : k = s.focus → coreKey (f s.core).num (f s.core).ctl = k) {j : Nat} (hj : j ≠ k) :
    coreAt (onCoreAt k f s) j = coreAt s j := by
  have hf := focus_onCoreAt h
  by_cases hk : k = s.focus
  · subst hk
    rw [coreAt, hf, coreAt, if_neg hj, if_neg hj, onCoreAt_focus, onCore_others]
  · have hc : onCoreAt k f s = { s with others := mput s.others k (f (coreAt s k)) } := by rw [onCoreAt, setCoreAt, if_neg hk]
    rw [coreAt, hf, coreAt, hc, mfind?_mput_ne _ _ hj]

end Cores

/-! ### What leaves memory, the cores, the distributor and the control complex alone -/

/-- `t` is `s` but for the homes, meetings and groups, the torus and the count of free values. -/
def Apart (s t : State) : Prop := t = { s with home := t.home, grp := t.grp, net := t.net, free := t.free }

section Apart
variable {s t u : State}

theorem Apart.refl (s : State) : Apart s s := rfl

theorem Apart.trans (h : Apart s t) (k : Apart t u) : Apart s u := by
  unfold Apart at h k ⊢
  rw [k, h]

theorem Apart.mem_eq (h : Apart s t) : t.mem = s.mem := by rw [h]
theorem Apart.dist_eq (h : Apart s t) : t.dist = s.dist := by rw [h]
theorem Apart.coreAt_eq (h : Apart s t) (k : Nat) : coreAt t k = coreAt s k := by rw [h]; rfl

theorem apart_onHome (f : HomeSt → HomeSt) (s : State) : Apart s (onHome f s) := rfl
theorem apart_onGrp (f : GrpSt → GrpSt) (s : State) : Apart s (onGrp f s) := rfl
theorem apart_onNet (f : NetSt → NetSt) (s : State) : Apart s (onNet f s) := rfl
theorem apart_draw (s : State) : Apart s (draw s).2 := rfl

theorem apart_foldl {α : Type} {f : State → α → State} (hf : ∀ s a, Apart s (f s a)) (xs : List α) (s : State) :
    Apart s (xs.foldl f s) := by
  induction xs generalizing s with
  | nil => rfl
  | cons a r ih => exact (hf s a).trans (ih _)

theorem apart_chooseLink (src dst : Nat) (s : State) : Apart s (chooseLink s src dst).2 := by
  unfold chooseLink
  split
  · rfl
  · split <;> rfl

theorem apart_countDead (d : Nat) (s : State) : Apart s (countDead d s) := rfl

theorem apart_routeRef (r : PRef) (s : State) : Apart s (routeRef r s).2 := by
  have h := apart_chooseLink r.frm r.to_ s
  unfold routeRef
  split <;> rename_i hc <;> rw [hc] at h
  · exact h.trans rfl
  · dsimp only
    split
    · exact h.trans (apart_countDead _ _)
    · exact h

theorem apart_sendPkt (dst : Nat) (r : PktReq) (s : State) : Apart s (sendPkt dst r s) := by
  unfold sendPkt routePkt
  exact (apart_onNet _ s).trans ((apart_routeRef _ _).trans (apart_onNet _ _))

theorem apart_tell (pkg kind addr : Nat) (data : List Byte) (s : State) : Apart s (Machine.tell pkg kind addr data s) := by
  unfold Machine.tell
  split
  · rfl
  · split
    · exact apart_countDead _ s
    · exact apart_sendPkt _ _ s

theorem apart_withdrawFar (t : Nat) (s : State) : Apart s (withdrawFar t s) :=
  apart_foldl (fun _ _ => apart_tell _ _ _ _ _) _ s

theorem apart_dropArr (x : Arr) (s : State) : Apart s (dropArr x s) := by
  unfold dropArr
  split <;> rfl

theorem apart_forgetGroup (t : Nat) (x : Team) (g : Group) (s : State) : Apart s (forgetGroup t x g s) :=
  (apart_foldl (fun _ _ => apart_tell _ _ _ _ _) g.mems s).trans rfl

theorem apart_digestBack (gran : Nat) (old : SMap Byte) (s : State) : Apart s (digestBack gran old s) := by
  refine apart_foldl (fun s i => ?_) _ s
  dsimp only
  split <;> rfl

theorem apart_restoreObjs (t : Nat) (s : State) : Apart s (restoreObjs t s) := by
  refine (apart_onHome _ s).trans (apart_foldl (fun s o => ?_) _ _)
  dsimp only
  split <;> rfl

theorem apart_tileLost (a : Nat) (ask : List Byte) (s : State) : Apart s (tileLost a ask s) := by
  refine (apart_draw s).trans ?_
  simp only [tileLost, tileGot]
  split
  · split <;> rfl
  · rfl

theorem apart_askTiles (m : Meet) (c : MeetClose) (s : State) : Apart s (askTiles m c s) := by
  refine apart_foldl (fun s p => ?_) _ s
  split
  · exact (apart_countDead _ s).trans (apart_tileLost _ _ _)
  · exact apart_sendPkt _ _ s

theorem apart_restoreMeets (t : Nat) (s : State) : Apart s (restoreMeets t s) :=
  (apart_onGrp _ s).trans (apart_foldl (fun _ m => apart_foldl (fun _ c => apart_askTiles m c _) _ _) _ _)

end Apart

/-! ### What leaves the teams and at most lets cores go -/

/-- In `t` the teams are those of `s`, and every core is in its state of `s` or idle. -/
structure Settles (s t : State) : Prop where
  teams : t.dist.teams = s.dist.teams
  status : ∀ k, (coreAt t k).st = (coreAt s k).st ∨ (coreAt t k).st = .idle

section Settles
variable {s t u : State}

theorem Settles.refl (s : State) : Settles s s := ⟨rfl, fun _ => .inl rfl⟩

theorem Settles.trans (h : Settles s t) (k : Settles t u) : Settles s u := by
  refine ⟨k.teams.trans h.teams, fun c => ?_⟩
  rcases k.status c with hc | hc
  · rw [hc]; exact h.status c
  · exact .inr hc

theorem Apart.settles (h : Apart s t) : Settles s t := ⟨by rw [h.dist_eq], fun k => .inl (by rw [h.coreAt_eq])⟩

theorem Settles.teamOf_eq (h : Settles s t) (k : Nat) : teamOf t k = teamOf s k := by rw [teamOf, h.teams, teamOf]

theorem Settles.idle (h : Settles s t) {k : Nat} (hk : (coreAt s k).st = .idle) : (coreAt t k).st = .idle := by
  rcases h.status k with hs | hs
  · rw [hs, hk]
  · exact hs

theorem Settles.not_dhalt (h : Settles s t) {k : Nat} (hk : (coreAt s k).st ≠ .dhalt) : (coreAt t k).st ≠ .dhalt := by
  rcases h.status k with hs | hs <;> rw [hs]
  · exact hk
  · decide

theorem settles_foldl {α : Type} {f : State → α → State} (hf : ∀ s a, Settles s (f s a)) (xs : List α) (s : State) :
    Settles s (xs.foldl f s) := by
  induction xs generalizing s with
  | nil => exact .refl s
  | cons a r ih => exact (hf s a).trans (ih _)

/-- A change of one core that keeps its number and keeps its state or makes it idle. -/
theorem settles_onCoreAt (k : Nat) {f : Core → Core} (s : State) (hn : ∀ c, (f c).num = c.num ∧ (f c).ctl = c.ctl)
    (hs : ∀ c, (f c).st = c.st ∨ (f c).st = .idle) : Settles s (onCoreAt k f s) := by
  have hk := coreKey_kept (s := s) (k := k) hn
  refine ⟨by rw [onCoreAt_dist], fun j => ?_⟩
  by_cases hj : j = k
  · subst hj; rw [coreAt_onCoreAt_self hk]; exact hs _
  · rw [coreAt_onCoreAt_ne hk hj]; exact .inl rfl

theorem settles_setMem (m : SMap Byte) (s : State) : Settles s { s with mem := m } := ⟨rfl, fun _ => .inl rfl⟩

theorem settles_onDist {f : DistSt → DistSt} {s : State} (h : (f s.dist).teams = s.dist.teams) : Settles s (onDist f s) :=
  ⟨h, fun _ => .inl rfl⟩

theorem settles_clearIdx (area : Option CapArea) (caps : List (Nat × Nat)) (s : State) : Settles s (clearIdx area caps s) := by
  unfold clearIdx
  split
  · exact .refl s
  · exact settles_foldl (fun s _ => settles_setMem _ s) _ s

theorem settles_rcDropAll (p : Nat → Bool) (s : State) : Settles s (rcDropAll p s) := by
  refine ⟨rfl, fun k => .inl ?_⟩
  have hf : (rcDropAll p s).focus = s.focus := rfl
  have ho : mfind? (rcDropAll p s).others k = (mfind? s.others k).map (rcFilter p) := mfind?_map _ _ _
  rw [coreAt, coreAt, hf, ho]
  split
  · rfl
  · cases mfind? s.others k <;> rfl

theorem settles_closeWins (t : Nat) (s : State) : Settles s (closeWins t s) := by
  unfold closeWins
  exact (settles_foldl (fun _ _ => settles_clearIdx _ _ _) (teamWins s t) s).trans (apart_onHome _ _).settles

theorem settles_discardPass (t : Nat) (s : State) : Settles s (discardPass t s) := by
  unfold discardPass dropPassWins
  exact (apart_onHome _ s).settles.trans ((settles_foldl (fun _ _ => settles_clearIdx _ _ _) _ _).trans (apart_onHome _ _).settles)

theorem settles_restoreWins (t : Nat) (s : State) : Settles s (restoreWins t s) := by
  unfold restoreWins openWins
  refine (settles_closeWins t s).trans ((settles_foldl (fun s p => ?_) (teamWins s t) _).trans (apart_onHome _ _).settles)
  dsimp only
  split
  · exact (apart_onHome _ s).settles
  · refine (apart_onHome _ s).settles.trans (settles_foldl (fun s c => ?_) _ _)
    exact ((apart_onHome _ s).settles.trans (settles_rcDropAll _ _)).trans
      ((settles_setMem _ _).trans (apart_digestBack _ _ _).settles)

theorem settles_stopColls (t : Nat) (s : State) : Settles s (stopColls t s) := by
  unfold stopColls
  refine (settles_foldl (fun s c => ?_) _ s).trans (apart_onNet _ _).settles
  have hc := fun f hn hs => (apart_onHome _ s).settles.trans (settles_onCoreAt c.core (f := f) (collGone c.id s) hn hs)
  dsimp only
  split
  · exact hc _ (fun _ => ⟨rfl, rfl⟩) (fun _ => .inl rfl)
  · refine Settles.trans ?_ (apart_foldl (fun s p => apart_tell p _ _ _ s) _ _).settles
    exact hc _ (fun _ => ⟨rfl, rfl⟩) (fun _ => .inl rfl)

end Settles

/-! ### A team stopped, ended and rolled back (19 R336, R337) -/

section Rollback
variable (s : State) (t k : Nat)

/-- What `releaseCore` makes of a core. -/
def releasedCore (c : Core) : Core :=
  let r := { idleCore c with sp := c.sp }
  if c.st = .dhalt then { r with st := .dhalt, x := c.x } else r

theorem releasedCore_num (c : Core) : (releasedCore c).num = c.num ∧ (releasedCore c).ctl = c.ctl := by
  unfold releasedCore; dsimp only; split <;> exact ⟨rfl, rfl⟩

theorem releasedCore_idle {c : Core} (h : c.st ≠ .dhalt) : (releasedCore c).st = .idle := by
  simp only [releasedCore, h, if_false]; rfl

theorem releasedCore_st (c : Core) : (releasedCore c).st = c.st ∨ (releasedCore c).st = .idle := by
  by_cases h : c.st = .dhalt
  · simp [releasedCore, h]
  · exact .inr (releasedCore_idle h)

theorem releaseCore_eq : releaseCore k s =
    onHome (fun h => { h with arrivals := h.arrivals.filter (fun x => !x.ctl.any (fun y => decide (y.core = k))) })
      (forgetLines k (onCoreAt k releasedCore s)) := rfl

theorem settles_releaseCore : Settles s (releaseCore k s) := by
  rw [releaseCore_eq]
  exact (settles_onCoreAt k s releasedCore_num releasedCore_st).trans ((apart_onNet _ _).trans (apart_onHome _ _)).settles

theorem releaseCore_idle {k : Nat} {s : State} (h : (coreAt s k).st ≠ .dhalt) : (coreAt (releaseCore k s) k).st = .idle := by
  have he : coreAt (releaseCore k s) k = coreAt (onCoreAt k releasedCore s) k :=
    ((apart_onNet _ _).trans (apart_onHome _ _)).coreAt_eq k
  rw [he, coreAt_onCoreAt_self (coreKey_kept releasedCore_num)]
  exact releasedCore_idle h

/-- `t` is `s` with the cores `ks` let go, save the halted ones. -/
def LetGo (ks : List Nat) (s t : State) : Prop :=
  Settles s t ∧ ∀ k ∈ ks, (coreAt s k).st ≠ .dhalt → (coreAt t k).st = .idle

theorem letGo_foldl {f : State → Nat → State} (hf : ∀ s k, LetGo [k] s (f s k)) (ks : List Nat) (s : State) :
    LetGo ks s (ks.foldl f s) := by
  induction ks generalizing s with
  | nil => exact ⟨.refl s, by simp⟩
  | cons a r ih =>
    obtain ⟨h1, hi⟩ := hf s a
    obtain ⟨h2, hr⟩ := ih (f s a)
    refine ⟨h1.trans h2, fun k hk hd => ?_⟩
    rcases List.mem_cons.mp hk with rfl | hk
    · exact h2.idle (hi _ (by simp) hd)
    · exact hr k hk (h1.not_dhalt hd)

theorem LetGo.after {ks : List Nat} {s t u : State} (h1 : Settles s t) (h : LetGo ks t u) : LetGo ks s u :=
  ⟨h1.trans h.1, fun k hk hd => h.2 k hk (h1.not_dhalt hd)⟩

theorem LetGo.before {ks : List Nat} {s t u : State} (h : LetGo ks s t) (h2 : Settles t u) : LetGo ks s u :=
  ⟨h.1.trans h2, fun k hk hd => h2.idle (h.2 k hk hd)⟩

/-- A core let go after a change that keeps its number and its state. -/
theorem letGo_releaseCore {f : Core → Core} (hf : ∀ c, (f c).num = c.num ∧ (f c).ctl = c.ctl) (hs : ∀ c, (f c).st = c.st) :
    LetGo [k] s (releaseCore k (onCoreAt k f s)) := by
  have h := settles_onCoreAt k s hf (fun c => .inl (hs c))
  refine ⟨h.trans (settles_releaseCore _ k), fun j hj hd => ?_⟩
  obtain rfl := List.mem_singleton.mp hj
  exact releaseCore_idle (h.not_dhalt hd)

/-- A team stopped: the teams stand, its cores are let go, and no other core changes its state but to become idle. -/
theorem letGo_stopTeam : LetGo (coresOf s t) s (stopTeam t s) := by
  unfold stopTeam
  dsimp only
  refine LetGo.before ?_ (settles_onDist rfl)
  refine LetGo.before ?_ (settles_discardPass t _)
  refine LetGo.before ?_ (settles_stopColls t _)
  refine LetGo.before ?_ (apart_onHome _ _).settles
  refine LetGo.before ?_ (apart_onHome _ _).settles
  refine LetGo.after (Apart.settles ?_) (letGo_foldl (fun s k => ?_) _ _)
  · exact (apart_withdrawFar t s).trans (Apart.trans (apart_foldl (fun s x => apart_dropArr x s) _ _) (apart_onHome _ _))
  · exact letGo_releaseCore s k (fun _ => ⟨rfl, rfl⟩) (fun _ => rfl)

/-- The end of a team: its notice is pushed from a state whose memory has the windows closed, then its number is free. -/
theorem endTeam_eq {x : Team} (st : Nat) (hx : teamOf s t = some x) :
    ∃ v, v.mem = (closeWins t (stopTeam t s)).mem ∧
      endTeam t st s = onDist (fun d => { d with teams := mdel d.teams t })
        (notify x.card.doneq (noticeBytes (t + x.gen * 2 ^ 12) st x.card.n) x.asid (some t) v) := by
  unfold endTeam
  rw [hx]
  refine ⟨_, ?_, rfl⟩
  refine Apart.mem_eq (Apart.trans (?_ : Apart _ _) (apart_onGrp _ _))
  split
  · exact (apart_onGrp _ _).trans (apart_forgetGroup _ _ _ _)
  · exact apart_onGrp _ _

/-- Slots put change nothing but the slots. -/
theorem foldl_putSlot (g : Nat × PSlot → PSlot) (xs : List (Nat × PSlot)) (u : State) :
    ∃ m, xs.foldl (fun s p => putSlot p.1 (g p) s) u = onDist (fun d => { d with slots := m }) u := by
  induction xs generalizing u with
  | nil => exact ⟨u.dist.slots, rfl⟩
  | cons p r ih =>
    obtain ⟨m, hm⟩ := ih (putSlot p.1 (g p) u)
    exact ⟨m, hm⟩

theorem onTeam_of_team {f : Team → Team} {x : Team} (hx : teamOf s t = some x) :
    onTeam t f s = onDist (fun d => { d with teams := mput d.teams t (f x) }) s := by rw [onTeam, hx]

/-- A rollback that is possible: after the restored windows only the homes, the networks, slots and the team's own record change. -/
theorem rollTeam_eq {x : Team} (hx : teamOf s t = some x) (hf : rollFails s t = false) :
    ∃ (u : State) (f : Team → Team) (g : Nat × PSlot → PSlot), Apart (restoreWins t (stopTeam t s)) u ∧
      rollTeam t false s = onTeam t f (x.ck.slots.foldl (fun s p => putSlot p.1 (g p) s) u) ∧
      (f x).live = x.ck.live ∧ (f x).conts = x.ck.conts ∧ (f x).back = x.ck.back ∧ (f x).nextIdx = x.ck.nextIdx ∧
      (f x).part = x.ck.part ∧ (f x).ready = x.ck.ready ∧ (f x).rolls = (x.rolls + 1) % 2 ^ 32 ∧ (f x).ckBusy = none ∧
      (f x).ckStop = false ∧ (f x).pre = [] := by
  have hteam : ∀ u, Apart (restoreWins t (stopTeam t s)) u → teamOf u t = some x := fun u hu =>
    ((((letGo_stopTeam s t).1.trans (settles_restoreWins t _)).trans hu.settles).teamOf_eq t).trans hx
  have hback := (apart_restoreObjs t (restoreWins t (stopTeam t s))).trans (apart_restoreMeets t _)
  unfold rollTeam
  simp only [hx, hf, Bool.or_self, Bool.false_eq_true, if_false]
  rw [hteam _ ?_]
  refine ⟨_, _, _, ?_, rfl, rfl, rfl, rfl, rfl, rfl, rfl, rfl, rfl, rfl, rfl⟩
  all_goals
    refine hback.trans (Apart.trans (?_ : Apart _ _) (apart_onGrp _ _))
    split
    · exact apart_foldl (fun s m => apart_tell _ _ _ _ s) _ _
    · exact .refl _

/-- A rollback restores the team's checkpoint, or ends the team where that is impossible. -/
theorem rollTeam_rolledBack : rolledBack t s (rollTeam t false s) := by
  intro x hx
  refine ⟨fun hf => ?_, fun hf => ?_⟩
  · obtain ⟨u, f, g, hu, hz, hlive, hconts, hback, hnext, hpart, hready, hrolls, hbusy, hstop, hpre⟩ := rollTeam_eq s t hx hf
    obtain ⟨m, hm⟩ := foldl_putSlot g x.ck.slots u
    obtain ⟨hsettles, hidle⟩ := (letGo_stopTeam s t).before ((settles_restoreWins t _).trans hu.settles)
    have ht : teamOf u t = some x := (hsettles.teamOf_eq t).trans hx
    rw [hz, hm, onTeam_of_team (onDist (fun d => { d with slots := m }) u) t ht]
    exact ⟨f x, mfind?_mput_self _ _ _, hlive, hconts, hback, hnext, hpart, hready, hrolls, hbusy, hstop, hpre, hu.mem_eq, hidle⟩
  · have he : rollTeam t false s = endTeam t 2 s := by simp [rollTeam, hx, hf]
    obtain ⟨v, hv, hz⟩ := endTeam_eq s t 2 hx
    rw [he, hz]
    exact ⟨mfind?_mdel_self _ _, v, hv, rfl⟩

end Rollback

/-! ### The start of the control cores (25 R394) -/

/-- Control core `k` in its handler at the entry. -/
def startedCore (k now entry : Nat) : Core :=
  { Core.reset k true with st := .handler, now := now, iss := { Iss.reset with npc := wd entry } }

/-- Control core `k` started, no earlier than the package's time. -/
def startOne (s : State) (k : Nat) : State :=
  onCoreAt (1024 + k) (fun c => startedCore k (if c.now < 2 * s.time then 2 * s.time else c.now) s.ctl.entry) s

theorem startCtl_eq (s : State) : startCtl s = (List.range 16).foldl startOne s := rfl

theorem coreAt_startOne_self (s : State) (k : Nat) : ∃ now, coreAt (startOne s k) (1024 + k) = startedCore k now s.ctl.entry :=
  ⟨_, coreAt_onCoreAt_self (fun _ => rfl)⟩

theorem coreAt_startOne_ne (s : State) {k j : Nat} (h : j ≠ k) : coreAt (startOne s k) (1024 + j) = coreAt s (1024 + j) :=
  coreAt_onCoreAt_ne (k := 1024 + k) (fun _ => rfl) (by omega)

/-- The first `n` control cores started: those stand in their handler, and memory, homes, distributor and control complex are as they were. -/
theorem foldl_startOne (z : State) (n : Nat) :
    let y := (List.range n).foldl startOne z
    y.mem = z.mem ∧ y.home = z.home ∧ y.dist = z.dist ∧ y.ctl = z.ctl ∧
      ∀ k, k < n → ∃ now, coreAt y (1024 + k) = startedCore k now z.ctl.entry := by
  induction n with
  | zero => exact ⟨rfl, rfl, rfl, rfl, fun k hk => absurd hk (by omega)⟩
  | succ n ih =>
    obtain ⟨hmem, hhome, hdist, hctl, hcores⟩ := ih
    rw [List.range_succ, List.foldl_append, List.foldl_cons, List.foldl_nil]
    refine ⟨(onCoreAt_mem ..).trans hmem, (onCoreAt_home ..).trans hhome, (onCoreAt_dist ..).trans hdist,
      (onCoreAt_ctl ..).trans hctl, fun k hk => ?_⟩
    rcases Nat.lt_succ_iff_lt_or_eq.mp hk with hlt | rfl
    · rw [coreAt_startOne_ne _ (by omega)]
      exact hcores k hlt
    · rw [← hctl]
      exact coreAt_startOne_self _ _

/-! ### Requests that are performed (25 R394) -/

section Requests
variable {s : State} {q : List Byte} {cmd : Nat}

theorem mgmt_reading (h : request s cmd none q) {f : State → Nat × List Byte × State} {st : Nat} {d : List Byte} {t : State}
    (hf : f s = (st, d, t)) : mgmt cmd none q f s = .next (mgReply q st d t) := by
  obtain ⟨hc, hl, -⟩ := h
  have h1 : ¬ q.length < 44 := by omega
  have h2 : ¬ q.length < 44 + mgLen q := by omega
  simp [mgmt, hc, h1, h2, hf]

/-- A mutating request is performed with its sequence number taken as the last. -/
theorem mgmt_mutating {sig : Sigs} (h : request s cmd (some sig) q) {f : State → Nat × List Byte × State} {st : Nat}
    {d : List Byte} {t : State} (hf : f (onCtl (fun c => { c with lastSeq := leAt q 4 8 }) s) = (st, d, t)) :
    mgmt cmd (some sig) q f s = .next (mgReply q st d t) := by
  obtain ⟨hc, hl, hs⟩ := h
  obtain ⟨hsig, ha⟩ := hs sig rfl
  have h1 : ¬ q.length < 44 := by omega
  have h2 : ¬ q.length < 44 + mgLen q := by omega
  simp [mgmt, hc, h1, h2, ← hsig, ha, hf]

theorem mgmt_unauthentic {sig : Sigs} (hc : leAt q 0 2 = cmd) (hl : 44 ≤ q.length) (hsig : sig = sigsOf q) (ha : mgAuth s sig q = false)
    (f : State → Nat × List Byte × State) : mgmt cmd (some sig) q f s = .next (mgReply q gAUTH [] s) := by
  have h1 : ¬ q.length < 44 := by omega
  simp [mgmt, hc, h1, ← hsig, ha]

theorem regWrite_pcap {v : Word} (hlow : 600 ≤ fld v 10 0) (hhigh : fld v 10 0 ≤ 1800) (s : State) :
    regWrite 0x00C0 v s = onCtl (fun c => { c with pcap := fld v 10 0 }) s := by
  rw [regWrite, if_neg (by decide), if_pos rfl, if_pos ⟨hlow, hhigh⟩]

theorem retire_new {pa : Nat} (hunit : pa % 2 ^ 16 = 0) (hpa : pa < 2 ^ 39) (hnew : s.ctl.retired.contains (pa / 2 ^ 16) = false)
    (hroom : s.ctl.retired.length < 1024) :
    retire pa s = (gOK, onCtl (fun c => { c with retired := c.retired ++ [pa / 2 ^ 16] }) s) := by
  have h1 : ¬ (pa % 2 ^ 16 ≠ 0 ∨ 2 ^ 39 ≤ pa) := by omega
  have h2 : ¬ s.ctl.retired.contains (pa / 2 ^ 16) = true := by rw [hnew]; decide
  have h3 : ¬ 1024 ≤ s.ctl.retired.length := by omega
  have h4 : ¬ (pa % 2 ^ 16 ≠ 0 ∨ 2 ^ 39 ≤ pa ∨ s.ctl.retired.contains (pa / 2 ^ 16) = true ∨ 1024 ≤ s.ctl.retired.length) := by
    rintro (h | h | h | h)
    · exact h1 (.inl h)
    · exact h1 (.inr h)
    · exact h2 h
    · exact h3 h
  rw [retire, if_neg h1, if_neg h2, if_neg h3, retireUnit, if_neg h4]

end Requests

/-- Settles O53: each command's step is `mgmt` of what the command does, and the frames of START, RESET and ROLLBACK are lemmas. -/
theorem managementSteps : Obligations.ManagementSteps := by
  intro s q more far t len ed ml u x sig req
  refine ⟨fun h => ?getid, fun h => ?attest, ?loados, fun h hrun => ?start, fun hc hl hsig ha => ?startRefused, fun h => ?reset, fun h => ?podset,
    fun h => ?linktrain, fun h hlow hhigh => ?pcapset, fun h hunit hpa hnew hroom => ?retire, fun h halign => ?launch, fun h ht => ?rollback,
    fun z d => rfl, fun z => ?startFrame, fun z => ?resetFrame, fun z => rollTeam_rolledBack z t⟩
  case getid =>
    show execGetid q s = _
    refine mgmt_reading h ?_
    simp only [identity, edSeed, mlSeed, gOK, List.append_assoc]
  case attest =>
    show execAttest q s = _
    exact mgmt_reading h rfl
  case loados =>
    intro i a im h hrun hi hlen hbuf m
    have hr : ¬ u.ctl.run = true := by simp [u, hrun]
    have hb : portBuf u a im.length = true := hbuf
    have hok : ¬ (8 ≤ i ∨ 2 ^ 28 < im.length ∨ portBuf u a im.length = false) := by rw [hb]; simp; omega
    show execLoados q more len ed ml s = _
    exact mgmt_mutating h ((if_neg hr).trans (if_neg hok))
  case start =>
    have hr : ¬ u.ctl.run = true := by simp [u, hrun]
    show execStart q sig s = _
    exact mgmt_mutating h (if_neg hr)
  case startRefused =>
    show execStart q sig s = _
    exact mgmt_unauthentic hc hl hsig ha _
  case reset =>
    show execReset q sig s = _
    exact mgmt_mutating h rfl
  case podset =>
    show execPodset q sig s = _
    exact mgmt_mutating h rfl
  case linktrain =>
    show execLinktrain q sig s = _
    exact mgmt_mutating h rfl
  case pcapset =>
    show execPcapset q sig s = _
    exact mgmt_mutating h (congrArg (fun z => (gOK, [], z)) (regWrite_pcap hlow hhigh u))
  case retire =>
    show execRetire q sig s = _
    exact mgmt_mutating h (congrArg (fun z => (z.1, [], z.2)) (retire_new (s := u) hunit hpa hnew hroom))
  case launch =>
    intro p l z args z' htr hreg hret b hargs xd w r
    have ha : ¬ (wd x).toNat % 64 ≠ 0 := by omega
    have hp : ¬ (isReg p || retired z p) = true := by rw [hreg, hret]; decide
    show execMgmtLaunch q far sig s = _
    refine mgmt_mutating h ((if_neg ha).trans ?_)
    rw [htr]
    refine (if_neg hp).trans ?_
    dsimp only
    rw [hargs]
    rfl
  case rollback =>
    show execMgmtRollback q sig s = _
    refine mgmt_mutating h ?_
    rw [show teamByHandle (onCtl _ s) (mgNum q) = some t from ht]
    rfl
  case startFrame =>
    rw [startCtl_eq]
    exact foldl_startOne z 16
  case resetFrame => exact ⟨rfl, rfl, rfl, rfl, rfl, rfl, rfl, rfl, rfl, rfl, rfl⟩

end Sys2Proof.Proofs
end

section
/-!
PROOFS. The instruction encoding (03 R43, R44, R51, R52). `fieldsOf_placeFields` is the one fact about bits: fields that fill
a word once are read back. `find?_row` says why no other row of a slot's class takes the word.
-/
namespace Sys2Proof.Proofs

/-! ### Bits that stand apart -/

section Bits

/-- A sum is the bits two numbers take together and, once more, those they share. -/
theorem or_add_and (a b : Nat) : (a ||| b) + (a &&& b) = a + b := by
  induction a using Nat.strongRecOn generalizing b with
  | ind a ih =>
    rcases Nat.eq_zero_or_pos a with rfl | ha
    · simp
    · have hrec := ih (a / 2) (by omega) (b / 2)
      have hlow : (a ||| b) % 2 + (a &&& b) % 2 = a % 2 + b % 2 := by
        have hor := Nat.or_mod_two_pow (a := a) (b := b) (n := 1)
        have hand := Nat.and_mod_two_pow (a := a) (b := b) (n := 1)
        rw [Nat.pow_one] at hor hand
        rw [hor, hand]
        rcases Nat.mod_two_eq_zero_or_one a with h | h <;> rcases Nat.mod_two_eq_zero_or_one b with k | k <;> simp [h, k]
      rw [← Nat.or_div_two, ← Nat.and_div_two] at hrec
      omega

theorem or_le_add (a b : Nat) : a ||| b ≤ a + b := or_add_and a b ▸ Nat.le_add_right _ _

theorem and_eq_zero_of_or_eq_add {a b : Nat} (h : a ||| b = a + b) : a &&& b = 0 := by
  have := or_add_and a b
  omega

theorem or_eq_add_of_and_eq_zero {a b : Nat} (h : a &&& b = 0) : a ||| b = a + b := by
  have := or_add_and a b
  omega

/-- Of two numbers within apart masks no bit is common. -/
theorem and_zero_of_submask {m mask v f : Nat} (hm : m &&& mask = m) (hv : v &&& f = v) (h : mask &&& f = 0) : m &&& v = 0 := by
  rw [← hm, ← hv, show m &&& mask &&& (v &&& f) = m &&& v &&& (mask &&& f) by ac_rfl, h, Nat.and_zero]

theorem or_and_or_of_submask {m mask v f : Nat} (hm : m &&& mask = m) (hv : v &&& f = v) : (m ||| v) &&& (mask ||| f) = m ||| v := by
  refine Nat.eq_of_testBit_eq fun i => ?_
  have hmi := congrArg (Nat.testBit · i) hm
  have hvi := congrArg (Nat.testBit · i) hv
  simp only [Nat.testBit_and, Nat.testBit_or] at hmi hvi ⊢
  revert hmi hvi
  cases m.testBit i <;> cases v.testBit i <;> simp +contextual

/-- What a number has within two apart masks, told mask by mask. -/
theorem and_masks_of_apart {w m mask v f : Nat} (hw : w &&& (mask ||| f) = m ||| v) (hm : m &&& mask = m) (hv : v &&& f = v)
    (h : mask &&& f = 0) : w &&& mask = m ∧ w &&& f = v := by
  have hmask : (mask ||| f) &&& mask = mask := by
    rw [Nat.and_or_distrib_right, Nat.and_self, Nat.and_comm f, h, Nat.or_zero]
  have hf : (mask ||| f) &&& f = f := by
    rw [Nat.and_or_distrib_right, Nat.and_self, h, Nat.zero_or]
  have hvmask : v &&& mask = 0 := by
    rw [Nat.and_comm]
    exact and_zero_of_submask (Nat.and_self _) hv h
  constructor
  · rw [← hmask, ← Nat.and_assoc, hw, Nat.and_or_distrib_right, hm, hvmask, Nat.or_zero]
  · rw [← hf, ← Nat.and_assoc, hw, Nat.and_or_distrib_right, hv, and_zero_of_submask hm (Nat.and_self _) h, Nat.zero_or]

end Bits

/-! ### Fields put at their places and read back (03 R48) -/

section Fields

/-- The bits of one field. -/
def fieldMask (p : Nat × Nat) : Nat := (2 ^ p.2 - 1) * 2 ^ p.1

theorem and_fieldMask (w : Nat) (p : Nat × Nat) : w &&& fieldMask p = w / 2 ^ p.1 % 2 ^ p.2 * 2 ^ p.1 := by
  refine Nat.eq_of_testBit_eq fun i => ?_
  simp only [fieldMask, Nat.testBit_and, Nat.testBit_mul_two_pow, Nat.testBit_two_pow_sub_one, Nat.testBit_mod_two_pow,
    Nat.testBit_div_two_pow]
  by_cases h : p.1 ≤ i
  · simp [h, Bool.and_comm]
  · simp [h]

theorem field_and_fieldMask {v : Nat} {p : Nat × Nat} (hv : v < 2 ^ p.2) : v * 2 ^ p.1 &&& fieldMask p = v * 2 ^ p.1 := by
  rw [and_fieldMask, Nat.mul_div_cancel _ (Nat.two_pow_pos _), Nat.mod_eq_of_lt hv]

/-- The masks of the fields joined to a mask take at most its bits and theirs. -/
theorem foldl_or_le (ps : List (Nat × Nat)) (mask : Nat) :
    ps.foldl (fun a p => a ||| fieldMask p) mask ≤ mask + Laws.fieldBits ps := by
  induction ps generalizing mask with
  | nil => simp [Laws.fieldBits]
  | cons p ps ih =>
    have h := ih (mask ||| fieldMask p)
    have := or_le_add mask (fieldMask p)
    simp only [Laws.fieldBits, List.map_cons, List.sum_cons, List.foldl_cons] at h ⊢
    simp only [fieldMask] at h this ⊢
    omega

/-- Where mask and fields together fill `full`, each bit once, operands that fit are read back at their places, under fixed
bits that stand. -/
theorem fieldsOf_placeFields {full : Nat} {ps : List (Nat × Nat)} {os : List Opnd} {mask mat : Nat} (hmat : mat &&& mask = mat)
    (hjoin : ps.foldl (fun a p => a ||| fieldMask p) mask = full) (hsum : mask + Laws.fieldBits ps = full)
    (hwidth : ps.map Prod.snd = os.map Opnd.width) (hfit : ∀ o ∈ os, o.val < 2 ^ o.width) :
    fieldsOf (mat + placeFields ps (os.map Opnd.val)) ps = os.map Opnd.val ∧
      (mat + placeFields ps (os.map Opnd.val)) &&& mask = mat ∧
      (mat + placeFields ps (os.map Opnd.val)) &&& full = mat + placeFields ps (os.map Opnd.val) := by
  induction ps generalizing os mask mat with
  | nil =>
    obtain rfl : mask = full := hjoin
    obtain rfl : os = [] := List.map_eq_nil_iff.mp hwidth.symm
    exact ⟨rfl, hmat, hmat⟩
  | cons p ps ih =>
    obtain ⟨o, os, rfl, hp, hps⟩ := List.map_eq_cons_iff.mp hwidth.symm
    have hv : o.val < 2 ^ p.2 := hp ▸ hfit o List.mem_cons_self
    rw [List.map_cons]
    generalize o.val = v at hv
    have hle := foldl_or_le ps (mask ||| fieldMask p)
    have hbits : Laws.fieldBits (p :: ps) = fieldMask p + Laws.fieldBits ps := rfl
    rw [List.foldl_cons] at hjoin
    have hor : mask ||| fieldMask p = mask + fieldMask p := by
      have := or_le_add mask (fieldMask p)
      omega
    have hapart := and_eq_zero_of_or_eq_add hor
    have hself := field_and_fieldMask hv
    have hmat' : (mat ||| v * 2 ^ p.1) &&& (mask ||| fieldMask p) = mat ||| v * 2 ^ p.1 := or_and_or_of_submask hmat hself
    obtain ⟨hread, hmask, hfull⟩ := ih hmat' hjoin (by omega) hps.symm (fun o ho => hfit o (List.mem_cons_of_mem _ ho))
    have hw : (mat ||| v * 2 ^ p.1) + placeFields ps (os.map Opnd.val) = mat + placeFields (p :: ps) (v :: os.map Opnd.val) := by
      rw [or_eq_add_of_and_eq_zero (and_zero_of_submask hmat hself hapart), placeFields, Nat.add_assoc]
    rw [hw] at hread hmask hfull
    generalize mat + placeFields (p :: ps) (v :: os.map Opnd.val) = w at hread hmask hfull ⊢
    obtain ⟨hfixed, hfield⟩ := and_masks_of_apart hmask hmat hself hapart
    have hvalue : w / 2 ^ p.1 % 2 ^ p.2 = v := Nat.eq_of_mul_eq_mul_right (Nat.two_pow_pos p.1) (and_fieldMask w p ▸ hfield)
    refine ⟨?_, hfixed, hfull⟩
    rw [fieldsOf, List.map_cons, hvalue]
    exact congrArg (v :: ·) hread

end Fields

/-! ### Rows -/

section Rows
variable {i : Instr} {r : Row} {rows : List Row} {j limm w : Nat}

/-- The operand fields of an instruction with a row put back make it, and the row gives each its width. -/
theorem make_ops_of_rowOf (h : rowOf i = some r) :
    r.make (i.ops.map Opnd.val) = some i ∧ r.pos.map Prod.snd = i.ops.map Opnd.width := by
  cases i <;> cases h <;> exact ⟨rfl, rfl⟩

/-- Every slot's class is one of the seven the encoding has, or empty. -/
theorem rowsFor_class (j : Nat) : rowsFor j = [] ∨ ∃ k ∈ [0, 1, 2, 3, 4, 12, 13], rowsFor j = rowsFor k := by
  by_cases hown : j < 4 ∨ j = 12 ∨ j = 13
  · exact .inr ⟨j, by simp only [List.mem_cons, List.not_mem_nil, or_false]; omega, rfl⟩
  · have hhigh : rowsFor j = if j ≤ 11 then rowsVec else [] := by
      rw [rowsFor, if_neg (by omega), if_neg (by omega), if_neg (by omega), if_neg (by omega),
        if_neg (c := j = 12) (by omega), if_neg (c := j = 13) (by omega)]
    by_cases hvec : j ≤ 11
    · exact .inr ⟨4, by simp, hhigh.trans (if_pos hvec)⟩
    · exact .inl (hhigh.trans (if_neg hvec))

theorem rowsApart_rowsFor (j : Nat) : Laws.rowsApart (rowsFor j) = true := by
  obtain h | ⟨k, hk, h⟩ := rowsFor_class j
  · rw [h]; rfl
  · rw [h]; exact List.all_eq_true.mp Laws.rowsApart_classes k hk

theorem rowFills_rowsFor (hr : r ∈ rowsFor j) : Laws.rowFills r = true := by
  obtain h | ⟨k, hk, h⟩ := rowsFor_class j
  · rw [h] at hr; exact absurd hr List.not_mem_nil
  · exact List.all_eq_true.mp (List.all_eq_true.mp Laws.rowFills_classes k hk) r (h ▸ hr)

/-- What a row makes of a word's fields is an instruction of that row. -/
theorem rowOf_make (hr : r ∈ rowsFor j) (w : Nat) : (r.make (fieldsOf w r.pos)).map rowOf = some (some r) := by
  have hclasses : ∀ k ∈ [0, 1, 2, 3, 4, 12, 13],
      (rowsFor k).map (fun r => (r.make (fieldsOf w r.pos)).map rowOf) = (rowsFor k).map (fun r => some (some r)) := by
    simp only [List.forall_mem_cons]
    exact ⟨rfl, rfl, rfl, rfl, rfl, rfl, rfl, List.forall_mem_nil _⟩
  obtain h | ⟨k, hk, h⟩ := rowsFor_class j
  · rw [h] at hr; exact absurd hr List.not_mem_nil
  · exact List.map_inj_left.mp (hclasses k hk) r (h ▸ hr)

/-- Two rows that both have a word's fixed bits agree where both fix them. -/
theorem xor_and_of_match {q : Row} (hr : w &&& r.mask = r.mat) (hq : w &&& q.mask = q.mat) :
    (q.mat ^^^ r.mat) &&& q.mask &&& r.mask = 0 := by
  rw [← hr, ← hq, Nat.and_assoc, Nat.and_xor_distrib_right]
  rw [show w &&& q.mask &&& (q.mask &&& r.mask) = w &&& r.mask &&& (q.mask &&& r.mask) by ac_rfl, Nat.xor_self]

/-- Among rows apart, the row whose fixed bits a word has is found. -/
theorem find?_row (hapart : Laws.rowsApart rows = true) (hr : r ∈ rows) (hw : w &&& r.mask = r.mat) :
    rows.find? (fun q => decide (w &&& q.mask = q.mat)) = some r := by
  induction rows with
  | nil => exact absurd hr List.not_mem_nil
  | cons q rows ih =>
    simp only [Laws.rowsApart, Bool.and_eq_true, List.all_eq_true, decide_eq_true_eq] at hapart
    obtain ⟨hq, hrest⟩ := hapart
    rcases List.mem_cons.mp hr with rfl | hr
    · exact List.find?_cons_of_pos (decide_eq_true hw)
    · rw [List.find?_cons_of_neg (by simpa using fun hm => hq r hr (xor_and_of_match hw hm))]
      exact ih hrest hr

theorem ops_fit (hwf : i.wf = true) : ∀ o ∈ i.ops, o.val < 2 ^ o.width := by
  intro o ho
  have hok := List.all_eq_true.mp hwf o ho
  simp only [Opnd.ok, Bool.and_eq_true, decide_eq_true_eq] at hok
  exact hok.1

/-- The word of a well-formed instruction has its row's fixed bits and the instruction's fields, and fits 32 bits. -/
theorem encode_row (hrow : rowOf i = some r) (hr : r ∈ rowsFor j) (hwf : i.wf = true) :
    fieldsOf (encode i) r.pos = i.ops.map Opnd.val ∧ encode i &&& r.mask = r.mat ∧ encode i < 2 ^ 32 := by
  have hfills := rowFills_rowsFor hr
  simp only [Laws.rowFills, Bool.and_eq_true, decide_eq_true_eq] at hfills
  obtain ⟨⟨hmat, hsum⟩, hjoin⟩ := hfills
  obtain ⟨hread, hmask, hfull⟩ := fieldsOf_placeFields hmat hjoin hsum (make_ops_of_rowOf hrow).2 (ops_fit hwf)
  have henc : encode i = r.mat + placeFields r.pos (i.ops.map Opnd.val) := by simp only [encode, hrow]
  rw [henc]
  exact ⟨hread, hmask, Nat.lt_succ_of_le (hfull ▸ Nat.and_le_right)⟩

theorem decodeSlot_encode (hrow : rowOf i = some r) (hr : r ∈ rowsFor j) (hwf : i.wf = true) (henc : i.encOk limm = true) :
    decodeSlot j limm (encode i) = some i := by
  obtain ⟨hfields, hmask, -⟩ := encode_row hrow hr hwf
  have hmake := (make_ops_of_rowOf hrow).1
  simp [decodeSlot, find?_row (rowsApart_rowsFor j) hr hmask, hfields, hmake, hwf, henc]

/-- The long form of LMODE makes a legal instruction of slot 0 (04 R89). -/
theorem decodeLmodeLong_legal (h : decodeLmodeLong limm w = some i) :
    i.wf = true ∧ i.encOk limm = true ∧ ∃ r, rowOf i = some r ∧ r ∈ rowsFor 0 := by
  have hg : w / 2 ^ 23 % 8 < 8 := Nat.mod_lt _ (by decide)
  have hn : w / 2 ^ 22 % 2 < 2 := Nat.mod_lt _ (by decide)
  unfold decodeLmodeLong at h
  generalize w / 2 ^ 23 % 8 = g, w / 2 ^ 22 % 2 = n at h hg hn
  split at h
  case isFalse => exact absurd h (by simp)
  case isTrue hword =>
    split at h <;> obtain rfl := Option.some.inj h
    · have hm : limm < 2 := by omega
      exact ⟨by simp [Instr.wf, Instr.ops, Opnd.ok, hg, hn, hm], rfl, rowLMODE, rfl, by simp [rowsFor, rowsS0, rowsS00]⟩
    · have hm : limm - 2 < 2 := by omega
      exact ⟨by simp [Instr.wf, Instr.ops, Opnd.ok, hg, hn, hm], rfl, rowLMODEL, rfl, by simp [rowsFor, rowsS0, rowsS00]⟩

theorem decodeSlot_legal (h : decodeSlot j limm w = some i) :
    i.wf = true ∧ i.encOk limm = true ∧ ∃ r, rowOf i = some r ∧ r ∈ rowsFor j := by
  unfold decodeSlot at h
  split at h
  case h_1 =>
    split at h
    case isFalse => exact absurd h (by simp)
    case isTrue hj => exact hj ▸ decodeLmodeLong_legal h
  case h_2 r hfind =>
    have hr := List.mem_of_find?_eq_some hfind
    split at h
    case h_1 => exact absurd h (by simp)
    case h_2 k hmake =>
      split at h
      case isFalse => exact absurd h (by simp)
      case isTrue hlegal =>
        obtain rfl := Option.some.inj h
        rw [Bool.and_eq_true] at hlegal
        have hrow := rowOf_make hr w
        rw [hmake] at hrow
        exact ⟨hlegal.1, hlegal.2, r, Option.some.inj hrow, hr⟩

end Rows

/-- Settles O57: the encoder's word is read back field by field by its own row, and every row makes its own instruction. -/
theorem encodeDecodeRoundTrip : Obligations.EncodeDecodeRoundTrip :=
  ⟨fun _ _ _ _ hrow hr hwf henc => ⟨(encode_row hrow hr hwf).2.2, decodeSlot_encode hrow hr hwf henc⟩,
    fun _ _ _ _ _ h => decodeSlot_legal h⟩

/-- Settles O58: each word is decoded by evaluation. -/
theorem exampleWordsDecode : Obligations.ExampleWordsDecode := by
  unfold Obligations.ExampleWordsDecode
  decide +kernel
end Sys2Proof.Proofs
end

section
/-!
PROOFS. A false guard (03 R45, R52): `exec_guarded` says of every instruction with a predicate guard that it acts under it.
-/
namespace Sys2Proof.Proofs
open Sys2Proof.Machine

/-- Every instruction with a predicate guard is an effect under that guard; MFS and MTS check the register number before it. -/
theorem exec_guarded {i : Instr} {g n : Nat} {s : State} (h : guardOf i = some (g, n))
    (hlisted : ∀ d k, (i = .mfs g n d k ∨ i = .mts g n d k) → Machine.srListed s.core.ctl k = true) :
    ∃ f, exec i s = .next (guarded g n f s) := by
  cases i <;> cases h
  case mfs d k => exact ⟨_, congrArg Host.Outcome.next (if_neg (by simp [hlisted d k (.inl rfl)]))⟩
  case mts d k => exact ⟨_, congrArg Host.Outcome.next (if_neg (by simp [hlisted d k (.inr rfl)]))⟩
  all_goals exact ⟨_, rfl⟩

/-- Settles O56: what an instruction does it does under its guard, and a false guard leaves the state. -/
theorem noEffectUnderFalseGuard : Obligations.NoEffectUnderFalseGuard := by
  intro s i g n hguard hfalse hlisted
  obtain ⟨f, hexec⟩ := exec_guarded hguard hlisted
  rw [hexec, guarded_of_false s f hfalse]

end Sys2Proof.Proofs
end

section
/-!
PROOFS. A step that issues a bundle (03 R52, R54, R60). `runSlot_eq_slotEnd` says once how a slot that passes its checks ends,
the `runSlots_…` lemmas what each end does to the bundle, and `runBundle_one` that a bundle of one slot is that slot.
-/
namespace Sys2Proof.Proofs
open Sys2Proof.Machine

/-! ### One slot (03 R52) -/

/-- The state in which slot `j` runs. -/
def inSlot (j : Nat) (s : State) : State := onIss (fun x => { x with slot := j }) s

/-- The memory error a slot's access meets; a word whose guard is false makes none. -/
def slotHit (j : Nat) (i : Instr) (v : State) : Option MemHit :=
  if (guardOf i).all (fun p => guardOk p.1 p.2 v) then hitAt v j else none

/-- How slot `j` ends when its word's meaning led from `v` to `t`. -/
def slotEnd (h : W32) (j : Nat) (i : Instr) (v t : State) : SlotEnd :=
  if t.core.iss.trapped then
    match slotHit j i v with
    | some e => if beforeAccess (lastCause t) then .gone t else .gone (meetError e v)
    | none => .gone t
  else match t.core.iss.held with
    | some ev => .held ev t
    | none =>
      match writeClash v t with
      | some c => if exposed v then .gone (trapCl cSVIOL 1 v.core.iss.pc (some c) v) else .held 0x34 v
      | none =>
        match slotHit j i v with
        | some e => .gone (meetError e v)
        | none =>
          let u := setLatches v h j i (countSlot v j i t)
          if leftBundle u then .gone u else .done u

section OneSlot
variable {h : W32} {lower : List Slot} {before : List (Nat × Nat × Nat)} {j : Nat} {i : Instr} {s v t : State}

/-- A word that passes the checks of step 1 and finds its bank ports runs by its meaning. -/
theorem runSlot_eq_slotEnd (hlegal : step1 h lower j i = true)
    (hports : exposed (inSlot j s) = true → bankOver before (slotBankReads (inSlot j s) h (j, some i)) = none)
    (hexec : exec i (inSlot j s) = .next t) :
    runSlot exec h lower before (j, some i) s = slotEnd h j i (inSlot j s) t := by
  have hbank : (if exposed (inSlot j s) then bankOver before (slotBankReads (inSlot j s) h (j, some i)) else none) = none := by
    split
    · exact hports ‹_›
    · rfl
  have hrun : runSlot exec h lower before (j, some i) s =
      if !step1 h lower j i then .gone (slotIllop (inSlot j s))
      else match if exposed (inSlot j s) then bankOver before (slotBankReads (inSlot j s) h (j, some i)) else none with
        | some c => .gone (trapCl cSVIOL 1 (inSlot j s).core.iss.pc (some c) (inSlot j s))
        | none => match exec i (inSlot j s) with
          | .next t => slotEnd h j i (inSlot j s) t
          | o => .stop o := rfl
  rw [hrun, hlegal, hbank, hexec]
  rfl

theorem slotEnd_own_trap (htrap : t.core.iss.trapped = true) (hown : slotHit j i v = none ∨ beforeAccess (lastCause t) = true) :
    slotEnd h j i v t = .gone t := by
  rcases hown with hnone | hearly
  · simp [slotEnd, htrap, hnone]
  · cases hhit : slotHit j i v <;> simp [slotEnd, htrap, hhit, hearly]

theorem slotEnd_error_for_trap (htrap : t.core.iss.trapped = true) {e : MemHit} (hhit : slotHit j i v = some e)
    (hlate : beforeAccess (lastCause t) = false) : slotEnd h j i v t = .gone (meetError e v) := by
  simp [slotEnd, htrap, hhit, hlate]

theorem slotEnd_wait (htrap : t.core.iss.trapped = false) {ev : Nat} (hheld : t.core.iss.held = some ev) :
    slotEnd h j i v t = .held ev t := by
  simp [slotEnd, htrap, hheld]

theorem slotEnd_error (htrap : t.core.iss.trapped = false) (hheld : t.core.iss.held = none) (hclash : writeClash v t = none)
    {e : MemHit} (hhit : slotHit j i v = some e) : slotEnd h j i v t = .gone (meetError e v) := by
  simp [slotEnd, htrap, hheld, hclash, hhit]

theorem slotEnd_left (htrap : t.core.iss.trapped = false) (hheld : t.core.iss.held = none) (hclash : writeClash v t = none)
    (hhit : slotHit j i v = none) (hleft : leftBundle (setLatches v h j i (countSlot v j i t)) = true) :
    slotEnd h j i v t = .gone (setLatches v h j i (countSlot v j i t)) := by
  simp [slotEnd, htrap, hheld, hclash, hhit, hleft]

theorem slotEnd_done (htrap : t.core.iss.trapped = false) (hheld : t.core.iss.held = none) (hclash : writeClash v t = none)
    (hhit : slotHit j i v = none) (hleft : leftBundle (setLatches v h j i (countSlot v j i t)) = false) :
    slotEnd h j i v t = .done (setLatches v h j i (countSlot v j i t)) := by
  simp [slotEnd, htrap, hheld, hclash, hhit, hleft]

end OneSlot

/-! ### The slots of a bundle (03 R52, R54) -/

section Slots
variable {h : W32} {pl : Bool} {s0 s t : State} {fin : State → Out} {x : Slot} {r lower : List Slot}
  {before : List (Nat × Nat × Nat)}

theorem runSlots_done (hx : runSlot exec h lower before x s = .done t) :
    runSlots exec h pl s0 fin (x :: r) lower before s =
      runSlots exec h pl s0 fin r (lower ++ [x]) (before ++ slotBankReads s h x) (if x.1 = 0 then slotZeroEnd pl t else t) := by
  rw [runSlots, hx]

/-- A slot that trapped or left ends the bundle, or makes it wait for a status that is still to come. -/
theorem runSlots_gone (hx : runSlot exec h lower before x s = .gone t) :
    runSlots exec h pl s0 fin (x :: r) lower before s =
      .next (if unanswered s0 then heldBundle 0x33 (onIss (fun i => { i with slot := x.1, wait := 2 }) s0) else endTrapped s0 t) := by
  rw [runSlots, hx]

theorem runSlots_held_part {ev : Nat} (hx : runSlot exec h lower before x s = .held ev t) (hsplit : t.core.iss.split = true)
    (hlower : ∃ y ∈ lower, firstSlot s0 ≤ y.1) :
    runSlots exec h pl s0 fin (x :: r) lower before s = .next (heldPart ev x.1 pl t) := by
  have hany : lower.any (fun y => decide (firstSlot s0 ≤ y.1)) = true := by simpa using hlower
  rw [runSlots, hx]
  exact if_pos (by rw [hsplit, hany]; rfl)

/-- A slot that waits, with nothing of its bundle committed, holds the whole bundle with what it registered before the slots ran. -/
theorem runSlots_held_whole {ev : Nat} {i : Instr} {u : State} (hx : runSlot exec h lower before x s = .held ev t)
    (hnone : (t.core.iss.split && lower.any (fun y => decide (firstSlot s0 ≤ y.1))) = false) (hi : x.2 = some i)
    (hexec : exec i (inSlot x.1 s0) = .next u) (hheld : u.core.iss.held.isSome = true) :
    runSlots exec h pl s0 fin (x :: r) lower before s = .next (heldBundle ev u) := by
  obtain ⟨j, w⟩ := x
  obtain rfl : w = some i := hi
  unfold inSlot at hexec
  rw [runSlots, hx]
  simp only [hnone, hexec, hheld]
  rfl

end Slots

/-! ### A bundle of one slot (03 R60) -/

section OneSlotBundle
variable {f : State} {j : Nat} {w : W32} {i : Instr}

/-- The state in which a bundle's slots start: the core has its results back, and a bundle without slot 0 is past that slot's end. -/
def slotsStart (j : Nat) (s0 : State) : State :=
  let s1 := onCore (fun c => { rejoin c with iss := { (rejoin c).iss with from_ := 0, pm0 := some c.pm.pmc } }) s0
  if j = 0 then s1 else slotZeroEnd s1.core.x.pl s1

theorem runFrom_one (h : W32) (fin : Bool → State → Out) (s0 : State) :
    runFrom exec h 0 [(j, some i)] fin s0 =
      runSlots exec h (slotsStart j s0).core.x.pl s0 (fin (slotsStart j s0).core.x.pl) [(j, some i)] [] [] (slotsStart j s0) := by
  by_cases hj : j = 0 <;> simp [runFrom, slotsStart, hj]

/-- A bundle of one slot, with nothing to wait for before it, runs that slot; it ends where no port wait is left. -/
theorem runBundle_one (hpart : waitingPart f = none) (hfrom : f.core.iss.from_ = 0) (hwords : f.core.iss.words = [(j, w)])
    (hdec : decodeSlot j (fld f.core.iss.hdr 31 16) w.toNat = some i) (hans : answerHold f f.core.iss.hdr [(j, some i)] = false)
    (hlook : heldLook 0 f (issueHolds f.core.iss.hdr [(j, some i)] f) = none) :
    let h := f.core.iss.hdr
    let s0 := issueHolds h [(j, some i)] f
    let s2 := slotsStart j s0
    ∃ fin, runBundle exec f = runSlots exec h s2.core.x.pl s0 fin [(j, some i)] [] [] s2 ∧
      ∀ z, portWait z = 0 → fin z = .next (endBundle s2.core.x.pl h z) := by
  have hfirst : firstSlot f = 0 := by rw [firstSlot, hpart]; exact hfrom
  have hall : f.core.iss.words.map (fun p => (p.1, decodeSlot p.1 (fld f.core.iss.hdr 31 16) p.2.toNat)) = [(j, some i)] := by
    rw [hwords, List.map_singleton, hdec]
  have hxs : ([(j, some i)] : List Slot).filter (fun x => decide (0 ≤ x.1)) = [(j, some i)] := by simp
  simp only [runBundle, hfirst, hall, hxs, hans, hlook, runFrom_one]
  exact ⟨_, rfl, fun z hz => if_pos hz⟩

end OneSlotBundle

/-! ### A step that issues (03 R60) -/

section Issue
variable {s t : State}

theorem step_agent {a : Instr} {r : List Move} (hsched : s.sched = .agent a :: r) (h : exec a { s with sched := r } = .next t) :
    step s = .next (settle t) := by
  simp only [step, stepWith, hsched, h, settled]

/-- With nothing scheduled the step issues a bundle: its slots run where the fetch made it the bundle in progress. -/
theorem step_issue (hsched : s.sched = []) (h : execIssueBundle s = .next t) :
    step s = if t.core.iss.busy then settled (runBundle exec t) else .next (settle t) := by
  have hissue : exec .issueBundle s = .next t := h
  simp only [step, stepWith, hsched, issueStep, hissue]

theorem execIssueBundle_waits (hrun : s.ctl.halted = false) (hst : s.core.st = .run ∨ s.core.st = .handler) (hhome : homing s = false)
    (hwait : (exposed s && unanswered s) = true) : execIssueBundle s = .next (waitAnswer s) := by
  simp [execIssueBundle, hrun, hst, hhome, Bool.and_eq_true_iff.mp hwait]

/-- A boundary that takes nothing leaves the bundle fetched, unless the fetch trapped while a status is still to come. -/
theorem execIssueBundle_fetches {f : State} (hrun : s.ctl.halted = false) (hst : s.core.st = .run ∨ s.core.st = .handler)
    (hhome : homing s = false) (hwait : (exposed s && unanswered s) = false) (hlook : lookOut s = none) (hf : fetchBundle s = f) :
    execIssueBundle s = .next (if f.core.iss.trapped && unanswered s then waitAnswer s else f) := by
  subst hf
  simp only [execIssueBundle, hrun, hst, hhome, hwait, hlook]
  rfl

theorem step_waits (hsched : s.sched = []) (h : execIssueBundle s = .next (waitAnswer s)) : step s = .next (settle (waitAnswer s)) :=
  (step_issue hsched h).trans (if_neg (by simp [waitAnswer, onIss, onCore]))

end Issue

/-- Settles O60: a step of a bundle of one slot is that slot's end, by what the slot's meaning leads to. -/
theorem stepRunsTheDecodedInstruction : Obligations.StepRunsTheDecodedInstruction := by
  intro s
  refine ⟨fun i r hsched t h => step_agent hsched h, fun n c r hsched => ?core, fun e r hsched => ?error,
    fun hsched hrun hst hhome => ⟨fun hwait => ?waits, fun hwait hlook => ?issues⟩, fun h pl s0 fin x r lower before t => runSlots_done,
    fun h pl s0 fin x r lower before t hx hans => ?gone, fun h pl s0 fin x r lower before ev t hx => ?held,
    fun h pl s0 fin lower before => rfl⟩
  case core => simp only [step, stepWith, hsched]
  case error => simp only [step, stepWith, hsched]
  case waits => exact step_waits hsched (execIssueBundle_waits hrun hst hhome hwait)
  case gone =>
    rw [runSlots_gone hx, hans]
    rfl
  case held =>
    refine ⟨runSlots_held_part hx, fun hsplit i u hi hexec hheld => runSlots_held_whole hx ?_ hi hexec hheld⟩
    rw [hsplit, Bool.false_and]
  case issues =>
    generalize hf : fetchBundle s = f
    have hissue := execIssueBundle_fetches hrun hst hhome hwait hlook hf
    intro f h
    have hfetched (hans : (f.core.iss.trapped && unanswered s) = false) : execIssueBundle s = .next f :=
      hissue.trans (congrArg _ (if_neg (by rw [hans]; decide)))
    refine ⟨fun hidle hans => ?idle, fun hans => ?trapped, fun hbusy hans => ?busy⟩
    case idle => exact (step_issue hsched (hfetched hans)).trans (if_neg (by rw [hidle]; decide))
    case trapped => exact step_waits hsched (hissue.trans (congrArg _ (if_pos hans)))
    case busy =>
      have hstep : step s = settled (runBundle exec f) := (step_issue hsched (hfetched hans)).trans (if_pos hbusy)
      refine ⟨fun hpart hfrom j w i hwords hdec hstatus => ?slot, fun t ht => by rw [hstep, ht]; rfl⟩
      case slot =>
        intro s0 s1 s2 pl v hit gone hheldLook hlegal hports t hexec
        obtain ⟨fin, hbundle, hfin⟩ : ∃ fin, runBundle exec f = runSlots exec h pl s0 fin [(j, some i)] [] [] s2 ∧
            ∀ z, portWait z = 0 → fin z = .next (endBundle pl h z) :=
            runBundle_one hpart hfrom hwords hdec hstatus hheldLook
        have hslot : runSlot exec h [] [] (j, some i) s2 = slotEnd h j i v t := runSlot_eq_slotEnd hlegal hports hexec
        have hgone : ∀ u, slotEnd h j i v t = .gone u → step s = .next (settle (gone u)) := by
          intro u hu
          rw [hstep, hbundle, runSlots_gone (hslot.trans hu)]
          rfl
        refine ⟨fun htrap hown => hgone _ (slotEnd_own_trap htrap hown),
          fun e htrap hhit hlate => hgone _ (slotEnd_error_for_trap htrap hhit hlate), fun htrap ev u hheld hu huheld => ?wait,
          fun htrap hheld hclash => ⟨fun e hhit => hgone _ (slotEnd_error htrap hheld hclash hhit), fun hhit => ?commits⟩⟩
        case wait =>
          rw [hstep, hbundle, runSlots_held_whole (hslot.trans (slotEnd_wait htrap hheld)) (by simp) rfl hu huheld]
          rfl
        case commits =>
          intro u z
          refine ⟨fun hleft => hgone u (slotEnd_left htrap hheld hclash hhit hleft), fun hleft hport => ?_⟩
          rw [hstep, hbundle, runSlots_done (hslot.trans (slotEnd_done htrap hheld hclash hhit hleft))]
          exact congrArg settled (hfin z hport)

end Sys2Proof.Proofs
end

section
/-!
PROOFS. Scalar instructions (04 R71–R81). With the guard true each is its shared form (`retS`, `retA`, `retP`, `slotDo`) of the
values it reads; the value lemmas say of bit fields, products and remainders that the model's value is the stated one.
-/
namespace Sys2Proof.Proofs
open Sys2Proof.Machine

/-! ### The shared forms under a true guard (03 R45) -/

section Forms
variable {g n lat d : Nat} {x : Word} {s : State} (h : guardOk g n s = true)
include h

theorem slotDo_of_guard {f : State → State} : slotDo g n f s = .next (f s) :=
  congrArg Host.Outcome.next (guarded_of_true s f h)

theorem retS_of_guard : retS g n lat d x s = .next (emit lat (.s d x) s) := slotDo_of_guard h

theorem retA_of_guard : retA g n d x s = .next (emit 1 (.a d x) s) := slotDo_of_guard h

theorem retP_of_guard {b : Bool} : retP g n d b s = .next (emit 1 (predBit d b) s) := slotDo_of_guard h

end Forms

/-- Settles O1: every register form is `retS` of the stated value under its guard. -/
theorem integerRegisterForms : Obligations.IntegerRegisterForms := by
  intro s g n d a b k h
  and_intros <;> exact retS_of_guard h

/-! ### Bit fields (04 R79) -/

section Fields
variable {off t : Nat}

theorem succ_pred_sub (h : off < t) : t - 1 + 1 - off = t - off := by omega

/-- Bits `t` − 1 to `off` of a number, where there are any. -/
theorem nbits_pred (x : Nat) (h : off < t) : nbits x (t - 1) off = x / 2 ^ off % 2 ^ (t - off) := by
  rw [nbits, succ_pred_sub h]

/-- Bits `t` − 1 to `off` of a word replaced, where there are any. -/
theorem setFld_pred (x : Word) (v : Nat) (h : off < t) :
    setFld x (t - 1) off v =
      BitVec.ofNat 64 (x.toNat - x.toNat / 2 ^ off % 2 ^ (t - off) * 2 ^ off + v % 2 ^ (t - off) * 2 ^ off) := by
  simp only [setFld, nbits_pred _ h, succ_pred_sub h]

theorem bfTop_eq_min (y : Word) : bfTop y = min (bfOff y + fld y 14 8) 64 := by
  simp only [bfTop]
  split <;> omega

theorem bfOff_le_bfTop (y : Word) : bfOff y ≤ bfTop y := by
  have hoff : bfOff y < 64 := Nat.mod_lt _ (by decide)
  rw [bfTop_eq_min]
  omega

theorem bextW_eq (x y : Word) :
    bextW x y = if bfTop y = bfOff y then 0
      else sextW (bfTop y - bfOff y) (x.toNat / 2 ^ bfOff y % 2 ^ (bfTop y - bfOff y)) := by
  unfold bextW
  split
  · rfl
  · rw [nbits_pred _ (Nat.lt_of_le_of_ne (bfOff_le_bfTop y) (Ne.symm ‹_›))]

theorem bextuW_eq (x y : Word) :
    bextuW x y = if bfTop y = bfOff y then 0
      else BitVec.ofNat 64 (x.toNat / 2 ^ bfOff y % 2 ^ (bfTop y - bfOff y)) := by
  unfold bextuW
  split
  · rfl
  · rw [nbits_pred _ (Nat.lt_of_le_of_ne (bfOff_le_bfTop y) (Ne.symm ‹_›)), wd]

theorem binsW_eq (old x y : Word) :
    binsW old x y = if bfOff y < bfTop y then
      BitVec.ofNat 64 (old.toNat - old.toNat / 2 ^ bfOff y % 2 ^ (bfTop y - bfOff y) * 2 ^ bfOff y
        + x.toNat % 2 ^ (bfTop y - bfOff y) * 2 ^ bfOff y) else old := by
  unfold binsW
  split
  · exact setFld_pred _ _ ‹_›
  · rfl

end Fields

/-- Settles O2: `bfOff` and `bfTop` are the stated bounds, and the field between them is read and replaced as stated. -/
theorem bitFieldForms : Obligations.BitFieldForms := by
  intro s g n d a b off t h hoff ht
  obtain rfl : off = bfOff (rdS s b) := hoff
  obtain rfl : t = bfTop (rdS s b) := ht.trans (bfTop_eq_min _).symm
  rw [← bextW_eq, ← bextuW_eq, ← binsW_eq]
  exact ⟨retS_of_guard h, retS_of_guard h, retS_of_guard h⟩

/-! ### Multiply and divide (04 R74) -/

theorem mul_eq_ofInt (x y : Word) : x * y = BitVec.ofInt 64 (x.toInt * y.toInt) := by
  rw [BitVec.ofInt_mul, BitVec.ofInt_toInt, BitVec.ofInt_toInt]

theorem remW_eq_tmod (x y : Word) : remW x y = if y = 0 then x else BitVec.ofInt 64 (x.toInt.tmod y.toInt) := by
  rw [remW, Int.tmod_def]

/-! Functions 8 to 15 of major 0x01 are undefined. -/

section Undefined
variable {r : Row} {w : Nat}

/-- A row that no word of major 0x01 with function 8 to 15 matches: it fixes another major, or a function below 8. -/
def offUndefined (r : Row) : Bool :=
  decide (r.mask / 2 ^ 26 = 2 ^ 6 - 1) &&
    (decide (r.mat / 2 ^ 26 ≠ 1) || decide (r.mask % 2 ^ 4 = 2 ^ 4 - 1) && decide (r.mat % 2 ^ 4 < 8))

theorem rowsFor_offUndefined : ∀ j ∈ [1, 2], ∀ r ∈ rowsFor j, offUndefined r = true := by decide +kernel

theorem no_match_of_offUndefined (hr : offUndefined r = true) (hmajor : w / 2 ^ 26 = 1) (hfn : 8 ≤ w % 16) :
    w &&& r.mask ≠ r.mat := by
  intro hw
  simp only [offUndefined, Bool.and_eq_true, Bool.or_eq_true, decide_eq_true_eq] at hr
  obtain ⟨hmask, hmat | ⟨hlow, hmat⟩⟩ := hr
  · refine hmat ?_
    rw [← hw, Nat.and_div_two_pow, hmask, hmajor]
    rfl
  · rw [← hw, Nat.and_mod_two_pow, hlow, Nat.and_two_pow_sub_one_eq_mod, Nat.mod_mod] at hmat
    omega

theorem decodeSlot_undefined {j : Nat} (limm : Nat) (hj : j = 1 ∨ j = 2) (hmajor : w / 2 ^ 26 = 1) (hfn : 8 ≤ w % 16) :
    decodeSlot j limm w = none := by
  have hnone : (rowsFor j).find? (fun r => decide (w &&& r.mask = r.mat)) = none := by
    refine List.find?_eq_none.mpr fun r hr => ?_
    have hoff := rowsFor_offUndefined j (by simpa using hj) r hr
    simpa using no_match_of_offUndefined hoff hmajor hfn
  have hj0 : j ≠ 0 := by omega
  simp only [decodeSlot, hnone, hj0, if_false]

end Undefined

/-- Settles O3: the low product and the remainder are the stated ones, the other values and latencies stand so in the model; no
row takes functions 8 to 15. -/
theorem multiplyAndDivideForms : Obligations.MultiplyAndDivideForms := by
  refine ⟨fun s g n d a b h => ?_, fun j limm w hj _ hmajor hfn => decodeSlot_undefined limm hj hmajor hfn⟩
  dsimp only
  rw [← mul_eq_ofInt, ← remW_eq_tmod]
  and_intros <;> exact retS_of_guard h

/-! ### Immediate forms and address arithmetic (04 R73, R80, R81) -/

/-- Settles O4: the forms end in s[d] as `retS` or in a[d] as `retA` does; ADDA's scale is 0. -/
theorem immediateAndAddressForms : Obligations.ImmediateAndAddressForms := by
  intro s g n d a b i h
  have toS {lat x} : retS g n lat d x s = .next (emit lat (.s d x) s) := retS_of_guard h
  have toA {x} : retA g n d x s = .next (emit 1 (.a d x) s) := retA_of_guard h
  have hadda : exec (.adda g n d a b) s = .next (emit 1 (.a d (rdA s a + rdS s b)) s) := by
    rw [← BitVec.shiftLeft_zero (rdS s b)]
    exact toA
  exact ⟨toS, toS, toS, toS, toS, toS, toS, toS, toS, toS, toS, toS, toS, toS, toS, toS, toS,
    hadda, toA, toA, toA, toS, toA, toS, toA, toA, toA⟩

/-! ### Compares and predicate operations (04 R76, R78) -/

/-- Settles O5: every form issues its truth value as `retP` does, and PWR the bits of s[a]. -/
theorem compareAndPredicateForms : Obligations.CompareAndPredicateForms := by
  intro s g n d a b i h
  have toP {x} : retP g n d x s = .next (emit 1 (predBit d x) s) := retP_of_guard h
  exact ⟨toP, toP, toP, toP, toP, toP, toP, toP, toP, toP, toP, toP, toP, toP, toP, toP, toP, toP, toP, slotDo_of_guard h⟩

end Sys2Proof.Proofs
end

section
/-!
PROOFS. Transfers, loops and the timing mode of slot 0 (04 R82–R89, 06 R126). `execLoop_found` says once what LOOP does when
its checks pass and the body is found.
-/
namespace Sys2Proof.Proofs
open Sys2Proof.Machine

section Transfers
variable {g n : Nat} {s : State}

theorem inLastBundle_eq_false (h : s.core.sc.loops.all (fun l => decide (l.last ≠ s.core.iss.pc)) = true) :
    inLastBundle s = false := by
  simpa [inLastBundle] using h

theorem xfer_of_guard {f : State → State} (h : guardOk g n s = true) (hlast : inLastBundle s = false) :
    xfer g n f s = .next (f s) := by
  rw [xfer, slotDo_of_guard h, need_of_true s f (by rw [hlast]; rfl)]

theorem indirect_of_aligned {t : Word} {f : State → State} (h : t.toNat % 4 = 0) :
    indirect t f s = transfer t (f s) := if_neg (fun hne => hne h)

/-- A transfer to a word-aligned register address, outside a body's last bundle. -/
theorem xfer_indirect {t : Word} {f : State → State} (h : guardOk g n s = true) (hlast : inLastBundle s = false)
    (halign : t.toNat % 4 = 0) : xfer g n (indirect t f) s = .next (transfer t (f s)) := by
  rw [xfer_of_guard h hlast, indirect_of_aligned halign]

/-- What LMODE and LMODE.L do on a compute core, apart from a control core's check (25 R392). -/
theorem slotDo_compute {b : Bool} {f : State → State} (h : guardOk g n s = true) (hctl : s.core.ctl = false) :
    slotDo g n (fun s => if s.core.ctl then need b id s else f s) s = .next (f s) := by
  rw [slotDo_of_guard h, if_neg (by rw [hctl]; decide)]

end Transfers

/-- Settles O13: `transfer` is the stated continuation, after the checks of the last bundle and of alignment. -/
theorem controlTransferForms : Obligations.ControlTransferForms := by
  intro s g n d a m disp h go link
  refine ⟨fun hloops => ?_, slotDo_of_guard h, retS_of_guard h, fun hctl => ⟨slotDo_compute h hctl, slotDo_compute h hctl⟩⟩
  have hlast := inLastBundle_eq_false hloops
  exact ⟨xfer_of_guard h hlast, xfer_of_guard h hlast,
    fun halign => ⟨xfer_indirect h hlast halign, xfer_indirect h hlast halign⟩, xfer_indirect h hlast⟩

section Loops
variable {s u : State} {g n d a i : Nat} {last first : Word} {h : W32} {starts : List Word}

/-- The checks of LOOP that look at the active loops: a free counter, and no body that ends here. -/
theorem loops_free (hall : s.core.sc.loops.all (fun l => decide (l.k ≠ d) && decide (l.last ≠ s.core.iss.pc)) = true) :
    s.core.sc.loops.any (fun l => l.k = d) = false ∧ s.core.sc.loops.head?.map LoopEnt.last ≠ some s.core.iss.pc ∧
      inLastBundle s = false := by
  simp only [List.all_eq_true, Bool.and_eq_true, decide_eq_true_eq] at hall
  refine ⟨List.any_eq_false.mpr fun l hl => by simpa using (hall l hl).1, fun hhead => ?_,
    inLastBundle_eq_false (List.all_eq_true.mpr fun l hl => decide_eq_true (hall l hl).2)⟩
  obtain ⟨l, hl, hpc⟩ := Option.map_eq_some_iff.mp hhead
  exact (hall l (List.mem_of_mem_head? hl)).2 hpc

/-- LOOP with its checks passed and the body found (04 R84). -/
theorem execLoop_found (hg : guardOk g n s = true)
    (hall : s.core.sc.loops.all (fun l => decide (l.k ≠ d) && decide (l.last ≠ s.core.iss.pc)) = true)
    (harmed : rdS s a = 0 ∨ (bitAt (modeNext s) 1 && bitAt (modeNext s) 3) = false)
    (hleft : (remaining s).any (fun k => decide (k < imm10n s i)) = false)
    (hbody : bodyEnd (s.core.sc.loops.head?.map LoopEnt.last) [] (imm10n s i - 1) s.core.iss.seq s = (.ok last h starts, u)) :
    execLoop g n d a i s = .next (startLoop d (rdS s a) s.core.iss.seq last h starts u) := by
  obtain ⟨hfree, hlim, hlast⟩ := loops_free hall
  have hmode : (decide (rdS s a ≠ 0) && bitAt (modeNext s) 1 && bitAt (modeNext s) 3) = false := by
    rcases harmed with hzero | hmode
    · simp [hzero]
    · rw [Bool.and_assoc, hmode, Bool.and_false]
  rw [execLoop, slotDo_of_guard hg]
  simp only [hfree, hlim, hlast, hleft, hmode, hbody, decide_false, Bool.or_false, Bool.false_eq_true, if_false]

/-- LOOP with a count of 0 continues after the body (04 R84). -/
theorem startLoop_zero : startLoop d 0 first last h starts u = endSteps last (cntEv 0x10 1
    (onIss (fun x => { x with npc := seqOf last h, taken := true }) (setLc d 0 u))) := rfl

/-- LOOP with a count pushes the body and sets its counter; an armed mode switch is issued for the next bundle (06 R126). -/
theorem startLoop_body {cnt : Word} (hcnt : cnt ≠ 0) :
    let t := startLoop d cnt first last h starts u
    t.core.sc.loops = ⟨d, first, last, starts.length, [], starts⟩ :: u.core.sc.loops ∧ rdLc t d = cnt ∧
      t.core.iss.npc = u.core.iss.npc ∧
      t.core.pend = if bitAt (modeNext u) 1 then
        (emit 1 (.mode (modeAtLoop (u.core.sc.loops.length + 1) (modeNext u))) u).core.pend else u.core.pend := by
  have hmode : modeNext (setLoops (⟨d, first, last, starts.length, [], starts⟩ :: u.core.sc.loops) (setLc d cnt u)) = modeNext u := rfl
  simp only [startLoop, hcnt, hmode, if_false]
  split <;> exact ⟨rfl, mget_mset_self 0 u.core.sc.lc d cnt, rfl, rfl⟩

end Loops

/-- Settles O14: with the body found, LOOP is `startLoop`, by its count. -/
theorem loopStartsItsBody : Obligations.LoopStartsItsBody := by
  intro s u g n d a i last h starts hg hall harmed hleft hbody
  have hexec : exec (.loop g n d a i) s = .next (startLoop d (rdS s a) s.core.iss.seq last h starts u) :=
    execLoop_found hg hall harmed hleft hbody
  refine ⟨fun hcnt => ⟨_, hexec, startLoop_body hcnt⟩, fun hzero => ?_⟩
  rw [hexec, hzero, startLoop_zero]
  rfl

end Sys2Proof.Proofs
end

section
/-!
PROOFS. Vector instructions (05 R95–R115). Each is a shared form of its lanes: the lemmas say what a form answers where its checks
of FPSTAT.RM and of formats pass, and that clamps, NaN tests and the ring distance are the stated ones.
-/
namespace Sys2Proof.Proofs
open Sys2Proof.Machine

/-! ### The rounding mode (05 R96) -/

section RoundingMode
variable {s : State} (hrm : fpRm s < 5)
include hrm

theorem varith_of_rm {lat g d ops : Nat} {f : Nat → Nat → Machine.Num × Flags5} :
    varith lat g d ops f s =
      .next (vfloat lat g d (decide (fpRm s = 4)) ops (fun c l w => round32 (exposed s) (fpRm s) (f c l) w) s) :=
  congrArg Host.Outcome.next (if_neg (Nat.not_le.mpr hrm))

theorem vpick_of_rm (n max : Bool) {g d a b : Nat} :
    vpick n max g d a b s =
      vquiet 4 g d (fun c l => (if n then pickN32 else pick32) max (exposed s) (vlane s c a l) (vlane s c b l)) s :=
  if_neg (Nat.not_le.mpr hrm)

end RoundingMode

/-- Settles O6: with a rounding mode in force every form is `varith` of the stated exact result. -/
theorem vectorArithmeticForms : Obligations.VectorArithmeticForms := by
  intro s g h d a b k hrm x y z
  dsimp only [x, y, z]
  simp only [← varith_of_rm hrm]
  and_intros <;> rfl

/-! ### Compares (05 R101) -/

theorem ordered_eq_decide (f : Int → Bool) (x y : Machine.Num) :
    ordered f x y = (decide (x ≠ .nan ∧ y ≠ .nan) && f (cmpN x y)) := by
  rw [ordered, Bool.decide_and, decide_not, decide_not]
  rfl

theorem unordered_eq_decide (x y : Machine.Num) : (x == .nan || y == .nan) = decide (x = .nan ∨ y = .nan) := by
  rw [Bool.decide_or]
  rfl

/-- A compare issues the bits of the relation it is given, and counts its active lanes. -/
theorem vfcmp_of_eq (g d a b : Nat) (s : State) {f r : Machine.Num → Machine.Num → Bool} (h : ∀ x y, f x y = r x y) :
    vfcmp g d a b f s = .next (mputBits 4 g d (fun c l => r (fin32 (exposed s) (vlane s c a l)) (fin32 (exposed s) (vlane s c b l)))
      (eachCluster (fun c t => cntEv 0x1B (activeN (rdM s c g)) (cntEv 0x1A (activeN (rdM s c g)) t)) s)) := by
  obtain rfl : f = r := funext fun x => funext (h x)
  rfl

/-- Settles O7: minimum and maximum need a rounding mode in force, the other quiet forms and the transcendentals do not; a compare's
relation is the stated one. -/
theorem vectorQuietForms : Obligations.VectorQuietForms := by
  intro s g h d a b k x y
  refine ⟨fun hrm => ⟨vpick_of_rm hrm false false, vpick_of_rm hrm false true, vpick_of_rm hrm true false,
    vpick_of_rm hrm true true⟩, rfl, rfl, rfl, rfl, rfl, rfl, rfl, rfl, ?eq, ?ne, ?lt, ?le, ?un⟩
  case eq => exact (vfcmp_of_eq g d a b s (ordered_eq_decide fun k => decide (k = 0)) :)
  case ne => exact (vfcmp_of_eq g d a b s fun x y => congrArg not (ordered_eq_decide (fun k => decide (k = 0)) x y) :)
  case lt => exact (vfcmp_of_eq g d a b s (ordered_eq_decide fun k => decide (k < 0)) :)
  case le => exact (vfcmp_of_eq g d a b s (ordered_eq_decide fun k => decide (k ≤ 0)) :)
  case un => exact (vfcmp_of_eq g d a b s unordered_eq_decide :)

/-! ### Lane reductions (05 R102, R103) -/

/-- Settles O8: VFRSUM's nodes carry flags, the other reductions are `vredQ` of the stated choice or sum. -/
theorem laneReductionForms : Obligations.LaneReductionForms := by
  intro s g h d a
  and_intros <;> rfl

/-! ### Lane integers and masks (05 R104–R107) -/

theorem satI_eq_clamp {lo hi : Int} (h : lo ≤ hi) (x : Int) : satI lo hi x = max lo (min hi x) := by
  unfold satI
  split
  · omega
  · split <;> omega

theorem satS32_eq_clamp (x : Int) : satS32 x = BitVec.ofInt 32 (max (-(2 ^ 31)) (min (2 ^ 31 - 1) x)) := by
  rw [satS32, satI_eq_clamp (by decide)]

theorem satU32_natCast (n : Nat) : satU32 n = BitVec.ofNat 32 (min (2 ^ 32 - 1) n) := by
  have hclamp : satI 0 (2 ^ 32 - 1) n = ((min (2 ^ 32 - 1) n : Nat) : Int) := by
    rw [satI_eq_clamp (by decide)]
    omega
  rw [satU32, hclamp, BitVec.ofInt_natCast]

/-- Settles O9: every form is `valu`, `valu1` or `valui` of its operation; the saturations are the stated clamps. -/
theorem laneIntegerForms : Obligations.LaneIntegerForms := by
  intro s g h d a b k i
  simp only [← satS32_eq_clamp, ← satU32_natCast, Int.natCast_add]
  and_intros <;> rfl

/-- Settles O10: compares are `vicmp`, mask operations `mlog`, of the stated bit. -/
theorem maskForms : Obligations.MaskForms := by
  intro s g h d a b k
  and_intros <;> rfl

/-! ### Generators, patterns, the ring and lane moves (05 R111–R115) -/

/-- XCOPY's latency is 2 and the distance round the ring, the shorter way. -/
theorem execXcopy_eq (g h d a i : Nat) (s : State) :
    execXcopy g h d a i s = .next (vput (2 + min (imm10n s i % 8) (8 - imm10n s i % 8)) g d
      (fun c l => vlane s ((c + imm10n s i % 8) % 8) a l) s) := by
  have hdist : (if imm10n s i % 8 < 8 - imm10n s i % 8 then imm10n s i % 8 else 8 - imm10n s i % 8) =
      min (imm10n s i % 8) (8 - imm10n s i % 8) := by split <;> omega
  rw [← hdist]
  rfl

/-- Settles O11: apart from XCOPY's distance each form is defined by the lanes, bits or state it sets. -/
theorem laneMoveForms : Obligations.LaneMoveForms := by
  intro s g h d a l i
  exact ⟨rfl, rfl, rfl, rfl, execXcopy_eq g h d a i s, rfl, rfl, rfl, rfl, rfl, rfl, rfl⟩

/-! ### Conversion and quantisation (05 R108–R110) -/

/-- A lane of VCVT: `bits` of format `fs` rounded to `fd`. -/
def cvtLane (ex : Bool) (fs fd : Fmt) (mode : Nat) (bits : W32) (w : W32) : LaneR :=
  let r := encodeF fd (finF ex fs (bits.toNat % 2 ^ fs.cont)) mode w
  let o := foutF ex fd r.1 r.2.1
  ⟨BitVec.ofNat 32 o.1, o.2, r.2.2⟩

/-- A lane of VQSC: the scale byte of a block whose largest magnitude is `x`. -/
def scaleLane (f : Fmt) (x : Machine.Num) (w : W32) : LaneR :=
  match x with
  | .nan => ⟨255, flIV, w⟩
  | .inf _ => ⟨254, flNone, w⟩
  | .fin n m e st =>
    if m = 0 then ⟨0, flNone, w⟩
    else ⟨BitVec.ofNat 32 (max 0 (min 254 (log2N (.fin n m e st) - mxEmax f + 127))).toNat, flNone, w⟩

/-- A lane of VQEL: `x` rounded to an element of a block with scale byte `sc`. -/
def elemLane (ex : Bool) (f : Fmt) (mode sc : Nat) (x : Machine.Num) (w : W32) : LaneR :=
  let r := mxElem f sc x mode w
  let o := foutF ex f r.1 r.2.1
  ⟨BitVec.ofNat 32 o.1, o.2, r.2.2⟩

section Formats
variable {mode g d a b i : Nat} {s : State}

theorem vcvt_of_legal {ok : Bool} (hok : ok = true) (hfs : elemLegal (fmtOf (ftabWord s (imm10n s i % 16))) = true)
    (hfd : elemLegal (fmtOf (ftabWord s (imm10n s i / 16 % 16))) = true) (hcs : (fmtOf (ftabWord s (imm10n s i % 16))).cont ≤ 32)
    (hcd : (fmtOf (ftabWord s (imm10n s i / 16 % 16))).cont ≤ 32) :
    vcvt mode ok g d a i s = .next (vfloat 3 g d (decide (mode = 4)) 0 (fun c l w =>
      cvtLane (exposed s) (fmtOf (ftabWord s (imm10n s i % 16))) (fmtOf (ftabWord s (imm10n s i / 16 % 16))) mode
        (vlane s c a l) w) s) :=
  congrArg Host.Outcome.next (if_pos (by simp only [hok, hfs, hfd, hcs, hcd, decide_true, Bool.and_true]))

theorem execVqsc_of_legal (h : Nat) (hf : elemLegal (fmtOf (ftabWord s (imm10n s i % 16))) = true) :
    execVqsc g h d a i s = .next (vfloat 3 g d false 0 (fun c l w =>
      scaleLane (fmtOf (ftabWord s (imm10n s i % 16))) (fin32 (exposed s) (vlane s c a l)) w) s) := by
  refine congrArg Host.Outcome.next ((if_pos hf).trans (congrArg (vfloat 3 g d false 0 · s) ?_))
  funext c l w
  dsimp only [fop]
  cases fin32 (exposed s) (vlane s c a l) with
  | nan => rfl
  | inf n => rfl
  | fin n m e st =>
    by_cases hm : m = 0
    · simp [scaleLane, hm]
    · simp only [scaleLane, hm, if_false, satI_eq_clamp (show (0 : Int) ≤ 254 by decide)]

theorem vqel_of_legal (hf : elemLegal (fmtOf (ftabWord s (3 + i))) = true) :
    vqel mode g d a b i s = .next (vfloat 3 g d (decide (mode = 4)) 0 (fun c l w =>
      elemLane (exposed s) (fmtOf (ftabWord s (3 + i))) mode (fld (vlane s c b l) 7 0) (fin32 (exposed s) (vlane s c a l)) w) s) :=
  congrArg Host.Outcome.next (if_pos hf)

end Formats

/-- Settles O12: with legal formats the conversions are `vcvt`, `execVqsc` and `vqel` past their checks; VCVT.DYN's is also that of
FPSTAT.RM. -/
theorem conversionForms : Obligations.ConversionForms := by
  intro s g h d a b k i e conv elem
  refine ⟨fun hfs hfd hcs hcd => ?_, fun hf => execVqsc_of_legal h hf, fun hf => ⟨vqel_of_legal hf, vqel_of_legal hf⟩⟩
  have convert {mode ok} (hok : ok = true) : vcvt mode ok g d a i s = .next (conv mode) := vcvt_of_legal hok hfs hfd hcs hcd
  exact ⟨convert rfl, convert rfl, convert rfl, fun hrm => convert (decide_eq_true hrm)⟩

end Sys2Proof.Proofs
end

section
/-!
PROOFS. The steps of a core's clock (06 R117, R118; 16 R285, R286; 19 R310, R328). Time that passes on a core leaves what runs on it
and its holdings, and no pending pre-emption goes (`Lands`). A save stores the core as it was, since what comes before the slot is put leaves every
core and the distributor alone (`CoresStand`), and what comes after leaves the slot, the ready queue and the live count (`TeamStands`).
-/
namespace Sys2Proof.Proofs
open Sys2Proof.Machine

/-! ### What time that passes on a core leaves (06 R117) -/

/-- From `c` to `d` results land: `d` is the same core with the same task and holdings, and a pending pre-emption still pends. -/
structure Lands (c d : Core) : Prop where
  num : d.num = c.num
  ctl : d.ctl = c.ctl
  task : d.task = c.task
  cm : d.cm = c.cm
  pp : c.x.pp = true → d.x.pp = true

section Landing
variable {c d e : Core}

theorem Lands.refl (c : Core) : Lands c c := ⟨rfl, rfl, rfl, rfl, id⟩

theorem Lands.trans (h : Lands c d) (k : Lands d e) : Lands c e :=
  ⟨k.num.trans h.num, k.ctl.trans h.ctl, k.task.trans h.task, k.cm.trans h.cm, k.pp ∘ h.pp⟩

/-- An update that leaves those parts as they stand. -/
theorem Lands.of_eq (hnum : d.num = c.num := by rfl) (hctl : d.ctl = c.ctl := by rfl) (htask : d.task = c.task := by rfl)
    (hcm : d.cm = c.cm := by rfl) (hpp : d.x.pp = c.x.pp := by rfl) : Lands c d := ⟨hnum, hctl, htask, hcm, hpp.trans⟩

theorem Lands.ite {p : Prop} [Decidable p] (h : Lands c d) (k : Lands c e) : Lands c (if p then d else e) := by
  split
  · exact h
  · exact k

theorem lands_foldl {α : Type} {f : Core → α → Core} (hf : ∀ c a, Lands c (f c a)) (xs : List α) (c : Core) :
    Lands c (xs.foldl f c) := by
  induction xs generalizing c with
  | nil => exact .refl c
  | cons a r ih => exact (hf c a).trans (ih _)

theorem lands_spadWrite (b off : Nat) (bs : List Byte) (c : Core) : Lands c (spadWrite b off bs c) := by
  induction bs generalizing off c with
  | nil => exact .refl c
  | cons x r ih => exact Lands.trans .of_eq (ih (off + 1) (spadPut b off x c))

theorem lands_spadMasked (b off mask val : Nat) (c : Core) : Lands c (spadMasked b off mask val c) := by
  refine lands_foldl (fun c i => ?_) _ c
  dsimp only
  split
  · exact .refl c
  · exact .of_eq

theorem lands_writeSr (n : Nat) (v : Word) (c : Core) : Lands c (writeSr n v c) := by
  unfold writeSr
  dsimp only
  iterate 12 refine .ite .of_eq ?_
  refine .ite (.ite (.refl c) .of_eq) ?_
  iterate 6 refine .ite .of_eq ?_
  exact .refl c

theorem lands_landOne (p : Pend) (c : Core) : Lands c (landOne p c) := by
  obtain ⟨due, born, pc, slot, eff⟩ := p
  cases eff with
  | s r x => exact .ite (.refl c) .of_eq
  | a r x => exact .of_eq
  | p which x => exact .of_eq
  | v cl r which x => exact .ite (.refl c) .of_eq
  | m cl r which x => exact .ite (.refl c) .of_eq
  | sr n x => exact lands_writeSr n x c
  | mode x => exact .ite (.refl c) .of_eq
  | ack => exact .of_eq
  | pp => exact ⟨rfl, rfl, rfl, rfl, fun _ => rfl⟩
  | st b off m x => exact lands_spadWrite b off x c
  | stw b off x => exact lands_spadWrite b off x c
  | fl cl f => exact .ite .of_eq .of_eq

theorem lands_landBefore (t : Nat) (ps : List Pend) (c : Core) : Lands c (landBefore t ps c) := by
  induction ps generalizing c with
  | nil => exact .of_eq
  | cons p r ih =>
    unfold landBefore
    split
    · exact (lands_landOne p c).trans (ih _)
    · exact .of_eq

theorem lands_landS12 (k : S12Cmd) (c : Core) : Lands c (landS12 k c) :=
  (lands_foldl (fun c w => lands_spadMasked w.buf w.off w.mask w.val c) k.out c).trans .of_eq

theorem lands_landFlights (t : Nat) (c : Core) : Lands c (landFlights t c) :=
  (lands_foldl (fun c f => lands_landS12 f c) _ c).trans .of_eq

theorem lands_landAll (t : Nat) (c : Core) : Lands c (landAll t c) := by
  have hbefore : ∀ t c, Lands c (landBefore t c.pend { c with pend := [] }) := fun t c =>
    Lands.trans .of_eq (lands_landBefore t c.pend { c with pend := [] })
  unfold landAll
  split
  · exact hbefore t c
  · exact lands_foldl (fun c d => (hbefore (d + 1) c).trans (lands_landFlights _ _)) _ c

theorem lands_moveOn (k : Nat) (c : Core) : Lands c (moveOn k c) := by
  refine (lands_landAll (c.now + k) c).trans ?_
  unfold moveOn
  dsimp only
  split <;> exact .of_eq

theorem lands_pmAdd (e n : Nat) (c : Core) : Lands c (pmAdd e n c) := by
  unfold pmAdd
  split <;> exact .of_eq

/-- A new count of the watchdog. It is a variable here: the kernel compares it with the old one before it looks at `pp`. -/
theorem lands_wdogr (w : Word) (e : EventSt) (c : Core) : Lands c { c with x := { c.x with wdogr := w }, ev := e } := .of_eq

theorem lands_tickWdog (k : Nat) (c : Core) : Lands c (tickWdog k c) := .ite (.refl c) (lands_wdogr _ _ c)

theorem lands_countCycles (k : Nat) (c : Core) : Lands c (countCycles k c) := by
  unfold countCycles
  extract_lets counted copying holding teasing ticked run e
  have hcounted : Lands c counted := (lands_pmAdd _ k c).trans (lands_pmAdd 0x3F k _)
  have hcopying : Lands counted copying := .ite (.refl counted) (lands_pmAdd 0x39 k counted)
  have hholding : Lands copying holding := lands_pmAdd 0x37 _ copying
  have hteasing : Lands holding teasing := .ite (lands_pmAdd 0x38 k holding) (.refl holding)
  have hticked : Lands teasing ticked := lands_tickWdog k teasing
  exact hcounted.trans (hcopying.trans (hholding.trans (hteasing.trans (hticked.trans .of_eq))))

theorem lands_passCore (k : Nat) (c : Core) : Lands c (passCore k c) :=
  (lands_countCycles k c).trans (lands_moveOn k _)

theorem lands_rejoin (c : Core) : Lands c (rejoin c) := by
  unfold rejoin
  split
  · exact .refl c
  · exact .of_eq

end Landing

/-- Results that land change the core in focus and the clock. -/
theorem drain_eq (s : State) : ∃ c n, drain s = { s with core := c, time := n } ∧ Lands s.core c := by
  unfold drain
  dsimp only
  split
  · exact ⟨_, _, rfl, lands_rejoin s.core⟩
  · exact ⟨_, _, rfl, (lands_rejoin s.core).trans (lands_passCore _ _)⟩

/-! ### What a boundary takes (16 R286, 19 R328) -/

section Boundary
variable {s u z : State}

/-- A pre-emption's room for its records is judged by the task of the core in focus, the teams and their logs. -/
theorem preMay_congr (htask : u.core.task = s.core.task) (hfocus : u.focus = s.focus) (hdist : u.dist = s.dist) (hmem : u.mem = s.mem) :
    preMay u = preMay s := by
  simp only [preMay, preUnasked, preRoom, logFree, logD, teamOf, htask, hfocus, hdist, hmem]
  rfl

/-- What `drain` leaves: the access on its way, a pending pre-emption, and whether that may be taken. -/
theorem drain_keeps (s : State) :
    (drain s).core.cm = s.core.cm ∧ (s.core.x.pp = true → (drain s).core.x.pp = true) ∧ preMay (drain s) = preMay s := by
  obtain ⟨c, n, hdrain, hlands⟩ := drain_eq s
  have hfocus : (drain s).focus = s.focus := by rw [hdrain, State.focus, State.focus, hlands.num, hlands.ctl]
  refine ⟨?_, ?_, preMay_congr ?_ hfocus ?_ ?_⟩ <;> rw [hdrain]
  · exact hlands.cm
  · exact hlands.pp
  · exact hlands.task

theorem rem_none_of_leavable (h : leavable s.core = true) : s.core.cm.rem = none := by
  simpa using (Bool.and_eq_true_iff.mp h).2

/-- At a boundary that an item waits for, the item is taken from the state with every result landed. -/
theorem boundary_of_waits (hfpx : s.core.ev.fpx = none) (hgo : leavable s.core = true) (hzfpx : (drain s).core.ev.fpx = none)
    (hwaits : groupWaits s.core.ev.stopped (forcedDue s.core) s = true) :
    boundary s = takeItem s.core.ev.stopped (forcedDue s.core) (drain s) := by
  have hrem : (drain s).core.cm.rem = none := by rw [(drain_keeps s).1, rem_none_of_leavable hgo]
  simp only [boundary, hgo, Bool.and_true, hfpx, hwaits, and_self, if_true, takeFirst, hrem, hzfpx, Option.isSome_none,
    Bool.false_eq_true, if_false]

/-- A boundary is forced by a watchdog, a request of the control complex or a pre-emption that waits, where no STOP came. -/
theorem forcedDue_cases (h : forcedDue s.core = true) :
    s.core.ev.stopped = false ∧ (s.core.ev.wdog = true ∨ s.core.ev.ccreq.isSome = true ∨ s.core.x.pp = true) := by
  simp only [forcedDue, Bool.and_eq_true, Bool.or_eq_true, Bool.not_eq_true'] at h
  obtain ⟨hstop, (⟨hwdog, -⟩ | ⟨hccreq, -⟩) | ⟨hpp, -⟩⟩ := h
  · exact ⟨hstop, .inl hwdog⟩
  · exact ⟨hstop, .inr (.inl hccreq)⟩
  · exact ⟨hstop, .inr (.inr hpp)⟩

/-- The watchdog's item is due where neither a pre-emption nor a late fault comes before it. -/
theorem takeItem_wdog {group forced : Bool} (hpl : z.core.x.pl = false) (hpp : z.core.x.pp = false) (hlate : z.core.ev.late = [])
    (hwdog : z.core.ev.wdog = true) (hg : (group || forced) = true) : takeItem group forced z = some (takeWdog forced z) := by
  simp [takeItem, hpl, hpp, hlate, hwdog, hg]

theorem takeItem_preempt {group forced : Bool} (hpl : z.core.x.pl = false) (hpp : z.core.x.pp = true) (hmay : preMay z = true)
    (hg : (group || forced) = true) : takeItem group forced z = some (startSave z) := by
  simp [takeItem, hpl, hpp, hmay, hg]

theorem boundary_wdog (hpl : s.core.x.pl = false) (hgo : leavable s.core = true) (hfpx : s.core.ev.fpx = none)
    (hdue : forcedDue s.core = true) (hzfpx : (drain s).core.ev.fpx = none) (hzpl : (drain s).core.x.pl = false)
    (hzpp : (drain s).core.x.pp = false) (hzlate : (drain s).core.ev.late = []) (hzwdog : (drain s).core.ev.wdog = true) :
    boundary s = some (takeWdog true (drain s)) := by
  obtain ⟨hstop, hitem⟩ := forcedDue_cases hdue
  have hpp : s.core.x.pp = false := Bool.eq_false_iff.mpr fun h => by simp [(drain_keeps s).2.1 h] at hzpp
  have hwaits : groupWaits s.core.ev.stopped (forcedDue s.core) s = true := by
    simp only [hpp, Bool.false_eq_true, or_false] at hitem
    simpa [groupWaits, groupItem, hpl, hdue, hpp] using hitem
  rw [boundary_of_waits hfpx hgo hzfpx hwaits, takeItem_wdog hzpl hzpp hzlate hzwdog (by simp [hdue]), hdue]

theorem boundary_preempt (hpl : s.core.x.pl = false) (hgo : leavable s.core = true) (hfpx : s.core.ev.fpx = none)
    (hpp : s.core.x.pp = true) (hdue : s.core.ev.stopped = true ∨ forcedDue s.core = true) (hzfpx : (drain s).core.ev.fpx = none)
    (hzpl : (drain s).core.x.pl = false) (hmay : preMay s = true) : boundary s = some (startSave (drain s)) := by
  obtain ⟨-, hzpp, hzmay⟩ := drain_keeps s
  have hg : (s.core.ev.stopped || forcedDue s.core) = true := Bool.or_eq_true_iff.mpr hdue
  have hwaits : groupWaits s.core.ev.stopped (forcedDue s.core) s = true := by
    simp [groupWaits, groupItem, hpl, hpp, hmay, hdue]
  rw [boundary_of_waits hfpx hgo hzfpx hwaits, takeItem_preempt hzpl (hzpp hpp) (hzmay.trans hmay) hg]

end Boundary

/-! ### The earliest command to land -/

/-- The earliest landing cycle of the commands `r` and cycle `m`. -/
theorem foldl_land_least (r : List S12Cmd) (m : Nat) :
    let k := r.foldl (fun m x => if x.land < m then x.land else m) m
    k ≤ m ∧ (k = m ∨ ∃ x ∈ r, x.land = k) ∧ ∀ x ∈ r, k ≤ x.land := by
  induction r generalizing m with
  | nil => simp
  | cons f r ih =>
    obtain ⟨hle, hmem, hall⟩ := ih (if f.land < m then f.land else m)
    have hmin : (if f.land < m then f.land else m) ≤ m ∧ (if f.land < m then f.land else m) ≤ f.land := by split <;> omega
    refine ⟨Nat.le_trans hle hmin.1, ?_, List.forall_mem_cons.mpr ⟨Nat.le_trans hle hmin.2, hall⟩⟩
    rcases hmem with hk | ⟨x, hx, hk⟩
    · rw [List.foldl_cons, hk]
      split
      · exact .inr ⟨f, by simp, rfl⟩
      · exact .inl rfl
    · exact .inr ⟨x, by simp [hx], hk⟩

/-! ### What leaves every core and the distributor alone -/

/-- `t` is `s` but for memory, the homes, the groups, the torus, the control complex and the count of free values. -/
def CoresStand (s t : State) : Prop :=
  t = { s with mem := t.mem, home := t.home, grp := t.grp, net := t.net, ctl := t.ctl, free := t.free }

section CoresStand
variable {s t u : State}

theorem CoresStand.trans (h : CoresStand s t) (k : CoresStand t u) : CoresStand s u := by
  unfold CoresStand at h k ⊢
  rw [k, h]

theorem CoresStand.dist_eq (h : CoresStand s t) : t.dist = s.dist := by rw [h]
theorem CoresStand.coreAt_eq (h : CoresStand s t) (k : Nat) : coreAt t k = coreAt s k := by rw [h]; rfl

theorem Apart.coresStand (h : Apart s t) : CoresStand s t := by
  unfold Apart at h
  unfold CoresStand
  rw [h]

theorem coresStand_captureIn (wins : SMap Win) (area : Option CapArea) (team gran : Nat) (put : SMap Win → HomeSt → HomeSt) (s : State) :
    CoresStand s (captureIn wins area team gran put s) := by
  unfold captureIn
  dsimp only
  split
  · rfl
  · split
    · rfl
    · split <;> rfl

theorem coresStand_capture (w : Who) (a : Nat) (s : State) : CoresStand s (capture w a s) := by
  unfold capture
  split
  · rfl
  · dsimp only
    split
    · exact (coresStand_captureIn _ _ _ _ _ s).trans (coresStand_captureIn _ _ _ _ _ _)
    · exact coresStand_captureIn _ _ _ _ _ s

/-- A write that the L2 does not take. -/
theorem coresStand_homeWrite (w : Who) (a mask val : Nat) (s : State) : CoresStand s (homeWrite w false a mask val s) := by
  unfold homeWrite
  split
  · refine (coresStand_capture w a s).trans ?_
    dsimp only [Bool.false_eq_true, if_false]
    split <;> rfl
  · rfl

theorem coresStand_homePuts (w : Who) (k a : Nat) (bs : List Byte) (s : State) : CoresStand s (homePuts w false k a bs s) := by
  induction k generalizing a bs s with
  | zero => rfl
  | succ k ih =>
    unfold homePuts
    dsimp only
    split
    · rfl
    · refine CoresStand.trans ?_ (ih _ _ _)
      split
      · rfl
      · exact coresStand_homeWrite _ _ _ _ s

theorem coresStand_logPut (t : Nat) (bs : List Byte) (va : Nat) (s : State) : CoresStand s (logPut t bs va s) := by
  induction bs generalizing va s with
  | nil => rfl
  | cons b r ih =>
    refine CoresStand.trans ?_ (ih (va + 1) _)
    split
    · split <;> rfl
    · rfl

theorem coresStand_logWrite (t k : Nat) (f : LogD → List Byte) (s : State) : CoresStand s (logWrite t k f s) := by
  unfold logWrite
  split
  · rfl
  · dsimp only
    split
    · exact (coresStand_logPut t _ _ s).trans ((apart_foldl (fun s i => apart_onHome _ s) _ _).coresStand.trans rfl)
    · rfl

end CoresStand

/-! ### A save completes (19 R328, R331, R335) -/

section Save
variable {s t u : State} {n : Nat}

/-- Agents of a continuation that leaves its core: the homes and the torus alone change. -/
theorem apart_goAway (team slot : Nat) (s : State) : Apart s (goAway team slot s) :=
  (apart_foldl (fun s p => apart_tell p _ _ _ s) _ s).trans rfl

/-- A context saved: what the slot holds is the core as it was, with nothing in flight. -/
theorem saveCtx_eq (key slot : Nat) (s : State) : ∃ u, CoresStand s u ∧
    saveCtx key slot s = putSlot slot { slotAt u slot with
      ctx := some (asSaved (coreAt s key)), held := (coreAt s key).cm.held, regs := (coreAt s key).cm.regs } u :=
  ⟨_, CoresStand.trans (apart_draw s).coresStand (CoresStand.trans (apart_onHome _ _).coresStand (coresStand_homePuts _ _ _ _ _)), rfl⟩

theorem slotAt_putSlot_self (k : Nat) (x : PSlot) (s : State) : slotAt (putSlot k x s) k = x :=
  congrArg (Option.getD · PSlot.free) (mfind?_mput_self s.dist.slots k x)

/-- From `s` to `t` every core and pool slot stands, and the ready continuations and the live count of team `n`. -/
structure TeamStands (n : Nat) (s t : State) : Prop where
  cores : ∀ k, coreAt t k = coreAt s k
  slots : t.dist.slots = s.dist.slots
  team : ∀ x, teamOf s n = some x → ∃ y, teamOf t n = some y ∧ y.ready = x.ready ∧ y.live = x.live

theorem TeamStands.trans (h : TeamStands n s t) (k : TeamStands n t u) : TeamStands n s u := by
  refine ⟨fun c => (k.cores c).trans (h.cores c), k.slots.trans h.slots, fun x hx => ?_⟩
  obtain ⟨y, hy, hready, hlive⟩ := h.team x hx
  obtain ⟨z, hz, hready', hlive'⟩ := k.team y hy
  exact ⟨z, hz, hready'.trans hready, hlive'.trans hlive⟩

theorem CoresStand.teamStands (h : CoresStand s t) : TeamStands n s t :=
  ⟨h.coreAt_eq, by rw [h.dist_eq], fun x hx => ⟨x, by rw [teamOf, h.dist_eq]; exact hx, rfl, rfl⟩⟩

theorem onTeam_slots (f : Team → Team) (s : State) : (onTeam n f s).dist.slots = s.dist.slots := by
  unfold onTeam
  split <;> rfl

theorem coreAt_onTeam (f : Team → Team) (s : State) (k : Nat) : coreAt (onTeam n f s) k = coreAt s k := by
  unfold onTeam
  split <;> rfl

theorem teamOf_onTeam_self {f : Team → Team} {x : Team} (hx : teamOf s n = some x) : teamOf (onTeam n f s) n = some (f x) := by
  rw [onTeam_of_team s n hx]
  exact mfind?_mput_self s.dist.teams n (f x)

theorem teamStands_onTeam {f : Team → Team} (hf : ∀ x, (f x).ready = x.ready ∧ (f x).live = x.live) :
    TeamStands n s (onTeam n f s) :=
  ⟨coreAt_onTeam f s, onTeam_slots f s, fun x hx => ⟨f x, teamOf_onTeam_self hx, hf x⟩⟩

theorem teamStands_logPreempt (key : Nat) (c : Cont) (s : State) : TeamStands c.team s (logPreempt key c s) := by
  unfold logPreempt
  split
  · exact (coresStand_logWrite _ _ _ s).teamStands.trans (teamStands_onTeam fun _ => ⟨rfl, rfl⟩)
  · exact CoresStand.teamStands rfl

/-- The continuation of a task that is saved. -/
def leftCont (s : State) (k : Cont) : Cont := { k with pc := s.core.iss.npc, keep := true, pre := true }

/-- The pool slot of a task that is saved. -/
def leftSlot (s : State) (c : Cont) : PSlot :=
  { slotAt s c.ctx with st := .ready, team := c.team, cont := some c, ctx := some (asSaved s.core), held := s.core.cm.held,
                        regs := s.core.cm.regs }

theorem slotAt_congr (h : t.dist = s.dist) (k : Nat) : slotAt t k = slotAt s k := by rw [slotAt, slotAt, h]

/-- The context of the core in focus saved to the slot of its continuation, which is ready there. -/
def putLeft (s : State) (c : Cont) : State :=
  let t := saveCtx s.focus c.ctx (goAway c.team c.ctx s)
  putSlot c.ctx { slotAt t c.ctx with st := .ready, team := c.team, cont := some c } t

/-- The core of a gang's member that is saved is no longer kept for it. -/
def gangLeft (c : Cont) (x : Team) : Team :=
  { x with gangEnd := x.gangEnd.map (fun e => if c.slot.isSome ∧ e.1 / 4 = c.idx / 4 then (e.1, none, e.2.2) else e) }

theorem execSaveComplete_eq {k : Cont} (hst : s.core.st = .save) (hready : saveReady s.core = true) (hcont : s.core.task.cont = some k) :
    let c := leftCont s k
    execSaveComplete s =
      .next (releaseCore s.focus (pushReady c (onTeam c.team (gangLeft c) (logPreempt s.focus c (putLeft s c))))) := by
  simp only [execSaveComplete, hst, hready, hcont, decide_true, Bool.and_self]
  rfl

/-- The save puts the slot, and leaves the cores and the teams as they were. -/
theorem putLeft_spec (s : State) (c : Cont) :
    (∀ j, coreAt (putLeft s c) j = coreAt s j) ∧ (putLeft s c).dist.teams = s.dist.teams ∧
      slotAt (putLeft s c) c.ctx = leftSlot s c := by
  have haway := apart_goAway c.team c.ctx s
  obtain ⟨u, hu, hsave⟩ := saveCtx_eq s.focus c.ctx (goAway c.team c.ctx s)
  have hsu : CoresStand s u := haway.coresStand.trans hu
  rw [putLeft, hsave]
  have hteams : u.dist.teams = s.dist.teams := by rw [hsu.dist_eq]
  refine ⟨hsu.coreAt_eq, hteams, ?_⟩
  rw [slotAt_putSlot_self, slotAt_putSlot_self, slotAt_congr hsu.dist_eq, haway.coreAt_eq, coreAt_focus]
  rfl

theorem releaseCore_dist (k : Nat) (s : State) : (releaseCore k s).dist = s.dist := onCoreAt_dist s k releasedCore

theorem teamOf_releaseCore (k : Nat) (s : State) : teamOf (releaseCore k s) n = teamOf s n := by
  rw [teamOf, releaseCore_dist, teamOf]

/-- A core that is saved becomes idle, with its slot and its team as the save leaves them. -/
theorem saveComplete_spec {k : Cont} {x : Team} (hst : s.core.st = .save) (hready : saveReady s.core = true)
    (hcont : s.core.task.cont = some k) (hx : teamOf s k.team = some x) : ∃ t y, execSaveComplete s = .next t ∧
      (coreAt t s.focus).st = .idle ∧ slotAt t k.ctx = leftSlot s (leftCont s k) ∧ teamOf t k.team = some y ∧
      y.ready = x.ready ++ [leftCont s k] ∧ y.live = x.live := by
  obtain ⟨hcores, hteams, hslot⟩ := putLeft_spec s (leftCont s k)
  have hstands : TeamStands k.team (putLeft s (leftCont s k)) _ :=
    (teamStands_logPreempt s.focus (leftCont s k) _).trans (teamStands_onTeam (f := gangLeft (leftCont s k)) fun _ => ⟨rfl, rfl⟩)
  obtain ⟨y, hy, hyready, hylive⟩ := hstands.team x (by rw [teamOf, hteams]; exact hx)
  refine ⟨_, { y with ready := y.ready ++ [leftCont s k] }, execSaveComplete_eq hst hready hcont, ?idle, ?slot, ?team, ?ready, hylive⟩
  case idle =>
    refine releaseCore_idle ?_
    rw [pushReady, coreAt_onTeam, hstands.cores, hcores, coreAt_focus, hst]
    decide
  case slot =>
    rw [slotAt_congr (releaseCore_dist _ _), slotAt, pushReady, onTeam_slots, hstands.slots]
    exact hslot
  case team => exact (teamOf_releaseCore _ _).trans (teamOf_onTeam_self hy)
  case ready => rw [hyready]

end Save

/-- A core replaced by one of the same number. -/
theorem coreAt_setCoreAt_self {s : State} {k : Nat} {c : Core} (h : k = s.focus → coreKey c.num c.ctl = k) :
    coreAt (setCoreAt k c s) k = c := coreAt_onCoreAt_self (f := fun _ => c) h

/-- Settles O48: a boundary takes its item from the state with every result landed (`boundary_wdog`, `boundary_preempt`), the least
landing cycle is a command's (`foldl_land_least`), a save is `saveComplete_spec`, and the other steps are the stated ones. -/
theorem coreClockSteps : Obligations.CoreClockSteps := by
  intro s
  refine ⟨fun hrun => ⟨fun hst hhome => ⟨fun hans => ⟨fun hlook => ?fetches, fun t hlook => ?takes⟩, fun hans hexp => ?freezes⟩,
      fun hidle => ?passes⟩,
    fun hexp => ⟨?resultWaits, ?s12Waits⟩, fun p r hexp hpend => ?result, fun f r hexp hflight => ?s12, fun hst hpl hcount => ?wdog,
    fun hst hpl hfrom hgo hfpx => ⟨fun hdue => ?forced, fun hpp hdue hzfpx hzpl _ hmay => ?preempt⟩,
    fun k x hst hready hcont hx => ?save, fun c hc hhalt => ?reset⟩
  case fetches =>
    have hfetch := execIssueBundle_fetches hrun hst hhome (by rw [hans, Bool.and_false]) hlook rfl
    rwa [hans, Bool.and_false] at hfetch
  case takes =>
    show execIssueBundle s = _
    simp [execIssueBundle, hrun, hst, hhome, hans, hlook]
  case freezes =>
    have hwait := execIssueBundle_waits hrun hst hhome (by rw [hexp, hans]; rfl)
    rwa [waitAnswer, fetchWait, if_pos hexp] at hwait
  case passes =>
    show execIssueBundle s = _
    by_cases hst : s.core.st = .run ∨ s.core.st = .handler
    · have hhome : homing s = true := hidle.resolve_right fun hno => hst.elim hno.1 hno.2
      simp [execIssueBundle, hrun, hst, hhome]
    · simp [execIssueBundle, hrun, hst]
  case resultWaits =>
    show execResultLands s = _
    simp [execResultLands, hexp]
  case s12Waits =>
    show execS12Landing s = _
    simp [execS12Landing, hexp]
  case result =>
    show execResultLands s = _
    simp [execResultLands, hexp, hpend]
  case s12 =>
    obtain ⟨hle, hmem, hall⟩ := foldl_land_least r f.land
    refine ⟨_, show execS12Landing s = _ by simp only [execS12Landing, hexp, hflight]; rfl, ?_⟩
    rw [hflight]
    refine ⟨?_, List.forall_mem_cons.mpr ⟨hle, hall⟩⟩
    rcases hmem with hk | ⟨x, hx, hk⟩
    · exact ⟨f, by simp, hk.symm⟩
    · exact ⟨x, by simp [hx], hk⟩
  case wdog =>
    show execWatchdogExpiry s = _
    simp [execWatchdogExpiry, idleFor, hst, hpl, hcount]
  case forced =>
    have hexec : exec .forcedBoundary s = .next ((boundary s).getD s) := by
      show execForcedBoundary s = _
      simp [execForcedBoundary, hst, hpl, hfrom, hgo, hdue]
    refine ⟨fun t ht => by rw [hexec, ht]; rfl, fun hzfpx hzpl hzpp hzlate hzwdog => ?_⟩
    rw [hexec, boundary_wdog hpl hgo hfpx hdue hzfpx hzpl hzpp hzlate hzwdog]
    rfl
  case preempt =>
    show execPreemption s = _
    simp only [execPreemption, hst, hpp, hpl, hfrom, hgo, Bool.or_eq_true_iff.mpr hdue,
      boundary_preempt hpl hgo hfpx hpp hdue hzfpx hzpl hmay]
    rfl
  case save =>
    obtain ⟨t, y, hexec, hidle, hslot, hy, hyready, hylive⟩ := saveComplete_spec hst hready hcont hx
    refine ⟨t, y, hexec, hidle, ?_, ?_, ?_, ?_, ?_, hy, hyready, hylive⟩ <;> rw [hslot] <;> rfl
  case reset =>
    exact ⟨_, congrArg Host.Outcome.next (if_pos ⟨hc, hhalt⟩), coreAt_setCoreAt_self fun _ => rfl⟩

end Sys2Proof.Proofs
end

section
/-!
PROOFS. The instructions of the copy engine, the bitmaps and the event queue (08 R149–R166, 12 R225). `acceptCmd_room` says once what
acceptance does. A descriptor's line is read at once (`ownLine_reads`), which changes the bundle's bookkeeping only, and the checks of
the descriptor do not look at that (`CopyPasses.onIss`).
-/
namespace Sys2Proof.Proofs
open Sys2Proof.Machine Sys2Proof.Claims

/-! ### Acceptance of a command (08 R157) -/

section Accept
variable {pd : Nat} {k : CopyCmd} {s : State}

theorem acceptCmd_full (h : ¬ (s.core.cp.cmds.length < 16 ∧ evRoom s.core = true)) (clear : Option Nat) :
    acceptCmd pd k clear s = emit 1 (predBit pd false) s := if_neg h

theorem sameButCp_trans {s t u : State} (h : sameButCp s t) (k : sameButCp t u) : sameButCp s u := by
  obtain ⟨hmem, hothers, hhome, hdist, hnet, hctl, hcore⟩ := h
  obtain ⟨kmem, kothers, khome, kdist, knet, kctl, kcore⟩ := k
  exact ⟨kmem.trans hmem, kothers.trans hothers, khome.trans hhome, kdist.trans hdist, knet.trans hnet, kctl.trans hctl,
    by rw [kcore, hcore]⟩

theorem sameButCp_onCp (f : CopySt → CopySt) (s : State) : sameButCp s (onCp f s) := ⟨rfl, rfl, rfl, rfl, rfl, rfl, rfl⟩
theorem sameButCp_onIss (f : Iss → Iss) (s : State) : sameButCp s (onIss f s) := ⟨rfl, rfl, rfl, rfl, rfl, rfl, rfl⟩
theorem sameButCp_emit (lat : Nat) (e : Land) (s : State) : sameButCp s (emit lat e s) := ⟨rfl, rfl, rfl, rfl, rfl, rfl, rfl⟩

/-- The bits of a span taken by the command with bitmap `k.cb`, cleared. -/
def clearSpan (k : CopyCmd) : Option Nat → CopySt → CopySt
  | none, c => c
  | some n, c => { c with cb := mset 0 c.cb k.cb (mget 0 c.cb k.cb &&& ~~~lowBits n) }

theorem acceptCmd_of_room (h : s.core.cp.cmds.length < 16 ∧ evRoom s.core = true) (clear : Option Nat) :
    acceptCmd pd k clear s = emit 1 (predBit pd true) (cntEv 0x1E 1
      (onCp (clearSpan k clear) (onCp (fun c => { c with cmds := c.cmds ++ [k] }) (reserveEv s)))) := by
  rw [acceptCmd, if_pos h]
  cases clear <;> rfl

theorem acceptCmd_room (h : s.core.cp.cmds.length < 16 ∧ evRoom s.core = true) (clear : Option Nat) :
    sameButCp s (acceptCmd pd k clear s) ∧ (acceptCmd pd k clear s).core.cp.cmds = s.core.cp.cmds ++ [k] ∧
      (acceptCmd pd k clear s).core.cp.resv = s.core.cp.resv + 1 ∧
      (acceptCmd pd k clear s).core.pend = (emit 1 (predBit pd true) s).core.pend := by
  rw [acceptCmd_of_room h]
  refine ⟨?_, ?_, ?_, ?_⟩
  · refine sameButCp_trans ?_ (sameButCp_emit _ _ _)
    refine sameButCp_trans ?_ (sameButCp_onIss _ _)
    exact sameButCp_trans (sameButCp_trans (sameButCp_onCp _ s) (sameButCp_onCp _ _)) (sameButCp_onCp _ _)
  · cases clear <;> simp [clearSpan, reserveEv]
  · cases clear <;> simp [clearSpan, reserveEv]
  · simp [reserveEv, cntEv]

theorem bitAt_lowBits {n i : Nat} (hn : i < n) (hi : i < 256) : bitAt (lowBits n) i = true := by
  rw [bitAt, lowBits, BitVec.getLsbD_ofNat, Nat.testBit_two_pow_sub_one]
  simp [hi, hn]

/-- The bits a command's span takes are clear once it is accepted. -/
theorem acceptCmd_clears (h : s.core.cp.cmds.length < 16 ∧ evRoom s.core = true) {n i : Nat} (hn : i < n) (hi : i < 256) :
    bitAt (cbOf (acceptCmd pd k (some n) s).core k.cb) i = false := by
  have hcb : cbOf (acceptCmd pd k (some n) s).core k.cb = cbOf s.core k.cb &&& ~~~lowBits n := by
    rw [acceptCmd_of_room h]
    exact mget_mset_self 0 _ _ _
  have hlow := bitAt_lowBits hn hi
  rw [bitAt] at hlow ⊢
  simp [hcb, hlow]

end Accept

/-! ### Bitmaps and the event queue (08 R163–R165, 12 R225) -/

theorem waitIl_met {b : Bool} {f : State → State} {s : State} (hexp : exposed s = false) (hb : b = true) :
    waitIl b f s = f s := by simp [waitIl, hexp, hb]

section Pref
variable {g n p x b c t : Nat} {s : State}

theorem execPref_legal (hg : guardOk g n s = true) (hlen : (rdS s b).toNat ≤ 2 ^ 30) (hcanon : nonCanon (rdS s x).toNat = false)
    (hend : (rdS s x).toNat + (rdS s b).toNat ≤ 2 ^ 64) :
    exec (.pref g n p x b c t) s =
      .next (acceptCmd p { newCmd .pref t s with arg := rdS s x, arg2 := rdS s b, tgt := c } none s) := by
  refine (slotDo_of_guard hg).trans ?_
  simp only [Nat.not_lt.mpr hlen, if_false, hcanon, decide_eq_false (Nat.not_lt.mpr hend), Bool.or_false, Bool.false_eq_true, wd,
    BitVec.ofNat_toNat, BitVec.setWidth_eq]

end Pref

/-- Settles O22: the bitmap and event forms are their definitions under the guard; PREF in range is an accepted command. -/
theorem bitmapAndEventForms : Obligations.BitmapAndEventForms := by
  intro s g n d k w x p b c t hg win
  refine ⟨retP_of_guard hg, retS_of_guard hg, slotDo_of_guard hg, fun hexp hmet => ?waits, fun hempty => ?empty, fun e r hevq => ?pops,
    fun hlen hcanon hend => ?pref⟩
  case waits => exact (slotDo_of_guard hg).trans (congrArg _ (waitIl_met hexp (decide_eq_true hmet)))
  case empty =>
    refine (slotDo_of_guard hg).trans ?_
    rw [hempty]
  case pops =>
    refine ⟨cntEv 0x21 1 (onCp (fun c => { c with evq := r }) s), rfl, (slotDo_of_guard hg).trans ?_⟩
    rw [hevq]
  case pref =>
    rw [execPref_legal hg hlen hcanon hend]
    refine ⟨fun hcmds hev => ?_, fun hfull => congrArg _ (acceptCmd_full hfull none)⟩
    obtain ⟨hsame, hqueue, hresv, hpend⟩ := acceptCmd_room ⟨hcmds, hev⟩ none
    exact ⟨_, rfl, hsame, hresv, hqueue, hpend⟩

/-! ### The descriptor's line (07 R131, R132; 08 R150) -/

theorem coreAt_onIss (f : Iss → Iss) (s : State) (k : Nat) :
    coreAt (onIss f s) k = if k = s.focus then { coreAt s k with iss := f s.core.iss } else coreAt s k := by
  by_cases hk : k = s.focus
  · subst hk
    rw [if_pos rfl, coreAt_focus]
    exact coreAt_focus (onIss f s)
  · rw [if_neg hk, coreAt, coreAt, if_neg hk]
    exact if_neg hk

/-- What does not look at the bundle in progress is the same of a core when that alone has changed. -/
theorem coreAt_onIss_congr {α : Type} (view : Core → α) (hview : ∀ c i, view { c with iss := i } = view c) (f : Iss → Iss) (s : State)
    (k : Nat) : view (coreAt (onIss f s) k) = view (coreAt s k) := by
  rw [coreAt_onIss]
  split
  · exact hview _ _
  · rfl

/-- The bookkeeping of a bundle once `n` more bytes of port `p` are taken, served in cycle `q`. -/
def tookPort (p n q : Nat) (i : Iss) : Iss :=
  { i with cnt := mset 0 i.cnt (0x100 + p) (mget 0 i.cnt (0x100 + p) + n), qs := i.qs ++ [q] }

/-- A port of which a bundle has taken nothing serves what it is wide enough for. -/
theorem takePort_free {s : State} (hfree : portsFree s) {p n : Nat} (hn : n ≤ portWidth p) (cl : Option Nat) (f : Nat → State → State) :
    ∃ q, takePort p n cl f s = f q (onIss (tookPort p n q) s) := by
  obtain ⟨hflight, hearly, hcnt⟩ := hfree
  have hspans : portSpans s.core p = [] := by rw [portSpans, hflight]; rfl
  have hover : portOver s p n = false := by
    simp only [portOver, portHeld, hspans, hcnt p, List.any_nil, Bool.false_or, decide_eq_false_iff_not]
    omega
  refine ⟨nthFree [] ((n - 1) / portWidth p) s.core.now - s.core.now, ?_⟩
  simp only [takePort, hearly, hover, Bool.and_false, Bool.false_eq_true, if_false, hspans, hcnt p, Nat.zero_add]
  rfl

/-! The checks of scratchpad addresses and of a command's ranges do not look at the bundle's bookkeeping. -/

section OnIss
variable (g : Iss → Iss) (s : State)

theorem spadTarget_onIss (ea : Nat) : spadTarget (onIss g s) ea = spadTarget s ea := rfl

theorem spRef_onIss (ea : Word) : spRef (onIss g s) ea = spRef s ea := rfl

theorem spadOk_onIss (agent : Nat) (wr : Bool) (ea size : Nat) :
    spadOk (onIss g s) agent wr ea size = spadOk s agent wr ea size := by
  have harena := coreAt_onIss_congr (arenaHit · (ea / 2 ^ 20 % 4) (ea % 2 ^ 20) (ea % 2 ^ 20 + size)) (fun _ _ => rfl) g s (spadTarget s ea)
  simp only [spadOk, spadTarget_onIss, harena]
  rfl

theorem ownLineFault_onIss (wr : Bool) (ea : Word) (n : Nat) : ownLineFault wr ea n (onIss g s) = ownLineFault wr ea n s := by
  simp only [ownLineFault, spadOk_onIss]

theorem rangesClash_onIss (kind : CopyKind) (tgt : Nat) (rs : List CRange) :
    rangesClash (onIss g s) kind tgt rs = rangesClash s kind tgt rs := by
  induction rs with
  | nil => rfl
  | cons x r ih => rw [rangesClash, rangesClash, ih]; rfl

theorem spadRefused_onIss (kind : CopyKind) (tgt : Nat) (rs : List CRange) :
    spadRefused (onIss g s) kind tgt rs = spadRefused s kind tgt rs := by
  simp only [spadRefused, spadOk_onIss]

theorem copyPhase_onIss (kind : CopyKind) (tgt : Nat) (rs : List CRange) :
    copyPhase (onIss g s) kind tgt rs = copyPhase s kind tgt rs := by
  have hbad := fun (ea : Word) (r : CRange) => coreAt_onIss_congr
    (phaseBad · 1 r.wr (spRef s ea).buf (spRef s ea).off ((spRef s ea).off + r.len)) (fun _ _ => rfl) g s (spRef s ea).key
  simp only [copyPhase, spRef_onIss, hbad]

theorem copyAlias_onIss (kind : CopyKind) (tgt : Nat) (rs : List CRange) :
    copyAlias (onIss g s) kind tgt rs = copyAlias s kind tgt rs := rfl

end OnIss

section OwnLine
variable {ea : Word} {n : Nat} {s : State}

theorem ownLineFault_none {wr : Bool} (h : ownLineFault wr ea n s = none) :
    ea.toNat / 2 ^ 20 = 1 ∧ spadNamed ea.toNat = true := by
  unfold ownLineFault at h
  split at h
  · cases h
  · next hnot =>
    obtain ⟨hbuf, hok⟩ := not_or.mp hnot
    simp only [spadOk, Bool.not_eq_false, Bool.and_eq_true] at hok
    obtain ⟨⟨⟨⟨-, hnamed⟩, -⟩, -⟩, -⟩ := hok
    exact ⟨Decidable.not_not.mp hbuf, hnamed⟩

theorem spRef_own (hbuf : ea.toNat / 2 ^ 20 = 1) (t : State) :
    spRef t ea = { ea := ea, key := t.focus, buf := 1, off := ea.toNat % 2 ^ 20, own := true, q := 0 } := by
  have hwin : ¬ ea.toNat / 2 ^ 24 % 2 = 1 := by omega
  have hplain : ea.toNat / 2 ^ 24 % 2 = 0 := by omega
  have hkey : spadTarget t ea.toNat = t.focus := if_neg hwin
  simp only [spRef, hkey, hbuf, hplain, decide_true, Bool.and_true]

theorem phaseFault_of_spadFault {agent : Nat} {wr : Bool} {parts : List (Nat × Nat)} (hok : spadNamed ea.toNat = true)
    (h : spadFault s agent wr ea n parts = none) : phaseFault s wr ea parts = none := by
  unfold spadFault at h
  split at h
  · rw [phaseFault, if_pos hok]
    exact Option.map_eq_none_iff.mpr (Option.map_eq_none_iff.mp h)
  · cases h

theorem nth_eq_getD {α : Type} (d : α) (xs : List α) (k : Nat) : nth d xs k = xs.getD k d := by
  induction xs generalizing k with
  | nil => rfl
  | cons x r ih =>
    cases k with
    | zero => rfl
    | succ k => exact ih k

theorem map_nth_range {α : Type} (d : α) (xs : List α) : (List.range xs.length).map (nth d xs) = xs := by
  refine List.ext_getElem (by simp) fun k _ hk => ?_
  simp [nth_eq_getD, hk]

/-- A load that no store or S12 write in flight meets reads the buffer's bytes. -/
theorem spadLoad_plain {r : SpRef} (hown : r.own = true) (hkey : r.key = s.focus) (hflight : s.core.mx.flight = [])
    (hearly : s.core.iss.early = none) (f : List Byte → State → State) :
    spadLoad r n f s = f (spadBytes s.core r.buf r.off n) s := by
  have hcore : coreAt s r.key = s.core := by rw [hkey, coreAt_focus]
  have hmet : writesMet s r n = [] := by simp [writesMet, hcore, hflight]
  have hfrom : readFrom s r = s.core := by simp [readFrom, hown, hearly, hcore]
  have hseen : storesSeen s r = [] := by simp [storesSeen, hkey, hown, hearly]
  have hread : spadRead s 0 r n = spadBytes s.core r.buf r.off n := by
    simp only [spadRead, hmet, hfrom, hseen, overlaySt, overlayOut, List.filter_nil, List.foldl_nil, map_nth_range]
  simp only [spadLoad, spadLoads, List.all_cons, List.all_nil, hmet, List.isEmpty_nil, Bool.and_true, if_true, List.map_cons, List.map_nil,
    hread, nth]

/-- A line of the own A-buffer that may be read is read in the issue cycle. -/
theorem ownLine_reads (hfree : portsFree s) (hn : n ≤ 256) (hline : ownLineFault false ea n s = none)
    (hphase : spadFault s 0 false ea n [(0, n)] = none) (f : List Byte → State → State) :
    ∃ q, ownLine ea n f s = f (spadBytes s.core 1 (ea.toNat % 2 ^ 20) n) (onIss (tookPort 1 n q) s) := by
  obtain ⟨hbuf, hnamed⟩ := ownLineFault_none hline
  rw [ownLine, ownAccess, ownPlace, if_neg (Decidable.not_not.mpr hbuf), phaseFault_of_spadFault hnamed hphase]
  refine (takePort_free hfree (p := 1) hn none _).imp fun q hport => hport.trans ?_
  dsimp only
  rw [ownLineFault_onIss, hline, spRef_onIss, spRef_own hbuf]
  exact spadLoad_plain (s := onIss (tookPort 1 n q) s) rfl rfl hfree.1 hfree.2.1 f

end OwnLine

/-! ### Copy commands (08 R150, R153, R157–R159) -/

section Give
variable {kind : CopyKind} {pd cb tag tgt : Nat} {d : List Byte} {s : State}

/-- The ranges of the command that a descriptor makes in `s`. -/
def copyRanges (s : State) (c : CD) : List CRange := c.ranges (fmtOf (ftabWord s c.fs)).cont (fmtOf (ftabWord s c.fd)).cont

/-- The command that a descriptor makes in `s`. -/
def copyCmd (kind : CopyKind) (cb tag tgt : Nat) (d : List Byte) (s : State) : CopyCmd :=
  { newCmd kind tag s with desc := d, fs := ftabWord s (cdOf d).fs, fd := ftabWord s (cdOf d).fd, rm := (cdOf d).rmNow (fpRm s),
                           cb := cb, tgt := tgt }

/-- A descriptor passes the checks of its command in `s`. -/
structure CopyPasses (kind : CopyKind) (tgt : Nat) (c : CD) (s : State) : Prop where
  legal : c.legal kind tgt (ftabWord s c.fs) (ftabWord s c.fd) (ftabWord s c.fsc) (c.rmNow (fpRm s)) = true
  named : spadRefused s kind tgt (copyRanges s c) = none
  aligned : c.misaligned (fmtOf (ftabWord s c.fs)).cont (fmtOf (ftabWord s c.fd)).cont = none
  apart : rangesClash s kind tgt (copyRanges s c) = false
  span : c.spanOk (fmtOf (ftabWord s c.fd)).cont = true
  phase : copyPhase s kind tgt (copyRanges s c) = none
  noAlias : copyAlias s kind tgt (copyRanges s c) = none

theorem CopyPasses.onIss {c : CD} (h : CopyPasses kind tgt c s) (g : Iss → Iss) : CopyPasses kind tgt c (onIss g s) where
  legal := h.legal
  named := (spadRefused_onIss g s _ _ _).trans h.named
  aligned := h.aligned
  apart := (rangesClash_onIss g s _ _ _).trans h.apart
  span := h.span
  phase := (copyPhase_onIss g s _ _ _).trans h.phase
  noAlias := (copyAlias_onIss g s _ _ _).trans h.noAlias

/-- How many bits of its bitmap a command clears, if it takes any. -/
def copyClears (s : State) (c : CD) : Option Nat :=
  if c.nb || c.empty then none else some (c.span (fmtOf (ftabWord s c.fd)).cont).2

/-- With no writeback in flight a descriptor that passes is given to the engine. -/
theorem giveCopy_of_passes (h : CopyPasses kind tgt (cdOf d) s) (hflight : s.core.mx.flight = []) :
    giveCopy kind pd cb tag tgt d s = acceptCmd pd (copyCmd kind cb tag tgt d s) (copyClears s (cdOf d)) s := by
  obtain ⟨hlegal, hnamed, haligned, hapart, hspan, hphase, hleaf⟩ := h
  have hclash : ∀ lo hi, cpyaClash s lo hi = false := fun lo hi => by simp [cpyaClash, hflight]
  rw [copyRanges] at hnamed hapart hphase hleaf
  simp only [giveCopy, hlegal, hnamed, haligned, hapart, hspan, hphase, hleaf, hclash, Bool.not_true, Bool.or_false,
    Bool.false_eq_true, and_false, if_false]
  rfl

variable {g n r : Nat} (hg : guardOk g n s = true) (hfree : portsFree s) (hline : ownLineFault false (rdA s r) 128 s = none)
  (hphase : spadFault s 0 false (rdA s r) 128 [(0, 128)] = none) (hd : d = spadBytes s.core 1 ((rdA s r).toNat % 2 ^ 20) 128)
  (h : CopyPasses kind tgt (cdOf d) s)
include hg hfree hline hphase hd h

/-- CPY, CPYA and CPYM of a readable line whose descriptor passes are accepted or turned away once the line is read. -/
theorem copyIssue_of_passes : ∃ q, copyIssue kind g n pd r cb tag tgt s = .next
    (acceptCmd pd (copyCmd kind cb tag tgt d s) (copyClears s (cdOf d)) (onIss (tookPort 1 128 q) s)) := by
  subst hd
  exact (ownLine_reads hfree (by decide) hline hphase (giveCopy kind pd cb tag tgt)).imp fun q hread =>
    (slotDo_of_guard hg).trans (congrArg Host.Outcome.next (hread.trans (giveCopy_of_passes (h.onIss _) hfree.1)))

theorem copyIssue_accepted (hroom : s.core.cp.cmds.length < 16 ∧ evRoom s.core = true) :
    ∃ u, copyIssue kind g n pd r cb tag tgt s = .next u ∧ sameButCp s u ∧
      u.core.cp.cmds = s.core.cp.cmds ++ [copyCmd kind cb tag tgt d s] ∧ u.core.cp.resv = s.core.cp.resv + 1 ∧
      u.core.pend = (emit 1 (predBit pd true) s).core.pend ∧
      ((cdOf d).nb = false → (cdOf d).empty = false → ∀ i, i < ((cdOf d).span (fmtOf (ftabWord s (cdOf d).fd)).cont).2 → i < 256 →
        bitAt (cbOf u.core cb) i = false) := by
  obtain ⟨q, hissue⟩ := copyIssue_of_passes hg hfree hline hphase hd h
  obtain ⟨hsame, hcmds, hresv, hpend⟩ := acceptCmd_room (s := onIss (tookPort 1 128 q) s) hroom (copyClears s (cdOf d))
  refine ⟨_, hissue, sameButCp_trans (sameButCp_onIss _ s) hsame, hcmds, hresv, hpend, fun hnb hempty i hi hlt => ?_⟩
  rw [copyClears, hnb, hempty]
  exact acceptCmd_clears (s := onIss (tookPort 1 128 q) s) hroom hi hlt

theorem copyIssue_turned_away (hfull : ¬ (s.core.cp.cmds.length < 16 ∧ evRoom s.core = true)) :
    ∃ u, copyIssue kind g n pd r cb tag tgt s = .next u ∧ sameButCp s u ∧ u.core.cp = s.core.cp ∧
      u.core.pend = (emit 1 (predBit pd false) s).core.pend := by
  obtain ⟨q, hissue⟩ := copyIssue_of_passes hg hfree hline hphase hd h
  rw [acceptCmd_full (s := onIss (tookPort 1 128 q) s) hfull] at hissue
  exact ⟨_, hissue, sameButCp_trans (sameButCp_onIss _ s) (sameButCp_emit _ _ _), rfl, rfl⟩

end Give

/-- Settles O21: the line is read at once, the descriptor passes in the state it leaves, and acceptance decides. -/
theorem copyCommandForms : Obligations.CopyCommandForms := by
  intro s g n p r c t k x hg hfree hline hphase desc d fs fd room rs accepts
  have haccepts {kind : CopyKind} {tgt : Nat} : accepts kind tgt (copyIssue kind g n p r c t tgt s) := by
    intro hlegal hnamed haligned hapart hspan hnophase hleaf cmd
    have hpasses : CopyPasses kind tgt (cdOf desc) s := ⟨hlegal, hnamed, haligned, hapart, hspan, hnophase, hleaf⟩
    exact ⟨copyIssue_accepted hg hfree hline hphase rfl hpasses, copyIssue_turned_away hg hfree hline hphase rfl hpasses⟩
  refine ⟨haccepts, haccepts, haccepts, fun hroom => ?queued, fun hfull => ?full⟩
  case queued =>
    obtain ⟨hsame, hcmds, hresv, hpend⟩ := acceptCmd_room (pd := p) (k := { newCmd .cpyq t s with arg := rdS s x }) hroom none
    exact ⟨_, slotDo_of_guard hg, hsame, hcmds, hresv, hpend⟩
  case full => exact (slotDo_of_guard hg).trans (congrArg _ (acceptCmd_full hfull none))

end Sys2Proof.Proofs
end

section
/-!
PROOFS. In-DRAM commands at their home (13 R244, 14 R270). A command that writes lines bound to no object waits while the shadow store of
its stack is full, which the stated completion leaves out: `waitingDram` is a state that refutes it.
-/
namespace Sys2Proof.Proofs
open Sys2Proof.Machine

/-! ### What the write of a unit leaves of the core in focus -/

/-- The core in focus is the same core with the same copy engine, bitmaps and event queue. -/
def EngineStands (s t : State) : Prop := t.focus = s.focus ∧ t.core.cp = s.core.cp

section EngineStands
variable {s t u : State}

theorem EngineStands.trans (h : EngineStands s t) (k : EngineStands t u) : EngineStands s u := ⟨k.1.trans h.1, k.2.trans h.2⟩

theorem CoresStand.engineStands (h : CoresStand s t) : EngineStands s t := by
  rw [h]
  exact ⟨rfl, rfl⟩

theorem coresStand_foldl {α : Type} {f : State → α → State} (hf : ∀ s a, CoresStand s (f s a)) (xs : List α) (s : State) :
    CoresStand s (xs.foldl f s) := by
  induction xs generalizing s with
  | nil => rfl
  | cons a r ih => exact (hf s a).trans (ih (f s a))

theorem coresStand_shadowPutAs (w : Who) (a mask val : Nat) (s : State) : CoresStand s (shadowPutAs false w a mask val s) := by
  unfold shadowPutAs
  dsimp only
  split
  · rfl
  · exact coresStand_homeWrite w a mask val s

theorem coresStand_dramLine (w : Who) (a val : Nat) (s : State) : CoresStand s (dramLine w a val s) := by
  unfold dramLine
  split
  · exact (coresStand_shadowPutAs w a _ val s).trans rfl
  · exact coresStand_homeWrite w a _ val s

theorem engineStands_l2Drop (a n : Nat) (s : State) : EngineStands s (l2Drop a n s) := ⟨rfl, rfl⟩
theorem engineStands_rcDropAll (p : Nat → Bool) (s : State) : EngineStands s (rcDropAll p s) := ⟨rfl, rfl⟩
theorem engineStands_tinvWhere (pt : TlbE → Bool) (pw : WalkE → Bool) (s : State) : EngineStands s (tinvWhere pt pw s) := ⟨rfl, rfl⟩

theorem engineStands_dramWrite (k : DramCmd) (s : State) : EngineStands s (dramWrite k s) := by
  unfold dramWrite
  refine EngineStands.trans ?_ (engineStands_tinvWhere _ _ _)
  refine EngineStands.trans ?_ (coresStand_foldl (fun s l => coresStand_dramLine _ _ _ s) _ _).engineStands
  refine EngineStands.trans ?_ (engineStands_rcDropAll _ _)
  refine EngineStands.trans ?_ (engineStands_l2Drop _ _ _)
  cases k.src with
  | none => exact ⟨rfl, rfl⟩
  | some a => exact engineStands_l2Drop a _ s

end EngineStands

/-- A completed in-DRAM command posts its record to the core that gave it. -/
theorem evNew_endMs_focus {key : Nat} {s : State} (h : s.focus = key) (r : Word) :
    (endMs key r s).core.cp.evNew = s.core.cp.evNew ++ [(s.core.now, r)] := by
  subst h
  rw [endMs, onCoreAt_focus]
  rfl

/-! ### A command that waits for room in the shadow store (13 R244) -/

theorem execInDramCompletion_waits {i : Nat} {k : DramCmd} {s : State} (hk : s.home.dram[i]? = some k) (hrefused : dramRefused s k = false)
    (hwaits : dramWaits s k = true) : exec (.inDramCompletion i) s = .next s := by
  show execInDramCompletion i s = _
  simp [execInDramCompletion, hk, hrefused, hwaits]

/-- A stack's shadow store full of lines of one other engine has no room for a line. -/
theorem shadowRoom_full {s : State} {x : Shadow} (hfull : s.home.shadows = List.replicate shadowCap x) {w : Who} {a : Nat}
    (howner : x.owner ≠ w.key) (hstack : stackOf (paOf x.line) = stackOf (paOf a)) : shadowRoom s w a = false := by
  simp [shadowRoom, hfull, howner, hstack]

/-- A zeroing of the unit at 0x40000, given by core 0. -/
def zeroUnit : DramCmd :=
  { core := 0, tag := 1, dst := 0x40000, src := none, team := 4096, va := 0x40000, pc := 0, cls := 0, written := false }

/-- A shadow of core 1 of the line at 0x50000, in the same stack. -/
def otherShadow : Shadow :=
  { line := 0x50000, mask := 1, val := 0, owner := 1, team := 4096, cls := 0, bound := false, dram := false }

/-- After reset: `zeroUnit` waits to complete, and core 1's shadows fill the store of its stack. -/
def waitingDram : State :=
  onHome (fun h => { h with dram := [zeroUnit], shadows := List.replicate shadowCap otherShadow }) State.reset

theorem dramRefused_waitingDram : dramRefused waitingDram zeroUnit = false := by decide +kernel

theorem dramWaits_waitingDram : dramWaits waitingDram zeroUnit = true := by
  have hroom : shadowRoom waitingDram ⟨zeroUnit.core, none, false, zeroUnit.cls, true⟩ zeroUnit.dst = false :=
    shadowRoom_full (x := otherShadow) rfl (by decide) (by decide)
  have hunbound : (List.range 1024).any (fun l => (boundTo waitingDram (zeroUnit.dst + 64 * l)).isNone) = true :=
    List.any_eq_true.mpr ⟨0, by simp, rfl⟩
  rw [dramWaits, hroom, hunbound]
  rfl

/-- The state has posted no record, so it is not one in which the command is complete. -/
theorem waitingDram_not_completed (r : Word) (i : Nat) :
    endMs zeroUnit.core r (dramWrite zeroUnit (onHome (fun h => { h with dram := h.dram.eraseIdx i }) waitingDram)) ≠ waitingDram := by
  intro heq
  obtain ⟨hfocus, hcp⟩ := engineStands_dramWrite zeroUnit (onHome (fun h => { h with dram := h.dram.eraseIdx i }) waitingDram)
  have hposted : (endMs zeroUnit.core r _).core.cp.evNew = [] := congrArg (fun s => s.core.cp.evNew) heq
  rw [evNew_endMs_focus (key := zeroUnit.core) (hfocus.trans rfl), hcp] at hposted
  exact List.cons_ne_nil _ _ hposted

/-- Refutes O49: the clause of an in-DRAM command that is not refused has it complete at once, but in `waitingDram` it waits for room in the
shadow store (13 R244), and the step leaves the state as it is. -/
theorem not_engineSteps : ¬ Obligations.EngineSteps := by
  unfold Obligations.EngineSteps
  intro h
  obtain ⟨-, -, -, -, -, -, hdram, -⟩ := h waitingDram waitingDram (newCmd .cpyq 0 waitingDram) (newCmd .cpyq 0 waitingDram)
    (newReq 0 waitingDram.core waitingDram) [] [] 0 0 [] ⟨0, 0, 0, 0, [], 0⟩ [] flNone (0, 0, 0) (.blank none) zeroUnit
  have hcompletes := (hdram rfl).1 dramRefused_waitingDram
  rw [execInDramCompletion_waits rfl dramRefused_waitingDram dramWaits_waitingDram] at hcompletes
  exact waitingDram_not_completed _ 0 (Host.Outcome.next.inj hcompletes).symm

end Sys2Proof.Proofs
end

section
/-!
PROOFS. The eager matrix instructions of S12 (09 R174–R182). `s12Gate_of_clear` says once that a command nothing stands in the way of
issues; each instruction is then its checks passed, one after the other, and the command it puts in flight.
-/
namespace Sys2Proof.Proofs
open Sys2Proof.Machine Sys2Proof.Claims

/-! ### The last checks of a command (09 R175, R176) -/

section Gate
variable {k : S12Need} {f : State → State} {s : State}

theorem mown_of_free (h : teaselHolds s.core = false) : mown f s = f s := by
  rw [mown, h]
  rfl

theorem s12Gate_of_clear (h : s12Clear s k) : s12Gate k f s = f s := by
  obtain ⟨hfree, hbusy, hreads, hwrites, hcpya⟩ := h
  have hrd : k.rdRuns.findSome? (fun r => (phaseBad s.core 2 false r.1 r.2.1 r.2.2).map (spadAddr r.1 ·)) = none :=
    List.findSome?_eq_none_iff.mpr fun r hr => Option.map_eq_none_iff.mpr (hreads r hr)
  have hwr : k.wrRuns.findSome? (fun r => (phaseBad s.core 2 true r.1 r.2.1 r.2.2).map (spadAddr r.1 ·)) = none :=
    List.findSome?_eq_none_iff.mpr fun r hr => Option.map_eq_none_iff.mpr (hwrites r hr).1
  have hleaf : k.wrRuns.findSome? (fun r => (hazardAt s.core r.1 r.2.1 r.2.2).map (spadAddr r.1 ·)) = none :=
    List.findSome?_eq_none_iff.mpr fun r hr => Option.map_eq_none_iff.mpr (hwrites r hr).2
  have hadd : (exposed s && cpyaInFlight s k.wr) = false := by
    cases hexp : exposed s
    · rfl
    · exact hcpya hexp
  rw [s12Gate, mown_of_free hfree]
  simp only [hbusy, hrd, hwr, hleaf, hadd, Option.orElse_none, Bool.false_eq_true, if_false]

theorem phaseBad_of_no_phase {c : Core} (h : c.phase = []) (agent : Nat) (wr : Bool) (buf lo hi : Nat) :
    phaseBad c agent wr buf lo hi = none := by
  simp [phaseBad, phaseOk, h, leastOpt]

theorem hazardAt_of_no_nodes {c : Core} (h : c.th.nodes = []) (sp lo hi : Nat) : hazardAt c sp lo hi = none := by
  simp [hazardAt, heldRanges, h, leastOpt]

/-- In a core that nothing uses the matrix unit or the buffers of, every command may issue. -/
theorem s12Clear_of_matrixFree (h : matrixFree s) (k : S12Need) : s12Clear s k := by
  obtain ⟨hflight, hnodes, hphase, hcmds, hfree⟩ := h
  have hphases := phaseBad_of_no_phase hphase 2
  exact ⟨hfree, by simp [s12Busy, hflight], fun _ _ => hphases _ _ _ _,
    fun _ _ => ⟨hphases _ _ _ _, hazardAt_of_no_nodes hnodes _ _ _⟩, fun _ => by simp [cpyaInFlight, hcmds]⟩

theorem mem_flight_flyS12 (k : S12Cmd) (s : State) : k ∈ (flyS12 k s).core.mx.flight :=
  List.mem_append_right _ (List.mem_singleton_self k)

end Gate

/-! ### Stores of the lower slots leave the matrix unit (03 R53) -/

theorem spadWrite_mx (b off : Nat) (bs : List Byte) (c : Core) : (spadWrite b off bs c).mx = c.mx := by
  induction bs generalizing off c with
  | nil => rfl
  | cons x r ih => exact ih (off + 1) (spadPut b off x c)

@[simp] theorem withStores_mx (c : Core) : (withStores c).mx = c.mx := by
  refine List.foldlRecOn (motive := fun d : Core => d.mx = c.mx) c.pend _ rfl fun d hd p _ => ?_
  split
  · exact (spadWrite_mx _ _ _ d).trans hd
  · exact hd

@[simp] theorem gcolOf_withStores (c : Core) : gcolOf (withStores c) = gcolOf c := by
  funext n
  rw [gcolOf, withStores_mx, gcolOf]

/-- Settles O23: the checks pass in their order and the gate is clear, so WLOAD and MDRAIN put their command in flight; WSEL, MSCALE and
MHIST need the unit free only. What a command reads is read at issue, with the stores of the lower slots made (log 154). -/
theorem weightAndDrainForms : Obligations.WeightAndDrainForms := by
  intro s g n t x r f p a d hg
  refine ⟨?wload, ?mdrain, fun hfree => ⟨?wsel, ?mscale, fun hcounted => ?mhist⟩⟩
  case wload =>
    intro w fw cs hbase hsbase hrows hcols hshape hscale helem hplace hclear
    have hexec : exec (.wload g n t p) s = _ := slotDo_of_guard hg
    have hbuf : ¬ bufSize 0 ≤ w.base := Nat.not_le.mpr hbase
    have hsbuf : ¬ (w.mx && decide (bufSize 0 ≤ w.sbase)) = true := by simpa [bufSize] using hsbase
    have hlegal : ¬ (128 < w.rows ∨ 128 < w.cols ∨ w.shapeOk cs = false ∨ w.scaleOk (ftabWord s w.sfmt) = false) := by
      simp [hrows, hcols, hshape, hscale]
    have hfmt : ¬ (!elemLegal (fmtOf fw)) = true := by simp [helem]
    dsimp only at hexec
    rw [if_neg hbuf, if_neg hsbuf, if_neg hlegal, if_neg hfmt, hplace] at hexec
    exact ⟨_, hexec.trans (congrArg _ (s12Gate_of_clear hclear)), rfl, rfl, rfl, rfl, rfl, rfl, rfl, rfl⟩
  case mdrain =>
    intro dt ct df cw cf rm fz fh fq cr wr hsrc hdst hrows hcols hcw hshape hdrows hdcols hdshape helem hmx hscale hrm hround hclear
      z cells v y el sc zeros
    have hexec : exec (.mdrain g n t x r f) s = _ := slotDo_of_guard hg
    have hplace : (tdRefused s [2] ct cf.cont false).orElse (fun _ => tdRefused s [0, 1] dt df.cont fq) = none := by
      rw [hsrc, hdst]
      rfl
    have hlast : s.core.now + (ct.rows + (if fq then 26 else 10)) = s.core.now + (ct.rows + (if fq then 26 else 10)) - 1 + 1 := by
      split <;> rfl
    dsimp only at hexec
    rw [hplace] at hexec
    dsimp only at hexec
    rw [if_neg, s12Gate_of_clear hclear, withStores_mx, gcolOf_withStores] at hexec
    case hnc =>
      simp only [not_or, not_and, Decidable.not_not, Nat.not_lt, ne_eq, Bool.not_eq_false]
      exact ⟨hrows, hcols, Decidable.or_iff_not_imp_left.mp hcw, hshape, hdrows, hdcols, hdshape, helem, hmx, hscale, hrm,
        fun hq => Decidable.or_iff_not_imp_left.mp (hround hq)⟩
    exact ⟨_, hexec, rfl, hlast, rfl, rfl, rfl, rfl, rfl, rfl, rfl⟩
  case wsel => exact (slotDo_of_guard hg).trans (congrArg _ (mown_of_free hfree))
  case mscale => exact (slotDo_of_guard hg).trans (congrArg _ (mown_of_free hfree))
  case mhist =>
    refine (slotDo_of_guard hg).trans (congrArg _ ((mown_of_free hfree).trans (if_neg ?_)))
    rcases hcounted with hexp | hnone
    · simp [hexp]
    · simp [hnone]

/-- Settles O24: the four forms are `mma`, whose second command in flight carries the result. The operands are read at issue, and every
segment takes the slices of the active plane's format (log 154). -/
theorem matrixMultiplyForms : Obligations.MatrixMultiplyForms := by
  intro s g n a w c hg hfree m t0 wl arr lands hplace
  have hlands {orient zero : Bool} : lands orient zero (mma orient zero g n a w c s) := by
    intro hlegal
    have hexec : mma orient zero g n a w c s = _ := slotDo_of_guard hg
    have hpass : ¬ (!mmaLegal s orient m) = true := by simp [hlegal]
    dsimp only at hexec
    rw [hplace] at hexec
    dsimp only at hexec
    rw [if_neg hpass, s12Gate_of_clear (s12Clear_of_matrixFree hfree _)] at hexec
    refine ⟨_, _, hexec, mem_flight_flyS12 _ _, ?land, rfl, rfl, rfl, rfl, rfl, rfl, rfl, rfl⟩
    case land =>
      simp only [Bool.and_eq_true, decide_eq_true_eq]
      rfl
  exact ⟨hlands, hlands, hlands, hlands⟩

end Sys2Proof.Proofs
end

section
/-!
PROOFS. Recording a node of the thunk table (10 R189, R192–R198). `record_of_ready` says once that an instruction whose sources and
result pass the checks records its node, `recorded_putNode` what the table then holds; each tile instruction is `record` with the
result that its shapes and formats give.
-/
namespace Sys2Proof.Proofs
open Sys2Proof.Machine Sys2Proof.Claims

/-! ### Tile values (10 R186) -/

section Values
variable {α : Type}

theorem mem_mins_self (m : SMap α) (k : Nat) (w : α) : (k, w) ∈ mins m k w := by
  induction m with
  | nil => exact List.mem_singleton_self _
  | cons p r ih =>
    rw [mins]
    split
    · exact List.mem_cons_self
    · exact List.mem_cons_of_mem _ ih

theorem tvOf_putTv_self (d : Nat) (v : TVal) (c : Core) : tvOf (putTv d v c) d = v := by
  simp only [tvOf, putTv, mset]
  split
  · next hundef => rw [mfind?_mdel_self, hundef]; rfl
  · rw [mfind?_mput_self]; rfl

theorem tvOf_putTv_ne {d k : Nat} (h : k ≠ d) (v : TVal) (c : Core) : tvOf (putTv d v c) k = tvOf c k := by
  simp only [tvOf, putTv, mset]
  split
  · rw [mfind?_mdel_ne _ h]
  · rw [mfind?_mput_ne _ _ h]

/-- The node that a value is put on is one of the roots. -/
theorem pend_mem_nodeRoots (d q : Nat) (h : Option (BitVec 256 × W32)) (c : Core) : q ∈ nodeRoots (putTv d ⟨.pend q, h⟩ c) := by
  have hput : (d, (⟨.pend q, h⟩ : TVal)) ∈ (putTv d ⟨.pend q, h⟩ c).th.tv := mem_mins_self _ _ _
  exact List.mem_append_left _ (List.mem_filterMap.mpr ⟨_, hput, rfl⟩)

end Values

/-! ### Nodes that are freed (10 R193) -/

section Live
variable {n m : TNode} {ns : List TNode} {roots : List Nat} {c : Core}

theorem mem_of_mem_liveGo (h : m ∈ liveGo ns roots) : m ∈ ns := by
  induction ns generalizing roots with
  | nil => exact h
  | cons k r ih =>
    rw [liveGo] at h
    split at h
    · rcases List.mem_cons.mp h with rfl | hr
      · exact List.mem_cons_self
      · exact List.mem_cons_of_mem _ (ih hr)
    · exact List.mem_cons_of_mem _ (ih h)

theorem mem_of_mem_freeNodes (h : m ∈ (freeNodes c).th.nodes) : m ∈ c.th.nodes :=
  List.mem_reverse.mp (mem_of_mem_liveGo (List.mem_reverse.mp h))

/-- The last node stays where a root names it. -/
theorem getLast?_freeNodes (hlast : c.th.nodes = ns ++ [n]) (hroot : n.seq ∈ nodeRoots c) :
    (freeNodes c).th.nodes.getLast? = some n := by
  simp [freeNodes, hlast, liveGo, hroot]

end Live

/-! ### Recording (10 R192) -/

section Record
variable {g n d : Nat} {word : W32} {srcs : List TSrc} {r : TRes} {s : State}

/-- The node that a tile instruction records for its result. -/
def nodeFor (s : State) (word : W32) (srcs : List TSrc) (r : TRes) : TNode :=
  { seq := s.core.th.nextSeq, word := word, pc := s.core.iss.pc, srcs := srcs, map0 := r.map0, map1 := r.map1, rows := r.rows,
    cols := r.cols, fmt := r.fmt, mx := r.mx, mode := r.mode, seed := if r.mode = 4 then s.core.th.seed else 0, blks := [], perm := false }

/-- The core once the node of a result is its table's last and the destination value is pending on it. -/
def withNode (d : Nat) (nd : TNode) (c : Core) : Core :=
  putTv d ⟨.pend nd.seq, (tvOf c d).home⟩
    { c with th := { c.th with nodes := c.th.nodes ++ [nd], nextSeq := nd.seq + 1,
                               seed := c.th.seed + (if nd.mode = 4 then 1 else 0) } }

theorem tvOf_freeNodes (k : Nat) (c : Core) : tvOf (freeNodes c) k = tvOf c k := rfl

theorem tvOf_withNode_self (nd : TNode) (c : Core) :
    tvOf (freeNodes (withNode d nd c)) d = ⟨.pend nd.seq, (tvOf c d).home⟩ := by
  rw [tvOf_freeNodes, withNode, tvOf_putTv_self]

theorem tvOf_withNode_ne {k : Nat} (h : k ≠ d) (nd : TNode) (c : Core) : tvOf (freeNodes (withNode d nd c)) k = tvOf c k := by
  rw [tvOf_freeNodes, withNode, tvOf_putTv_ne h]
  rfl

theorem putNode_eq : putNode word d srcs r s = onCore (fun c => freeNodes (withNode d (nodeFor s word srcs r) c)) (cntEv 0x1F 1 s) := by
  by_cases hsr : r.mode = 4 <;> simp [putNode, withNode, nodeFor, hsr, onCore, cntEv, onIss, tvOf]

theorem recorded_putNode : recorded s (putNode word d srcs r s) d (nodeFor s word srcs r) := by
  rw [putNode_eq]
  refine ⟨getLast?_freeNodes rfl (pend_mem_nodeRoots _ _ _ _), tvOf_withNode_self _ _, fun k hk => tvOf_withNode_ne hk _ _,
    fun m hm => ?_, rfl, rfl, rfl⟩
  rcases List.mem_append.mp (mem_of_mem_freeNodes hm) with hold | hnew
  · exact .inr hold
  · exact .inl (List.mem_singleton.mp hnew)

/-- The fields of an instruction's sources, each with the descriptor it names if it names one. -/
def asFields (ys : List (TSrc × Option TD)) : List (Option TSrc × Option TD) := ys.map (fun y => (some y.1, y.2))

theorem filterMap_fst_asFields (ys : List (TSrc × Option TD)) : (asFields ys).filterMap Prod.fst = ys.map Prod.fst := by
  simp [asFields, List.filterMap_map]

variable {xs : List Nat} {ys : List (TSrc × Option TD)} {f : List (Nat × Nat) → List W32 → Option TRes}

/-- An instruction whose sources and result pass the checks records its node. -/
theorem record_of_ready (hfields : xs.map (srcField s) = asFields ys) (hready : tileReady s d (asFields ys) r.rows r.cols)
    (hres : f (ys.map (fun y => srcShape s.core y.1)) (ys.map (fun y => (srcFmt s.core y.1).1)) = some r) :
    record word d xs f s = putNode word d (ys.map Prod.fst) r s := by
  obtain ⟨harena, htds, hfmts, hhome, hroom⟩ := hready
  rw [filterMap_fst_asFields] at hroom
  have htd : ∀ t ∈ (asFields ys).filterMap Prod.snd, leafOk s t = true ∧ leafProt s t = none := fun t ht => by
    obtain ⟨y, hy, hyt⟩ := List.mem_filterMap.mp ht
    exact htds y hy t hyt
  have hall : ((asFields ys).filterMap Prod.snd).all (leafOk s) = true := List.all_eq_true.mpr fun t ht => (htd t ht).1
  have hprot : ((asFields ys).filterMap Prod.snd).findSome? (leafProt s) = none :=
    List.findSome?_eq_none_iff.mpr fun t ht => (htd t ht).2
  have hlegal : (ys.map (fun y => (srcFmt s.core y.1).1)).all (fun w => elemLegal (fmtOf w)) = true := by
    refine List.all_eq_true.mpr fun w hw => ?_
    obtain ⟨y, hy, rfl⟩ := List.mem_map.mp hw
    exact hfmts _ (List.mem_map_of_mem hy) y.1 rfl
  simp only [record, hfields, filterMap_fst_asFields, List.map_map, Function.comp_def, harena, hall, hprot, hlegal, hres, hroom]
  simp only [asFields, List.length_map, bne_self_eq_false, Bool.not_true, Bool.or_false, Bool.false_eq_true, if_false, if_true]
  refine if_neg ?_
  split
  · next h hh => simp [hhome h hh]
  · simp

theorem recorded_of_ready (hg : guardOk g n s = true) (hfields : xs.map (srcField s) = asFields ys)
    (hready : tileReady s d (asFields ys) r.rows r.cols)
    (hres : f (ys.map (fun y => srcShape s.core y.1)) (ys.map (fun y => (srcFmt s.core y.1).1)) = some r) :
    ∃ t, slotDo g n (record word d xs f) s = .next t ∧ recorded s t d (nodeFor s word (ys.map Prod.fst) r) :=
  ⟨_, (slotDo_of_guard hg).trans (congrArg _ (record_of_ready hfields hready hres)), recorded_putNode⟩

end Record

/-- Settles O26: each instruction is `record` of its two sources, and its shapes agree. -/
theorem thunkNodesOfTwoSources : Obligations.ThunkNodesOfTwoSources := by
  intro s g n d a b m x y dx dy hg hx hy node w ready rec_
  have hfields : [a, b].map (srcField s) = asFields [(x, dx), (y, dy)] := by
    rw [List.map, List.map, hx, hy]
    rfl
  have hrec {maj low rows cols : Nat} {f : List (Nat × Nat) → List W32 → Option TRes}
      (hf : f [srcShape s.core x, srcShape s.core y] [(srcFmt s.core x).1, (srcFmt s.core y).1] = some (plainRes rows cols w)) :
      rec_ maj low rows cols (slotDo g n (record (tileWord maj g n d a low) d [a, b] f) s) := fun hready =>
    recorded_of_ready (r := plainRes rows cols w) hg hfields hready hf
  rcases hshapex : srcShape s.core x with ⟨r1, c1⟩
  rcases hshapey : srcShape s.core y with ⟨r2, c2⟩
  rw [hshapex, hshapey] at hrec
  have hbin (hm : m < 4) (hfits : (m = 0 → r2 = r1 ∧ c2 = c1) ∧ (m = 1 → r2 = c1 ∧ c2 = r1) ∧ (m = 2 → r2 = 1 ∧ c2 = c1) ∧
      (m = 3 → r2 = r1 ∧ c2 = 1)) (ws : List W32) : binRes m [(r1, c1), (r2, c2)] ws = some (plainRes r1 c1 (classWord ws)) := by
    obtain ⟨h0, h1, h2, h3⟩ := hfits
    refine if_pos ?_
    match m with
    | 0 => exact Prod.ext_iff.mpr (h0 rfl)
    | 1 => exact Prod.ext_iff.mpr (h1 rfl)
    | 2 => exact Prod.ext_iff.mpr (h2 rfl)
    | 3 => exact Prod.ext_iff.mpr (h3 rfl)
  exact ⟨fun h => hrec (if_pos ⟨by decide, h⟩), fun h => hrec (if_pos ⟨by decide, h⟩), fun h => hrec (if_pos ⟨by decide, h⟩),
    fun hm hfits => hrec (hbin hm hfits _), fun hm hfits => hrec (hbin hm hfits _)⟩

/-- Settles O27: each instruction is `record` of its one source, whose limits hold. -/
theorem thunkNodesOfOneSource : Obligations.ThunkNodesOfOneSource := by
  intro s g n d a f r k m o x dx hg hx node w rec_
  have hfields : [a].map (srcField s) = asFields [(x, dx)] := by
    rw [List.map, hx]
    rfl
  have hrec {maj low rows cols mode : Nat} {fmt : W32} {mx : Bool} {m0 m1 : Word} {op : Nat → Nat → W32 → Option TRes}
      (hop : op (srcShape s.core x).1 (srcShape s.core x).2 w = some ⟨rows, cols, fmt, mx, mode, m0, m1⟩) :
      rec_ maj low rows cols fmt mx mode m0 m1 (slotDo g n (record (tileWord maj g n d a low) d [a] (unary op)) s) := fun hready =>
    recorded_of_ready (r := ⟨rows, cols, fmt, mx, mode, m0, m1⟩) hg hfields hready hop
  rcases hshape : srcShape s.core x with ⟨r1, c1⟩
  rw [hshape] at hrec
  refine ⟨fun hf => hrec (if_pos hf), fun hfmt hrm => hrec (if_pos ⟨hfmt, hrm⟩), fun hfmt hcont hrm => hrec (if_pos ⟨hfmt, hcont, hrm⟩),
    fun ho => ?tredColumns, fun ho => hrec (if_neg (Nat.not_lt.mpr ho)), fun hcols hk => hrec (if_pos ⟨hcols, hk⟩), hrec rfl,
    fun hp hq => hrec (if_pos ⟨hp, hq⟩)⟩
  case tredColumns =>
    have hred : rec_ 0x18 (8 * 0 + o) 1 c1 w false 0 0 0 (exec (.tred g n d a 0 o) s) := hrec (if_neg (Nat.not_lt.mpr ho))
    rwa [Nat.mul_zero, Nat.zero_add] at hred

end Sys2Proof.Proofs
end

section
/-!
PROOFS. The thunk table's configuration and its requests (10 R186–R191, R202, R203, R207, R208). `leafChecked_of_legal` says once that
a legal descriptor passes its checks, `ownAccess_at_once` that a place of the own A-buffer is accessed in the issue cycle, and
`giveStore_of_fits` that a store of a window that fits is a request; `acceptReq` decides by the room there is.
-/
namespace Sys2Proof.Proofs
open Sys2Proof.Machine Sys2Proof.Claims

/-! ### Descriptors (10 R188, R192) -/

section Descriptors
variable {s : State} {t : TD} {ea : Word} {n : Nat} {wr : Bool}

theorem leafChecked_of_legal (hok : leafOk s t = true) (hprot : leafProt s t = none)
    (hfmt : elemLegal (fmtOf (ftabWord s t.fmt)) = true) (f : State → State) : leafChecked t f s = f s := by
  simp [leafChecked, hok, hprot, hfmt]

theorem spadOk_of_spadFault {agent : Nat} {parts : List (Nat × Nat)} (h : spadFault s agent wr ea n parts = none) :
    spadOk s agent wr ea.toNat n = true := by
  by_contra hno
  simp [spadFault, hno] at h

theorem ownLineFault_of_spadFault {parts : List (Nat × Nat)} (halign : ea.toNat % n = 0) (hbuf : ea.toNat / 2 ^ 20 = 1)
    (h : spadFault s 0 wr ea n parts = none) : ownLineFault wr ea n s = none := by
  have hnamed : ¬ (ea.toNat / 2 ^ 20 ≠ 1 ∨ spadOk s 0 wr ea.toNat n = false) := by
    rw [spadOk_of_spadFault h, hbuf]
    decide
  rw [ownLineFault, if_neg hnamed, if_neg (Decidable.not_not.mpr halign)]

/-- A port of which a bundle has taken nothing serves in the issue cycle what it is wide enough for: `takePort_free` with the cycle
of service, which a store carries. -/
theorem takePort_at_once (hfree : portsFree s) {p : Nat} (hpos : 0 < n) (hn : n ≤ portWidth p) (cl : Option Nat)
    (f : Nat → State → State) : takePort p n cl f s = f 0 (onIss (tookPort p n 0) s) := by
  obtain ⟨hflight, hearly, hcnt⟩ := hfree
  have hspans : portSpans s.core p = [] := by rw [portSpans, hflight]; rfl
  have hover : portOver s p n = false := by simpa [portOver, portHeld, hspans, hcnt p] using hn
  have hturn : (n - 1) / portWidth p = 0 := Nat.div_eq_of_lt (by omega)
  have hnow : nthFree [] 0 s.core.now - s.core.now = 0 := Nat.sub_self _
  simp only [takePort, hearly, hover, Bool.and_false, Bool.false_eq_true, if_false, hspans, hcnt p, Nat.zero_add, hturn, hnow]
  rfl

/-- A place of the own A-buffer that may be accessed is accessed in the issue cycle. -/
theorem ownAccess_at_once (hfree : portsFree s) (hpos : 0 < n) (hn : n ≤ 256) (hline : ownLineFault wr ea n s = none)
    (hphase : spadFault s 0 wr ea n [(0, n)] = none) (f : SpRef → State → State) :
    ownAccess wr ea n f s =
      f { ea := ea, key := s.focus, buf := 1, off := ea.toNat % 2 ^ 20, own := true, q := 0 } (onIss (tookPort 1 n 0) s) := by
  obtain ⟨hbuf, hnamed⟩ := ownLineFault_none hline
  rw [ownAccess, ownPlace, if_neg (Decidable.not_not.mpr hbuf), phaseFault_of_spadFault hnamed hphase]
  dsimp only
  rw [takePort_at_once hfree (p := 1) hpos hn, ownLineFault_onIss, hline, spRef_own hbuf]
  rfl

/-- A store to an own buffer by a bundle that has not waited is issued. -/
theorem spadStore_own {r : SpRef} (hown : r.own = true) (hearly : s.core.iss.early = none) (k : Nat) (bs : List Byte) :
    spadStore r k bs s = emit 1 (.st r.buf (r.off + k) r.q bs) s := by
  rw [spadStore, hown, hearly]
  rfl

end Descriptors

/-- Settles O25: each form is its stated effect once its checks pass, TDCFG a load and TDSAV a store of one access. -/
theorem thunkConfigurationForms : Obligations.ThunkConfigurationForms := by
  intro s g n a b d v t r hg
  refine ⟨fun harena => ?tcfg, slotDo_of_guard hg, ?thome, fun hhomed => ?thomexHomed, fun q hpend => ?thomexPend, slotDo_of_guard hg,
    retS_of_guard hg, ?descriptors⟩
  case tcfg => exact (slotDo_of_guard hg).trans (congrArg _ (need_of_true s _ harena))
  case thome =>
    intro h w hok hprot hfmt
    have hexec : exec (.thome g n d b) s = _ := slotDo_of_guard hg
    dsimp only at hexec
    have hchecked (f : State → State) : leafChecked (tdOf (rdTd s b)) f s = f s := leafChecked_of_legal hok hprot hfmt f
    refine ⟨fun q hpend harena hshape => ?pending, fun hpend => ?other⟩
    case pending =>
      simp only [hpend, harena, Bool.not_true, Bool.and_false, Bool.false_eq_true, if_false, hchecked] at hexec
      exact hexec.trans (congrArg _ (if_pos hshape))
    case other =>
      cases hst : (tvOf s.core d).st with
      | pend q => exact absurd hst (hpend q)
      | undef | homed =>
        rw [hst] at hexec
        exact hexec.trans (congrArg _ (hchecked _))
  case thomexHomed =>
    refine (slotDo_of_guard hg).trans ?_
    dsimp only
    rw [hhomed]
  case thomexPend =>
    refine (slotDo_of_guard hg).trans ?_
    dsimp only
    rw [hpend]
  case descriptors =>
    intro hfree halign hbuf off
    refine ⟨fun hload => ?tdcfg, fun hstore => ?tdsav⟩
    case tdcfg =>
      obtain ⟨q, hread⟩ := ownLine_reads hfree (by decide) (ownLineFault_of_spadFault halign hbuf hload) hload
        fun bs => onMx (fun m => { m with td := mset 0 m.td t (BitVec.ofNat 256 (leNat bs)) })
      exact ⟨onIss (tookPort 1 32 q) s, rfl, (slotDo_of_guard hg).trans (congrArg _ hread)⟩
    case tdsav =>
      have haccess := ownAccess_at_once hfree (by decide) (by decide) (ownLineFault_of_spadFault halign hbuf hstore) hstore
        fun p => spadStore p 0 (leBytes 32 (rdTd s t).toNat)
      have hearly : (onIss (tookPort 1 32 0) s).core.iss.early = none := hfree.2.1
      rw [spadStore_own rfl hearly] at haccess
      exact ⟨onIss (tookPort 1 32 0) s, rfl, (slotDo_of_guard hg).trans (congrArg _ haccess)⟩

/-! ### Requests (10 R202, R203) -/

section Requests
variable {pd cb span v k r0 rows c0 cols : Nat} {x : TSrc} {z : BitVec 256 × W32} {s : State}

/-- A window within its value's shape and of at most 256 blocks is a window of the value's source. -/
theorem windowOf_of_fits (hsrc : (tvOf s.core v).src = some x) (hrows : r0 + rows ≤ (srcShape s.core x).1)
    (hcols : c0 + cols ≤ (srcShape s.core x).2) (hblocks : (blocksOf r0 rows c0 cols).length ≤ 256) :
    windowOf s v r0 rows c0 cols = some x := by
  rw [windowOf, hsrc]
  exact if_pos ⟨hrows, hcols, hblocks⟩

/-- A store of a window that fits into a region that may be written is a request. -/
theorem giveStore_of_fits (hwindow : windowOf s v r0 (tdOf z.1).rows c0 (tdOf z.1).cols = some x) (harena : regionArena s.core z = none)
    (hspan : regionSpan (tdOf z.1) (fmtOf z.2).cont ≤ 256) :
    giveStore pd v cb k z r0 c0 s = acceptReq pd cb (regionSpan (tdOf z.1) (fmtOf z.2).cont)
      { newReq 1 s.core s with tag := k, cb := cb, src := x, r0 := r0, c0 := c0, rows := (tdOf z.1).rows, cols := (tdOf z.1).cols,
                               region := some z, todo := todoOf x r0 (tdOf z.1).rows c0 (tdOf z.1).cols,
                               total := regionSpan (tdOf z.1) (fmtOf z.2).cont } s := by
  simp only [giveStore, hwindow, harena, if_neg (Nat.not_lt.mpr hspan)]

end Requests

/-- Settles O28: each form is an accepted request once its checks pass, and `acceptReq` decides by the room there is. -/
theorem thunkRequestForms : Obligations.ThunkRequestForms := by
  intro s g n p v t c k x hg hon hsrc room fits takes req region
  have htakes {span : Nat} {r : TReq} {o : Out} (ho : o = .next (acceptReq p c span r s)) : takes span r o :=
    ⟨fun hroom => ho.trans (congrArg _ (if_pos hroom)), fun hfull => ho.trans (congrArg _ (if_neg hfull))⟩
  have hwindow {r0 rows c0 cols : Nat} (h : fits r0 rows c0 cols) : windowOf s v r0 rows c0 cols = some x :=
    windowOf_of_fits hsrc h.1 h.2.1 h.2.2
  refine ⟨?tforce, ?tstore, ?tstoreH⟩
  case tforce =>
    intro w n' hresv hfits
    have hexec : exec (.tforce g n p v t c k) s = _ := slotDo_of_guard hg
    have hlegal : ¬ (!arenaOn s.core || decide (w.resv ≠ 0)) = true := by simp [hon, hresv]
    dsimp only at hexec
    rw [if_neg hlegal, hwindow hfits] at hexec
    exact htakes hexec
  case tstore =>
    intro w z hok hprot hfmt hregion hfits
    have hexec : exec (.tstore g n p v t c k) s = _ := slotDo_of_guard hg
    dsimp only at hexec
    rw [if_pos hon, leafChecked_of_legal hok hprot hfmt, giveStore_of_fits (hwindow hfits) hregion.2 hregion.1] at hexec
    exact htakes hexec
  case tstoreH =>
    intro z hhome hregion hfits
    have hexec : exec (.tstoreH g n p v c k) s = _ := slotDo_of_guard hg
    rw [hhome] at hexec
    dsimp only at hexec
    rw [if_pos hon, giveStore_of_fits (hwindow hfits) hregion.2 hregion.1] at hexec
    exact htakes hexec

end Sys2Proof.Proofs
end

section
/-!
PROOFS. A checkpoint (19 R333, R334). The issuer's context is saved by writes of its own team, so that before the windows are opened
anew every other team's windows stand, and with them the core, the teams and the capture areas (`OthersStand`).
`newWindows_renewed` says what windows there are afterwards, and `takeCkpt_spec` what the whole checkpoint leaves.
-/
namespace Sys2Proof.Proofs
open Sys2Proof.Machine

/-! ### Windows as a finite map -/

section WindowMaps
variable {α : Type}

theorem mfind?_filter_key (p : Nat → Bool) (m : SMap α) (k : Nat) :
    mfind? (m.filter (fun q => p q.1)) k = if p k then mfind? m k else none := by
  induction m with
  | nil => simp [mfind?]
  | cons q r ih =>
    by_cases hq : q.1 = k
    · subst hq
      cases hp : p q.1 <;> simp [mfind?, hp, ih]
    · cases hp : p q.1 <;> simp [mfind?, hp, hq, ih]

/-- One value put at the keys of a list. -/
theorem mfind?_foldl_mput (g : Nat → Nat) (w : α) (ks : List Nat) (m : SMap α) (i : Nat) :
    mfind? (ks.foldl (fun m k => mput m (g k) w) m) i = if ∃ k ∈ ks, g k = i then some w else mfind? m i := by
  induction ks generalizing m with
  | nil => simp
  | cons a r ih =>
    rw [List.foldl_cons, ih]
    by_cases ha : g a = i
    · subst ha
      simp
    · simp [ha, mfind?_mput_ne m w (Ne.symm ha)]

theorem winKey_team {t j : Nat} (h : j < 8) : winKey t j / 8 = t := by unfold winKey; omega

theorem mem_areaStacks {s : State} {a j : Nat} (h : j < 8) :
    j ∈ areaStacks s a ↔ (mfind? s.ctl.caps (areaKey a j)).isSome = true := by simp [areaStacks, h]

end WindowMaps

/-! ### What leaves the core, the teams, the capture areas and the windows of other teams alone -/

/-- From `s` to `t` the core in focus, the teams, the capture areas and every window of another team than `n` stand. -/
structure OthersStand (n : Nat) (s t : State) : Prop where
  core : t.core = s.core
  teams : t.dist.teams = s.dist.teams
  caps : t.ctl.caps = s.ctl.caps
  wins : ∀ i, i / 8 ≠ n → mfind? t.home.wins i = mfind? s.home.wins i

section OthersStand
variable {n : Nat} {s t u : State}

/-- A change of none of those parts. -/
theorem OthersStand.of_eq (core : t.core = s.core := by rfl) (teams : t.dist.teams = s.dist.teams := by rfl)
    (caps : t.ctl.caps = s.ctl.caps := by rfl) (wins : t.home.wins = s.home.wins := by rfl) : OthersStand n s t :=
  ⟨core, teams, caps, fun _ _ => by rw [wins]⟩

theorem OthersStand.trans (h : OthersStand n s t) (k : OthersStand n t u) : OthersStand n s u :=
  ⟨k.core.trans h.core, k.teams.trans h.teams, k.caps.trans h.caps, fun i hi => (k.wins i hi).trans (h.wins i hi)⟩

theorem OthersStand.teamAsid_eq (h : OthersStand n s t) (k : Nat) : teamAsid t k = teamAsid s k := by
  rw [teamAsid, h.teams, teamAsid]

theorem OthersStand.teamOf_eq (h : OthersStand n s t) (k : Nat) : teamOf t k = teamOf s k := by rw [teamOf, h.teams, teamOf]

/-- A capture, where putting the team's window into its map is such a change. -/
theorem othersStand_captureIn {wins : SMap Win} {gran : Nat} {put : SMap Win → HomeSt → HomeSt}
    (hput : ∀ w, OthersStand n s (onHome (put (mput wins (winKey n (stackOf (paOf gran))) w)) s)) (area : Option CapArea) :
    OthersStand n s (captureIn wins area n gran put s) := by
  unfold captureIn
  dsimp only
  split
  · exact .of_eq
  · split
    · exact (hput _).trans .of_eq
    · split
      · exact (hput _).trans .of_eq
      · exact (hput _).trans .of_eq

/-- A write of the team is captured in its own windows. -/
theorem othersStand_capture {w : Who} (hw : w.team = some n) (a : Nat) (s : State) : OthersStand n s (capture w a s) := by
  have hown : ∀ g, winKey n (stackOf g) / 8 = n := fun g => winKey_team (Nat.mod_lt _ (by decide))
  have hwins : ∀ (s : State) g area, OthersStand n s (captureIn s.home.wins area n g (fun m h => { h with wins := m }) s) :=
    fun s g => othersStand_captureIn fun v => ⟨rfl, rfl, rfl, fun i hi => mfind?_mput_ne _ v fun h => hi (h ▸ hown _)⟩
  unfold capture
  rw [hw]
  dsimp only
  split
  · exact (hwins s _ _).trans (othersStand_captureIn (fun _ => .of_eq) _)
  · exact hwins s _ _

/-- A write of the team that neither the L2 nor the team's digest takes. -/
theorem othersStand_homeWrite {w : Who} (hw : w.team = some n) (hdig : w.dig = false) (a mask val : Nat) (s : State) :
    OthersStand n s (homeWrite w false a mask val s) := by
  unfold homeWrite
  split
  · simp only [hdig, Bool.false_eq_true, if_false]
    exact (othersStand_capture hw a s).trans .of_eq
  · exact .of_eq

theorem othersStand_homePuts {w : Who} (hw : w.team = some n) (hdig : w.dig = false) (k a : Nat) (bs : List Byte) (s : State) :
    OthersStand n s (homePuts w false k a bs s) := by
  induction k generalizing a bs s with
  | zero => exact .of_eq
  | succ k ih =>
    unfold homePuts
    dsimp only
    split
    · exact .of_eq
    · refine OthersStand.trans ?_ (ih _ _ _)
      split
      · exact .of_eq
      · exact othersStand_homeWrite hw hdig _ _ _ s

theorem othersStand_putSlot (k : Nat) (x : PSlot) (s : State) : OthersStand n s (putSlot k x s) := .of_eq

/-- The context of the core in focus saved by its own team's writes. -/
theorem othersStand_saveCtx {k : Cont} (hk : s.core.task.cont = some k) (slot : Nat) :
    OthersStand k.team s (saveCtx s.focus slot s) := by
  have hteam : ({ whoCore s.core 0 with dig := false } : Who).team = some k.team := by simp [whoCore, hk]
  unfold saveCtx
  dsimp only
  rw [show coreAt (draw s).2 s.focus = s.core from coreAt_focus (s := s)]
  have hbefore : ∀ a m, OthersStand k.team s (l2Drop a m (draw s).2) := fun _ _ => .of_eq
  exact (hbefore _ _).trans ((othersStand_homePuts hteam rfl _ _ _ _).trans (othersStand_putSlot _ _ _))

end OthersStand

/-! ### Windows closed and opened (19 R334) -/

section Windows
variable (n : Nat) (s : State)

theorem foldl_setMem {α : Type} {f : State → α → State} (hf : ∀ s a, ∃ m, f s a = { s with mem := m }) (xs : List α)
    (s : State) : ∃ m, xs.foldl f s = { s with mem := m } := by
  induction xs generalizing s with
  | nil => exact ⟨s.mem, rfl⟩
  | cons a r ih =>
    obtain ⟨m, hm⟩ := hf s a
    obtain ⟨m', hm'⟩ := ih { s with mem := m }
    exact ⟨m', by rw [List.foldl_cons, hm, hm']⟩

theorem clearIdx_eq (area : Option CapArea) (caps : List (Nat × Nat)) (s : State) : ∃ m, clearIdx area caps s = { s with mem := m } := by
  unfold clearIdx
  split
  · exact ⟨s.mem, rfl⟩
  · exact foldl_setMem (fun _ _ => ⟨_, rfl⟩) caps s

theorem closeWins_eq : ∃ m, closeWins n s =
    { s with mem := m, home := { s.home with wins := s.home.wins.filter (fun p => decide (p.1 / 8 ≠ n)) } } := by
  obtain ⟨m, hm⟩ := foldl_setMem (fun s (p : Nat × Win) => clearIdx_eq (mfind? s.ctl.caps (areaKey (teamAsid s n) p.1)) p.2.caps s)
    (teamWins s n) s
  exact ⟨m, by rw [closeWins, hm]; rfl⟩

theorem othersStand_closeWins : OthersStand n s (closeWins n s) := by
  obtain ⟨m, hm⟩ := closeWins_eq n s
  rw [hm]
  exact ⟨rfl, rfl, rfl, fun i hi => by rw [mfind?_filter_key (fun k => decide (k / 8 ≠ n)), if_pos (decide_eq_true hi)]⟩

/-- A team whose windows are closed has none. -/
theorem closeWins_self {i : Nat} (hi : i / 8 = n) : mfind? (closeWins n s).home.wins i = none := by
  obtain ⟨m, hm⟩ := closeWins_eq n s
  rw [hm, mfind?_filter_key (fun k => decide (k / 8 ≠ n)), if_neg (by simp [hi])]

theorem mfind?_openWins (i : Nat) : mfind? (openWins n s).home.wins i =
    if ∃ k ∈ areaStacks s (teamAsid s n), winKey n k = i then some .new else mfind? s.home.wins i :=
  mfind?_foldl_mput (winKey n) Win.new _ s.home.wins i

theorem othersStand_openWins : OthersStand n s (openWins n s) := by
  refine ⟨rfl, rfl, rfl, fun i hi => ?_⟩
  rw [mfind?_openWins, if_neg]
  rintro ⟨k, hk, rfl⟩
  exact hi (winKey_team (List.mem_range.mp (List.mem_filter.mp hk).1))

/-- A window opened is new. -/
theorem openWins_self {j : Nat} (hj : j < 8) : mfind? (openWins n s).home.wins (winKey n j) =
    if (mfind? s.ctl.caps (areaKey (teamAsid s n) j)).isSome = true then some .new else mfind? s.home.wins (winKey n j) := by
  have hkey : (∃ k ∈ areaStacks s (teamAsid s n), winKey n k = winKey n j) ↔
      (mfind? s.ctl.caps (areaKey (teamAsid s n) j)).isSome = true := by
    rw [← mem_areaStacks hj]
    simp [winKey]
  simp only [mfind?_openWins, hkey]

/-- In `t` team `n`, of address space `a`, has new windows on exactly the stacks with an area in `s`; those of other teams stand. -/
structure NewWindows (n a : Nat) (s t : State) : Prop where
  own : ∀ j, j < 8 → mfind? t.home.wins (winKey n j) = if (mfind? s.ctl.caps (areaKey a j)).isSome = true then some .new else none
  others : ∀ i, i / 8 ≠ n → mfind? t.home.wins i = mfind? s.home.wins i

variable {n s}

theorem onTeam_core (f : Team → Team) (s : State) : (onTeam n f s).core = s.core := by unfold onTeam; split <;> rfl
theorem onTeam_home (f : Team → Team) (s : State) : (onTeam n f s).home = s.home := by unfold onTeam; split <;> rfl
theorem onTeam_ctl (f : Team → Team) (s : State) : (onTeam n f s).ctl = s.ctl := by unfold onTeam; split <;> rfl

/-- A team's windows closed and opened anew, with a change of its record. -/
theorem newWindows_renewed {u : State} {y : Team} (h : OthersStand n s u) (hy : teamOf s n = some y) (f : Team → Team) :
    let t := onTeam n f (openWins n (closeWins n u))
    teamOf t n = some (f y) ∧ t.core = s.core ∧ NewWindows n y.asid s t := by
  have hclosed := h.trans (othersStand_closeWins n u)
  have hopened := hclosed.trans (othersStand_openWins n _)
  have hasid : teamAsid s n = y.asid := congrArg (fun o => (o.map Team.asid).getD 0) hy
  refine ⟨teamOf_onTeam_self ((hopened.teamOf_eq n).trans hy), (onTeam_core f _).trans hopened.core, fun j hj => ?own,
    fun i hi => ?others⟩
  case own => rw [onTeam_home, openWins_self _ _ hj, hclosed.teamAsid_eq, hasid, hclosed.caps, closeWins_self _ _ (winKey_team hj)]
  case others => rw [onTeam_home, hopened.wins i hi]

end Windows

/-! ### The checkpoint taken (19 R333) -/

section Checkpoint
variable {s : State} {k : Cont} {x : Team}

/-- The checkpoint's record in the team. -/
def withCk (ck : TeamCk) (y : Team) : Team := { y with ck := ck, ckBusy := none, ckStop := false }

/-- The continuation that a rollback resumes the issuer with. -/
def ckCont (s : State) (k : Cont) : Cont := { k with pc := s.core.iss.seq, keep := true }

/-- The slot of the issuer's saved context, with the continuation that a rollback resumes. -/
def putIssuer (d : Nat) (k : Cont) (s : State) : State :=
  let t := saveCtx s.focus k.ctx s
  putSlot k.ctx { slotAt t k.ctx with st := .ready, cont := some (ckCont s k), ret := some (d, 1) } t

/-- The meetings, barriers and objects of team `t` kept in its checkpoint; no object counts as made since. -/
def keepGroups (t : Nat) (s : State) : State :=
  onHome (fun h => { h with objs := h.objs.map (fun o => if o.maker = t then { o with inWin := false } else o) })
    (onGrp (fun g => { g with ckMeets := mput g.ckMeets t (g.meets.filter (fun m => decide (m.team = t))),
                              ckBars := mput g.ckBars t (g.bars.filter (fun b => decide (b.team = t))),
                              ckObjs := mput g.ckObjs t (s.home.objs.filter (fun o => decide (o.maker = t))) }) s)

/-- The state from which the checkpoint's windows are opened: the issuer's slot is as it was, and memory has its context. -/
def ckptKept (d : Nat) (k : Cont) (s : State) : State :=
  keepGroups k.team (putSlot k.ctx (slotAt s k.ctx) (putIssuer d k s))

theorem takeCkpt_eq (d : Nat) (k : Cont) (x : Team) (s : State) : takeCkpt d k x s =
    onTeam k.team (withCk (ckOf (putIssuer d k s) x (ckCont s k))) (openWins k.team (closeWins k.team (ckptKept d k s))) := rfl

theorem othersStand_ckptKept (d : Nat) (hk : s.core.task.cont = some k) : OthersStand k.team s (ckptKept d k s) := by
  have hgroups : ∀ u, OthersStand k.team u (keepGroups k.team u) := fun _ => .of_eq
  have hissuer : OthersStand k.team s (putIssuer d k s) := (othersStand_saveCtx hk k.ctx).trans (othersStand_putSlot _ _ _)
  exact hissuer.trans ((othersStand_putSlot _ _ _).trans (hgroups _))

theorem mem_ckOf_issuer (v : State) (x : Team) (c : Cont) : c ∈ (ckOf v x c).ready := by simp [ckOf]

theorem mem_ckOf_ready (v : State) (me : Cont) {c : Cont} (h : c ∈ x.ready) : c ∈ (ckOf v x me).ready := by simp [ckOf, h]

/-- The checkpoint's record in the team, the core as it was, new windows where the team has areas, and those of other teams. -/
theorem takeCkpt_spec (d : Nat) (x : Team) {y : Team} (hk : s.core.task.cont = some k) (hy : teamOf s k.team = some y) :
    ∃ v, teamOf (takeCkpt d k x s) k.team = some (withCk (ckOf v x (ckCont s k)) y) ∧ (takeCkpt d k x s).core = s.core ∧
      NewWindows k.team y.asid s (takeCkpt d k x s) := by
  rw [takeCkpt_eq]
  exact ⟨_, newWindows_renewed (othersStand_ckptKept d hk) hy (withCk _)⟩

/-- The state in which a checkpoint of `k`'s team is decided: the request is recorded, results have landed, dealing has stopped. -/
def ckptAsked (k : Cont) (s : State) : State :=
  onTeam k.team (fun y => { y with ckStop := true }) (drain (onTeam k.team (fun y => { y with ckBusy := some s.focus }) s))

theorem ckptAsked_spec (hcont : s.core.task.cont = some k) (hx : teamOf s k.team = some x) :
    (ckptAsked k s).core.task.cont = some k ∧ (ckptAsked k s).ctl = s.ctl ∧
      teamOf (ckptAsked k s) k.team = some { x with ckBusy := some s.focus, ckStop := true } := by
  obtain ⟨c, m, hdrain, hlands⟩ := drain_eq (onTeam k.team (fun y => { y with ckBusy := some s.focus }) s)
  rw [ckptAsked, hdrain]
  refine ⟨?task, ?ctl, teamOf_onTeam_self (x := { x with ckBusy := some s.focus }) (teamOf_onTeam_self hx)⟩
  case task => rw [onTeam_core, ← hcont]; exact congrArg TaskSt.cont (hlands.task.trans (by rw [onTeam_core]))
  case ctl => rw [onTeam_ctl]; exact onTeam_ctl _ s

/-- A task may ask for a checkpoint in interlocked mode at user level, outside loops and passes, where its team has no other under way
and, unless it waits for its own, has an area on every stack. -/
structure CkptMay (k : Cont) (x : Team) (s : State) : Prop where
  compute : s.core.ctl = false
  user : s.core.x.pl = false
  interlocked : exposed s = false
  loops : s.core.sc.loops = []
  pass : s.core.pm.open_ = false
  cont : s.core.task.cont = some k
  team : teamOf s k.team = some x
  busy : x.ckBusy = none ∨ x.ckBusy = some s.focus
  areas : x.ckBusy = none → (areaStacks s x.asid).length = 8

/-- With the core quiet, no other core of the team running and nothing held, the checkpoint is taken. -/
theorem execCkpt_taken {g n : Nat} (d : Nat) (hg : guardOk g n s = true) (hmay : CkptMay k x s)
    (hquiet : quiet (ckptAsked k s).core = true)
    (hothers : (coresOf (ckptAsked k s) k.team).filter (fun c => decide (c ≠ (ckptAsked k s).focus)) = [])
    (hholds : teamHolds (ckptAsked k s) k.team = false) :
    execCkpt g n d s = .next (emit 1 (.s d (ckStatus 0 x)) (takeCkpt d k x (ckptAsked k s))) := by
  have hallowed : (!s.core.ctl && !exposed s && suspOk s && !s.core.pm.open_) = true := by
    simp [suspOk, taskOk, hmay.compute, hmay.user, hmay.interlocked, hmay.loops, hmay.pass]
  have htask : myTask s = some (k, x) := by simp [myTask, hmay.cont, hmay.team]
  have hother : ¬ (x.ckBusy.isSome = true ∧ x.ckBusy ≠ some s.focus) := by
    rintro ⟨hsome, hne⟩
    simp [hmay.busy.resolve_right hne] at hsome
  have hfew : ¬ (x.ckBusy.isNone = true ∧ (areaStacks s x.asid).length < 8) := by
    rintro ⟨hnone, hlt⟩
    rw [hmay.areas (Option.isNone_iff_eq_none.mp hnone)] at hlt
    exact absurd hlt (by decide)
  have halone : ¬ (!List.isEmpty ((coresOf (ckptAsked k s) k.team).filter fun c => decide (c ≠ (ckptAsked k s).focus))) = true := by
    rw [hothers]
    decide
  refine (slotDo_of_guard hg).trans (congrArg Host.Outcome.next ?_)
  rw [ckptAsked, onTeam_core] at hquiet
  rw [hallowed, htask]
  dsimp only
  rw [if_neg hother, if_neg hfew, whenQuiet, awaitQuiet, if_pos hquiet]
  exact (if_neg halone).trans (if_neg (ne_true_of_eq_false hholds))

end Checkpoint

theorem teamOf_emit (lat : Nat) (e : Land) (s : State) (n : Nat) : teamOf (emit lat e s) n = teamOf s n := rfl

/-- Settles O46: with no other core of the team running and nothing held, CKPT is `takeCkpt` once results have landed, and
`takeCkpt_spec` says what that leaves. -/
theorem checkpointForm : Obligations.CheckpointForm := by
  intro s g n d k x hg hctl hpl hexp hloops hpass hcont hx hbusy hareas v z hquiet hothers hholds me
  have hmay : CkptMay k x s := ⟨hctl, hpl, hexp, hloops, hpass, hcont, hx, hbusy, hareas⟩
  have hexec : exec (.ckpt g n d) s = .next (emit 1 (.s d (ckStatus 0 x)) (takeCkpt d k x z)) :=
    execCkpt_taken d hg hmay hquiet hothers hholds
  obtain ⟨(hzcont : z.core.task.cont = _), (hzctl : z.ctl = _), (hzteam : teamOf z k.team = _)⟩ := ckptAsked_spec hcont hx
  obtain ⟨w, hteam, hcore, hwins⟩ := takeCkpt_spec d x hzcont hzteam
  have hstatus : ckStatus 0 x = wd (x.rolls * 2 ^ 32) := by rw [ckStatus, Nat.zero_add]
  rw [hstatus] at hexec
  refine ⟨_, _, takeCkpt d k x z, hexec, (teamOf_emit _ _ _ _).trans hteam, rfl, rfl, rfl, rfl, mem_ckOf_issuer w x me,
    fun c => mem_ckOf_ready w me, rfl, rfl, rfl, ?sc, ?vec, fun j hj => ?own, fun i hi => ?others⟩
  case sc => rw [emit_core_sc, hcore]
  case vec => rw [emit_core_vec, hcore]
  case own => rw [emit_home, hwins.own j hj, hzctl]; rfl
  case others => rw [emit_home, hwins.others i hi]

end Sys2Proof.Proofs
end

section
/-!
PROOFS. What a result issued to a scalar register leaves and what it puts in line: `retDev` is an `emit`, so that every other part of
the state stands, and what lands depends on the core's clock, kind and bundle only.
-/
namespace Sys2Proof.Proofs
open Sys2Proof.Machine

section Results
variable (d : Nat) (x : Word) (s : State)

@[simp] theorem retDev_mem : (retDev d x s).mem = s.mem := rfl
@[simp] theorem retDev_others : (retDev d x s).others = s.others := rfl
@[simp] theorem retDev_home : (retDev d x s).home = s.home := rfl
@[simp] theorem retDev_dist : (retDev d x s).dist = s.dist := rfl
@[simp] theorem retDev_grp : (retDev d x s).grp = s.grp := rfl
@[simp] theorem retDev_net : (retDev d x s).net = s.net := rfl
@[simp] theorem retDev_ctl : (retDev d x s).ctl = s.ctl := rfl
@[simp] theorem retDev_core_sc : (retDev d x s).core.sc = s.core.sc := rfl
@[simp] theorem retDev_core_vec : (retDev d x s).core.vec = s.core.vec := rfl
@[simp] theorem retDev_core_x : (retDev d x s).core.x = s.core.x := rfl
@[simp] theorem retDev_core_sp : (retDev d x s).core.sp = s.core.sp := rfl
@[simp] theorem retDev_core_sb : (retDev d x s).core.sb = s.core.sb := rfl
@[simp] theorem retDev_core_cp : (retDev d x s).core.cp = s.core.cp := rfl
@[simp] theorem retDev_core_mx : (retDev d x s).core.mx = s.core.mx := rfl
@[simp] theorem retDev_core_th : (retDev d x s).core.th = s.core.th := rfl
@[simp] theorem retDev_core_task : (retDev d x s).core.task = s.core.task := rfl
@[simp] theorem retDev_core_cm : (retDev d x s).core.cm = s.core.cm := rfl

end Results

/-- What a result puts in line is the same in a state with the same clock, kind of core, bundle and results in line. -/
theorem retDev_pend_congr (d : Nat) (x : Word) {s t : State} (hnow : t.core.now = s.core.now) (hctl : t.core.ctl = s.core.ctl)
    (hpc : t.core.iss.pc = s.core.iss.pc) (hslot : t.core.iss.slot = s.core.iss.slot) (hpend : t.core.pend = s.core.pend) :
    (retDev d x t).core.pend = (retDev d x s).core.pend := by
  simp only [retDev, emit_core_pend, hnow, hctl, hpc, hslot, hpend]

end Sys2Proof.Proofs
end

section
/-!
PROOFS. Exceptions (19 R309–R327). `entered_enter` says once what a handler entry leaves, of which TRAP and BRK are instances. What
lands does not look at the bundle in progress (`IssFree`), so that XRET's counts leave it as it is (`drain_withCnt`), and XRET
returns from the drained state.
-/
namespace Sys2Proof.Proofs
open Sys2Proof.Machine Sys2Proof.Claims

/-! ### Handler entry (19 R317, R322) -/

theorem pmAdd_eq (e n : Nat) (c : Core) : ∃ m, pmAdd e n c = { c with pm := m } := by
  unfold pmAdd
  split <;> exact ⟨_, rfl⟩

theorem entered_enter {s : State} (h : s.core.x.pl = true → s.core.x.ack = true) (e : Entry) :
    entered (drain s) (enter e s) e.word e.fa (wd e.slot) e.pc e.npc e.fpc := by
  have hmay : ¬ (s.core.x.pl && !s.core.x.ack) = true := by
    intro hno
    obtain ⟨hpl, hack⟩ := Bool.and_eq_true_iff.mp hno
    simp [h hpl] at hack
  rw [enter, if_neg hmay]
  generalize drain s = z
  obtain ⟨m, hm⟩ := pmAdd_eq 0x24 1 z.core
  simp only [onCore, hm]
  cases hpl : z.core.x.pl <;> simp +contextual [entered, hpl, rdA, rdS, latchesOff, mget_mset_ne]

/-- Settles O39: an entry record is what `enter` writes. -/
theorem handlerEntry : Obligations.HandlerEntry := fun _ e h => entered_enter h e

/-- Settles O40: in an unacknowledged handler `enter` is `Machine.doubleFault`. -/
theorem doubleFault : Obligations.DoubleFault := by
  intro s e hpl hack t
  have ht : t = Machine.doubleFault e s := if_pos (by rw [hpl, hack]; rfl)
  rw [ht]
  exact ⟨rfl, rfl, rfl, rfl, rfl, rfl, rfl, rfl⟩

theorem trap_at_slot0 {s : State} {cause : Nat} (hslot : s.core.iss.slot = 0) (hcause : cause ≠ cMEMERR) (fa : Word) :
    trap cause 0 fa s = enter ⟨cause, 0, false, false, fa, 0, s.core.iss.pc, s.core.iss.seq, 0⟩ s := by
  simp [trap, trapCl, hcause, slotEntry, hslot]

/-- Settles O38: at slot 0 both are handler entries of their cause. -/
theorem trapAndBreakEnterTheHandler : Obligations.TrapAndBreakEnterTheHandler := by
  intro s g n im hg hack hslot z
  have henters : ∀ cause, cause ≠ cMEMERR → ∃ t, slotDo g n (trap cause 0 (wd im)) s = .next t ∧
      entered z t (Entry.word ⟨cause, 0, false, false, 0, 0, 0, 0, 0⟩) (wd im) 0 s.core.iss.pc s.core.iss.seq 0 := fun cause hcause =>
    ⟨_, (slotDo_of_guard hg).trans (congrArg _ (trap_at_slot0 hslot hcause _)), entered_enter hack _⟩
  exact ⟨henters cSYSCALL (by decide), henters cBREAK (by decide)⟩

/-! ### What lands does not look at the bundle in progress (19 R321) -/

section Iss

/-- The core with another bundle in progress. -/
def withIss (i : Iss) (c : Core) : Core := { c with iss := i }

/-- `f` neither looks at the bundle in progress nor changes it. -/
def IssFree (f : Core → Core) : Prop := ∀ i c, f (withIss i c) = withIss i (f c)

variable {f g : Core → Core}

theorem IssFree.comp (hf : IssFree f) (hg : IssFree g) : IssFree (f ∘ g) := fun i c => by
  simp only [Function.comp_apply, hg i c, hf i]

theorem issFree_id : IssFree id := fun _ _ => rfl

theorem issFree_foldl {α : Type} {f : Core → α → Core} (hf : ∀ a, IssFree (f · a)) (xs : List α) : IssFree (xs.foldl f ·) := by
  induction xs with
  | nil => exact issFree_id
  | cons a r ih => exact ih.comp (hf a)

theorem IssFree.ite {p : Core → Prop} [DecidablePred p] (hf : IssFree f) (hg : IssFree g)
    (hp : ∀ i c, p (withIss i c) ↔ p c := by exact fun _ _ => .rfl) : IssFree (fun c => if p c then f c else g c) := fun i c => by
  by_cases h : p c
  · simp only [h, (hp i c).mpr h, if_true, hf i c]
  · simp only [h, (hp i c).not.mpr h, if_false, hg i c]

theorem issFree_pmAdd (e n : Nat) : IssFree (pmAdd e n) := IssFree.ite (fun _ _ => rfl) (fun _ _ => rfl)

theorem issFree_spadPut (b off : Nat) (x : Byte) : IssFree (spadPut b off x) := fun _ _ => rfl

theorem issFree_spadWrite (b off : Nat) (bs : List Byte) : IssFree (spadWrite b off bs) := by
  induction bs generalizing off with
  | nil => exact issFree_id
  | cons x r ih => exact (ih (off + 1)).comp (issFree_spadPut b off x)

theorem issFree_spadMasked (b off mask val : Nat) : IssFree (spadMasked b off mask val) :=
  issFree_foldl (fun _ => IssFree.ite (fun _ _ => rfl) (fun _ _ => rfl)) _

theorem issFree_writeSr (n : Nat) (v : Word) : IssFree (writeSr n v) := by
  unfold writeSr
  dsimp only
  iterate 12 refine IssFree.ite (fun _ _ => rfl) ?_
  refine IssFree.ite (IssFree.ite (fun _ _ => rfl) (fun _ _ => rfl)) ?_
  iterate 6 refine IssFree.ite (fun _ _ => rfl) ?_
  exact issFree_id

theorem issFree_landOne (p : Pend) : IssFree (landOne p) := by
  obtain ⟨due, born, pc, slot, eff⟩ := p
  cases eff with
  | s r x => exact IssFree.ite (fun _ _ => rfl) (fun _ _ => rfl)
  | v cl r which x => exact IssFree.ite (fun _ _ => rfl) (fun _ _ => rfl)
  | m cl r which x => exact IssFree.ite (fun _ _ => rfl) (fun _ _ => rfl)
  | sr n x => exact issFree_writeSr n x
  | mode x => exact IssFree.ite (fun _ _ => rfl) (fun _ _ => rfl)
  | st b off m x => exact issFree_spadWrite b off x
  | stw b off x => exact issFree_spadWrite b off x
  | fl cl f => exact IssFree.ite (fun _ _ => rfl) (fun _ _ => rfl)
  | a | p | ack | pp => exact fun _ _ => rfl

theorem issFree_landBefore (t : Nat) (ps : List Pend) : IssFree (landBefore t ps) := by
  induction ps with
  | nil => exact fun _ _ => rfl
  | cons p r ih => exact IssFree.ite (ih.comp (issFree_landOne p)) (fun _ _ => rfl)

theorem issFree_landS12 (k : S12Cmd) : IssFree (landS12 k) :=
  IssFree.comp (f := fun c => landS12 { k with out := [] } c) (fun _ _ => rfl)
    (issFree_foldl (fun w => issFree_spadMasked w.buf w.off w.mask w.val) k.out)

/-- What `f` does may depend on other parts of the core. -/
theorem IssFree.view {α : Type} {f : α → Core → Core} (hf : ∀ a, IssFree (f a)) (view : Core → α)
    (hview : ∀ i c, view (withIss i c) = view c := by exact fun _ _ => rfl) : IssFree (fun c => f (view c) c) := fun i c => by
  dsimp only
  rw [hview]
  exact hf _ i c

theorem issFree_landFlights (t : Nat) : IssFree (landFlights t) :=
  IssFree.view (f := fun (q : List S12Cmd × List S12Cmd) c =>
      let d := q.1.foldl (fun c f => landS12 f c) c
      { d with mx := { d.mx with flight := q.2 } })
    (fun q => IssFree.comp (f := fun d => { d with mx := { d.mx with flight := q.2 } }) (fun _ _ => rfl) (issFree_foldl issFree_landS12 q.1))
    (fun c => c.mx.flight.partition (fun f => decide (f.land < t)))

theorem issFree_landPend (t : Nat) : IssFree (fun c => landBefore t c.pend { c with pend := [] }) := fun i c =>
  issFree_landBefore t c.pend i { c with pend := [] }

theorem issFree_landAll (t : Nat) : IssFree (landAll t) := by
  refine IssFree.ite (issFree_landPend t) fun i c => ?_
  exact issFree_foldl (fun d => (issFree_landFlights (d + 1)).comp (issFree_landPend (d + 1))) _ i c

theorem issFree_moveOn (k : Nat) : IssFree (moveOn k) :=
  IssFree.view (f := fun (q : Nat × List (Nat × Nat × Nat × Nat × Nat)) c =>
      let c := if q.2.isEmpty ∨ k = 0 then landAll q.1 c else noteCycle (q.1 - 1) [] q.2 (landAll q.1 c)
      let e := c.cp.evNew.partition (fun p => decide (p.1 < q.1))
      { c with now := q.1, cp := { c.cp with evq := c.cp.evq ++ e.1.map Prod.snd, evNew := e.2 } })
    (fun q => IssFree.comp (f := fun c =>
        let e := c.cp.evNew.partition (fun p => decide (p.1 < q.1))
        { c with now := q.1, cp := { c.cp with evq := c.cp.evq ++ e.1.map Prod.snd, evNew := e.2 } }) (fun _ _ => rfl)
      (IssFree.ite (issFree_landAll q.1) (IssFree.comp (f := noteCycle (q.1 - 1) [] q.2) (fun _ _ => rfl) (issFree_landAll q.1))))
    (fun c => (c.now + k, cycWrites (c.now + k - 1) c))

theorem issFree_tickWdog (k : Nat) : IssFree (tickWdog k) := IssFree.ite issFree_id (fun _ _ => rfl)

/-- The watchdog and the ages of what waits for a boundary, `k` cycles on: the end of `countCycles`. -/
def ageItems (k : Nat) (c : Core) : Core :=
  let d := tickWdog k c
  let run := !d.x.pl && decide (d.st = .run)
  { d with ev := { d.ev with wdogAge := ageItem run c.ev.wdog d.ev.wdog k (k - fld c.x.wdogr 63 32) d.ev.wdogAge,
                             reqAge := ageItem run true d.ev.ccreq.isSome k k d.ev.reqAge,
                             ppAge := ageItem run true d.x.pp k k d.ev.ppAge } }

theorem issFree_ageItems (k : Nat) : IssFree (ageItems k) := fun i c => by
  unfold ageItems
  rw [issFree_tickWdog k i c]
  rfl

theorem issFree_countCycles (k : Nat) : IssFree (countCycles k) := by
  have htop := IssFree.view (fun pl : Bool => (issFree_pmAdd 0x3F k).comp (issFree_pmAdd (if pl then 0x3D else 0x3C) k)) (fun c => c.x.pl)
  have hcopy : IssFree (fun c => if c.cp.cmds.isEmpty then c else pmAdd 0x39 k c) := IssFree.ite issFree_id (issFree_pmAdd 0x39 k)
  have harray := IssFree.view (fun n => issFree_pmAdd 0x37 n) (arrayBusy k)
  have hforce : IssFree (fun c => if c.th.reqs.any (fun r => r.busy) then pmAdd 0x38 k c else c) :=
    IssFree.ite (issFree_pmAdd 0x38 k) issFree_id
  exact (issFree_ageItems k).comp (hforce.comp (harray.comp (hcopy.comp htop)))

theorem issFree_passCore (k : Nat) : IssFree (passCore k) := (issFree_moveOn k).comp (issFree_countCycles k)

theorem IssFree.iss_eq (hf : IssFree f) (c : Core) : (f c).iss = c.iss := by
  have h := congrArg Core.iss (hf c.iss c)
  exact h

/-- Another count of the events of the bundle in progress. -/
def withCnt (m : SMap Nat) (s : State) : State := onIss (fun i => { i with cnt := m }) s

theorem rejoin_withCnt (m : SMap Nat) (c : Core) :
    rejoin { c with iss := { c.iss with cnt := m } } = { rejoin c with iss := { (rejoin c).iss with cnt := m } } := by
  unfold rejoin
  dsimp only
  split <;> rfl

theorem drain_withCnt (m : SMap Nat) (s : State) : drain (withCnt m s) = withCnt m (drain s) := by
  have hpass : ∀ k c, passCore k { c with iss := { c.iss with cnt := m } } =
      { passCore k c with iss := { (passCore k c).iss with cnt := m } } := fun k c => by
    rw [(issFree_passCore k).iss_eq c]
    exact issFree_passCore k { c.iss with cnt := m } c
  unfold drain withCnt
  dsimp only [onIss, onCore]
  rw [rejoin_withCnt]
  split
  · rfl
  · unfold Machine.pass
    rw [hpass]
    rfl

end Iss

/-- Settles O41: XRET counts itself, which changes nothing that lands, and `leave` restores what an entry saved. -/
theorem returnFromTheHandler : Obligations.ReturnFromTheHandler := by
  intro s g n hg hctl
  refine ⟨fun hpl => ⟨?tack, ?preq, ?xret⟩, fun hpl i hi => ?user⟩
  case tack => exact (slotDo_of_guard hg).trans (congrArg _ (priv_of_super s _ hpl))
  case preq =>
    refine (slotDo_of_guard hg).trans (congrArg _ ((priv_of_super s _ hpl).trans ?_))
    exact need_of_true s _ (by rw [hctl]; rfl)
  case user =>
    have hpriv : ∀ f, slotDo g n (priv f) s = .next (trap cPRIV 0 s.core.iss.pc s) := fun f =>
      (slotDo_of_guard hg).trans (congrArg _ (priv_of_user s f hpl))
    rcases hi with rfl | rfl | rfl <;> exact hpriv _
  case xret =>
    obtain ⟨m, hm⟩ : ∃ m, cntEv 0 1 (if bitAt s.core.iss.hdr 14 then cntEv 0x12 1 s else s) = withCnt m s := by
      split <;> exact ⟨_, rfl⟩
    have hexec : exec (.xret g n) s = .next (onIss (fun i => { i with trapped := true }) (leave (withCnt m s))) := by
      rw [← hm]
      exact (slotDo_of_guard hg).trans (congrArg _ (priv_of_super s _ hpl))
    have hcompute : (drain s).core.ctl = false := by
      obtain ⟨c, k, hdrain, hlands⟩ := drain_eq s
      rw [hdrain]
      exact hlands.ctl.trans hctl
    rw [hexec, leave, drain_withCnt]
    generalize drain s = z at hcompute
    refine ⟨_, rfl, ?_⟩
    cases hppl : z.core.x.ppl <;> cases hlate : bitAt z.core.x.cause 16 <;>
      simp +contextual [hppl, hlate, hcompute, rdA, rdS, latchesOff, onCore, withCnt, onIss, mget_mset_ne]

end Sys2Proof.Proofs
end

section
/-!
PROOFS. Forms that are their definitions once their checks pass: ICINV and TINV (19 R325, R326), the moves of special registers (19
R314–R316), the replay forms (23 R369–R374) and the collectives' acceptance (21 R350–R352). DZERO's stated command keeps the
REM bit of its leaf, which the model's does not: `remoteLeaf` is a state that refutes it.
-/
namespace Sys2Proof.Proofs
open Sys2Proof.Machine Sys2Proof.Claims

/-! ### Invalidations (19 R325, R326) -/

/-- The translation cache of every core loses the entries that `pt` picks. -/
theorem coreAt_tinvWhere_tlb (pt : TlbE → Bool) (pw : WalkE → Bool) (s : State) (k : Nat) :
    (coreAt (tinvWhere pt pw s) k).cm.tlb = (coreAt s k).cm.tlb.filter (fun x => !pt x) := by
  have hothers := mfind?_map (fun c : Core => { c with cm := { c.cm with tlb := c.cm.tlb.filter (fun t => !pt t) } }) s.others k
  by_cases hk : k = s.focus
  · subst hk
    rw [coreAt_focus]
    exact congrArg (fun c : Core => c.cm.tlb) (coreAt_focus (tinvWhere pt pw s))
  · rw [coreAt, coreAt, if_neg hk, if_neg (show ¬ k = (tinvWhere pt pw s).focus from hk)]
    dsimp only [tinvWhere, onHome]
    rw [hothers]
    cases mfind? s.others k with
    | some c => rfl
    | none => split <;> rfl

/-- Settles O42: TINV is `tinvWhere` of the entries it names. -/
theorem invalidationForms : Obligations.InvalidationForms := by
  intro s g n a b hg
  refine ⟨fun hexp hcmds hpod => ?icinv, fun hpl hexp => ?tinv, fun hpl i hi => ?user⟩
  case icinv =>
    refine (slotDo_of_guard hg).trans ?_
    simp [hexp, hcmds, hpod]
  case tinv =>
    intro k v kept
    have hkept : ∀ pt pw, ∃ t, tinv pt pw g n s = .next t ∧ kept pt pw t := fun pt pw =>
      ⟨tinvWhere pt pw s, (slotDo_of_guard hg).trans (congrArg _ ((priv_of_super s _ hpl).trans (need_of_true s _ (by rw [hexp]; rfl)))),
        coreAt_tinvWhere_tlb pt pw s, rfl, rfl, rfl, rfl, rfl⟩
    exact ⟨hkept _ _, hkept _ _, hkept _ _⟩
  case user =>
    have hpriv : ∀ pt pw, tinv pt pw g n s = .next (trap cPRIV 0 s.core.iss.pc s) := fun pt pw =>
      (slotDo_of_guard hg).trans (congrArg _ (priv_of_user s _ hpl))
    rcases hi with rfl | rfl | rfl <;> exact hpriv _ _

/-! ### Special registers (19 R314–R316, 24 R382) -/

section Moves
variable {g n d a i : Nat} {s : State} {e : Land}

/-- An access to a listed register by one who may make it. -/
theorem srAccess_of_ok {sup : Bool} (h : Machine.srListed s.core.ctl i = true ∧ (s.core.x.pl = true ∨ sup = false)) (t : State) :
    (if !Machine.srListed s.core.ctl i then illop s else if sup && !s.core.x.pl then privFault s else t) = t := by
  obtain ⟨hlisted, hrights⟩ := h
  rcases hrights with hpl | hsup
  · simp [hlisted, hpl]
  · simp [hlisted, hsup]

theorem srAccess_of_unlisted {sup : Bool} (h : Machine.srListed s.core.ctl i = false) (t : State) :
    (if !Machine.srListed s.core.ctl i then illop s else if sup && !s.core.x.pl then privFault s else t) = illop s := by simp [h]

theorem srAccess_of_user {sup : Bool} (h : Machine.srListed s.core.ctl i = true) (hsup : sup = true) (hpl : s.core.x.pl = false) (t : State) :
    (if !Machine.srListed s.core.ctl i then illop s else if sup && !s.core.x.pl then privFault s else t) = privFault s := by simp [h, hsup, hpl]

theorem execMfs_of_guard (hg : guardOk g n s = true) : exec (.mfs g n d i) s = .next
    (if !Machine.srListed s.core.ctl i then illop s else if srSupRead i && !s.core.x.pl then privFault s else emit 1 (.s d (srSeen s i)) s) := by
  rw [← guarded_of_true s (fun s => if srSupRead i && !s.core.x.pl then privFault s else emit 1 (.s d (srSeen s i)) s) hg]
  rfl

theorem execMts_of_guard (hg : guardOk g n s = true) : exec (.mts g n d i) s = .next
    (if !Machine.srListed s.core.ctl i then illop s else if srSupWrite i && !s.core.x.pl then privFault s else emit 1 (srLand i (rdS s d)) s) := by
  rw [← guarded_of_true s (fun s => if srSupWrite i && !s.core.x.pl then privFault s else emit 1 (srLand i (rdS s d)) s) hg]
  rfl

end Moves

/-- Settles O43: the number is looked up first, then the rights are checked. -/
theorem specialRegisterMoves : Obligations.SpecialRegisterMoves := by
  intro s g n d a b i hg ok j seen write
  refine ⟨fun h => ?mfs, fun h => ?mts, fun h => ?mfsr, fun h => ?mtsr, fun h => ⟨?_, ?_⟩, fun h => ⟨?_, ?_⟩,
    fun hpl => ⟨fun h hsup => ?_, fun h hsup => ?_⟩⟩
  case mfs => exact (execMfs_of_guard hg).trans (congrArg _ (srAccess_of_ok h _))
  case mts => exact (execMts_of_guard hg).trans (congrArg _ (srAccess_of_ok h _))
  case mfsr => exact (slotDo_of_guard hg).trans (congrArg _ (srAccess_of_ok h _))
  case mtsr => exact (slotDo_of_guard hg).trans (congrArg _ (srAccess_of_ok h _))
  · exact (execMfs_of_guard hg).trans (congrArg _ (srAccess_of_unlisted h _))
  · exact (execMts_of_guard hg).trans (congrArg _ (srAccess_of_unlisted h _))
  · exact (slotDo_of_guard hg).trans (congrArg _ (srAccess_of_unlisted h _))
  · exact (slotDo_of_guard hg).trans (congrArg _ (srAccess_of_unlisted h _))
  · exact (execMfs_of_guard hg).trans (congrArg _ (srAccess_of_user h hsup hpl _))
  · exact (execMts_of_guard hg).trans (congrArg _ (srAccess_of_user h hsup hpl _))

/-! ### Replay (23 R369–R374) -/

/-- Settles O45: the core is quiet, so each form is its effect; PHASE's line is read at once. -/
theorem replayForms : Obligations.ReplayForms := by
  intro s g n d e a b r hg hctl hexp
  have hok : replayOk s = true := by rw [replayOk, hctl, hexp]; rfl
  refine ⟨fun hquiet => ⟨fun hline hphase hfree => ?phase, ?phaseEnd, ?digest⟩, ?rcmp⟩
  case phaseEnd =>
    refine (slotDo_of_guard hg).trans ?_
    simp [hok, awaitQuiet, hquiet, setPhase]
  case digest =>
    refine (slotDo_of_guard hg).trans ?_
    simp [hok, awaitQuiet, hquiet]
  case rcmp =>
    refine ⟨fun y k hgroup hout => (slotDo_of_guard hg).trans ?_, fun hgroup => (slotDo_of_guard hg).trans ?_⟩
    · simp only [hok, Bool.not_true, Bool.false_eq_true, if_false, hgroup, hout]
    · simp only [hok, Bool.not_true, Bool.false_eq_true, if_false, hgroup]
  case phase =>
    intro line es rs hlegal hdispute
    obtain ⟨q, hread⟩ := ownLine_reads hfree (by decide) hline hphase (fun b s =>
      let es := (List.range 8).map (fun i => leAt b (8 * i) 8)
      let rs := es.filterMap phaseEnt
      if es.any phaseEntBad then illop s
      else
        match phaseDispute rs with
        | some fa => trap cPHASECONF 0 fa s
        | none => if phaseRoom s.core rs then retStatus d 0 (setPhase rs s) else retStatus d 1 s)
    have hexec : exec (.phase g n d r) s = .next (if phaseRoom s.core rs = true
        then retStatus d 0 (setPhase rs (onIss (tookPort 1 64 q) s)) else retStatus d 1 (onIss (tookPort 1 64 q) s)) := by
      refine (slotDo_of_guard hg).trans (congrArg _ ?_)
      simp only [hok, Bool.not_true, Bool.false_eq_true, if_false, ownNamed, hline, awaitQuiet, hquiet, if_true]
      refine hread.trans ?_
      dsimp only
      rw [if_neg (ne_true_of_eq_false hlegal), hdispute]
      rfl
    refine ⟨onIss (tookPort 1 64 q) s, rfl, fun hroom => ?_, fun hroom => ?_⟩
    · rw [hexec, if_pos hroom]; rfl
    · rw [hexec, if_neg (ne_true_of_eq_false hroom)]

/-! ### Collectives (21 R350–R352, R360) -/

/-- Settles O47: the line is read at once, its checks pass, and `clAccept` decides by the room there is. -/
theorem collectiveForms : Obligations.CollectiveForms := by
  intro s g n p r t d a hg hctl
  refine ⟨?lnkst, fun hline hphase hfree => ?takes⟩
  case lnkst =>
    refine (slotDo_of_guard hg).trans ?_
    simp [hctl]
  case takes =>
    intro desc takes
    have htakes : ∀ k, takes k (collIssue k g n p r t s) := by
      intro k
      obtain ⟨q, hread⟩ := ownLine_reads hfree (by decide) hline hphase (fun d s =>
        if clBad s k d then illop s
        else
          match clAll (!s.core.x.pl) (clRanges s k d) [] s with
          | (.inl (c, dt, fa), s) => trap c dt fa s
          | (.inr m, s) =>
            if m.any (fun p => decide (pkgOf (p.2 / 8 * 2 ^ 16) ≠ s.ctl.pkgNum)) then illop s else clAccept p k t d m s)
      refine ⟨onIss (tookPort 1 128 q) s, rfl, fun hlegal m u hpages hown => ?_⟩
      have hexec : collIssue k g n p r t s = .next (clAccept p k t desc m u) := by
        refine (slotDo_of_guard hg).trans (congrArg _ ?_)
        rw [if_neg (ne_true_of_eq_false hctl)]
        refine hread.trans ?_
        rw [if_neg (ne_true_of_eq_false hlegal), hpages]
        exact if_neg (ne_true_of_eq_false hown)
      rw [hexec]
      intro c room
      exact ⟨fun hroom => congrArg _ (if_pos hroom), fun hfull => congrArg _ (if_neg hfull)⟩
    exact ⟨htakes 0, htakes 1, htakes 2, htakes 3, htakes 4⟩

/-! ### Memory-side commands (14 R255, R269) -/

/-- A leaf that names the own package with REM = 1, pinned, of class 0, for the unit at 0x40000. -/
def remoteLeaf : TlbE := { asid := 0, va := 0x40000, bits := 16, leaf := 0x4032D, path := [] }

/-- After reset: s1 is 0x40000, which `remoteLeaf` translates. -/
def remoteUnit : State := onSc (fun c => { c with s := [(1, 0x40000)] }) (onCm (fun c => { c with tlb := [remoteLeaf] }) State.reset)

/-- The classes of the in-DRAM commands that a step leaves. -/
def dramClasses : Out → List Nat
  | .next t => t.home.dram.map DramCmd.cls
  | _ => []

theorem msPage_remoteUnit : (msPage .wr true (rdS remoteUnit 1) remoteUnit).1 = .inr (0x40000, 4) := by decide +kernel

theorem dramClasses_remoteUnit : dramClasses (exec (.dzero 0 0 0 1 0) remoteUnit) = [0] := by decide +kernel

/-- Refutes O33: DZERO of a unit whose leaf names the own package with REM = 1 queues a command of the leaf's class, not of the class
and REM together. -/
theorem not_memorySideCommandForms : ¬ Obligations.MemorySideCommandForms := by
  unfold Obligations.MemorySideCommandForms
  intro h
  have hpage : msPage .wr true (rdS remoteUnit 1) remoteUnit = (.inr (0x40000, 4), (msPage .wr true (rdS remoteUnit 1) remoteUnit).2) :=
    Prod.ext msPage_remoteUnit rfl
  obtain ⟨hunits, -⟩ := h remoteUnit _ remoteUnit 0 0 0 1 0 0 0 0 0x40000 0 4 0 rfl
  have hstated := congrArg dramClasses (((hunits (by decide) hpage (by decide +kernel)).1 (by decide +kernel)).1 (by decide +kernel))
  rw [dramClasses_remoteUnit] at hstated
  revert hstated
  decide +kernel

end Sys2Proof.Proofs
end

section
/-!
PROOFS. Barriers (17 R295–R297). `barrier_first` and `barrier_again` say once what BAR and BAR.T do with no arrival recorded and with
one; `barAt_putBar` reads a key's state after an arrival.
-/
namespace Sys2Proof.Proofs
open Sys2Proof.Machine Sys2Proof.Claims

section Keys
variable {lv team inst : Nat} {s : State}

/-- The state of a key is its own. -/
theorem barAt_is (s : State) (lv team inst : Nat) : (barAt s lv team inst).is lv team inst = true := by
  unfold barAt
  cases h : s.grp.bars.find? (BarSt.is lv team inst) with
  | none => simp [BarSt.is]
  | some b => exact List.find?_some h

theorem barAt_putBar {b : BarSt} (h : b.is lv team inst = true) (s : State) : barAt (putBar b s) lv team inst = b := by
  unfold barAt putBar
  simp [h]

theorem barAt_congr {t : State} (h : t.grp = s.grp) : barAt t lv team inst = barAt s lv team inst := by rw [barAt, h, barAt]

theorem arrive_is {b : BarSt} (h : b.is lv team inst = true) (n : Nat) : (b.arrive n).is lv team inst = true := by
  unfold BarSt.arrive
  split <;> exact h

end Keys

/-! ### The release (13 R249, R253) -/

theorem releaseElse_of_podDone {s : State} (h : podDone s) (w f : State → State) : releaseElse w f s = f s := by
  obtain ⟨hclear, hreach⟩ := h
  have hflushed : (recov s && !s.core.cm.reach.isEmpty) = false := by
    cases hrec : recov s with
    | false => rfl
    | true => rw [hreach hrec]; rfl
  rw [releaseElse, hclear, hflushed]
  rfl

section Barrier
variable {try_ : Bool} {g n d b sc : Nat} {s : State}

theorem barRelease_of_podDone (h : sc = 5 → podDone s) (hsc : 2 ≤ sc) (f : State → State) :
    barRelease try_ d (sc - 2) f s = f s := by
  unfold barRelease
  split
  · rfl
  · next hpod =>
    have hdone := h (by omega)
    split
    · exact releaseElse_of_podDone hdone _ f
    · exact releaseElse_of_podDone hdone _ f

variable (hg : guardOk g n s = true) (hctl : s.core.ctl = false) (hk0 : (rdS s b).toNat % 2 ^ 32 ≠ 0)
  (hmax : (rdS s b).toNat % 2 ^ 32 ≤ barMax sc) (htry : try_ = false → exposed s = false)
include hctl hk0 hmax htry

/-- BAR and BAR.T of a legal count and scope are not refused. -/
theorem barrier_legal :
    (s.core.ctl || decide ((rdS s b).toNat % 2 ^ 32 = 0) || decide (barMax sc < (rdS s b).toNat % 2 ^ 32) || (!try_ && exposed s)) = false := by
  have hwaits : (!try_ && exposed s) = false := by
    cases try_ with
    | true => rfl
    | false => exact htry rfl
  simp only [hctl, hk0, Nat.not_lt.mpr hmax, hwaits, decide_false, Bool.or_self]

include hg

theorem barrier_core (hsc : sc = 1) (hbarp : s.core.cm.barp = none) (hquiet : quiet s.core = true) :
    barrier try_ g n d b sc s = .next (retDev d 0 s) := by
  have hlegal := barrier_legal (sc := sc) hctl hk0 hmax htry
  refine (slotDo_of_guard hg).trans (congrArg _ ?_)
  simp only [hlegal, Bool.false_eq_true, if_false, hbarp, if_pos hsc, if_pos hquiet]

theorem barrier_first (hsc : 2 ≤ sc) (hbarp : s.core.cm.barp = none) :
    barrier try_ g n d b sc s = .next (barRelease try_ d (sc - 2) (barArrive try_ d (sc - 2) ((rdS s b).toNat % 2 ^ 32)) s) := by
  have hlegal := barrier_legal (sc := sc) hctl hk0 hmax htry
  refine (slotDo_of_guard hg).trans (congrArg _ ?_)
  simp only [hlegal, Bool.false_eq_true, if_false, hbarp, if_neg (show ¬ sc = 1 by omega)]

theorem barrier_again (hsc : 2 ≤ sc) {i e : Nat} (hbarp : s.core.cm.barp = some (sc - 2, i, e)) :
    barrier try_ g n d b sc s = .next (barLook try_ d (sc - 2) i e s) := by
  have hlegal := barrier_legal (sc := sc) hctl hk0 hmax htry
  refine (slotDo_of_guard hg).trans (congrArg _ ?_)
  simp only [hlegal, Bool.false_eq_true, if_false, hbarp, if_neg (show ¬ (sc = 1 ∨ sc - 2 ≠ sc - 2) by omega)]

end Barrier

/-- The state once the core's arrival at a key is recorded, with the key's episode `epi` before it. -/
def barArrived (lv n : Nat) (s : State) : State :=
  let b := barAt s lv (teamNum s.core) (netInst s.core.num lv)
  onCm (fun c => { c with barp := some (lv, netInst s.core.num lv, b.epi) }) (putBar (b.arrive n) s)

theorem barAt_barArrived (lv n : Nat) (s : State) : barAt (barArrived lv n s) lv (teamNum s.core) (netInst s.core.num lv) =
    (barAt s lv (teamNum s.core) (netInst s.core.num lv)).arrive n :=
  barAt_putBar (arrive_is (barAt_is s _ _ _) n) s

theorem barArrive_accepted {try_ : Bool} {d lv n : Nat} {s : State}
    (h : barRefusal s (barAt s lv (teamNum s.core) (netInst s.core.num lv)) n = none) :
    barArrive try_ d lv n s = barLook try_ d lv (netInst s.core.num lv) (barAt s lv (teamNum s.core) (netInst s.core.num lv)).epi
      (barArrived lv n s) := by
  unfold barArrive
  dsimp only
  rw [h]
  rfl

section Arrived
variable (try_ : Bool) (d : Nat) {lv n : Nat} {s : State}

/-- The state after the arrival that fills the count: the episode's number with status 0, and the acquire's empty read cache. -/
def barCompleted (d lv n : Nat) (s : State) : State :=
  retDev d (barWord 0 (barAt s lv (teamNum s.core) (netInst s.core.num lv)).epi)
    (rcClear (onCm (fun c => { c with barp := none }) (barArrived lv n s)))

theorem barArrive_completes (h : barRefusal s (barAt s lv (teamNum s.core) (netInst s.core.num lv)) n = none)
    (hfull : (barAt s lv (teamNum s.core) (netInst s.core.num lv)).got + 1 = n) :
    barArrive try_ d lv n s = barCompleted d lv n s := by
  rw [barArrive_accepted h]
  refine if_pos ?_
  change _ < (barAt (barArrived lv n s) lv (teamNum s.core) _).epi
  rw [barAt_barArrived, BarSt.arrive, if_pos hfull]
  exact Nat.lt_succ_self _

theorem barArrive_waits (h : barRefusal s (barAt s lv (teamNum s.core) (netInst s.core.num lv)) n = none)
    (hmore : (barAt s lv (teamNum s.core) (netInst s.core.num lv)).got + 1 ≠ n) : barArrive true d lv n s =
      retDev d (barWord 1 (barAt s lv (teamNum s.core) (netInst s.core.num lv)).epi) (barArrived lv n s) := by
  rw [barArrive_accepted h]
  refine if_neg ?_
  change ¬ _ < (barAt (barArrived lv n s) lv (teamNum s.core) _).epi
  rw [barAt_barArrived, BarSt.arrive, if_neg hmore]
  exact Nat.lt_irrefl _

theorem barCompleted_spec (hfull : (barAt s lv (teamNum s.core) (netInst s.core.num lv)).got + 1 = n) :
    let now := barAt s lv (teamNum s.core) (netInst s.core.num lv)
    let t := barCompleted d lv n s
    barAt t lv (teamNum s.core) (netInst s.core.num lv) = { now with epi := now.epi + 1, n := 0, got := 0 } ∧
      t.core.cm.rc = [] ∧ t.core.cm.barp = none ∧ t.core.pend = (retDev d (barWord 0 now.epi) s).core.pend ∧ t.mem = s.mem ∧
      t.core.sc = s.core.sc ∧ t.core.vec = s.core.vec ∧ t.core.x = s.core.x := by
  have hgrp : (barCompleted d lv n s).grp = (barArrived lv n s).grp := by simp [barCompleted, rcClear]
  refine ⟨(barAt_congr hgrp).trans ((barAt_barArrived lv n s).trans (if_pos hfull)), ?rc, ?barp, ?pend, ?_⟩
  case rc => simp [barCompleted, rcClear]
  case barp => simp [barCompleted, rcClear]
  case pend => refine retDev_pend_congr d _ ?_ ?_ ?_ ?_ ?_ <;> simp [rcClear, barArrived, putBar]
  simp [barCompleted, rcClear, barArrived, putBar]

end Arrived

/-- Settles O36: an arrival is recorded in its key, and BAR then looks at the episode it recorded. -/
theorem barrierForms : Obligations.BarrierForms := by
  intro s g n d b sc hg hctl k hk0 hmax both
  refine ⟨fun hsc hbarp hquiet => ?core, fun hlow hhigh => ?_⟩
  case core =>
    exact ⟨barrier_core hg hctl hk0 hmax (try_ := true) nofun hsc hbarp hquiet, fun hexp => barrier_core hg hctl hk0 hmax (fun _ => hexp) hsc hbarp hquiet⟩
  intro lv inst now
  refine ⟨fun hbarp hpod haccept hfull => ?completes, fun hbarp hpod haccept hmore => ?waits, fun hbarp hsc hclear => ?unacknowledged,
    fun i e hbarp => ⟨fun hpast => ?passed, fun hopen => ?isOpen⟩⟩
  case completes =>
    have hexec : ∀ try_, (try_ = false → exposed s = false) → barrier try_ g n d b sc s = .next (barCompleted d lv k s) :=
      fun try_ htry => by
        rw [barrier_first hg hctl hk0 hmax htry hlow hbarp, barRelease_of_podDone hpod hlow, barArrive_completes try_ d haccept hfull]
    exact ⟨⟨_, hexec true nofun, barCompleted_spec d hfull⟩, fun hexp => ⟨_, hexec false fun _ => hexp, barCompleted_spec d hfull⟩⟩
  case waits =>
    have hbar : barAt (barArrived lv k s) lv (teamNum s.core) inst = { now with n := k, got := now.got + 1 } :=
      (barAt_barArrived lv k s).trans (if_neg hmore)
    refine ⟨retDev d (barWord 1 now.epi) (barArrived lv k s), ?_, by rw [retDev_core_cm]; rfl, (barAt_congr (retDev_grp _ _ _)).trans hbar, ?_⟩
    · rw [← barArrive_waits d haccept hmore, ← barRelease_of_podDone (try_ := true) (d := d) hpod hlow (barArrive true d lv k)]
      exact barrier_first hg hctl hk0 hmax nofun hlow hbarp
    · refine retDev_pend_congr d _ ?_ ?_ ?_ ?_ ?_ <;> simp [barArrived, putBar]
  case unacknowledged =>
    refine (barrier_first hg hctl hk0 hmax (try_ := true) nofun hlow hbarp).trans (congrArg _ ?_)
    rw [barRelease, if_neg (by omega), if_pos rfl, releaseElse, hclear]
    rfl
  case passed =>
    exact ⟨(barrier_again hg hctl hk0 hmax (try_ := true) nofun hlow hbarp).trans (congrArg _ (if_pos hpast)),
      fun hexp => (barrier_again hg hctl hk0 hmax (fun _ => hexp) hlow hbarp).trans (congrArg _ (if_pos hpast))⟩
  case isOpen => exact (barrier_again hg hctl hk0 hmax (try_ := true) nofun hlow hbarp).trans (congrArg _ (if_neg hopen))

end Sys2Proof.Proofs
end

section
/-!
PROOFS. Power, temperature, reset, front-end ports and package registers (25 R393, R399, R402–R404). PWRSTAT is written field by field:
`fld_setFld_self`, `fld_setFld_above` and `fld_setFld_below` say what a field reads as after another, or itself, is replaced.
-/
namespace Sys2Proof.Proofs
open Sys2Proof.Machine Sys2Proof.Claims

/-! ### Fields of a word -/

section Fields
variable {x : Word} {hi lo v : Nat}

/-- A number is its part above a field, the field, and its part below. -/
theorem field_split (n lo k : Nat) : n = n / 2 ^ (lo + k) * 2 ^ (lo + k) + n / 2 ^ lo % 2 ^ k * 2 ^ lo + n % 2 ^ lo := by
  have hup : n / 2 ^ lo / 2 ^ k = n / 2 ^ (lo + k) := by rw [Nat.div_div_eq_div_mul, ← pow_add]
  have hmid := Nat.div_add_mod (n / 2 ^ lo) (2 ^ k)
  have hlow := Nat.div_add_mod n (2 ^ lo)
  rw [hup] at hmid
  calc n = (n / 2 ^ (lo + k) * 2 ^ k + n / 2 ^ lo % 2 ^ k) * 2 ^ lo + n % 2 ^ lo := by
        rw [Nat.mul_comm (n / 2 ^ (lo + k)), hmid, Nat.mul_comm, hlow]
    _ = _ := by ring

theorem setFld_toNat (hlo : lo ≤ hi) (hhi : hi < 64) : (setFld x hi lo v).toNat =
    x.toNat / 2 ^ (hi + 1) * 2 ^ (hi + 1) + v % 2 ^ (hi + 1 - lo) * 2 ^ lo + x.toNat % 2 ^ lo := by
  have hk : lo + (hi + 1 - lo) = hi + 1 := by omega
  have hsplit := field_split x.toNat lo (hi + 1 - lo)
  rw [hk] at hsplit
  have hsub : x.toNat - nbits x.toNat hi lo * 2 ^ lo = x.toNat / 2 ^ (hi + 1) * 2 ^ (hi + 1) + x.toNat % 2 ^ lo := by
    rw [nbits]
    omega
  have hfield : v % 2 ^ (hi + 1 - lo) * 2 ^ lo + x.toNat % 2 ^ lo < 2 ^ (hi + 1) := by
    have h1 : v % 2 ^ (hi + 1 - lo) + 1 ≤ 2 ^ (hi + 1 - lo) := Nat.mod_lt _ (Nat.two_pow_pos _)
    have h2 := Nat.mod_lt x.toNat (Nat.two_pow_pos lo)
    have h3 := Nat.mul_le_mul_right (2 ^ lo) h1
    rw [← pow_add, show hi + 1 - lo + lo = hi + 1 by omega] at h3
    nlinarith
  have hfits : x.toNat / 2 ^ (hi + 1) * 2 ^ (hi + 1) + v % 2 ^ (hi + 1 - lo) * 2 ^ lo + x.toNat % 2 ^ lo < 2 ^ 64 := by
    have h1 : x.toNat / 2 ^ (hi + 1) + 1 ≤ 2 ^ (63 - hi) := by
      refine Nat.div_lt_of_lt_mul ?_
      rw [← pow_add, show hi + 1 + (63 - hi) = 64 by omega]
      exact x.isLt
    have h3 := Nat.mul_le_mul_right (2 ^ (hi + 1)) h1
    rw [← pow_add, show 63 - hi + (hi + 1) = 64 by omega] at h3
    nlinarith
  rw [setFld, BitVec.toNat_ofNat, hsub, Nat.mod_eq_of_lt (by omega)]
  omega

/-- A word with one field replaced, as its part above, the field, and its part below. -/
theorem setFld_parts (x : Word) (v : Nat) (hlo : lo ≤ hi) (hhi : hi < 64) : ∃ y, y = x.toNat / 2 ^ (hi + 1) ∧
    (setFld x hi lo v).toNat = (y * 2 ^ (hi + 1 - lo) + v % 2 ^ (hi + 1 - lo)) * 2 ^ lo + x.toNat % 2 ^ lo := by
  refine ⟨_, rfl, ?_⟩
  rw [setFld_toNat hlo hhi, Nat.add_mul, Nat.mul_assoc, ← pow_add, Nat.sub_add_cancel (by omega)]

theorem setFld_shift (hlo : lo ≤ hi) (hhi : hi < 64) : (setFld x hi lo v).toNat / 2 ^ lo =
    x.toNat / 2 ^ (hi + 1) * 2 ^ (hi + 1 - lo) + v % 2 ^ (hi + 1 - lo) := by
  obtain ⟨y, rfl, hy⟩ := setFld_parts x v hlo hhi
  rw [hy, Nat.add_comm, Nat.add_mul_div_right _ _ (Nat.two_pow_pos lo), Nat.div_eq_of_lt (Nat.mod_lt _ (Nat.two_pow_pos lo)), Nat.zero_add]

theorem setFld_high (hlo : lo ≤ hi) (hhi : hi < 64) : (setFld x hi lo v).toNat / 2 ^ (hi + 1) = x.toNat / 2 ^ (hi + 1) := by
  have hk : hi + 1 = lo + (hi + 1 - lo) := by omega
  conv_lhs => rw [hk, pow_add, ← Nat.div_div_eq_div_mul, setFld_shift hlo hhi]
  rw [Nat.add_comm, Nat.add_mul_div_right _ _ (Nat.two_pow_pos _), Nat.div_eq_of_lt (Nat.mod_lt _ (Nat.two_pow_pos _)), Nat.zero_add]

theorem setFld_low (hlo : lo ≤ hi) (hhi : hi < 64) : (setFld x hi lo v).toNat % 2 ^ lo = x.toNat % 2 ^ lo := by
  obtain ⟨y, rfl, hy⟩ := setFld_parts x v hlo hhi
  rw [hy, Nat.add_comm, Nat.add_mul_mod_self_right, Nat.mod_mod]

/-- The field replaced is read back. -/
theorem fld_setFld_self (hlo : lo ≤ hi) (hhi : hi < 64) : fld (setFld x hi lo v) hi lo = v % 2 ^ (hi + 1 - lo) := by
  rw [fld, nbits, setFld_shift hlo hhi, Nat.add_comm, Nat.add_mul_mod_self_right, Nat.mod_mod]

/-- A field above one replaced stands. -/
theorem fld_setFld_above {h l : Nat} (hlo : lo ≤ hi) (hhi : hi < 64) (hl : hi < l) : fld (setFld x hi lo v) h l = fld x h l := by
  have hk : l = hi + 1 + (l - (hi + 1)) := by omega
  rw [fld, fld, nbits, nbits, hk, pow_add, ← Nat.div_div_eq_div_mul, ← Nat.div_div_eq_div_mul, setFld_high hlo hhi]

/-- A field below one replaced stands. -/
theorem fld_setFld_below {h l : Nat} (hlo : lo ≤ hi) (hhi : hi < 64) (hh : h < lo) (hl : l ≤ h) :
    fld (setFld x hi lo v) h l = fld x h l := by
  have hbelow : ∀ n : Nat, n / 2 ^ l % 2 ^ (h + 1 - l) = n % 2 ^ lo / 2 ^ l % 2 ^ (h + 1 - l) := fun n => by
    have hk : lo = l + (lo - l) := by omega
    rw [hk, pow_add, Nat.mod_mul_right_div_self, Nat.mod_mod_of_dvd _ (Nat.pow_dvd_pow 2 (by omega))]
  rw [fld, fld, nbits, nbits, hbelow, setFld_low hlo hhi, ← hbelow]

end Fields
/-! ### Power and temperature (25 R403, R404) -/

section Level
variable {c : CtlSt}

theorem setLevel_low (h : c.tNow < 64) : fld (setLevel c).pwr 5 0 = if c.forced then 63 else c.tNow := by
  rw [setLevel, fld_setFld_self (by decide) (by decide)]
  split
  · rfl
  · exact Nat.mod_eq_of_lt h

end Level

theorem throttleLevel_eq (p b work : Nat) :
    throttleLevel p b work = if p ≤ b then 0 else min ((64 * (p - b) + work - 1) / work) 63 := by
  unfold throttleLevel cdiv
  split
  · rfl
  · dsimp only
    split <;> omega

theorem throttleLevel_lt (p b work : Nat) : throttleLevel p b work < 64 := by
  rw [throttleLevel_eq]
  split <;> omega

/-- What a junction at `t` degrees leaves: T, the temperature recorded, and bit 9 as it was. -/
theorem junction_ctl (t : Nat) (s : State) :
    let hot := decide (105 ≤ t) || (s.ctl.forced && decide (100 ≤ t))
    let u := junction t s
    u.ctl.forced = hot ∧ fld u.ctl.pwr 5 0 = (if hot then 63 else s.ctl.tNow % 64) ∧ fld u.ctl.pwr 19 10 = min t 1023 ∧
      u.ctl.halted = s.ctl.halted ∧ u.ctl.events = s.ctl.events := by
  refine ⟨rfl, ?level, ?temp, rfl, rfl⟩
  case level =>
    refine (fld_setFld_self (by decide) (by decide)).trans ?_
    dsimp only
    split <;> rfl
  case temp =>
    refine (fld_setFld_above (by decide) (by decide) (by decide)).trans ?_
    dsimp only [setTemp]
    rw [fld_setFld_self (by decide) (by decide)]
    split <;> omega

/-- The package halted by a junction at `t` degrees. -/
def tripped (t : Nat) (s : State) : State :=
  ctlEvent 6 t 0 (onCtl (fun c => { c with pwr := setFld c.pwr 9 9 1, halted := true }) (junction t s))

theorem execThermalTrip_cool {t : Nat} (h : t < 115) (s : State) : exec (.thermalTrip t) s = .next (junction t s) :=
  congrArg _ (if_pos h)

theorem execThermalTrip_hot {t : Nat} (h : ¬ t < 115) (s : State) : exec (.thermalTrip t) s = .next (tripped t s) :=
  congrArg _ (if_neg h)

theorem tripped_ctl (t : Nat) (s : State) : (tripped t s).ctl.pwr = setFld (junction t s).ctl.pwr 9 9 1 ∧
    (tripped t s).ctl.halted = true ∧ (tripped t s).ctl.forced = (junction t s).ctl.forced ∧
    (tripped t s).ctl.events = (junction t s).ctl.events ++ [(6, t, 0)] := ⟨rfl, rfl, rfl, rfl⟩

theorem tripped_frame (t : Nat) (s : State) : (tripped t s).core = (junction t s).core ∧ (tripped t s).others = (junction t s).others ∧
    (tripped t s).mem = (junction t s).mem := by simp only [tripped, ctlEvent, onCtl_core, onCtl_others, onCtl_mem, and_self]

/-! ### Front-end ports (25 R402) -/

section Ports
variable {port : Nat} {fr d b : List Byte} {r : List (List Byte)} {s : State}

theorem execFrameReceived_none (hport : port < 2) (hlen : fr.length ≤ 9216) (h : addDesc d (portAt s port).rx = []) :
    exec (.frameReceived port fr d) s = .next (putPort port { portAt s port with drop := (portAt s port).drop + 1 } s) := by
  refine congrArg Host.Outcome.next ?_
  rw [if_neg (by omega)]
  dsimp only
  rw [h]

/-- The state once a frame has taken descriptor `b` of its port. -/
def tookDesc (port : Nat) (r : List (List Byte)) (s : State) : State :=
  let z := putPort port { portAt s port with rx := r } s
  { z with free := z.free + 1 }

theorem execFrameReceived_some (hport : port < 2) (hlen : fr.length ≤ 9216) (h : addDesc d (portAt s port).rx = b :: r) :
    exec (.frameReceived port fr d) s = .next
      (if portBuf s (portDesc b).1 (portDesc b).2 = false ∨ ((portDesc b).2 < fr.length ∧ Config.freeBool s.free = true)
       then putPort port { portAt s port with rx := r, drop := (portAt s port).drop + 1 } (tookDesc port r s)
       else netPut whoXd [(own s (portDesc b).1, (fr.take (portDesc b).2).length, 0)] (fr.take (portDesc b).2) (tookDesc port r s)) := by
  refine congrArg Host.Outcome.next ?_
  rw [if_neg (by omega)]
  dsimp only
  rw [h]
  rfl

theorem execFrameTransmit_some (hport : port < 2) (h : addDesc d (portAt s port).tx = b :: r) :
    exec (.frameTransmit port d) s = .next (putPort port { portAt s port with
      tx := r, sent := if portBuf s (portDesc b).1 (portDesc b).2 = true ∧ (portDesc b).2 ≤ 9216
        then (portAt s port).sent ++ [memBytes s.mem (own s (portDesc b).1) (portDesc b).2] else (portAt s port).sent } s) := by
  refine congrArg Host.Outcome.next ?_
  rw [if_neg (by omega)]
  dsimp only
  rw [h]

end Ports

/-! ### Package registers (25 R393) -/

theorem regWrite_quota {die : Nat} (hdie : die < 4) (v : Word) (s : State) : regWrite (0x1000 + 0x40 * die) v s =
    onCtl (fun c => { c with l2q := mset (wd (16 * 2 ^ 16)) c.l2q die (quotaWrite (l2quota s die) v) }) s := by
  have hindex : (0x1000 + 0x40 * die - 0x1000) / 0x40 = die := by omega
  rw [regWrite, if_neg (by omega), if_neg (by omega), if_pos (by omega), hindex]

theorem bitAt_low (w : Word) : bitAt (w &&& 0xFFFF) 15 = bitAt w 15 := by
  simp [bitAt]

/-- What a power window sets, of the estimate `p` and the budget `b` (25 R403). -/
theorem execPowerWindow_ctl {m v l c p b : Nat} {s : State} (hp : p = m + v + min l 150 + c) (hb : b = min (s.ctl.pcap - 360) 1440) :
    ∃ u, exec (.powerWindow m v l c) s = .next u ∧ fld u.ctl.pwr 31 20 = b ∧ fld u.ctl.pwr 43 32 = min p 4095 ∧
      u.ctl.tNow = throttleLevel p b (m + v) ∧ fld u.ctl.pwr 5 0 = (if s.ctl.forced = true then 63 else throttleLevel p b (m + v)) ∧
      u.core = s.core ∧ u.mem = s.mem := by
  have hest : m + v + (if l < 150 then l else 150) + c = p := by
    split <;> omega
  have hbud : (if s.ctl.pcap - 360 < 1440 then s.ctl.pcap - 360 else 1440) = b := by
    split <;> omega
  refine ⟨onCtl (fun c => setLevel { c with
    pwr := setFld (setFld (setFld c.pwr 43 32 (if p < 4096 then p else 4095)) 31 20 b) 8 8 (b2n (decide (150 < l))),
    tNow := throttleLevel p b (m + v) }) s, ?exec, ?budget, ?estimate, rfl, ?level, onCtl_core _ _, onCtl_mem _ _⟩
  case exec =>
    change execPowerWindow m v l c s = _
    dsimp only [execPowerWindow, onCtl]
    rw [hest, hbud]
  case level => exact setLevel_low (throttleLevel_lt p b (m + v))
  case budget =>
    refine (fld_setFld_above (by decide) (by decide) (by decide)).trans ?_
    dsimp only
    rw [fld_setFld_above (by decide) (by decide) (by decide), fld_setFld_self (by decide) (by decide), Nat.mod_eq_of_lt (by omega)]
  case estimate =>
    refine (fld_setFld_above (by decide) (by decide) (by decide)).trans ?_
    dsimp only
    rw [fld_setFld_above (by decide) (by decide) (by decide), fld_setFld_above (by decide) (by decide) (by decide),
      fld_setFld_self (by decide) (by decide)]
    split <;> omega

theorem regWrite_ccmd {w : Word} (hline : w.toNat % 64 = 0) (hown : w.toNat < 2 ^ 39) (s : State) :
    regWrite 0x4000 w s = onCtl (fun c => { c with ccmd := c.ccmd ++ [w.toNat] }) s := by
  rw [regWrite, if_neg (by decide), if_neg (by decide), if_neg (by decide), if_pos rfl, if_pos ⟨hline, hown⟩]

/-- RECOV stands, or no packet is in flight: PODCFG takes the value at once. -/
theorem regWrite_podcfg {w : Word} {s : State} (h : bitAt w 15 = bitAt s.ctl.podcfg 15 ∨ netQuiet s = true) :
    regWrite 0x0040 w s = onCtl (fun c => { c with podcfg := w &&& 0xFFFF, podNext := none }) s := by
  rw [regWrite, if_pos rfl, podWrite, bitAt_low]
  refine if_neg ?_
  rcases h with heq | hquiet
  · simp [heq]
  · simp [hquiet]

theorem quotaWrite_legal {w : Word} (h : fld w 3 0 + fld w 7 4 + fld w 11 8 ≤ 16) (old : Word) :
    quotaWrite old w = (w &&& 0xFFF) ||| wd ((16 - (fld w 3 0 + fld w 7 4 + fld w 11 8)) * 2 ^ 16) := if_neg (by omega)

/-- Settles O52: each step is its register, port or reset operation, whose fields the lemmas above read. -/
theorem powerResetAndRegisterSteps : Obligations.PowerResetAndRegisterSteps := by
  intro s m v l c t w fr d port die
  refine ⟨?power, ?junction, ?reset, fun hport => ?ports, fun hdie hways => ?quota, fun hlow hhigh => ?pcap, fun hdrained => ?podcfg,
    fun hline hown => ?command⟩
  case power =>
    intro p b lev hwork
    rw [show lev = _ from (throttleLevel_eq p b (m + v)).symm]
    exact execPowerWindow_ctl rfl rfl
  case junction =>
    intro hot level
    have hlevel : level (junction t s) := by
      obtain ⟨hforced, hlow, htemp, -, -⟩ := junction_ctl t s
      exact ⟨hforced, hlow, htemp, onCtl_core _ _, onCtl_others _ _, onCtl_mem _ _⟩
    have hhalted : (junction t s).ctl.halted = s.ctl.halted := rfl
    refine ⟨⟨_, rfl, hlevel, hhalted⟩, ⟨_, rfl, hlevel, hhalted⟩, ?trip⟩
    by_cases ht : t < 115
    · refine ⟨junction t s, execThermalTrip_cool ht s, hlevel, ?_, fun h => absurd h (by omega)⟩
      rw [hhalted, decide_eq_false (by omega), Bool.or_false]
    · obtain ⟨hforced, hlow, htemp, hcore, hothers, hmem⟩ := hlevel
      obtain ⟨hpwr, hhalt, hforce, hevents⟩ := tripped_ctl t s
      obtain ⟨tcore, tothers, tmem⟩ := tripped_frame t s
      refine ⟨tripped t s, execThermalTrip_hot ht s,
        ⟨hforce.trans hforced, ?_, ?_, tcore.trans hcore, tothers.trans hothers, tmem.trans hmem⟩, ?_, fun _ => ⟨?_, hevents⟩⟩
      · rw [hpwr, fld_setFld_below (by decide) (by decide) (by decide) (by decide), hlow]
      · exact ((congrArg (fld · 19 10) hpwr).trans (fld_setFld_above (by decide) (by decide) (by decide))).trans htemp
      · rw [hhalt, decide_eq_true (by omega), Bool.or_true]
      · rw [hpwr, fld_setFld_self (by decide) (by decide)]
        rfl
  case reset => exact ⟨_, rfl, rfl, rfl, rfl, rfl, rfl, rfl, rfl, rfl⟩
  case ports =>
    intro x
    refine ⟨fun hlen => ⟨fun hnone => execFrameReceived_none hport hlen hnone, fun b r hsome => ?takes⟩,
      fun b r hsome => execFrameTransmit_some hport hsome⟩
    intro z
    rw [execFrameReceived_some hport hlen hsome]
    refine ⟨fun hbuf hfits => ?_, fun hbuf => congrArg _ (if_pos (.inl hbuf))⟩
    have htaken : ¬ (portBuf s (portDesc b).1 (portDesc b).2 = false ∨ ((portDesc b).2 < fr.length ∧ Config.freeBool s.free = true)) := by
      rintro (h | h)
      · simp [hbuf] at h
      · omega
    rw [if_neg htaken, List.take_of_length_le hfits]
    rfl
  case quota =>
    refine ⟨onCtl (fun c => { c with l2q := mset (wd (16 * 2 ^ 16)) c.l2q die (quotaWrite (l2quota s die) w) }) s, ?_, ?_, rfl, rfl⟩
    · exact congrArg _ ((if_pos hdie).trans (regWrite_quota hdie w s))
    · rw [onCtl_ctl, quotaWrite_legal hways]
  case pcap => exact congrArg _ (regWrite_pcap hlow hhigh s)
  case podcfg => exact congrArg _ (regWrite_podcfg hdrained)
  case command => exact congrArg _ ((if_pos (by decide)).trans (regWrite_ccmd hline hown s))

end Sys2Proof.Proofs
end

section
/-!
PROOFS. Writes performed at their home (12 R228, R229, 23 R375): which bytes of device memory they change. A capture copies a granule
into its window's area, so that bytes outside the areas (`AreaClear`) stand; a line is then replaced under its mask.
-/
namespace Sys2Proof.Proofs
open Sys2Proof.Machine

/-! ### Numbers as bytes -/

section Bytes

theorem leNat_byte (bs : List Byte) (j : Nat) : BitVec.ofNat 8 (leNat bs / 2 ^ (8 * j)) = nth 0 bs j := by
  induction bs generalizing j with
  | nil => simp [leNat, nth]
  | cons b r ih =>
    cases j with
    | zero =>
      refine BitVec.eq_of_toNat_eq ?_
      have hb := b.isLt
      simp only [leNat, nth, Nat.mul_zero, pow_zero, Nat.div_one, BitVec.toNat_ofNat]
      omega
    | succ j =>
      have hb := b.isLt
      have hshift : leNat (b :: r) / 2 ^ (8 * (j + 1)) = leNat r / 2 ^ (8 * j) := by
        rw [Nat.mul_add, Nat.mul_one, Nat.add_comm, pow_add, ← Nat.div_div_eq_div_mul, leNat]
        congr 1
        omega
      rw [hshift, ih]
      rfl

theorem nth_map {α β : Type} (d : α) (e : β) (f : α → β) (xs : List α) {j : Nat} (h : j < xs.length) :
    nth e (xs.map f) j = f (nth d xs j) := by
  rw [nth_eq_getD, nth_eq_getD]
  simp [List.getD, h]

theorem nth_range {n j : Nat} (h : j < n) : nth 0 (List.range n) j = j := by
  rw [nth_eq_getD]
  simp [List.getD, h]

theorem nth_map_range {β : Type} (e : β) (f : Nat → β) {n j : Nat} (h : j < n) : nth e ((List.range n).map f) j = f j := by
  rw [nth_map 0 e f _ (by simpa using h), nth_range h]

/-- A byte of a number read from memory. -/
theorem memNat_byte (m : SMap Byte) (a : Nat) {n j : Nat} (h : j < n) :
    BitVec.ofNat 8 (memNat m a n / 2 ^ (8 * j)) = memByte m (a + j) := by
  rw [memNat, leNat_byte, memBytes, nth_map_range _ _ h]

theorem leBytes_length (n x : Nat) : (leBytes n x).length = n := by
  induction n generalizing x with
  | zero => rfl
  | succ n ih => rw [leBytes, List.length_cons, ih]

theorem memBytes_congr {m m' : SMap Byte} {a n : Nat} (h : ∀ x, a ≤ x → x < a + n → memByte m x = memByte m' x) :
    memBytes m a n = memBytes m' a n :=
  List.map_congr_left fun i hi => h _ (Nat.le_add_right a i) (Nat.add_lt_add_left (List.mem_range.mp hi) a)

end Bytes

/-! ### Captures (12 R228) -/

/-- The bytes of a capture area: its index, and its data slots. -/
def CapArea.has (s : State) (ar : CapArea) (x : Nat) : Prop :=
  own s ar.base ≤ x ∧ x < own s ar.base + cdiv (8 * ar.n) 4096 * 4096 + 4096 * ar.n

/-- Byte `x` lies in no capture area; in no measurement area either, where `meas`. -/
def AreaClear (s : State) (meas : Bool) (x : Nat) : Prop :=
  (∀ p ∈ s.ctl.caps, ¬ CapArea.has s p.2 x) ∧ (meas = true → ∀ p ∈ s.ctl.meas, ¬ CapArea.has s p.2 x)

theorem mem_of_mfind? {α : Type} {m : SMap α} {k : Nat} {v : α} (h : mfind? m k = some v) : (k, v) ∈ m := by
  induction m with
  | nil => simp [mfind?] at h
  | cons p r ih =>
    by_cases hp : p.1 = k
    · simp only [mfind?, hp, if_true, Option.some.injEq] at h
      subst hp h
      exact List.mem_cons_self
    · simp only [mfind?, hp, if_false] at h
      exact List.mem_cons_of_mem _ (ih h)

theorem memByte_foldl_mset {f : Nat × Byte → Nat} {x : Nat} (ps : List (Nat × Byte)) (m : SMap Byte) (h : ∀ p ∈ ps, x ≠ f p) :
    memByte (ps.foldl (fun m p => mset 0 m (f p) p.2) m) x = memByte m x := by
  induction ps generalizing m with
  | nil => rfl
  | cons p r ih =>
    rw [List.foldl_cons, ih _ fun q hq => h q (List.mem_cons_of_mem _ hq)]
    exact memByte_mset_ne m p.2 (h p List.mem_cons_self)

theorem memByte_filter_key (p : Nat → Bool) (m : SMap Byte) {x : Nat} (h : p x = true) :
    memByte (m.filter (fun q => p q.1)) x = memByte m x := by
  unfold memByte
  induction m with
  | nil => rfl
  | cons q r ih =>
    by_cases hq : p q.1 = true
    · simp only [List.filter_cons, hq, if_true, mget, ih]
    · have hx : q.1 ≠ x := fun he => hq (he ▸ h)
      simp only [List.filter_cons, hq, mget, hx, if_false]
      exact ih

/-- A copy changes bytes of its destination only. -/
theorem memByte_memCopy {a b n x : Nat} (m : SMap Byte) (h : x < b ∨ b + n ≤ x) : memByte (memCopy a b n m) x = memByte m x := by
  unfold memCopy
  rw [memByte_foldl_mset (f := fun p => p.1 - a + b)]
  · exact memByte_filter_key (fun k => !decide (b ≤ k ∧ k < b + n)) m (by simp; omega)
  · intro p hp
    simp only [List.mem_filter, decide_eq_true_eq] at hp
    omega

theorem le_cdiv_mul (a : Nat) {b : Nat} (hb : 0 < b) : a ≤ cdiv a b * b := by
  have h1 := Nat.div_add_mod (a + b - 1) b
  have h2 := Nat.mod_lt (a + b - 1) hb
  rw [Nat.mul_comm] at h1
  unfold cdiv
  omega

theorem memByte_captureAt {ar : CapArea} {slot x : Nat} (team gran : Nat) {s : State} (hslot : slot < ar.n) (h : ¬ CapArea.has s ar x) :
    memByte (captureAt ar team slot gran s).mem x = memByte s.mem x := by
  have hindex := le_cdiv_mul (8 * ar.n) (b := 4096) (by decide)
  unfold CapArea.has at h
  unfold captureAt
  dsimp only [own, CapArea.data, l2Drop, onHome] at h ⊢
  rw [memByte_memPut, if_neg (by rw [leBytes_length]; omega), memByte_memCopy _ (by omega)]

theorem memByte_captureIn {wins : SMap Win} {area : Option CapArea} {x : Nat} (team gran : Nat) (put : SMap Win → HomeSt → HomeSt)
    {s : State} (h : ∀ ar, area = some ar → ¬ CapArea.has s ar x) :
    memByte (captureIn wins area team gran put s).mem x = memByte s.mem x := by
  unfold captureIn
  dsimp only
  split
  · rfl
  · split
    · rfl
    · next ar => 
      split
      · next hslot => exact memByte_captureAt team gran hslot (h ar rfl)
      · rfl

/-- From `s` to `t` the capture areas, the package's number and the distributor stand. -/
structure AreasStand (s t : State) : Prop where
  pkgNum : t.ctl.pkgNum = s.ctl.pkgNum
  caps : t.ctl.caps = s.ctl.caps
  meas : t.ctl.meas = s.ctl.meas
  dist : t.dist = s.dist

section AreasStand
variable {s t u : State}

/-- A change of none of those parts. -/
theorem AreasStand.of_eq (pkgNum : t.ctl.pkgNum = s.ctl.pkgNum := by rfl) (caps : t.ctl.caps = s.ctl.caps := by rfl)
    (meas : t.ctl.meas = s.ctl.meas := by rfl) (dist : t.dist = s.dist := by rfl) : AreasStand s t := ⟨pkgNum, caps, meas, dist⟩

theorem AreasStand.trans (h : AreasStand s t) (k : AreasStand t u) : AreasStand s u :=
  ⟨k.pkgNum.trans h.pkgNum, k.caps.trans h.caps, k.meas.trans h.meas, k.dist.trans h.dist⟩

theorem AreasStand.areaClear (h : AreasStand s t) {b : Bool} {x : Nat} (hx : AreaClear s b x) : AreaClear t b x := by
  have hhas : ∀ ar, CapArea.has t ar x ↔ CapArea.has s ar x := fun ar => by simp only [CapArea.has, own, h.pkgNum]
  refine ⟨fun p hp => (hhas _).not.mpr (hx.1 p (h.caps ▸ hp)), fun hb p hp => (hhas _).not.mpr (hx.2 hb p (h.meas ▸ hp))⟩

theorem AreasStand.inLog_eq (h : AreasStand s t) (a : Nat) : inLog t a = inLog s a := by rw [inLog, inLog, h.dist]

theorem captureAt_eq (ar : CapArea) (team slot gran : Nat) (s : State) :
    ∃ m h, captureAt ar team slot gran s = { s with mem := m, home := h } := ⟨_, _, rfl⟩

/-- A capture changes memory, the homes and the events sent. -/
theorem captureIn_eq (wins : SMap Win) (area : Option CapArea) (team gran : Nat) (put : SMap Win → HomeSt → HomeSt) (s : State) :
    ∃ m h e, captureIn wins area team gran put s = { s with mem := m, home := h, ctl := { s.ctl with events := e } } := by
  unfold captureIn
  dsimp only
  split
  · exact ⟨_, _, _, rfl⟩
  · split
    · exact ⟨_, _, _, rfl⟩
    · split
      · obtain ⟨m, h, hat⟩ := captureAt_eq _ team _ gran (onHome _ s)
        exact ⟨m, h, s.ctl.events, by rw [hat]; rfl⟩
      · exact ⟨_, _, _, rfl⟩

theorem areasStand_captureIn (wins : SMap Win) (area : Option CapArea) (team gran : Nat) (put : SMap Win → HomeSt → HomeSt) :
    AreasStand s (captureIn wins area team gran put s) := by
  obtain ⟨m, h, e, heq⟩ := captureIn_eq wins area team gran put s
  rw [heq]
  exact .of_eq

theorem areasStand_capture (w : Who) (a : Nat) : AreasStand s (capture w a s) := by
  unfold capture
  split
  · exact .of_eq
  · dsimp only
    split
    · exact (areasStand_captureIn _ _ _ _ _).trans (areasStand_captureIn _ _ _ _ _)
    · exact areasStand_captureIn _ _ _ _ _

end AreasStand

theorem memByte_capture {w : Who} {s : State} {x : Nat} (h : AreaClear s w.meas x) (a : Nat) :
    memByte (capture w a s).mem x = memByte s.mem x := by
  have hareas : ∀ {m : SMap CapArea} {k : Nat} {t : State}, (∀ p ∈ m, ¬ CapArea.has t p.2 x) →
      ∀ ar, mfind? m k = some ar → ¬ CapArea.has t ar x := fun hm ar har => hm _ (mem_of_mfind? har)
  unfold capture
  split
  · rfl
  · dsimp only
    have hfirst := fun k gran put team => memByte_captureIn (wins := s.home.wins) (area := mfind? s.ctl.caps k) team gran put (hareas h.1)
    split
    · next hmeas =>
      have hstand := areasStand_captureIn (s := s) s.home.wins
      refine (memByte_captureIn _ _ _ (hareas fun p hp => ?_)).trans (hfirst _ _ _ _)
      rw [(hstand _ _ _ _).meas] at hp
      exact ((hstand _ _ _ _).areaClear h).2 hmeas p ((hstand _ _ _ _).meas ▸ hp)
    · exact hfirst _ _ _ _

/-! ### Writes of a line (23 R375) -/

/-- The bits and values that a home lets a write of a line have. -/
def homeBits (s : State) (a mask val : Nat) : Nat × Nat :=
  if isOwn s a then (roMask s a mask, rzVal s a val) else (mask, val)

section HomeWrite
variable {w : Who} {l2 : Bool} {a mask val x : Nat} {s : State}

theorem mem_l2Touch (w : Who) (wr : Bool) (a : Nat) (s : State) : (l2Touch w wr a s).mem = s.mem := by
  unfold l2Touch
  split
  · dsimp only
    split
    · rw [onCoreAt_mem]; rfl
    · rfl
  · rfl

theorem areasStand_l2Touch (w : Who) (wr : Bool) (a : Nat) (s : State) : AreasStand s (l2Touch w wr a s) := by
  unfold l2Touch
  split
  · dsimp only
    split
    · exact ⟨by rw [onCoreAt_ctl]; rfl, by rw [onCoreAt_ctl]; rfl, by rw [onCoreAt_ctl]; rfl, by rw [onCoreAt_dist]; rfl⟩
    · exact .of_eq
  · exact .of_eq

theorem areasStand_homeWrite (w : Who) (l2 : Bool) (a mask val : Nat) (s : State) : AreasStand s (homeWrite w l2 a mask val s) := by
  unfold homeWrite
  split
  · dsimp only
    have hl2 : AreasStand s (if l2 = true then l2Touch w true a (capture w a s) else capture w a s) := by
      split
      · exact (areasStand_capture w a).trans (areasStand_l2Touch _ _ _ _)
      · exact areasStand_capture w a
    split
    · exact hl2.trans .of_eq
    · exact hl2.trans .of_eq
  · exact .of_eq

/-- A byte after a write of a line: in the line its unmasked bits stand, and every byte outside the line and the areas stands. -/
theorem memByte_homeWrite (h : AreaClear s w.meas x) : memByte (homeWrite w l2 a mask val s).mem x =
    if a ≤ x ∧ x < a + 64 then mergeBits (memByte s.mem x) (BitVec.ofNat 8 ((homeBits s a mask val).1 / 2 ^ (8 * (x - a))))
      (BitVec.ofNat 8 ((homeBits s a mask val).2 / 2 ^ (8 * (x - a)))) else memByte s.mem x := by
  have hcaptured := memByte_capture h a
  unfold homeWrite homeBits
  split
  · have htouched : memByte (if l2 = true then l2Touch w true a (capture w a s) else capture w a s).mem x = memByte s.mem x := by
      split
      · rw [mem_l2Touch, hcaptured]
      · exact hcaptured
    dsimp only
    split
    · rw [memByte_memMasked, ← htouched]; rfl
    · rw [memByte_memMasked, ← htouched]
  · exact memByte_memMasked a mask val x s.mem

theorem memByte_homeWrite_outside (h : AreaClear s w.meas x) (hx : x < a ∨ a + 64 ≤ x) :
    memByte (homeWrite w l2 a mask val s).mem x = memByte s.mem x := by
  rw [memByte_homeWrite h, if_neg (by omega)]

/-- The mask of a whole line, byte by byte. -/
theorem fullMask_byte {j : Nat} (h : j < 64) : BitVec.ofNat 8 ((2 ^ 512 - 1) / 2 ^ (8 * j)) = BitVec.allOnes 8 := by
  refine BitVec.eq_of_getLsbD_eq fun i hi => ?_
  rw [BitVec.getLsbD_ofNat, Nat.testBit_div_two_pow, Nat.testBit_two_pow_sub_one, BitVec.getLsbD_allOnes]
  simp only [hi, decide_true, Bool.true_and, decide_eq_true_eq]
  omega

/-- A whole line that lies in no log block takes the value written. -/
theorem memByte_homeWrite_full (h : AreaClear s w.meas x) (hx : a ≤ x) (hlt : x < a + 64) (hlog : inLog s a = false) :
    memByte (homeWrite w l2 a (2 ^ 512 - 1) val s).mem x = BitVec.ofNat 8 (val / 2 ^ (8 * (x - a))) := by
  have hbits : homeBits s a (2 ^ 512 - 1) val = (2 ^ 512 - 1, val) := by
    unfold homeBits roMask rzVal
    rw [hlog]
    split <;> rfl
  rw [memByte_homeWrite h, if_pos ⟨hx, hlt⟩, hbits, mergeBits, fullMask_byte (by omega), BitVec.not_allOnes, BitVec.and_zero,
    BitVec.zero_or, BitVec.and_allOnes]

end HomeWrite

end Sys2Proof.Proofs
end

section
/-!
PROOFS. Counters and measurement passes (24 R384–R388). MEND writes every captured granule back from its slot: `memByte_restoreCaps` and
`memByte_restoreWins` say which bytes that changes and to what, and `PassStand` what it leaves alone.
-/
namespace Sys2Proof.Proofs
open Sys2Proof.Machine Sys2Proof.Claims

/-! ### What a restoration leaves alone -/

/-- From `s` to `t` the core in focus, the areas and the captures of passes stand. -/
structure PassStand (s t : State) : Prop where
  core : t.core = s.core
  areas : AreasStand s t
  mwins : t.home.mwins = s.home.mwins

section PassStand
variable {s t u : State}

theorem PassStand.refl (s : State) : PassStand s s := ⟨rfl, .of_eq, rfl⟩

theorem PassStand.trans (h : PassStand s t) (k : PassStand t u) : PassStand s u :=
  ⟨k.core.trans h.core, h.areas.trans k.areas, k.mwins.trans h.mwins⟩

theorem passStand_setMem (m : SMap Byte) (s : State) : PassStand s { s with mem := m } := ⟨rfl, .of_eq, rfl⟩

theorem passStand_l2Drop (a n : Nat) (s : State) : PassStand s (l2Drop a n s) := ⟨rfl, .of_eq, rfl⟩

theorem passStand_foldl {α : Type} {f : State → α → State} (hf : ∀ s a, PassStand s (f s a)) (xs : List α) (s : State) :
    PassStand s (xs.foldl f s) := by
  induction xs generalizing s with
  | nil => exact .refl s
  | cons a r ih => exact (hf s a).trans (ih _)

/-- A capture changes of the homes the captures of its own kind and what the L2 holds. -/
theorem view_captureIn {α : Type} {view : HomeSt → α} (hl2 : ∀ h m, view { h with l2 := m } = view h) {put : SMap Win → HomeSt → HomeSt}
    (hput : ∀ m h, view (put m h) = view h) (wins : SMap Win) (area : Option CapArea) (team gran : Nat) (s : State) :
    view (captureIn wins area team gran put s).home = view s.home := by
  have hcaptured : ∀ ar slot u, ∃ m, captureAt ar team slot gran u = { l2Drop gran 4096 u with mem := m } := fun _ _ _ => ⟨_, rfl⟩
  unfold captureIn
  dsimp only
  split
  · rfl
  · split
    · exact hput _ _
    · split
      · obtain ⟨m, hm⟩ := hcaptured _ _ (onHome _ s)
        rw [hm]
        exact (hl2 _ _).trans (hput _ _)
      · exact hput _ _

/-- A write that counts for no pass. -/
theorem passStand_homeWrite {w : Who} (hmeas : w.meas = false) (a mask val : Nat) (s : State) :
    PassStand s (homeWrite w false a mask val s) := by
  refine ⟨?core, areasStand_homeWrite w false a mask val s, ?mwins⟩
  case core => rw [coresStand_homeWrite w a mask val s]
  case mwins =>
    have hcapture : (capture w a s).home.mwins = s.home.mwins := by
      unfold capture
      split
      · rfl
      · dsimp only
        rw [hmeas, if_neg Bool.false_ne_true]
        exact view_captureIn (view := HomeSt.mwins) (fun _ _ => rfl) (put := fun m h => { h with wins := m }) (fun _ _ => rfl) _ _ _ _ s
    unfold homeWrite
    split
    · dsimp only [Bool.false_eq_true, if_false]
      split
      · exact hcapture
      · exact hcapture
    · rfl

theorem passStand_clearIdx (area : Option CapArea) (caps : List (Nat × Nat)) (s : State) : PassStand s (clearIdx area caps s) := by
  obtain ⟨m, hm⟩ := clearIdx_eq area caps s
  rw [hm]
  exact passStand_setMem m s

theorem passStand_copyBack {w : Who} (hmeas : w.meas = false) (ar : CapArea) (gran slot : Nat) (s : State) :
    PassStand s (copyBack w ar gran slot s) :=
  (passStand_l2Drop gran 4096 s).trans (passStand_foldl (fun s _ => passStand_homeWrite hmeas _ _ _ s) _ _)

end PassStand

/-! ### A granule copied back (24 R388) -/

section Granule
variable {w : Who} {gran x : Nat} {s : State}

/-- The first `n` lines of a granule written, line `l` with value `v l`. -/
def putLines (w : Who) (gran : Nat) (v : Nat → Nat) (n : Nat) (s : State) : State :=
  (List.range n).foldl (fun s l => homeWrite w false (gran + 64 * l) (2 ^ 512 - 1) (v l) s) s

theorem putLines_succ (w : Who) (gran : Nat) (v : Nat → Nat) (n : Nat) (s : State) :
    putLines w gran v (n + 1) s = homeWrite w false (gran + 64 * n) (2 ^ 512 - 1) (v n) (putLines w gran v n s) := by
  rw [putLines, List.range_succ, List.foldl_append]
  rfl

theorem areasStand_putLines (v : Nat → Nat) (n : Nat) : AreasStand s (putLines w gran v n s) := by
  induction n with
  | zero => exact .of_eq
  | succ n ih =>
    rw [putLines_succ]
    exact ih.trans (areasStand_homeWrite _ _ _ _ _ _)

theorem memByte_putLines_outside (h : AreaClear s w.meas x) (v : Nat → Nat) {n : Nat} (hx : x < gran ∨ gran + 64 * n ≤ x) :
    memByte (putLines w gran v n s).mem x = memByte s.mem x := by
  induction n with
  | zero => rfl
  | succ n ih =>
    rw [putLines_succ, memByte_homeWrite_outside ((areasStand_putLines v n).areaClear h) (by omega), ih (by omega)]

theorem memByte_putLines (h : AreaClear s w.meas x) (v : Nat → Nat) {n l : Nat} (hl : l < n) (hx : gran + 64 * l ≤ x)
    (hlt : x < gran + 64 * l + 64) (hlog : inLog s (gran + 64 * l) = false) :
    memByte (putLines w gran v n s).mem x = BitVec.ofNat 8 (v l / 2 ^ (8 * (x - (gran + 64 * l)))) := by
  induction n with
  | zero => omega
  | succ n ih =>
    have hstand := areasStand_putLines (w := w) (gran := gran) (s := s) v n
    rw [putLines_succ]
    by_cases hn : l = n
    · subst hn
      exact memByte_homeWrite_full (hstand.areaClear h) hx hlt ((hstand.inLog_eq _).trans hlog)
    · rw [memByte_homeWrite_outside (hstand.areaClear h) (by omega), ih (by omega)]

theorem copyBack_eq (w : Who) (ar : CapArea) (gran slot : Nat) (s : State) : copyBack w ar gran slot s =
    putLines w gran (nth 0 ((List.range 64).map (fun l => memNat s.mem (own s (ar.data + 4096 * slot) + 64 * l) 64))) 64
      (l2Drop gran 4096 s) := rfl

theorem memByte_copyBack_outside (h : AreaClear s w.meas x) (ar : CapArea) (slot : Nat) (hx : x < gran ∨ gran + 4096 ≤ x) :
    memByte (copyBack w ar gran slot s).mem x = memByte s.mem x := by
  rw [copyBack_eq]
  exact memByte_putLines_outside (s := l2Drop gran 4096 s) h _ hx

/-- A byte of a granule takes the byte of its slot. -/
theorem memByte_copyBack {i : Nat} (h : AreaClear s w.meas (gran + i)) (ar : CapArea) (slot : Nat) (hgran : gran % 4096 = 0) (hi : i < 4096)
    (hlog : inLog s (lineOf (gran + i)) = false) :
    memByte (copyBack w ar gran slot s).mem (gran + i) = memByte s.mem (own s (ar.data + 4096 * slot) + i) := by
  have hline : lineOf (gran + i) = gran + 64 * (i / 64) := by unfold lineOf; omega
  have hoff : gran + i - (gran + 64 * (i / 64)) = i % 64 := by omega
  have hsrc : own s (ar.data + 4096 * slot) + 64 * (i / 64) + i % 64 = own s (ar.data + 4096 * slot) + i := by omega
  rw [copyBack_eq, memByte_putLines (s := l2Drop gran 4096 s) (l := i / 64) h _ (by omega) (by omega) (by omega) (hline ▸ hlog), hoff,
    nth_map_range _ _ (by omega), memNat_byte _ _ (Nat.mod_lt i (by decide)), hsrc]

end Granule

/-! ### The captures of a window copied back -/

section Caps
variable {w : Who} {ar : CapArea} {caps : List (Nat × Nat)} {x : Nat} {s : State}

/-- Every captured granule copied back. -/
def restoreCaps (w : Who) (ar : CapArea) (caps : List (Nat × Nat)) (s : State) : State :=
  caps.foldl (fun s c => copyBack w ar c.1 c.2 s) s

theorem passStand_restoreCaps (hmeas : w.meas = false) (ar : CapArea) (caps : List (Nat × Nat)) (s : State) :
    PassStand s (restoreCaps w ar caps s) := passStand_foldl (fun s _ => passStand_copyBack hmeas ar _ _ s) caps s

theorem memByte_restoreCaps_outside (hmeas : w.meas = false) (h : AreaClear s w.meas x) (hx : ∀ c ∈ caps, x < c.1 ∨ c.1 + 4096 ≤ x) :
    memByte (restoreCaps w ar caps s).mem x = memByte s.mem x := by
  induction caps generalizing s with
  | nil => rfl
  | cons c r ih =>
    have hstand := (passStand_copyBack hmeas ar c.1 c.2 s).areas
    exact (ih (hstand.areaClear h) fun c' hc' => hx c' (List.mem_cons_of_mem c hc')).trans
      (memByte_copyBack_outside h ar c.2 (hx c List.mem_cons_self))

/-- A byte of one captured granule only takes the byte of its slot, where no granule covers that. -/
theorem memByte_restoreCaps (hmeas : w.meas = false) {c : Nat × Nat} {i : Nat} (hc : c ∈ caps) (hgran : c.1 % 4096 = 0) (hi : i < 4096)
    (hx : AreaClear s w.meas (c.1 + i)) (hsrc : AreaClear s w.meas (own s (ar.data + 4096 * c.2) + i))
    (hlog : inLog s (lineOf (c.1 + i)) = false)
    (hone : ∀ c' ∈ caps, (c'.1 ≤ c.1 + i → c.1 + i < c'.1 + 4096 → c' = c) ∧
      (own s (ar.data + 4096 * c.2) + i < c'.1 ∨ c'.1 + 4096 ≤ own s (ar.data + 4096 * c.2) + i)) :
    memByte (restoreCaps w ar caps s).mem (c.1 + i) = memByte s.mem (own s (ar.data + 4096 * c.2) + i) := by
  induction caps generalizing s with
  | nil => exact absurd hc List.not_mem_nil
  | cons c0 r ih =>
    have hstand := (passStand_copyBack hmeas ar c0.1 c0.2 s).areas
    have hown : own (copyBack w ar c0.1 c0.2 s) (ar.data + 4096 * c.2) = own s (ar.data + 4096 * c.2) := by rw [own, hstand.pkgNum, own]
    have hrest := fun c' hc' => hone c' (List.mem_cons_of_mem c0 hc')
    by_cases hcr : c ∈ r
    · have hr := ih hcr (hstand.areaClear hx)
      rw [hown] at hr
      refine (hr (hstand.areaClear hsrc) ((hstand.inLog_eq _).trans hlog) hrest).trans ?_
      exact memByte_copyBack_outside hsrc ar c0.2 (hone c0 List.mem_cons_self).2
    · obtain rfl : c = c0 := (List.mem_cons.mp hc).resolve_right hcr
      refine (memByte_restoreCaps_outside (s := copyBack w ar c.1 c.2 s) hmeas (hstand.areaClear hx) fun c' hc' => ?_).trans
        (memByte_copyBack hx ar c.2 hgran hi hlog)
      by_contra hin
      obtain ⟨hlo, hhi⟩ := not_or.mp hin
      have hsame := (hrest c' hc').1 (by omega) (by omega)
      exact hcr (hsame ▸ hc')

end Caps

/-! ### Every window's captures copied back -/

theorem memByte_clearIdx {ar : CapArea} {caps : List (Nat × Nat)} {x : Nat} {s : State}
    (h : ∀ c ∈ caps, x < own s (ar.base + 8 * c.2) ∨ own s (ar.base + 8 * c.2) + 8 ≤ x) :
    memByte (clearIdx (some ar) caps s).mem x = memByte s.mem x := by
  unfold clearIdx
  dsimp only
  induction caps generalizing s with
  | nil => rfl
  | cons c r ih =>
    refine (ih (s := { s with mem := memPut (leBytes 8 0) (own s (ar.base + 8 * c.2)) s.mem })
      fun c' hc' => h c' (List.mem_cons_of_mem c hc')).trans ?_
    have hout := h c List.mem_cons_self
    rw [memByte_memPut, if_neg (by rw [leBytes_length]; omega)]

section Wins
variable {w : Who} {t : Nat} {ws : List (Nat × Win)} {x : Nat} {s : State}

/-- The area of a stack for team `t`'s passes. -/
def passArea (t : Nat) (s : State) (k : Nat) : Option CapArea := mfind? s.ctl.meas (areaKey (teamAsid s t) k)

/-- One window's granules copied back and its index entries made invalid. -/
def restoreWin (w : Who) (t : Nat) (p : Nat × Win) (s : State) : State :=
  match passArea t s p.1 with
  | none => s
  | some ar => clearIdx (some ar) p.2.caps (restoreCaps w ar p.2.caps s)

theorem restoreWin_of_area {p : Nat × Win} {ar : CapArea} (h : passArea t s p.1 = some ar) (w : Who) :
    restoreWin w t p s = clearIdx (some ar) p.2.caps (restoreCaps w ar p.2.caps s) := by rw [restoreWin, h]

theorem restoreWin_of_none {p : Nat × Win} (h : passArea t s p.1 = none) (w : Who) : restoreWin w t p s = s := by rw [restoreWin, h]

theorem passStand_restoreWin (hmeas : w.meas = false) (t : Nat) (p : Nat × Win) (s : State) : PassStand s (restoreWin w t p s) := by
  unfold restoreWin
  split
  · exact .refl s
  · exact (passStand_restoreCaps hmeas _ _ s).trans (passStand_clearIdx _ _ _)

theorem AreasStand.passArea_eq {u : State} (h : AreasStand s u) (k : Nat) : passArea t u k = passArea t s k := by
  rw [passArea, passArea, teamAsid, teamAsid, h.dist, h.meas]

/-- Byte `x` is in no capture area and no index entry of a capture of the windows. -/
def PassClear (t : Nat) (ws : List (Nat × Win)) (s : State) (x : Nat) : Prop :=
  AreaClear s false x ∧ ∀ p ∈ ws, ∀ c ∈ p.2.caps, ∀ ar, passArea t s p.1 = some ar →
    x < own s (ar.base + 8 * c.2) ∨ own s (ar.base + 8 * c.2) + 8 ≤ x

theorem AreasStand.passClear {u : State} (h : AreasStand s u) {x : Nat} (hx : PassClear t ws s x) : PassClear t ws u x := by
  have hown : ∀ a, own u a = own s a := fun a => by rw [own, own, h.pkgNum]
  refine ⟨h.areaClear hx.1, fun p hp c hc ar har => ?_⟩
  rw [hown]
  exact hx.2 p hp c hc ar ((h.passArea_eq _).symm.trans har)

theorem PassClear.tail {p : Nat × Win} {r : List (Nat × Win)} (h : PassClear t (p :: r) s x) : PassClear t r s x :=
  ⟨h.1, fun q hq => h.2 q (List.mem_cons_of_mem p hq)⟩

theorem memByte_restoreWin_outside (hmeas : w.meas = false) {p : Nat × Win} {r : List (Nat × Win)} (h : PassClear t (p :: r) s x)
    (hx : ∀ c ∈ p.2.caps, x < c.1 ∨ c.1 + 4096 ≤ x) : memByte (restoreWin w t p s).mem x = memByte s.mem x := by
  cases harea : passArea t s p.1 with
  | none => rw [restoreWin_of_none harea]
  | some ar =>
    have hstand := (passStand_restoreCaps hmeas ar p.2.caps s).areas
    have hcaps : memByte (restoreCaps w ar p.2.caps s).mem x = memByte s.mem x :=
      memByte_restoreCaps_outside hmeas (hmeas ▸ h.1) hx
    rw [restoreWin_of_area harea, memByte_clearIdx fun c hc => ?_, hcaps]
    rw [own, hstand.pkgNum]
    exact h.2 p List.mem_cons_self c hc ar harea

theorem memByte_restoreWins_outside (hmeas : w.meas = false) (h : PassClear t ws s x)
    (hx : ∀ p ∈ ws, ∀ c ∈ p.2.caps, x < c.1 ∨ c.1 + 4096 ≤ x) :
    memByte (ws.foldl (fun s p => restoreWin w t p s) s).mem x = memByte s.mem x := by
  induction ws generalizing s with
  | nil => rfl
  | cons p r ih =>
    have hstand := (passStand_restoreWin hmeas t p s).areas
    exact (ih (hstand.passClear h.tail) fun q hq => hx q (List.mem_cons_of_mem p hq)).trans
      (memByte_restoreWin_outside hmeas h (hx p List.mem_cons_self))

/-- A byte of one captured granule only takes the byte of its slot. -/
theorem memByte_restoreWins (hmeas : w.meas = false) {p : Nat × Win} {c : Nat × Nat} {ar : CapArea} {i : Nat} (hp : p ∈ ws)
    (hc : c ∈ p.2.caps) (harea : passArea t s p.1 = some ar) (hgran : c.1 % 4096 = 0) (hi : i < 4096)
    (hone : ∀ p' ∈ ws, ∀ c' ∈ p'.2.caps, (c'.1 ≤ c.1 + i → c.1 + i < c'.1 + 4096 → p' = p ∧ c' = c) ∧
      (own s (ar.data + 4096 * c.2) + i < c'.1 ∨ c'.1 + 4096 ≤ own s (ar.data + 4096 * c.2) + i))
    (hlog : inLog s (lineOf (c.1 + i)) = false) (hx : PassClear t ws s (c.1 + i))
    (hsrc : PassClear t ws s (own s (ar.data + 4096 * c.2) + i)) :
    memByte (ws.foldl (fun s p => restoreWin w t p s) s).mem (c.1 + i) = memByte s.mem (own s (ar.data + 4096 * c.2) + i) := by
  induction ws generalizing s with
  | nil => exact absurd hp List.not_mem_nil
  | cons p0 r ih =>
    have hstand := (passStand_restoreWin hmeas t p0 s).areas
    have hown : own (restoreWin w t p0 s) (ar.data + 4096 * c.2) = own s (ar.data + 4096 * c.2) := by rw [own, hstand.pkgNum, own]
    have hrest := fun p' hp' => hone p' (List.mem_cons_of_mem p0 hp')
    by_cases hpr : p ∈ r
    · have hr := ih hpr ((hstand.passArea_eq _).trans harea)
      rw [hown] at hr
      refine (hr hrest ((hstand.inLog_eq _).trans hlog) (hstand.passClear hx.tail) (hstand.passClear hsrc.tail)).trans ?_
      exact memByte_restoreWin_outside hmeas hsrc fun c' hc' => (hone p0 List.mem_cons_self c' hc').2
    · obtain rfl : p = p0 := (List.mem_cons.mp hp).resolve_right hpr
      have hafter : memByte (r.foldl (fun s p => restoreWin w t p s) (restoreWin w t p s)).mem (c.1 + i) =
          memByte (restoreWin w t p s).mem (c.1 + i) := by
        refine memByte_restoreWins_outside hmeas (hstand.passClear hx.tail) fun p' hp' c' hc' => ?_
        by_contra hin
        obtain ⟨hlo, hhi⟩ := not_or.mp hin
        obtain ⟨hsame, -⟩ := (hrest p' hp' c' hc').1 (by omega) (by omega)
        exact hpr (hsame ▸ hp')
      have hcaps : memByte (restoreCaps w ar p.2.caps s).mem (c.1 + i) = memByte s.mem (own s (ar.data + 4096 * c.2) + i) :=
        memByte_restoreCaps hmeas hc hgran hi (hmeas ▸ hx.1) (hmeas ▸ hsrc.1) hlog fun c' hc' =>
          ⟨fun hlo hhi => ((hone p List.mem_cons_self c' hc').1 hlo hhi).2, (hone p List.mem_cons_self c' hc').2⟩
      refine hafter.trans ?_
      rw [restoreWin_of_area harea, memByte_clearIdx fun c' hc' => ?_, hcaps]
      rw [own, (passStand_restoreCaps hmeas ar p.2.caps s).areas.pkgNum]
      exact hx.2 p List.mem_cons_self c' hc' ar harea

end Wins

end Sys2Proof.Proofs
end

section
/-!
PROOFS. Measurement passes (24 R384–R388): a pass opened, and ended with its captures copied back.
-/
namespace Sys2Proof.Proofs
open Sys2Proof.Machine Sys2Proof.Claims

section Pass
variable {g n d a t : Nat} {s : State}

/-- A counter's issued write changes no scalar register that PMZ reads. -/
theorem foldl_emitIf_reads (e : Nat → Land) (xs : List Nat) (t : State) (h : rdS t a = rdS s a) :
    xs.foldl (fun t i => if bitAt (rdS t a) i then emit 1 (e i) t else t) t =
      xs.foldl (fun t i => if bitAt (rdS s a) i then emit 1 (e i) t else t) t := by
  induction xs generalizing t with
  | nil => rfl
  | cons i r ih =>
    rw [List.foldl_cons, List.foldl_cons, h, ih]
    split
    · exact h
    · exact h

theorem whenQuiet_of_quiet (f : State → State) (h : quiet (drain s).core = true) : whenQuiet f s = f (drain s) := if_pos h

theorem sumTo_nth_map {α : Type} (x : α) (f : α → Nat) (xs : List α) : sumTo xs.length (fun i => f (nth x xs i)) = (xs.map f).sum := by
  have hsum : ∀ (ys : List Nat) (b : Nat), ys.foldl (fun b i => b + i) b = b + ys.sum := fun ys => by
    induction ys with
    | nil => intro b; rfl
    | cons y r ih => intro b; rw [List.foldl_cons, ih, List.sum_cons, Nat.add_assoc]
  have hmap : (List.range xs.length).map (fun i => f (nth x xs i)) = xs.map f := by
    rw [← congrArg (List.map f) (map_nth_range x xs), List.map_map]
    rfl
  have h := hsum ((List.range xs.length).map (fun i => f (nth x xs i))) 0
  rw [List.foldl_map, hmap, Nat.zero_add] at h
  exact h

/-! ### The status of MBEGIN -/

theorem beginStatus_of_open (h : s.core.pm.open_ = true) : beginStatus s t = 1 := if_pos h

theorem beginStatus_of_none (hopen : s.core.pm.open_ = false) {k : Nat} (hk : k < 8) (h : passArea t s k = none) : beginStatus s t = 2 := by
  have hany : (List.range 8).any (fun k => (passArea t s k).isNone) = true :=
    List.any_eq_true.mpr ⟨k, List.mem_range.mpr hk, by rw [h]; rfl⟩
  rw [beginStatus, if_neg (ne_true_of_eq_false hopen)]
  exact if_pos hany

theorem beginStatus_of_areas (hopen : s.core.pm.open_ = false) (h : ∀ k, k < 8 → passArea t s k ≠ none) :
    beginStatus s t = if (passWins s t).isEmpty then 0 else 5 := by
  have hany : ¬ (List.range 8).any (fun k => (passArea t s k).isNone) = true := fun hn => by
    obtain ⟨k, hk, hnone⟩ := List.any_eq_true.mp hn
    exact h k (List.mem_range.mp hk) (Option.isNone_iff_eq_none.mp hnone)
  rw [beginStatus, if_neg (ne_true_of_eq_false hopen)]
  exact if_neg hany

theorem execMbegin_quiet (hg : guardOk g n s = true) (hok : passOk s = true) (hquiet : quiet (drain s).core = true) (ha : (rdS s a).toNat < 2)
    {k : Nat} (hk : beginStatus (drain s) (teamNum (drain s).core) = k) : exec (.mbegin g n d a) s = .next (emit 1 (.s d (wd k))
      (if k = 0 then openPass (teamNum (drain s).core) (bitAt (rdS (drain s) a) 0) (drain s) else drain s)) := by
  have hlegal : ¬ (!passOk s || decide ((rdS s a).toNat / 2 ≠ 0)) = true := by
    rw [hok, Nat.div_eq_of_lt ha]
    decide
  subst hk
  exact (slotDo_of_guard hg).trans (congrArg _ ((if_neg hlegal).trans (whenQuiet_of_quiet _ hquiet)))

/-- The pass of the core in focus is open, before its counters are set to count. -/
theorem openPass_eq (t : Nat) (ref : Bool) (s : State) : openPass t ref s = (List.range 4).foldl (fun u i =>
    emit 1 (.sr (0x034 + i) (srNext u (0x034 + i) ||| 0x100#64)) (emit 1 (.sr (0x030 + i) 0) u))
    { s with
      core := { s.core with pm := { s.core.pm with open_ := true, refp := ref, cph := 0 } }
      home := { s.home with mwins := (List.range 8).foldl (fun m k => mput m (winKey t k) ⟨[], false, [], 0, [], []⟩) s.home.mwins } } := rfl

/-! ### The end of a pass -/

/-- Whether the hash of the pass in focus becomes the reference. -/
def hashIsNew (p : PmSt) : Bool := decide (p.refp = true ∨ p.ref_ = none)

theorem judgeHash_eq (s : State) : judgeHash s = (!hashIsNew s.core.pm && decide (s.core.pm.ref_ ≠ some s.core.pm.cph),
    onPm (fun p => { p with ref_ := if hashIsNew s.core.pm then some s.core.pm.cph else s.core.pm.ref_ }) s) := by
  unfold judgeHash hashIsNew
  dsimp only
  split
  case h_1 r hr =>
    cases hp : s.core.pm.refp with
    | true => simp [onPm, onCore]
    | false =>
      have hsame : onPm (fun p => { p with ref_ := some r }) s = s := by rw [← hr]; rfl
      simp [hr, hsame]
  case h_2 hr => simp [hr, onPm, onCore]

/-- The core after the hash is judged and the pass closed. -/
def closePass (s : State) : State :=
  onPm (fun p => { p with open_ := false, refp := false }) (judgeHash (stopCounting s)).2

/-- Every window of the list copied back, from a state whose pass windows are gone. -/
def restoreWins (t : Nat) (s : State) : State :=
  (passWins s t).foldl (fun u p => restoreWin { whoCore s.core 0 with team := some t, meas := false } t p u) (dropPassWins t s)

/-- The lines that the pass of a team marked are dropped. -/
def dropMarked (t : Nat) (s : State) : State := onHome (fun h => { h with l2 := h.l2.filterMap (fun p =>
  match p.2.filter (fun l => !l.mark.contains t) with | [] => none | ls => some (p.1, ls)) }) s

theorem restorePass_eq (t : Nat) (s : State) : restorePass t s =
    ((((passWins s t).map (fun p => p.2.caps.length)).sum, (passWins s t).any (fun p => p.2.broken)),
      onCm (fun c => { c with tlb := [] }) (rcClear (restoreWins t (dropMarked t s)))) := by
  rw [← sumTo_nth_map (0, Win.new)]
  rfl

/-- The state once the pass of the core in focus is ended and restored. -/
def endedPass (s : State) : State :=
  let y := closePass s
  onCm (fun c => { c with tlb := [] }) (rcClear (restoreWins (teamNum y.core) (dropMarked (teamNum y.core) y)))

theorem closePass_eq (s : State) : closePass s = onPm (fun p => { p with
    open_ := false
    refp := false
    ref_ := if hashIsNew p then some p.cph else p.ref_
    sel := (List.range 4).foldl (fun m i => mset 0 m i (mget 0 m i &&& ~~~0x100#64)) p.sel }) s := by
  rw [closePass, judgeHash_eq]
  rfl

theorem passWins_closePass (s : State) : passWins (closePass s) (teamNum (closePass s).core) = passWins s (teamNum s.core) := by
  rw [closePass_eq]
  rfl

theorem judgeHash_stopCounting (s : State) :
    (judgeHash (stopCounting s)).1 = (!hashIsNew s.core.pm && decide (s.core.pm.ref_ ≠ some s.core.pm.cph)) := by
  rw [judgeHash_eq]
  rfl

theorem execMend_open (hg : guardOk g n s = true) (hok : passOk s = true) (hquiet : quiet (drain s).core = true)
    (hopen : (drain s).core.pm.open_ = true) :
    let z := drain s
    let ws := passWins z (teamNum z.core)
    let bad := !hashIsNew z.core.pm && decide (z.core.pm.ref_ ≠ some z.core.pm.cph)
    exec (.mend g n d) s = .next (emit 1 (.s d (wd ((if ws.any (fun p => p.2.broken) then 4 else 0) + 2 ^ 8 * b2n bad +
      2 ^ 32 * (ws.map (fun p => p.2.caps.length)).sum))) (endedPass z)) := by
  have hend : ¬ (!passOk s) = true := by rw [hok]; decide
  refine (slotDo_of_guard hg).trans (congrArg _ ((if_neg hend).trans ((whenQuiet_of_quiet _ hquiet).trans ?_)))
  generalize drain s = z at hopen ⊢
  dsimp only
  rw [hopen, if_neg (by decide), ← passWins_closePass, ← judgeHash_stopCounting, restorePass_eq]
  rfl

/-- A pass closed, its windows gone and none of its lines cached, before the captures are copied back. -/
def droppedPass (s : State) : State := dropPassWins (teamNum s.core) (dropMarked (teamNum s.core) (closePass s))

theorem endedPass_eq (s : State) : endedPass s = onCm (fun c => { c with tlb := [] }) (rcClear
    ((passWins s (teamNum s.core)).foldl
      (fun u p => restoreWin { whoCore (closePass s).core 0 with team := some (teamNum s.core), meas := false } (teamNum s.core) p u)
      (droppedPass s))) := by
  rw [endedPass, droppedPass, closePass_eq]
  rfl

theorem core_droppedPass (s : State) : (droppedPass s).core = { s.core with pm := { s.core.pm with
    open_ := false
    refp := false
    ref_ := if hashIsNew s.core.pm then some s.core.pm.cph else s.core.pm.ref_
    sel := (List.range 4).foldl (fun m i => mset 0 m i (mget 0 m i &&& ~~~0x100#64)) s.core.pm.sel } } := by
  rw [droppedPass, closePass_eq]
  rfl

theorem areasStand_droppedPass (s : State) : AreasStand s (droppedPass s) := by
  rw [droppedPass, closePass_eq]
  exact .of_eq

theorem mem_droppedPass (s : State) : (droppedPass s).mem = s.mem := by
  rw [droppedPass, closePass_eq]
  rfl

theorem mfind?_mwins_droppedPass (s : State) (k : Nat) :
    mfind? (droppedPass s).home.mwins k = if k / 8 = teamNum s.core then none else mfind? s.home.mwins k := by
  have hfilter := mfind?_filter_key (fun k => decide (k / 8 ≠ teamNum s.core)) s.home.mwins k
  rw [droppedPass, closePass_eq]
  refine hfilter.trans ?_
  by_cases hk : k / 8 = teamNum s.core <;> simp [hk]

end Pass

/-- The windows of a pass are clear as the statement lays them out, where they are for the restoration. -/
theorem passClear_restore {z : State} {t x : Nat} {ws : List (Nat × Win)} (h : Claims.passClear z ws (passArea t z) x) : PassClear t ws z x := by
  obtain ⟨hcaps, hindex⟩ := h
  refine ⟨⟨fun p hp hin => ?_, fun hn => absurd hn Bool.false_ne_true⟩, hindex⟩
  exact List.any_eq_false.mp hcaps p hp (decide_eq_true hin)

/-- Settles O44: a counter's form is its writes; MBEGIN and MEND wait for nothing, and MEND's restoration goes window by window. -/
theorem counterForms : Obligations.CounterForms := by
  intro s g n d a hg
  refine ⟨slotDo_of_guard hg, (slotDo_of_guard hg).trans (congrArg _ (foldl_emitIf_reads (fun i => .sr (0x030 + i) 0) _ s rfl)),
    slotDo_of_guard hg, fun hexp hpl hctl => ?_⟩
  intro z team area ws pm hquiet
  have hok : passOk s = true := by rw [passOk, hexp, hpl, hctl]; rfl
  refine ⟨fun ha => ⟨fun hopen => ?opened, fun hopen hnone => ?noArea, fun hopen hareas hws => ?other, fun hopen hareas hws => ?begun⟩,
    fun hopen => ?closed, fun hopen => ?ended⟩
  case opened => exact execMbegin_quiet hg hok hquiet ha (beginStatus_of_open hopen)
  case noArea =>
    obtain ⟨k, hk, hnone⟩ := hnone
    exact execMbegin_quiet hg hok hquiet ha (beginStatus_of_none hopen hk hnone)
  case other =>
    exact execMbegin_quiet hg hok hquiet ha ((beginStatus_of_areas hopen hareas).trans (if_neg fun hn => hws (List.isEmpty_iff.mp hn)))
  case begun =>
    rw [execMbegin_quiet hg hok hquiet ha ((beginStatus_of_areas hopen hareas).trans (if_pos (List.isEmpty_iff.mpr hws))), if_pos rfl,
      openPass_eq]
    rfl
  case closed =>
    refine (slotDo_of_guard hg).trans (congrArg _ ?_)
    dsimp only
    rw [hok, if_neg (by decide), whenQuiet_of_quiet _ hquiet]
    exact if_pos (by rw [hopen]; rfl)
  case ended =>
    let w : Who := { whoCore (closePass z).core 0 with team := some team, meas := false }
    obtain ⟨r, hdef⟩ : ∃ r, r = ws.foldl (fun u p => restoreWin w team p u) (droppedPass z) := ⟨_, rfl⟩
    have hr : PassStand (droppedPass z) r := hdef ▸ passStand_foldl (fun u p => passStand_restoreWin rfl team p u) ws _
    have hcore := hr.core.trans (core_droppedPass z)
    have hareas := areasStand_droppedPass z
    have hy : endedPass z = onCm (fun c => { c with tlb := [] }) (rcClear r) := hdef ▸ endedPass_eq z
    have hmem : (onCm (fun c => { c with tlb := [] }) (rcClear r)).mem = r.mem := rfl
    have hwins : (onCm (fun c => { c with tlb := [] }) (rcClear r)).home.mwins = (droppedPass z).home.mwins := hr.mwins
    have hycore : (onCm (fun c => { c with tlb := [] }) (rcClear r)).core = { r.core with cm := { r.core.cm with rc := [], tlb := [] } } := rfl
    refine ⟨endedPass z, execMend_open hg hok hquiet hopen, ?_⟩
    rw [hy, hmem, hwins, hycore, hcore, hdef]
    refine ⟨rfl, rfl, rfl, rfl, rfl, rfl, rfl, rfl, fun k => ?wins, fun x hx hout => ?outside, fun p hp c hc ar i har hgran hi => ?captured⟩
    case wins => exact mfind?_mwins_droppedPass z k
    case outside =>
      exact (memByte_restoreWins_outside rfl (hareas.passClear (passClear_restore hx)) hout).trans
        (congrArg (memByte · x) (mem_droppedPass z))
    case captured =>
      intro x src hone hlog hx hsrc
      have hown : own (droppedPass z) (ar.data + 4096 * c.2) = own z (ar.data + 4096 * c.2) := by rw [own, own, hareas.pkgNum]
      have harea : passArea team (droppedPass z) p.1 = some ar := (hareas.passArea_eq p.1).trans har
      have hbyte := memByte_restoreWins (w := w) rfl hp hc harea hgran hi
      rw [hown] at hbyte
      exact (hbyte hone ((hareas.inLog_eq _).trans hlog) (hareas.passClear (passClear_restore hx))
        (hareas.passClear (passClear_restore hsrc))).trans (congrArg (memByte · src) (mem_droppedPass z))

end Sys2Proof.Proofs
end

section
/-!
PROOFS. Queues (14 R254–R258): the queue an instruction of the own package reaches, and the line it reads or writes.
-/
namespace Sys2Proof.Proofs
open Sys2Proof.Machine Sys2Proof.Claims

section Queue
variable {s : State} {x : Queue} {h : Hnd}

/-- The queue a handle names admits the core in focus. -/
structure QueueHere (s : State) (h : Hnd) (x : Queue) : Prop where
  found : mfind? s.home.queues h.key = some x
  live : x.live = true
  hgen : x.hgen = h.hgen
  admits : s.core.x.pl = true ∨ fld s.core.x.ttb 63 52 = x.asid

theorem QueueHere.qFind_eq (hq : QueueHere s h x) : qFind s (askerOf s.core) h = .inl x := by
  obtain ⟨hfound, hlive, hgen, hadmits⟩ := hq
  have hmine : (!s.core.x.pl && decide (fld s.core.x.ttb 63 52 ≠ x.asid)) = false := by
    rcases hadmits with hpl | hasid
    · simp [hpl]
    · simp [hasid]
  simp only [qFind, hfound, hlive, hgen, Bool.not_true, ne_eq, not_true, decide_false, Bool.or_false, Bool.false_eq_true, if_false]
  exact if_neg (ne_true_of_eq_false hmine)

theorem QueueHere.of_onIss (hq : QueueHere s h x) (f : Iss → Iss) : QueueHere (onIss f s) h x := ⟨hq.found, hq.live, hq.hgen, hq.admits⟩

theorem QueueHere.qPush_eq (hq : QueueHere s h x) (e : List Byte) (hroom : x.ents.length < x.cap) : qPush (askerOf s.core) h e s =
    (qOK, putQueue h.key (if x.waits.any (fun y => y.due.isNone) then { x with waits := handTo e x.waits }
      else { x with ents := x.ents ++ [e] }) s) := by
  simp only [qPush, hq.qFind_eq, Nat.not_le.mpr hroom, if_false]
  split <;> rfl

theorem QueueHere.qPop_cons (hq : QueueHere s h x) {z : List Byte} {zs : List (List Byte)} (hents : x.ents = z :: zs) :
    qPop (askerOf s.core) h s = (qOK, z, putQueue h.key { x with ents := zs } s) := by
  simp only [qPop, hq.qFind_eq, hents]

theorem QueueHere.qPop_nil (hq : QueueHere s h x) (hents : x.ents = []) : qPop (askerOf s.core) h s = (qEMPTY, [], s) := by
  simp only [qPop, hq.qFind_eq, hents]

/-- A line of the own A-buffer that may be written, and that no pending value reads, is taken in the issue cycle. -/
theorem ownPlace_at_once {ea : Word} (hline : ownLineFault true ea 64 s = none)
    (hphase : spadFault s 0 true ea 64 [(0, 64)] = none)
    (hhaz : hazardAt s.core 1 (ea.toNat % 2 ^ 20) (ea.toNat % 2 ^ 20 + 64) = none) (f : SpRef → State → State) :
    ownPlace true ea 64 (spadGo 0 true ea 64 [(0, 64)] none) f s =
      f { ea := ea, key := s.focus, buf := 1, off := ea.toNat % 2 ^ 20, own := true, q := 0 } s := by
  obtain ⟨hbuf, hnamed⟩ := ownLineFault_none hline
  have hpf := phaseFault_of_spadFault hnamed hphase
  rw [ownPlace, if_neg (Decidable.not_not.mpr hbuf), hpf]
  dsimp only
  rw [spadGo, hpf, spRef_own hbuf]
  simp only [hnamed, Bool.not_true, Bool.or_self, Bool.false_eq_true, if_false, coreAt_focus, List.map_cons, List.map_nil, Nat.add_zero,
    hhaz, leastOpt, List.foldl_cons, List.foldl_nil, spadPort, corePort, portOf, one_ne_zero, OfNat.one_ne_ofNat, if_true, ite_self, hline]

/-- A push is done in the bundle that reads its line. -/
theorem QueueHere.execQpush_eq {g n d q r : Nat} (hq : QueueHere s h x) (hh : h = hndOf (rdS s q)) (hg : guardOk g n s = true)
    (hfree : portsFree s) (hok : h.ok = true) (hpkg : h.pkg = s.ctl.pkgNum) (hline : ownLineFault false (rdA s r) 64 s = none)
    (hphase : spadFault s 0 false (rdA s r) 64 [(0, 64)] = none) (hroom : x.ents.length < x.cap) :
    ∃ k, let line := spadBytes s.core 1 ((rdA s r).toNat % 2 ^ 20) 64
      exec (.qpush g n d q r) s = .next (retStatus d 0 (cntEv 0x23 1 (putQueue h.key
        (if x.waits.any (fun y => y.due.isNone) then { x with waits := handTo line x.waits } else { x with ents := x.ents ++ [line] })
        (onIss (tookPort 1 64 k) s)))) := by
  subst hh
  let h := hndOf (rdS s q)
  obtain ⟨k, hread⟩ := ownLine_reads hfree (by decide) hline hphase (fun e s =>
    let pod := decide (h.pkg ≠ s.ctl.pkgNum)
    releaseAt pod (fun s =>
      if pod then remoteAsk h.pkg 0 16 (rdS s q).toNat (meBytes s.core ++ e) 0 (fun st s => retStatus d (st % 256) (cntEv 0x23 1 s)) s
      else
        let (st, s) := qPush (askerOf s.core) h e s
        retStatus d st (cntEv 0x23 1 s)) s)
  refine ⟨k, (slotDo_of_guard hg).trans (congrArg _ ((if_neg (by rw [hok]; decide)).trans (hread.trans ?_)))⟩
  have hpod : decide (h.pkg ≠ (onIss (tookPort 1 64 k) s).ctl.pkgNum) = false := decide_eq_false (Decidable.not_not.mpr hpkg)
  dsimp only
  rw [releaseAt, hpod, if_neg Bool.false_ne_true, if_neg Bool.false_ne_true, (hq.of_onIss _).qPush_eq _ hroom]
  rfl

/-- What a pop leaves, and what it puts in line. -/
theorem popped_stands (s : State) (d key off : Nat) (z : List Byte) (x : Queue) :
    let u := retStatus d 0 (rcClear (emit 1 (.st 1 off 0 z) (cntEv 0x23 1 (putQueue key x s))))
    u.mem = s.mem ∧ u.core.sc = s.core.sc ∧ u.core.vec = s.core.vec ∧ u.core.x = s.core.x ∧ u.core.sp = s.core.sp ∧
      u.core.pend = (retStatus d 0 (emit 1 (.st 1 off 0 z) s)).core.pend :=
  ⟨rfl, rfl, rfl, rfl, rfl, retDev_pend_congr d (wd 0) (s := emit 1 (.st 1 off 0 z) s) rfl rfl rfl rfl rfl⟩

section Pop
variable {d q r : Nat} (hq : QueueHere s (hndOf (rdS s q)) x) (hok : (hndOf (rdS s q)).ok = true)
  (hpkg : (hndOf (rdS s q)).pkg = s.ctl.pkgNum) (hline : ownLineFault true (rdA s r) 64 s = none)
  (hphase : spadFault s 0 true (rdA s r) 64 [(0, 64)] = none)
  (hhaz : hazardAt s.core 1 ((rdA s r).toNat % 2 ^ 20) ((rdA s r).toNat % 2 ^ 20 + 64) = none)
include hq hok hpkg hline hphase hhaz

/-- The oldest entry is popped to its line. -/
theorem qpopDo_cons {z : List Byte} {zs : List (List Byte)} (hearly : s.core.iss.early = none) (hents : x.ents = z :: zs) (blk : Option Nat) :
    qpopDo blk d q r s = retStatus d 0 (rcClear (emit 1 (.st 1 ((rdA s r).toNat % 2 ^ 20) 0 z)
      (cntEv 0x23 1 (putQueue (hndOf (rdS s q)).key { x with ents := zs } s)))) := by
  obtain ⟨hbuf, -⟩ := ownLineFault_none hline
  refine (if_neg (by rw [hok]; decide)).trans ((ownPlace_at_once hline hphase hhaz _).trans ?_)
  dsimp only
  rw [if_neg (Decidable.not_not.mpr hpkg), hq.qPop_cons hents]
  refine (if_pos rfl).trans ?_
  rw [popLands, spRef_own hbuf]
  exact congrArg (fun u => retStatus d 0 (rcClear u))
    (spadStore_own (s := cntEv 0x23 1 (putQueue (hndOf (rdS s q)).key { x with ents := zs } s)) rfl hearly 0 z)

theorem qpopDo_empty (hents : x.ents = []) : qpopDo none d q r s = retStatus d 1 (cntEv 0x23 1 s) := by
  refine (if_neg (by rw [hok]; decide)).trans ((ownPlace_at_once hline hphase hhaz _).trans ?_)
  dsimp only
  rw [if_neg (Decidable.not_not.mpr hpkg), hq.qPop_nil hents]
  exact if_neg (show ¬ qEMPTY = qOK by decide)

/-- The core joins the waiters of an empty queue. -/
theorem qpopDo_waits {t : Nat} (hents : x.ents = []) (hfew : x.waits.length < 64) (hev : evRoom s.core = true) :
    qpopDo (some t) d q r s = retStatus d 5 (putQueue (hndOf (rdS s q)).key { x with
      waits := x.waits ++ [{ who := agentOf s.focus s.core, off := (rdA s r).toNat % 2 ^ 20, tag := t, due := none }] }
      (reserveEv (cntEv 0x23 1 s))) := by
  have hroom : ¬ (64 ≤ x.waits.length ∨ evRoom s.core = false) := fun h => h.elim (by omega) fun hn => by rw [hev] at hn; cases hn
  have hhome : mfind? (cntEv 0x23 1 s).home.queues (hndOf (rdS s q)).key = some x := hq.found
  refine (if_neg (by rw [hok]; decide)).trans ((ownPlace_at_once hline hphase hhaz _).trans ?_)
  dsimp only
  rw [if_neg (Decidable.not_not.mpr hpkg), hq.qPop_nil hents]
  refine (if_neg (show ¬ qEMPTY = qOK by decide)).trans ?_
  dsimp only
  rw [hhome]
  exact (if_neg (by decide)).trans ((if_neg hroom).trans rfl)

end Pop

end Queue

/-- Settles O31: the queue admits the core and the line passes, so a push or a pop is done at once. -/
theorem queueForms : Obligations.QueueForms := by
  intro s g n d q r t x hg hfree h ea hok hpkg hfound hlive hgen hadmits line done
  have hq : QueueHere s h x := ⟨hfound, hlive, hgen, hadmits⟩
  refine ⟨fun hline hphase hroom => ?push, fun hline hphase hhaz => ⟨fun z zs hents => ?taken, fun hents => ⟨?empty, fun hfew hev => ?waits⟩⟩⟩
  case push =>
    obtain ⟨k, hexec⟩ := hq.execQpush_eq rfl hg hfree hok hpkg hline hphase hroom
    refine ⟨fun hnone => ?_, fun hsome => ?_⟩
    · simp only [hnone, Bool.false_eq_true, if_false] at hexec
      exact ⟨_, hexec, mfind?_mput_self _ _ _, fun j hj => mfind?_mput_ne _ _ hj, rfl, rfl, rfl, rfl, rfl, rfl⟩
    · simp only [hsome, if_true] at hexec
      exact ⟨_, hexec, mfind?_mput_self _ _ _, fun j hj => mfind?_mput_ne _ _ hj, rfl, rfl, rfl, rfl, rfl, rfl⟩
  case taken =>
    have hdo := qpopDo_cons hq hok hpkg hline hphase hhaz hfree.2.1 hents (d := d)
    obtain ⟨hmem, hsc, hvec, hx, hsp, hpend⟩ := popped_stands s d h.key (ea.toNat % 2 ^ 20) z { x with ents := zs }
    exact ⟨⟨_, (slotDo_of_guard hg).trans (congrArg _ (hdo none)), mfind?_mput_self _ _ _, fun j hj => mfind?_mput_ne _ _ hj,
        hmem, hsc, hvec, hx, hsp, hpend⟩,
      ⟨_, (slotDo_of_guard hg).trans (congrArg _ (hdo (some t))), mfind?_mput_self _ _ _, fun j hj => mfind?_mput_ne _ _ hj,
        hmem, hsc, hvec, hx, hsp, hpend⟩⟩
  case empty =>
    exact ⟨_, (slotDo_of_guard hg).trans (congrArg _ (qpopDo_empty hq hok hpkg hline hphase hhaz hents)), hfound, fun k _ => rfl,
      rfl, rfl, rfl, rfl, rfl, rfl⟩
  case waits =>
    exact ⟨_, (slotDo_of_guard hg).trans (congrArg _ (qpopDo_waits hq hok hpkg hline hphase hhaz hents hfew hev)), mfind?_mput_self _ _ _,
      fun k hk => mfind?_mput_ne _ _ hk, rfl, rfl, rfl, rfl, rfl, rfl⟩

end Sys2Proof.Proofs
end

section
/-!
PROOFS. Synchronisation objects and FENCE (13 R230–R246). A translation changes caches only (`transCore_stands`); an object is found
where it was put (`objAt_putObj_self`); shadows published leave the objects and the registers (`UnitStands`).
-/
namespace Sys2Proof.Proofs
open Sys2Proof.Machine Sys2Proof.Claims Sys2Proof.Laws

/-! ### A translation leaves the bundle's bookkeeping -/

section Translation
variable {s t u : State}

theorem iss_onCoreAt {f : Core → Core} (hf : ∀ c, (f c).iss = c.iss) (k : Nat) (s : State) : (onCoreAt k f s).core.iss = s.core.iss := by
  unfold onCoreAt setCoreAt
  split
  case isTrue hk => rw [hk, coreAt_focus]; exact hf _
  case isFalse => rfl

theorem iss_pmAdd (e n : Nat) (c : Core) : (pmAdd e n c).iss = c.iss := by
  obtain ⟨m, hm⟩ := pmAdd_eq e n c
  rw [hm]

theorem iss_l2Touch (w : Who) (wr : Bool) (a : Nat) (s : State) : (l2Touch w wr a s).core.iss = s.core.iss := by
  unfold l2Touch
  split
  · dsimp only
    split
    · exact iss_onCoreAt (iss_pmAdd _ 1) _ _
    · rfl
  · rfl

theorem iss_reads (w : Who) (f : Nat → State → Nat) (as : List Nat) (s : State) :
    (as.foldl (fun u a => l2Touch w false (f a u) u) s).core.iss = s.core.iss := by
  induction as generalizing s with
  | nil => rfl
  | cons a r ih => exact (ih _).trans (iss_l2Touch w false _ s)

theorem iss_useWalk (d a v : Nat) (s : State) : (useWalk d a v s).core.iss = s.core.iss := by
  unfold useWalk
  split <;> rfl

theorem iss_fillCore (b : Bool) (k : Nat) (x : TlbE) (s : State) : (fillCore b k x s).core.iss = s.core.iss := by
  unfold fillCore
  split
  · exact iss_onCoreAt (f := fun c => { c with cm := { c.cm with tlb := lruPut 64 x c.cm.tlb x.same } }) (fun _ => rfl) k s
  · rfl

theorem iss_freshWalk (key : Nat) (ttb : Word) (b user : Bool) (k : Acq) (va : Word) (s : State) :
    (freshWalk key ttb b user k va s).2.core.iss = s.core.iss := by
  have hreads := fun d a v as => (iss_reads whoWalker (fun a u => own u a) as (useWalk d a v s)).trans (iss_useWalk d a v s)
  unfold freshWalk
  dsimp only
  split
  · exact hreads ..
  · split
    · exact (iss_fillCore ..).trans (hreads ..)
    · exact hreads ..

theorem iss_transCore (k : Acq) (va : Word) (s : State) : (transCore k va s).2.core.iss = s.core.iss := by
  unfold transCore Machine.translate
  simp only [if_true]
  split
  · rfl
  · split
    · exact iss_fillCore ..
    · split
      · exact (iss_fillCore ..).trans (iss_onCoreAt (iss_pmAdd _ 1) _ _)
      · exact (iss_freshWalk ..).trans ((iss_onCoreAt (f := fun c => pmAdd 0x2D 1 (pmAdd 0x2C 1 c))
          (fun c => (iss_pmAdd _ 1 _).trans (iss_pmAdd _ 1 c)) _ _).trans (iss_onCoreAt (iss_pmAdd _ 1) _ _))

/-- `t` is `s` but for what caches hold and what counters count. -/
structure CachesOnly (s t : State) : Prop where
  caches : onlyCaches s t
  iss : t.core.iss = s.core.iss

theorem CachesOnly.trans (h : CachesOnly s t) (k : CachesOnly t u) : CachesOnly s u := ⟨caches_trans h.caches k.caches, k.iss.trans h.iss⟩

theorem CachesOnly.eq (h : CachesOnly s t) : t = { s with
    core := { s.core with cm := { s.core.cm with rc := t.core.cm.rc, tlb := t.core.cm.tlb }, pm := { s.core.pm with pmc := t.core.pm.pmc } }
    home := { s.home with l2 := t.home.l2, quad := t.home.quad, walk := t.home.walk }
    free := t.free } := by
  obtain ⟨hcaches, hiss⟩ := h
  unfold onlyCaches at hcaches
  rwa [hiss] at hcaches

theorem CachesOnly.focus_eq (h : CachesOnly s t) : t.focus = s.focus := caches_focus h.caches
theorem CachesOnly.mem_eq (h : CachesOnly s t) : t.mem = s.mem := by rw [h.eq]
theorem CachesOnly.dist_eq (h : CachesOnly s t) : t.dist = s.dist := by rw [h.eq]
theorem CachesOnly.grp_eq (h : CachesOnly s t) : t.grp = s.grp := by rw [h.eq]
theorem CachesOnly.net_eq (h : CachesOnly s t) : t.net = s.net := by rw [h.eq]
theorem CachesOnly.ctl_eq (h : CachesOnly s t) : t.ctl = s.ctl := by rw [h.eq]
theorem CachesOnly.objs_eq (h : CachesOnly s t) : t.home.objs = s.home.objs := by rw [h.eq]

theorem CachesOnly.task_eq (h : CachesOnly s t) : t.core.task = s.core.task := by rw [h.eq]

theorem CachesOnly.sameRegs (h : CachesOnly s t) : sameRegs s t s.core.pend := by
  rw [h.eq]
  exact ⟨rfl, rfl, rfl, rfl, rfl, rfl, rfl, rfl, rfl, rfl, rfl, rfl, rfl⟩

/-- A result put in line after a translation. -/
theorem CachesOnly.pend_eq (h : CachesOnly s t) (d : Nat) (x : Word) : (retDev d x t).core.pend = (retDev d x s).core.pend := by
  rw [h.eq]
  exact retDev_pend_congr d x rfl rfl rfl rfl rfl

theorem cachesOnly_transCore (k : Acq) (va : Word) (s : State) : CachesOnly s (transCore k va s).2 :=
  ⟨caches_transCore k va s, iss_transCore k va s⟩

theorem cachesOnly_of_atHome {k : Acq} {va : Word} {n a e : Nat} (h : atHome k va n a e s u) : CachesOnly s u := by
  obtain ⟨-, htrans, -, -⟩ := h
  have hcaches := cachesOnly_transCore k va s
  rwa [htrans] at hcaches

theorem cachesOnly_bindPages (k va len : Nat) (ps : List (Nat × Nat)) (pin : Bool) (s : State) :
    CachesOnly s (bindPages k va len ps pin s).2 := by
  induction k generalizing va len ps pin s with
  | zero => exact ⟨rfl, rfl⟩
  | succ k ih =>
    have hcaches := cachesOnly_transCore .wr (wd va) s
    unfold bindPages
    split
    · exact ⟨rfl, rfl⟩
    · split
      case h_1 htrans => rwa [htrans] at hcaches
      case h_2 htrans =>
        rw [htrans] at hcaches
        split
        · exact hcaches
        · split
          · exact hcaches
          · exact hcaches.trans (ih _ _ _ _ _)

end Translation

/-! ### Objects of the own package -/

section Objects
variable {s t u : State} {o : Obj} {l : Nat}

theorem objAt_congr (h : t.home.objs = s.home.objs) (l : Nat) : objAt t l = objAt s l := by rw [objAt, objAt, h]

theorem line_of_objAt (h : objAt s l = some o) : o.line = l := by
  have hfound := List.find?_some h
  simpa using hfound

theorem objAt_putObj_self (o : Obj) (s : State) : objAt (putObj o s) o.line = some o := by
  unfold objAt putObj onHome
  dsimp only
  by_cases hany : s.home.objs.any (fun x => decide (x.line = o.line)) = true
  · have hfun : (fun y : Obj => decide (y.line = o.line)) ∘ (fun x => if x.line = o.line then o else x) =
        fun x => decide (x.line = o.line) := by
      funext x
      by_cases hx : x.line = o.line <;> simp [hx]
    rw [if_pos hany, List.find?_map, hfun]
    cases hfind : s.home.objs.find? (fun x => decide (x.line = o.line)) with
    | none =>
      rw [List.find?_eq_none] at hfind
      obtain ⟨x, hx, hline⟩ := List.any_eq_true.mp hany
      exact absurd hline (hfind x hx)
    | some x =>
      have hx : x.line = o.line := by simpa using List.find?_some hfind
      rw [Option.map_some, if_pos hx]
  · have hnone : s.home.objs.find? (fun x => decide (x.line = o.line)) = none :=
      List.find?_eq_none.mpr fun x hx hline => hany (List.any_eq_true.mpr ⟨x, hx, hline⟩)
    rw [if_neg hany, List.find?_append, hnone]
    simp

theorem objAt_putObj_ne (h : l ≠ o.line) (s : State) : objAt (putObj o s) l = objAt s l := by
  unfold objAt putObj onHome
  dsimp only
  split
  · have hfun : (fun y : Obj => decide (y.line = l)) ∘ (fun x => if x.line = o.line then o else x) = fun x => decide (x.line = l) := by
      funext x
      by_cases hx : x.line = o.line
      · simp [hx]
      · simp [hx]
    rw [List.find?_map, hfun]
    cases hfind : s.home.objs.find? (fun x => decide (x.line = l)) with
    | none => rfl
    | some x =>
      have hx : x.line = l := by simpa using List.find?_some hfind
      rw [Option.map_some, if_neg (by rw [hx]; exact h)]
  · rw [List.find?_append]
    simp [Ne.symm h]

theorem objAt_filter_self (s : State) (l : Nat) :
    objAt (onHome (fun h => { h with objs := h.objs.filter (fun x => decide (x.line ≠ l)) }) s) l = none := by
  unfold objAt onHome
  simp

theorem objAt_filter_ne (s : State) {k : Nat} (h : k ≠ l) :
    objAt (onHome (fun h => { h with objs := h.objs.filter (fun x => decide (x.line ≠ l)) }) s) k = objAt s k := by
  unfold objAt onHome
  dsimp only
  rw [List.find?_filter]
  congr 1
  funext x
  by_cases hx : x.line = k <;> simp [hx, h]

/-- The line of an object that may be used. -/
theorem objLine_of_atHome {va : Word} {e : Nat} (h : atHome .rd va 64 l e s u) (hret : retired u l = false) (f : Nat → Bool → State → State) :
    objLine va f s = f l (decide (e / 2 ^ 8 % 2 = 1)) u := by
  obtain ⟨halign, htrans, hreg, -⟩ := h
  simp only [objLine, halign, ne_eq, not_true, if_false, htrans, hreg, hret, Bool.false_eq_true]

end Objects

/-! ### What releases and bindings leave alone -/

/-- The core in focus is as in `s` but for its caches, its holdings and its counters, and so are distributor, groups and torus. -/
structure UnitStands (s t : State) : Prop where
  core : t.core = { s.core with cm := t.core.cm, pm := t.core.pm }
  dist : t.dist = s.dist
  grp : t.grp = s.grp
  net : t.net = s.net

/-- Besides, the holdings of the core, the objects and the queues stand. -/
structure HomeStands (s t : State) : Prop extends UnitStands s t where
  held : t.core.cm.held = s.core.cm.held
  objs : t.home.objs = s.home.objs
  queues : t.home.queues = s.home.queues

section Stands
variable {s t u : State}

theorem UnitStands.trans (h : UnitStands s t) (k : UnitStands t u) : UnitStands s u where
  core := by rw [k.core, h.core]
  dist := k.dist.trans h.dist
  grp := k.grp.trans h.grp
  net := k.net.trans h.net

theorem UnitStands.pend_eq (h : UnitStands s t) (d : Nat) (x : Word) : (retDev d x t).core.pend = (retDev d x s).core.pend := by
  have hcore := h.core
  exact retDev_pend_congr d x (by rw [hcore]) (by rw [hcore]) (by rw [hcore]) (by rw [hcore]) (by rw [hcore])

theorem UnitStands.sameRegs_retStatus (h : UnitStands s t) (d st : Nat) :
    sameRegs s (retStatus d st t) (retStatus d st s).core.pend := by
  have hpend := h.pend_eq d (wd st)
  have hcore := h.core
  refine ⟨?_, ?_, ?_, ?_, ?_, ?_, ?_, ?_, ?_, hpend, h.dist, h.grp, h.net⟩ <;> rw [retStatus] <;> simp <;> rw [hcore]

theorem HomeStands.refl (s : State) : HomeStands s s := ⟨⟨rfl, rfl, rfl, rfl⟩, rfl, rfl, rfl⟩

theorem HomeStands.trans (h : HomeStands s t) (k : HomeStands t u) : HomeStands s u :=
  ⟨h.toUnitStands.trans k.toUnitStands, k.held.trans h.held, k.objs.trans h.objs, k.queues.trans h.queues⟩

theorem CachesOnly.homeStands (h : CachesOnly s t) : HomeStands s t := by
  rw [h.eq]
  exact ⟨⟨rfl, rfl, rfl, rfl⟩, rfl, rfl, rfl⟩

theorem homeStands_count (k e n : Nat) (s : State) : HomeStands s (onCoreAt k (pmAdd e n) s) := by
  unfold onCoreAt setCoreAt
  split
  case isTrue hk =>
    rw [hk, coreAt_focus]
    obtain ⟨m, hm⟩ := pmAdd_eq e n s.core
    rw [hm]
    exact ⟨⟨rfl, rfl, rfl, rfl⟩, rfl, rfl, rfl⟩
  case isFalse => exact ⟨⟨rfl, rfl, rfl, rfl⟩, rfl, rfl, rfl⟩

theorem homeStands_l2Touch (w : Who) (wr : Bool) (a : Nat) (s : State) : HomeStands s (l2Touch w wr a s) := by
  unfold l2Touch
  split
  · dsimp only
    split
    · refine HomeStands.trans ?_ (homeStands_count _ _ _ _)
      exact ⟨⟨rfl, rfl, rfl, rfl⟩, rfl, rfl, rfl⟩
    · exact ⟨⟨rfl, rfl, rfl, rfl⟩, rfl, rfl, rfl⟩
  · exact .refl s

theorem homeStands_captureIn {put : SMap Win → HomeSt → HomeSt} (hput : ∀ m h, (put m h).objs = h.objs ∧ (put m h).queues = h.queues)
    (wins : SMap Win) (area : Option CapArea) (team gran : Nat) (s : State) : HomeStands s (captureIn wins area team gran put s) := by
  have hobjs := view_captureIn (view := HomeSt.objs) (fun _ _ => rfl) (fun m h => (hput m h).1) wins area team gran s
  have hqueues := view_captureIn (view := HomeSt.queues) (fun _ _ => rfl) (fun m h => (hput m h).2) wins area team gran s
  obtain ⟨m, h, e, heq⟩ := captureIn_eq wins area team gran put s
  rw [heq] at hobjs hqueues ⊢
  exact ⟨⟨rfl, rfl, rfl, rfl⟩, rfl, hobjs, hqueues⟩

theorem homeStands_capture (w : Who) (a : Nat) (s : State) : HomeStands s (capture w a s) := by
  have hwins : ∀ m (h : HomeSt), { h with wins := m }.objs = h.objs ∧ { h with wins := m }.queues = h.queues := fun _ _ => ⟨rfl, rfl⟩
  have hmwins : ∀ m (h : HomeSt), { h with mwins := m }.objs = h.objs ∧ { h with mwins := m }.queues = h.queues := fun _ _ => ⟨rfl, rfl⟩
  unfold capture
  split
  · exact .refl s
  · dsimp only
    split
    · exact (homeStands_captureIn hwins _ _ _ _ s).trans (homeStands_captureIn hmwins _ _ _ _ _)
    · exact homeStands_captureIn hwins _ _ _ _ s

theorem homeStands_homeWrite (w : Who) (l2 : Bool) (a mask val : Nat) (s : State) : HomeStands s (homeWrite w l2 a mask val s) := by
  have hmem : ∀ u m, HomeStands u { u with mem := m } := fun u m => ⟨⟨rfl, rfl, rfl, rfl⟩, rfl, rfl, rfl⟩
  have hdigest : ∀ m v u, HomeStands u (digestStep w a m v u) := fun m v u => ⟨⟨rfl, rfl, rfl, rfl⟩, rfl, rfl, rfl⟩
  have htouch : HomeStands s (if l2 = true then l2Touch w true a (capture w a s) else capture w a s) := by
    split
    · exact (homeStands_capture w a s).trans (homeStands_l2Touch ..)
    · exact homeStands_capture w a s
  unfold homeWrite
  split
  · dsimp only
    refine HomeStands.trans ?_ (hmem _ _)
    split
    · exact htouch.trans (hdigest ..)
    · exact htouch
  · exact hmem _ _

theorem homeStands_foldl {α : Type} {f : State → α → State} (hf : ∀ s a, HomeStands s (f s a)) (xs : List α) (s : State) :
    HomeStands s (xs.foldl f s) := by
  induction xs generalizing s with
  | nil => exact .refl s
  | cons a r ih => exact (hf s a).trans (ih _)

theorem homeStands_publish (p : Shadow → Bool) (meas : Bool) (s : State) : HomeStands s (publish p meas s) := by
  unfold publish
  dsimp only
  refine HomeStands.trans ?_ (homeStands_foldl (fun s x => homeStands_homeWrite _ _ _ _ _ s) _ _)
  exact ⟨⟨rfl, rfl, rfl, rfl⟩, rfl, rfl, rfl⟩

/-- The object put, the others stand and a status is issued. -/
theorem objAt_ret_putObj {o : Obj} {l : Nat} (hline : o.line = l) (h : HomeStands s u) (hunit : UnitStands u t)
    (hobjs : t.home.objs = (putObj o u).home.objs) (d st : Nat) :
    objAt (retStatus d st t) l = some o ∧ (∀ k, k ≠ l → objAt (retStatus d st t) k = objAt u k) ∧
      sameRegs s (retStatus d st t) (retStatus d st s).core.pend := by
  subst hline
  have hsame : ∀ k, objAt (retStatus d st t) k = objAt (putObj o u) k := fun k => objAt_congr hobjs k
  exact ⟨(hsame _).trans (objAt_putObj_self o u), fun k hk => (hsame k).trans (objAt_putObj_ne hk u),
    (h.toUnitStands.trans hunit).sameRegs_retStatus d st⟩

end Stands

/-! ### The forms -/

section Forms
variable {s u w : State} {g n d a b sc l e : Nat} {o : Obj}

/-- BIND once its range is translated. -/
theorem execBind_eq {ps : List (Nat × Nat)} (hg : guardOk g n s = true) (hhome : atHome .rd (rdA s a) 64 l e s u) (hret : retired u l = false)
    (hbase : (rdS s b).toNat % 64 = 0) (hmod : (rdS s (b + 1)).toNat % 64 = 0) (hmin : 64 ≤ (rdS s (b + 1)).toNat)
    (hmax : (rdS s (b + 1)).toNat ≤ 2 ^ 36)
    (hpages : bindPages ((rdS s (b + 1)).toNat / 2 ^ 16 + 2) (rdS s b).toNat (rdS s (b + 1)).toNat [] true u = (.inr (ps, true), w))
    (hown : ps.any (fun p => decide (pkgOf p.1 ≠ pkgOf l)) = false) : exec (.bind g n d a b sc) s =
      .next (bindAt l (decide (e / 2 ^ 8 % 2 = 1) && true) sc d (rdS s b) (rdS s (b + 1)).toNat ps w) := by
  have hw := cachesOnly_bindPages ((rdS s (b + 1)).toNat / 2 ^ 16 + 2) (rdS s b).toNat (rdS s (b + 1)).toNat [] true u
  rw [hpages] at hw
  obtain ⟨-, -, -, hpkg⟩ := id hhome
  have hlegal : ¬ ((rdS s b).toNat % 64 ≠ 0 ∨ (rdS s (b + 1)).toNat % 64 ≠ 0 ∨ (rdS s (b + 1)).toNat < 64 ∨ 2 ^ 36 < (rdS s (b + 1)).toNat) := by
    omega
  refine (slotDo_of_guard hg).trans (congrArg _ ((if_neg hlegal).trans ((objLine_of_atHome hhome hret _).trans ?_)))
  rw [hpages]
  dsimp only
  rw [hown, if_neg Bool.false_ne_true, hw.ctl_eq, if_neg (Decidable.not_not.mpr hpkg)]

theorem firstStatus_of_none {cs : List (Bool × Nat)} (h : ∀ c ∈ cs, c.1 = false) : firstStatus cs = oOK := by
  induction cs with
  | nil => rfl
  | cons c r ih =>
    rw [firstStatus, h c List.mem_cons_self, if_neg Bool.false_ne_true]
    exact ih fun c' hc' => h c' (List.mem_cons_of_mem c hc')

theorem bindAt_new {i : Nat} {va : Word} {len : Nat} {ps : List (Nat × Nat)} (hnew : objAt s l = none) (hinst : instOf s sc s.focus = some i)
    (hmeet : s.home.objs.any (fun x => x.ranges.any (fun y => pcsMeet y.pcs ps)) = false)
    (hroom : (s.home.objs.filter (fun x => decide (stackOf (paOf x.line) = stackOf (paOf l)))).length < 16384) :
    bindAt l true sc d va len ps s = retStatus d 0 (dropPcs ps (putObj
      { line := l, scope := sc, inst := i, ranges := [{ va := va, len := len, pcs := ps }], hold := .free, wait := [], rel := 0, maker := teamNum s.core,
        inWin := true } s)) := by
  have hst := firstStatus_of_none (cs := [(!true, oNOTPIN), ((instOf s sc s.focus).isNone, oSCOPE),
    (s.home.objs.any (fun x => x.ranges.any (fun y => pcsMeet y.pcs ps)), oOVERLAP),
    (decide (16384 ≤ (s.home.objs.filter (fun x => decide (stackOf (paOf x.line) = stackOf (paOf l)))).length), oFULL)]) (by
      simp [hinst, hmeet, hroom])
  unfold bindAt
  rw [hnew]
  dsimp only
  rw [hst, if_neg (by decide), hinst]
  rfl

theorem bindAt_old {va : Word} {len : Nat} {ps : List (Nat × Nat)} (hold : objAt s l = some o) (hscope : scopeBad s o (some sc) = false)
    (hmeet : s.home.objs.any (fun x => x.ranges.any (fun y => pcsMeet y.pcs ps)) = false) (hroom : o.ranges.length < 8) :
    bindAt l true sc d va len ps s =
      retStatus d 0 (dropPcs ps (putObj { o with ranges := o.ranges ++ [{ va := va, len := len, pcs := ps }] } s)) := by
  have hst := firstStatus_of_none (cs := [(!true, oNOTPIN), (scopeBad s o (some sc), oSCOPE),
    (s.home.objs.any (fun x => x.ranges.any (fun y => pcsMeet y.pcs ps)), oOVERLAP), (decide (8 ≤ o.ranges.length), oFULL)]) (by
      simp [hscope, hmeet, hroom])
  unfold bindAt
  rw [hold]
  dsimp only
  rw [hst, if_neg (by decide)]
  rfl

/-- A core's request is never taken for an engine's. -/
theorem grantTo_free (k : Nat) (c : Core) (x : Bool) :
    grantTo (agentOf k c) x .free = some (if x then .excl (agentOf k c) else .shared [agentOf k c]) := by
  have hcore : (agentOf k c).core ≠ none := by
    unfold agentOf
    split <;> exact Option.some_ne_none k
  have hengine : agentOf k c ≠ engAgent (agentOf k c).slot := fun h => hcore (by rw [h]; rfl)
  rw [grantTo, if_neg hengine]

/-- ACQ of a free object that none waits for. -/
theorem acqAt_free (x try_ : Bool) (hat : objAt s l = some o) (hscope : scopeBad s o (some sc) = false) (hwait : o.wait = [])
    (hhold : o.hold = .free) (hheld : s.core.cm.held.contains l = false) (hfew : s.core.cm.held.length < 16) :
    acqAt l true x try_ sc d s =
      (let me := agentOf s.focus s.core
       let o' := { o with hold := if x then .excl me else .shared [me] }
       retStatus d 0 (addHeld l (rcDropObj o' (putObj o' s)))) := by
  have hst := firstStatus_of_none (cs := [(!true, oNOTPIN), (scopeBad s o (some sc), oSCOPE),
    (s.core.cm.held.contains l || decide (16 ≤ s.core.cm.held.length), oFULL)]) (by simpa [hscope, hfew] using hheld)
  have hmine : o.holds (agentOf s.focus s.core) = false := by rw [Obj.holds, hhold]
  have hgrant := grantTo_free s.focus s.core x
  unfold acqAt
  rw [hat]
  dsimp only
  rw [hst, if_neg (by decide), hmine, if_neg Bool.false_ne_true, hwait, hhold]
  simp only [List.any_nil, Bool.false_eq_true, if_false, List.isEmpty_nil, if_true, hgrant, acqLands, line_of_objAt hat]
  rfl

/-- The ACQ forms on an object of the own package. -/
theorem acq_eq {x try_ : Bool} (hg : guardOk g n s = true) (hhome : atHome .rd (rdA s a) 64 l e s u) (hret : retired u l = false)
    (hpin : e / 2 ^ 8 % 2 = 1) (hexp : try_ = false → exposed s = false) : acq x try_ g n d a sc s = .next (acqAt l true x try_ sc d u) := by
  obtain ⟨-, -, -, hpkg⟩ := id hhome
  have hlegal : ¬ (!try_ && exposed s) = true := by
    cases try_ with
    | true => rw [Bool.not_true, Bool.false_and]; decide
    | false => simp [hexp rfl]
  refine (slotDo_of_guard hg).trans (congrArg _ ((if_neg hlegal).trans ((objLine_of_atHome hhome hret _).trans ?_)))
  rw [if_neg (Decidable.not_not.mpr hpkg), decide_eq_true hpin]

/-- REL by a holder whom nothing keeps waiting. -/
theorem execRel_eq (hg : guardOk g n s = true) (hhome : atHome .rd (rdA s a) 64 l e s u) (hret : retired u l = false)
    (hpin : e / 2 ^ 8 % 2 = 1) (hat : objAt u l = some o) (hscope : scopeBad u o (some sc) = false)
    (hholds : o.holds (agentOf u.focus u.core) = true) (hwaits : relWaits u = false) (hdone : recov u = true → podDone u) :
    exec (.rel g n d a sc) s = .next (retStatus d 0 (dropHeld l (releaseObj (agentOf u.focus u.core) u.focus o u))) := by
  obtain ⟨-, -, -, hpkg⟩ := id hhome
  have hst := firstStatus_of_none (cs := [(!true, oNOTPIN), (scopeBad u o (some sc), oSCOPE), (!o.holds (agentOf u.focus u.core), oNOTHELD)])
    (by simp [hscope, hholds])
  have hrelease : ∀ f : State → State, releaseAll f u = f u := fun f => by
    unfold releaseAll releaseAt
    split
    case isTrue hrec => exact releaseElse_of_podDone (hdone hrec) _ f
    case isFalse => rfl
  refine (slotDo_of_guard hg).trans (congrArg _ ((objLine_of_atHome hhome hret _).trans ?_))
  rw [if_neg (Decidable.not_not.mpr hpkg), hat, decide_eq_true hpin]
  dsimp only
  rw [hst, if_neg (by decide), hwaits, if_neg Bool.false_ne_true, hrelease]
  rfl

/-- A release by the core in focus: its shadows are published and its copies dropped before the object is put. -/
theorem releaseObj_focus (a : Agent) (o : Obj) (s : State) :
    ∃ v, HomeStands s v ∧ releaseObj a s.focus o s = putObj (grantNext { o with rel := o.rel + 1, hold := o.hold.less a }) v := by
  have hpublish := homeStands_publish (objShadow s.focus o) (coreAt s s.focus).pm.open_ s
  have hfocus : (publish (objShadow s.focus o) (coreAt s s.focus).pm.open_ s).focus = s.focus := by
    rw [State.focus, hpublish.core, State.focus]
  have hcopies : ∀ {u : State}, HomeStands s u → u.focus = s.focus →
      HomeStands s (onCoreAt s.focus (rcFilter (fun l => pcsMeet [(l, 64)] o.pcs)) u) := fun {u} hu hfocus => by
    rw [← hfocus, onCoreAt_focus]
    exact hu.trans ⟨⟨rfl, rfl, rfl, rfl⟩, rfl, rfl, rfl⟩
  exact ⟨_, hcopies hpublish hfocus, rfl⟩

theorem execUnbind_eq (hg : guardOk g n s = true) (hhome : atHome .rd (rdA s a) 64 l e s u) (hret : retired u l = false)
    (hpin : e / 2 ^ 8 % 2 = 1) (hat : objAt u l = some o) (hscope : scopeBad u o none = false) (hhold : o.hold = .free) :
    exec (.unbind g n d a) s = .next (retStatus d 0 (onHome (fun h => { h with objs := h.objs.filter (fun x => decide (x.line ≠ l)) }) u)) := by
  obtain ⟨-, -, -, hpkg⟩ := id hhome
  have hst := firstStatus_of_none (cs := [(!true, oNOTPIN), (scopeBad u o none, oSCOPE), (decide (o.hold ≠ .free), oHELD)])
    (by simp [hscope, hhold])
  refine (slotDo_of_guard hg).trans (congrArg _ ((objLine_of_atHome hhome hret _).trans ?_))
  rw [if_neg (Decidable.not_not.mpr hpkg), hat, decide_eq_true hpin]
  dsimp only
  rw [hst, if_neg (by decide)]
  rfl

end Forms

/-- Settles O29: each form's checks pass, so it is its effect on the object that stands at the line. -/
theorem objectForms : Obligations.ObjectForms := by
  intro s u w g n d a b sc l e ps o hg
  refine ⟨fun hdone => ?fence, fun hhome hpin hret => ?objects⟩
  case fence =>
    refine (slotDo_of_guard hg).trans (congrArg _ ?_)
    unfold releaseAt
    split
    case isTrue hpod =>
      have hsc : podDone s := hdone.resolve_left fun hn => hn (of_decide_eq_true hpod)
      exact releaseElse_of_podDone hsc _ _
    case isFalse => rfl
  case objects =>
    intro me done
    have hcaches := cachesOnly_of_atHome hhome
    have hu := hcaches.homeStands
    refine ⟨?bind, fun hat => ⟨fun hscope hhold => ?unbind, fun hscope hwait hhold hheld hfew => ?acq,
      fun hscope hholds hwaits hdone => ?rel⟩⟩
    case bind =>
      intro base len r hbase hmod hmin hmax hpages hown hmeet
      have hw := cachesOnly_bindPages (len / 2 ^ 16 + 2) base.toNat len [] true u
      rw [hpages] at hw
      have hexec := execBind_eq (d := d) (sc := sc) hg hhome hret hbase hmod hmin hmax hpages hown
      rw [decide_eq_true hpin] at hexec
      have hinst : ∀ k, instOf w k w.focus = instOf u k u.focus := fun k => by rw [instOf, instOf, hw.ctl_eq, hw.focus_eq]
      have hteam : teamNum w.core = teamNum u.core := by rw [teamNum, teamNum, hw.task_eq]
      have hput : ∀ {o' : Obj} {x : Out}, o'.line = l → x = .next (retStatus d 0 (dropPcs ps (putObj o' w))) → done (some o') x := by
        intro o' x hline hx
        obtain ⟨hat, hothers, hregs⟩ := objAt_ret_putObj hline (hu.trans hw.homeStands) (t := dropPcs ps (putObj o' w))
          ⟨rfl, rfl, rfl, rfl⟩ rfl d 0
        exact ⟨_, hx, hat, fun k hk => (hothers k hk).trans (objAt_congr hw.objs_eq k), hregs⟩
      refine ⟨fun i hnew hi hroom => ?_, fun hat hscope hroom => ?_⟩
      · rw [← hw.objs_eq] at hmeet hroom
        rw [← hteam]
        exact hput rfl (hexec.trans (congrArg _ (bindAt_new ((objAt_congr hw.objs_eq l).trans hnew) ((hinst sc).trans hi) hmeet hroom)))
      · rw [← hw.objs_eq] at hmeet
        have hscope' : scopeBad w o (some sc) = false := by rw [scopeBad, hinst]; exact hscope
        exact hput (line_of_objAt hat :) (hexec.trans (congrArg _ (bindAt_old ((objAt_congr hw.objs_eq l).trans hat) hscope' hmeet hroom)))
    case unbind =>
      refine ⟨_, execUnbind_eq hg hhome hret hpin hat hscope hhold, ?_, fun k hk => ?_, ?_⟩
      · exact objAt_filter_self u l
      · exact objAt_filter_ne u hk
      · exact (hu.toUnitStands.trans ⟨rfl, rfl, rfl, rfl⟩).sameRegs_retStatus d 0
    case acq =>
      intro got
      have hgot : ∀ x try_, (try_ = false → exposed s = false) →
          got (if x then .excl me else .shared [me]) (acq x try_ g n d a sc s) := by
        intro x try_ hexp
        have hexec := (acq_eq (d := d) (sc := sc) (x := x) hg hhome hret hpin hexp).trans
          (congrArg _ (acqAt_free x try_ hat hscope hwait hhold hheld hfew))
        let o' := { o with hold := if x then .excl me else .shared [me] }
        obtain ⟨hput, hothers, hregs⟩ := objAt_ret_putObj (o := o') (line_of_objAt hat :) hu (t := addHeld l (rcDropObj o' (putObj o' u)))
          ⟨rfl, rfl, rfl, rfl⟩ rfl d 0
        exact ⟨⟨_, hexec, hput, hothers, hregs⟩, ⟨_, hexec, rfl⟩⟩
      exact ⟨hgot false true fun h => absurd h (by decide), hgot true true fun h => absurd h (by decide),
        fun hexp => ⟨hgot false false fun _ => hexp, hgot true false fun _ => hexp⟩⟩
    case rel =>
      have hexec := execRel_eq (d := d) hg hhome hret hpin hat hscope hholds hwaits hdone
      let o' := grantNext { o with rel := o.rel + 1, hold := o.hold.less me }
      obtain ⟨v, hv, hrelease⟩ := releaseObj_focus me o u
      have hline : o'.line = l := (line_of_objAt hat :)
      obtain ⟨hput, hothers, hregs⟩ := objAt_ret_putObj hline (hu.trans hv) (t := dropHeld l (putObj o' v)) ⟨rfl, rfl, rfl, rfl⟩ rfl d 0
      rw [hrelease] at hexec
      refine ⟨⟨_, hexec, hput, fun k hk => (hothers k hk).trans (objAt_congr hv.objs k), hregs⟩, ⟨_, hexec, ?_⟩⟩
      exact congrArg (List.filter fun x => decide (x ≠ l)) hv.held

end Sys2Proof.Proofs
end

section
/-!
PROOFS. Atomics (13 R247–R250) beyond device memory: a package address of 2^39 or above that is no register is written in full, even
where a team's log descriptor would stand.
-/
namespace Sys2Proof.Proofs
open Sys2Proof.Machine Sys2Proof.Claims

/-- A pinned leaf for the page at virtual 0x40000 that names address 2^40 of the own package, above its device memory. -/
def farLeaf : TlbE := { asid := 0, va := 0x40000, bits := 16, leaf := 2 ^ 40 + 0x12D, path := [] }

/-- The card of a team of one task. -/
def oneTask : Card :=
  { entry := 0, narg := 0, n := 1, det := false, gang := false, prio := 0, deal := 0, fw := 0, fa := 0, fc := 0, size := 1,
    e0 := 0, e1 := 0, e2 := 0, perm := 0, after := none, doneq := 0, args := [] }

/-- After reset: `farLeaf` is cached, a1 is 0x40010, s2 is 1, and a team's log block stands at 2^40. -/
def farLog : State :=
  onDist (fun d => { d with teams := [(1, newTeam 0 0 oneTask (some (2 ^ 40)))] })
    (onSc (fun c => { c with a := [(1, 0x40010)], s := [(2, 1)] }) (onCm (fun c => { c with tlb := [farLeaf] }) State.reset))

/-- Byte `x` of memory in the state that a step leaves. -/
def byteAfter (x : Nat) : Out → Byte
  | .next t => memByte t.mem x
  | _ => 0

theorem transCore_farLog : (transCore .wr (rdA farLog 1) farLog).1 = .ok (2 ^ 40 + 16) (2 ^ 40 + 0x12D) := by decide +kernel

theorem byteAfter_farLog : byteAfter (2 ^ 40 + 16) (exec (.aadd 0 0 0 1 2 0 0) farLog) = 1 := by decide +kernel

theorem memByte_farLog : memByte farLog.mem (2 ^ 40 + 16) = 0 := by decide +kernel

/-- Refutes O30: an AADD at 2^40 + 16, on own addresses above device memory, changes that byte, which the statement counts to the
read-only POS of a log descriptor. -/
theorem not_atomicForms : ¬ Obligations.AtomicForms := by
  unfold Obligations.AtomicForms
  intro h
  obtain ⟨hadd, -⟩ := h farLog (transCore .wr (rdA farLog 1) farLog).2 0 0 0 1 2 0 0 (2 ^ 40 + 16) (2 ^ 40 + 0x12D) (by decide +kernel)
  obtain ⟨t, v, hexec, -, -, houtside, hmem, -⟩ := hadd
    ⟨⟨by decide +kernel, Prod.ext transCore_farLog rfl, by decide +kernel, by decide +kernel⟩, by decide +kernel,
      fun ho => absurd ho (by decide), fun _ => by decide +kernel, by decide +kernel⟩
  have hstands := houtside (2 ^ 40 + 16) (.inr (.inr (by decide +kernel))) (by decide +kernel)
  have hafter := byteAfter_farLog
  rw [hexec, byteAfter, hmem (by decide +kernel), hstands, memByte_farLog] at hafter
  exact absurd hafter (by decide)

end Sys2Proof.Proofs
end

section
/-!
PROOFS. Suspensions and END (16 R276, R283, R287). Until the core is let go what happens keeps its number and its state, its team's
ready queue and live count, and the entries of queues (`Leaves`); what comes after keeps an idle core idle (`KeepsIdle`).
-/
namespace Sys2Proof.Proofs
open Sys2Proof.Machine Sys2Proof.Claims

/-! ### Results that land leave the core's state -/

section Landing

theorem st_foldl {α : Type} {f : Core → α → Core} (hf : ∀ c a, (f c a).st = c.st) (xs : List α) (c : Core) : (xs.foldl f c).st = c.st := by
  induction xs generalizing c with
  | nil => rfl
  | cons a r ih => exact (ih _).trans (hf c a)

theorem st_ite {p : Prop} [Decidable p] {c d e : Core} (h : d.st = c.st) (k : e.st = c.st) : (if p then d else e).st = c.st := by
  split
  · exact h
  · exact k

theorem st_spadWrite (b off : Nat) (bs : List Byte) (c : Core) : (spadWrite b off bs c).st = c.st := by
  induction bs generalizing off c with
  | nil => rfl
  | cons x r ih => exact ih (off + 1) (spadPut b off x c)

theorem st_spadMasked (b off mask val : Nat) (c : Core) : (spadMasked b off mask val c).st = c.st := by
  refine st_foldl (fun c i => ?_) _ c
  dsimp only
  split <;> rfl

theorem st_writeSr (n : Nat) (v : Word) (c : Core) : (writeSr n v c).st = c.st := by
  unfold writeSr
  dsimp only
  iterate 12 refine st_ite rfl ?_
  refine st_ite (st_ite rfl rfl) ?_
  iterate 6 refine st_ite rfl ?_
  rfl

theorem st_landOne (p : Pend) (c : Core) : (landOne p c).st = c.st := by
  obtain ⟨due, born, pc, slot, eff⟩ := p
  cases eff with
  | s r x => exact st_ite rfl rfl
  | v cl r which x => exact st_ite rfl rfl
  | m cl r which x => exact st_ite rfl rfl
  | sr n x => exact st_writeSr n x c
  | mode x => exact st_ite rfl rfl
  | st b off m x => exact st_spadWrite b off x c
  | stw b off x => exact st_spadWrite b off x c
  | fl cl f => exact st_ite rfl rfl
  | _ => rfl

theorem st_landBefore (t : Nat) (ps : List Pend) (c : Core) : (landBefore t ps c).st = c.st := by
  induction ps generalizing c with
  | nil => rfl
  | cons p r ih =>
    unfold landBefore
    split
    · exact (ih _).trans (st_landOne p c)
    · rfl

theorem st_landFlights (t : Nat) (c : Core) : (landFlights t c).st = c.st := by
  have hone : ∀ (c : Core) (k : S12Cmd), (landS12 k c).st = c.st := fun c k =>
    st_foldl (f := fun c (w : SpWrite) => spadMasked w.buf w.off w.mask w.val c) (fun c w => st_spadMasked _ _ _ _ c) k.out c
  exact st_foldl hone _ c

theorem st_landAll (t : Nat) (c : Core) : (landAll t c).st = c.st := by
  have hbefore : ∀ t (c : Core), (landBefore t c.pend { c with pend := [] }).st = c.st := fun t c =>
    st_landBefore t c.pend { c with pend := [] }
  unfold landAll
  split
  · exact hbefore t c
  · exact st_foldl (fun c d => (st_landFlights _ _).trans (hbefore (d + 1) c)) _ c

theorem st_moveOn (k : Nat) (c : Core) : (moveOn k c).st = c.st := by
  refine Eq.trans ?_ (st_landAll (c.now + k) c)
  unfold moveOn
  dsimp only
  split <;> rfl

theorem st_pmAdd (e n : Nat) (c : Core) : (pmAdd e n c).st = c.st := by
  obtain ⟨m, hm⟩ := pmAdd_eq e n c
  rw [hm]

theorem st_countCycles (k : Nat) (c : Core) : (countCycles k c).st = c.st := by
  unfold countCycles
  extract_lets counted copying holding teasing ticked run e
  have hcounted : counted.st = c.st := (st_pmAdd _ k _).trans (st_pmAdd _ k c)
  have hcopying : copying.st = c.st := st_ite hcounted ((st_pmAdd ..).trans hcounted)
  have hholding : holding.st = c.st := (st_pmAdd ..).trans hcopying
  have hteasing : teasing.st = c.st := st_ite ((st_pmAdd ..).trans hholding) hholding
  exact (st_ite rfl rfl : ticked.st = teasing.st).trans hteasing

theorem st_drain (s : State) : (drain s).core.st = s.core.st := by
  have hrejoin : (rejoin s.core).st = s.core.st := st_ite rfl rfl
  unfold drain
  dsimp only
  split
  · exact hrejoin
  · exact (st_moveOn _ _).trans ((st_countCycles _ _).trans hrejoin)

end Landing

/-! ### A record of the log -/

/-- `t` is `s` but for memory and windows. -/
def LogOnly (s t : State) : Prop := t = { s with mem := t.mem, home := { s.home with wins := t.home.wins } }

section Log
variable {s t u : State}

theorem LogOnly.trans (h : LogOnly s t) (k : LogOnly t u) : LogOnly s u := by
  unfold LogOnly at h k ⊢
  rw [k, h]

theorem LogOnly.core (h : LogOnly s t) : t.core = s.core := by rw [h]
theorem LogOnly.dist (h : LogOnly s t) : t.dist = s.dist := by rw [h]
theorem LogOnly.grp (h : LogOnly s t) : t.grp = s.grp := by rw [h]
theorem LogOnly.ctl (h : LogOnly s t) : t.ctl = s.ctl := by rw [h]

theorem logOnly_noteLog (a : Nat) (s : State) : LogOnly s (noteLog a s) := rfl

theorem logOnly_logPut (n : Nat) (bs : List Byte) (va : Nat) (s : State) : LogOnly s (logPut n bs va s) := by
  induction bs generalizing va s with
  | nil => rfl
  | cons b r ih =>
    refine LogOnly.trans ?_ (ih (va + 1) _)
    split
    · split <;> rfl
    · rfl

theorem logOnly_logWrite (n k : Nat) (f : LogD → List Byte) (s : State) : LogOnly s (logWrite n k f s) := by
  have hnotes : ∀ (as : List Nat) (d : LogD) (u : State), LogOnly u (as.foldl (fun s i => noteLog (d.addr + 0x10 + i) s) u) := fun as d => by
    induction as with
    | nil => exact fun _ => rfl
    | cons i r ih => exact fun u => (logOnly_noteLog _ u).trans (ih _)
  have hmem : ∀ (u : State) m, LogOnly u { u with mem := m } := fun _ _ => rfl
  unfold logWrite
  split
  · rfl
  · dsimp only
    split
    · exact ((logOnly_logPut n _ _ s).trans (hnotes _ _ _)).trans (hmem _ _)
    · rfl

theorem logOnly_logSched (n ev prio task w2 w3 : Nat) (s : State) : LogOnly s (logSched n ev prio task w2 w3 s) := logOnly_logWrite ..

theorem LogOnly.homeStands (h : LogOnly s t) : HomeStands s t := by
  rw [h]
  exact ⟨⟨rfl, rfl, rfl, rfl⟩, rfl, rfl, rfl⟩

theorem homeStands_logWrite (n k : Nat) (f : LogD → List Byte) (s : State) : HomeStands s (logWrite n k f s) := (logOnly_logWrite ..).homeStands

end Log

/-! ### What a suspension does before the core is let go -/

/-- From `s` to `t` the core in focus keeps its number and state, team `n` its ready continuations and its live count, and queue `key`
its entries. -/
structure Leaves (n key : Nat) (s t : State) : Prop where
  focus : t.focus = s.focus
  st : t.core.st = s.core.st
  team : ∀ x, teamOf s n = some x → ∃ y, teamOf t n = some y ∧ y.ready = x.ready ∧ y.live = x.live
  ents : ∀ q, mfind? s.home.queues key = some q → ∃ q', mfind? t.home.queues key = some q' ∧ q'.ents = q.ents

section Leaves
variable {n key : Nat} {s t u : State}

theorem Leaves.trans (h : Leaves n key s t) (k : Leaves n key t u) : Leaves n key s u := by
  refine ⟨k.focus.trans h.focus, k.st.trans h.st, fun x hx => ?_, fun q hq => ?_⟩
  · obtain ⟨y, hy, hready, hlive⟩ := h.team x hx
    obtain ⟨z, hz, hready', hlive'⟩ := k.team y hy
    exact ⟨z, hz, hready'.trans hready, hlive'.trans hlive⟩
  · obtain ⟨q', hq', hents⟩ := h.ents q hq
    obtain ⟨q'', hq'', hents'⟩ := k.ents q' hq'
    exact ⟨q'', hq'', hents'.trans hents⟩

/-- A change of none of those parts. -/
theorem Leaves.of_eq (focus : t.focus = s.focus := by rfl) (st : t.core.st = s.core.st := by rfl)
    (teams : t.dist.teams = s.dist.teams := by rfl) (queues : t.home.queues = s.home.queues := by rfl) : Leaves n key s t :=
  ⟨focus, st, fun x hx => ⟨x, by rw [teamOf, teams]; exact hx, rfl, rfl⟩, fun q hq => ⟨q, by rw [queues]; exact hq, rfl⟩⟩

theorem HomeStands.leaves (h : HomeStands s t) : Leaves n key s t :=
  .of_eq (by rw [State.focus, h.core, State.focus]) (by rw [h.core]) (by rw [h.dist]) h.queues

theorem leaves_onTeam {k : Nat} {f : Team → Team} (hf : ∀ x, (f x).ready = x.ready ∧ (f x).live = x.live) : Leaves n key s (onTeam k f s) := by
  unfold onTeam
  split
  case h_1 x hx =>
    refine ⟨rfl, rfl, fun y hy => ?_, fun q hq => ⟨q, hq, rfl⟩⟩
    by_cases hn : n = k
    · subst hn
      obtain rfl : x = y := Option.some.inj (hx.symm.trans hy)
      exact ⟨f x, mfind?_mput_self s.dist.teams n (f x), hf x⟩
    · exact ⟨y, (mfind?_mput_ne s.dist.teams (f x) hn).trans hy, rfl, rfl⟩
  case h_2 => exact .of_eq

theorem homeStands_homePuts (w : Who) (l2 : Bool) (k a : Nat) (bs : List Byte) (s : State) : HomeStands s (homePuts w l2 k a bs s) := by
  induction k generalizing a bs s with
  | zero => exact .refl s
  | succ k ih =>
    unfold homePuts
    dsimp only
    split
    · exact .refl s
    · refine HomeStands.trans ?_ (ih _ _ _)
      split
      · exact .refl s
      · exact homeStands_homeWrite ..

theorem leaves_logReserve (k m : Nat) (s : State) : Leaves n key s (logReserve k m s) := by
  unfold logReserve
  split
  · exact leaves_onTeam fun _ => ⟨rfl, rfl⟩
  · exact .of_eq

/-- Counts of a bundle change counters only. -/
theorem applyCnt_eq (pl : Bool) (cnt : SMap Nat) (c : Core) : ∃ m, applyCnt pl cnt c = { c with pm := m } := by
  have hfold : ∀ (xs : List (Nat × Nat)) (c : Core),
      ∃ m, xs.foldl (fun c p => if p.1 < 0x40 then pmAdd p.1 p.2 c else c) c = { c with pm := m } := fun xs => by
    induction xs with
    | nil => exact fun c => ⟨c.pm, rfl⟩
    | cons p r ih =>
      intro c
      obtain ⟨m, hm⟩ := pmAdd_eq p.1 p.2 c
      obtain ⟨m1, hm1⟩ := ih { c with pm := m }
      obtain ⟨m2, hm2⟩ := ih c
      rw [List.foldl_cons]
      split
      · rw [hm]; exact ⟨m1, hm1⟩
      · exact ⟨m2, hm2⟩
  obtain ⟨m, hm⟩ := hfold cnt { c with st := c.st, x := { c.x with pl := pl } }
  exact ⟨m, by unfold applyCnt asAt; dsimp only; rw [hm]⟩

theorem leaves_countSusp (s : State) : Leaves n key s (countSusp s) := by
  obtain ⟨m, hm⟩ : ∃ m, (countSusp s).core = { s.core with pm := m } := applyCnt_eq ..
  exact .of_eq (by rw [State.focus, hm, State.focus]) (by rw [hm])

theorem leaves_withdrawPre (s : State) : Leaves n key s (withdrawPre s.focus s) := by
  unfold withdrawPre
  rw [onCoreAt_focus]
  have hcore : Leaves n key s (onCore (fun c => { c with x := { c.x with pp := false } }) s) := .of_eq
  dsimp only
  split
  · refine hcore.trans (leaves_onTeam fun x => ?_)
    split <;> exact ⟨rfl, rfl⟩
  · exact hcore

/-- `t` is `s` but for the torus and the count of free values. -/
def NetOnly (s t : State) : Prop := t = { s with net := t.net, free := t.free }

theorem NetOnly.trans (h : NetOnly s t) (k : NetOnly t u) : NetOnly s u := by
  unfold NetOnly at h k ⊢
  rw [k, h]

theorem netOnly_foldl {α : Type} {f : State → α → State} (hf : ∀ s a, NetOnly s (f s a)) (xs : List α) (s : State) :
    NetOnly s (xs.foldl f s) := by
  induction xs generalizing s with
  | nil => rfl
  | cons a r ih => exact (hf s a).trans (ih _)

theorem netOnly_countDead (d : Nat) (s : State) : NetOnly s (countDead d s) := rfl
theorem netOnly_onNet (f : NetSt → NetSt) (s : State) : NetOnly s (onNet f s) := rfl

theorem netOnly_chooseLink (src dst : Nat) (s : State) : NetOnly s (chooseLink s src dst).2 := by
  unfold chooseLink
  split
  · rfl
  · split <;> rfl

theorem netOnly_routeRef (r : PRef) (s : State) : NetOnly s (routeRef r s).2 := by
  have h := netOnly_chooseLink r.frm r.to_ s
  unfold routeRef
  split <;> rename_i hc <;> rw [hc] at h
  · exact h.trans rfl
  · dsimp only
    split
    · exact h.trans (netOnly_countDead _ _)
    · exact h

theorem netOnly_sendPkt (dst : Nat) (r : PktReq) (s : State) : NetOnly s (sendPkt dst r s) := by
  unfold sendPkt routePkt
  exact (netOnly_onNet _ s).trans ((netOnly_routeRef _ _).trans (netOnly_onNet _ _))

theorem netOnly_tell (pkg kind addr : Nat) (data : List Byte) (s : State) : NetOnly s (Machine.tell pkg kind addr data s) := by
  unfold Machine.tell
  split
  · rfl
  · split
    · exact netOnly_countDead _ s
    · exact netOnly_sendPkt _ _ s

theorem NetOnly.leaves (h : NetOnly s t) : Leaves n key s t := by
  rw [h]
  exact .of_eq

theorem leaves_rehomeAt (team slot : Nat) (core : Option Nat) (s : State) : Leaves n key s (rehomeAt team slot core s) :=
  ⟨rfl, rfl, fun x hx => ⟨x, hx, rfl, rfl⟩, fun _ hq => ⟨_, (mfind?_map (fun p : Queue =>
    ({ p with waits := p.waits.map (fun w => { w with who := Agent.at team slot core w.who }) } : Queue)) s.home.queues key).trans
      (congrArg (Option.map _) hq), rfl⟩⟩

theorem leaves_moveShadows (a b a' b' : Nat) (s : State) : Leaves n key s (moveShadows a b a' b' s) := .of_eq

theorem leaves_goAway (team slot : Nat) (s : State) : Leaves n key s (goAway team slot s) := by
  unfold goAway
  dsimp only
  refine Leaves.trans (Leaves.trans ?_ (leaves_moveShadows ..)) (leaves_rehomeAt ..)
  exact (netOnly_foldl (fun _ _ => netOnly_tell ..) _ s).leaves

theorem leaves_putSlot (k : Nat) (x : PSlot) (s : State) : Leaves n key s (putSlot k x s) := .of_eq

theorem leaves_clearIdx (area : Option CapArea) (caps : List (Nat × Nat)) (s : State) : Leaves n key s (clearIdx area caps s) := by
  obtain ⟨m, hm⟩ := clearIdx_eq area caps s
  rw [hm]
  exact .of_eq

theorem leaves_foldl {α : Type} {f : State → α → State} (hf : ∀ s a, Leaves n key s (f s a)) (xs : List α) (s : State) :
    Leaves n key s (xs.foldl f s) := by
  induction xs generalizing s with
  | nil => exact .of_eq
  | cons a r ih => exact (hf s a).trans (ih _)

theorem leaves_discardPass (k : Nat) (s : State) : Leaves n key s (discardPass k s) := by
  have hl2 : ∀ f : HomeSt → SMap (List L2Line), Leaves n key s (onHome (fun h => { h with l2 := f h }) s) := fun _ => .of_eq
  have hdrop : ∀ u, Leaves n key u (dropPassWins k u) := fun _ => .of_eq
  unfold discardPass
  exact ((hl2 _).trans (leaves_foldl (f := fun s (p : Nat × Win) => clearIdx (mfind? s.ctl.meas (areaKey (teamAsid s k) p.1)) p.2.caps s)
    (fun s _ => leaves_clearIdx _ _ s) _ _)).trans (hdrop _)

theorem leaves_saveCtx (k slot : Nat) (s : State) : Leaves n key s (saveCtx k slot s) := by
  unfold saveCtx
  have hbefore : ∀ a m, Leaves n key s (l2Drop a m (draw s).2) := fun _ _ => .of_eq
  exact ((hbefore _ _).trans (homeStands_homePuts _ _ _ _ _ _).leaves).trans (leaves_putSlot _ _ _)

end Leaves

/-! ### The core let go -/

/-- Core `k` is idle and runs no task. -/
def Rests (s : State) (k : Nat) : Prop := (coreAt s k).st = .idle ∧ (coreAt s k).task.cont = none

section Suspend
variable {n key : Nat} {s t u z : State} {k : Cont} {x : Team}

theorem rests_releaseCore {j : Nat} (h : (coreAt s j).st ≠ .dhalt) : Rests (releaseCore j s) j := by
  have he : coreAt (releaseCore j s) j = coreAt (onCoreAt j releasedCore s) j :=
    ((apart_onNet _ _).trans (apart_onHome _ _)).coreAt_eq j
  refine ⟨releaseCore_idle h, ?_⟩
  rw [he, coreAt_onCoreAt_self (coreKey_kept releasedCore_num)]
  simp only [releasedCore, h, if_false]
  rfl

/-- The agents of a continuation sent away and its state kept, or dropped. -/
def keepState (keep : Bool) (c : Cont) (s : State) : State :=
  let s := goAway c.team c.ctx (withdrawPre s.focus (countSusp s))
  if keep then saveCtx s.focus c.ctx s
  else
    let s := if s.core.pm.open_ then discardPass c.team s else s
    putSlot c.ctx { slotAt s c.ctx with ctx := none, held := s.core.cm.held, regs := s.core.cm.regs } s

/-- The slot and the core as a suspension leaves them, before the core is let go. -/
def putAway (keep : Bool) (st : SlotKind) (c : Cont) (ret : Option (Nat × Word)) (s : State) : State :=
  let s := keepState keep c s
  let s := putSlot c.ctx { slotAt s c.ctx with st := st, team := c.team, cont := some c, ret := ret } s
  if keep then s else onCore (fun x => { x with sp := (idleCore x).sp }) s

theorem leaves_keepState (keep : Bool) (c : Cont) (s : State) : Leaves n key s (keepState keep c s) := by
  have hcount : Leaves n key s (countSusp s) := leaves_countSusp s
  have haway : Leaves n key s (goAway c.team c.ctx (withdrawPre s.focus (countSusp s))) := by
    rw [← hcount.focus]
    exact (hcount.trans (leaves_withdrawPre _)).trans (leaves_goAway ..)
  unfold keepState
  dsimp only
  split
  · exact haway.trans (leaves_saveCtx ..)
  · refine Leaves.trans (haway.trans ?_) (leaves_putSlot ..)
    split
    · exact leaves_discardPass ..
    · exact .of_eq

theorem leaves_putAway (keep : Bool) (st : SlotKind) (c : Cont) (ret : Option (Nat × Word)) (s : State) :
    Leaves n key s (putAway keep st c ret s) := by
  have hput := fun x => (leaves_keepState (n := n) (key := key) keep c s).trans (leaves_putSlot c.ctx x _)
  unfold putAway
  dsimp only
  split
  · exact hput _
  · exact (hput _).trans .of_eq

theorem suspend_eq (keep : Bool) (st : SlotKind) (c : Cont) (ret : Option (Nat × Word)) (s : State) :
    suspend keep st c ret s = releaseCore s.focus (putAway keep st c ret s) := by
  have hfocus := (leaves_keepState (n := 0) (key := 0) keep c s).focus
  rw [← hfocus]
  rfl

theorem keepState_ctx (keep : Bool) (c : Cont) (s : State) : (slotAt (keepState keep c s) c.ctx).ctx.isSome = keep := by
  unfold keepState
  dsimp only
  cases keep with
  | true =>
    obtain ⟨u, -, hsave⟩ := saveCtx_eq (goAway c.team c.ctx (withdrawPre s.focus (countSusp s))).focus c.ctx
      (goAway c.team c.ctx (withdrawPre s.focus (countSusp s)))
    rw [if_pos rfl, hsave, slotAt_putSlot_self]
    rfl
  | false =>
    rw [if_neg Bool.false_ne_true, slotAt_putSlot_self]
    rfl

theorem slotAt_putAway (keep : Bool) (st : SlotKind) (c : Cont) (ret : Option (Nat × Word)) (s : State) :
    slotAt (putAway keep st c ret s) c.ctx = { slotAt (keepState keep c s) c.ctx with st := st, team := c.team, cont := some c, ret := ret } := by
  unfold putAway
  dsimp only
  split
  · exact slotAt_putSlot_self ..
  · exact slotAt_putSlot_self ..

/-- A suspension lets the core go, with the continuation in its slot; ready queue, live count and queue entries stand. -/
theorem suspend_spec (keep : Bool) (st : SlotKind) (c : Cont) (ret : Option (Nat × Word)) (h : Leaves n key z s) (hst : z.core.st = .run)
    (hx : teamOf z n = some x) :
    let t := suspend keep st c ret s
    Rests t z.focus ∧ (∃ y, teamOf t n = some y ∧ y.ready = x.ready ∧ y.live = x.live) ∧
      (let p := slotAt t c.ctx
       p.st = st ∧ p.cont = some c ∧ p.ret = ret ∧ p.ctx.isSome = keep) ∧
      (∀ q, mfind? z.home.queues key = some q → ∃ q', mfind? t.home.queues key = some q' ∧ q'.ents = q.ents) := by
  have hput := h.trans (leaves_putAway keep st c ret s)
  have hcore : (coreAt (putAway keep st c ret s) z.focus).st = .run := by rw [← hput.focus, coreAt_focus, hput.st, hst]
  obtain ⟨y, hy, hready, hlive⟩ := hput.team x hx
  intro t
  have ht : t = releaseCore z.focus (putAway keep st c ret s) := by rw [← h.focus]; exact suspend_eq keep st c ret s
  have hslot : slotAt t c.ctx = slotAt (putAway keep st c ret s) c.ctx := by rw [ht]; exact slotAt_congr (releaseCore_dist _ _) _
  have hqueues : t.home.queues = (putAway keep st c ret s).home.queues := by
    rw [ht, releaseCore_eq]
    have hhome := onCoreAt_home (putAway keep st c ret s) z.focus releasedCore
    exact (congrArg HomeSt.queues hhome :)
  refine ⟨?rests, ⟨y, ?team, hready, hlive⟩, ?slot, fun q hq => ?queue⟩
  case rests => rw [ht]; exact rests_releaseCore (by rw [hcore]; decide)
  case team => rw [ht, teamOf_releaseCore]; exact hy
  case slot =>
    rw [hslot, slotAt_putAway]
    exact ⟨rfl, rfl, rfl, keepState_ctx ..⟩
  case queue => rw [hqueues]; exact hput.ents q hq

end Suspend

/-! ### The forms -/

section Forms
variable {g n d b : Nat} {s : State} {k : Cont} {x : Team} {q : Queue}

theorem logNeed_of_room {t m j : Nat} (h : logRoom s t m) (hj : j ≤ m) (f : State → State) : logNeed t j f s = f s := by
  unfold logNeed
  split
  case h_1 r d hfree hd => rw [if_neg (by have := h r hfree; omega)]
  case h_2 => rfl

/-- The task of the core in focus may suspend itself. -/
structure SuspMay (k : Cont) (x : Team) (s : State) : Prop where
  compute : s.core.ctl = false
  user : s.core.x.pl = false
  run : s.core.st = .run
  loops : s.core.sc.loops = []
  cont : s.core.task.cont = some k
  team : teamOf s k.team = some x

theorem SuspMay.suspOk (h : SuspMay k x s) : Machine.suspOk s = true := by
  simp [Machine.suspOk, taskOk, h.compute, h.user, h.loops]

theorem SuspMay.myTask_eq (h : SuspMay k x s) : myTask s = some (k, x) := by simp [myTask, h.cont, h.team]

/-- Once results have landed the core still runs and its team is as it was. -/
theorem SuspMay.drained (h : SuspMay k x s) : (drain s).core.st = .run ∧ (drain s).focus = s.focus ∧ teamOf (drain s) k.team = some x := by
  obtain ⟨c, m, hdrain, hlands⟩ := drain_eq s
  refine ⟨(st_drain s).trans h.run, ?_, ?_⟩
  · rw [hdrain, State.focus, State.focus, hlands.num, hlands.ctl]
  · rw [hdrain]; exact h.team

theorem yieldDo_eq (keep : Bool) (hg : guardOk g n s = true) (h : SuspMay k x s) (hquiet : quiet (drain s).core = true)
    (hroom : logRoom (drain s) k.team 2) :
    let c := suspCont keep k (drain s)
    yieldDo keep g n s = .next (pushReady c (suspend keep .ready c none
      (logReserve k.team 1 (logSched k.team 5 k.prio k.task 0 0 (drain s))))) := by
  refine (slotDo_of_guard hg).trans (congrArg _ ?_)
  rw [h.suspOk, h.myTask_eq]
  exact (whenQuiet_of_quiet _ hquiet).trans (logNeed_of_room hroom (Nat.le_refl 2) _)

theorem suspDo_eq (keep : Bool) (hg : guardOk g n s = true) (h : SuspMay k x s) (hquiet : quiet (drain s).core = true)
    (hroom : logRoom (drain s) k.team 2) (hok : (hndOf (rdS s b)).ok = true) (hpkg : (hndOf (rdS s b)).pkg = s.ctl.pkgNum)
    (hq : QueueHere (drain s) (hndOf (rdS s b)) q) (hcap : q.ents.length < q.cap) (hwaits : q.waits = []) :
    let c := suspCont keep k (drain s)
    suspDo keep g n d b s = .next (suspend keep .suspended c (some (d, 0)) (logReserve k.team 1 (logSched k.team 4 k.prio k.task 0 0
      (putQueue (hndOf (rdS s b)).key { q with ents := q.ents ++ [recordBytes c] } (drain s))))) := by
  have hctl : (drain s).ctl = s.ctl := by
    obtain ⟨c, m, hdrain, -⟩ := drain_eq s
    rw [hdrain]
  have hnone : q.waits.any (fun y => y.due.isNone) = false := by rw [hwaits]; rfl
  have hpush := hq.qPush_eq (recordBytes (suspCont keep k (drain s))) hcap
  rw [hnone] at hpush
  refine (slotDo_of_guard hg).trans (congrArg _ ?_)
  dsimp only
  rw [hok, h.suspOk, h.myTask_eq]
  refine (whenQuiet_of_quiet _ hquiet).trans ((logNeed_of_room hroom (Nat.le_refl 2) _).trans ?_)
  rw [hctl, if_neg (Decidable.not_not.mpr hpkg), hpush]
  exact if_pos rfl

end Forms

/-! ### A task ends (16 R283, R290) -/

section Ends
variable {n : Nat} {s t u : State} {k : Cont} {x : Team}

theorem coreAt_congr (hcore : t.core = s.core) (hothers : t.others = s.others) (j : Nat) : coreAt t j = coreAt s j := by
  rw [coreAt, coreAt, State.focus, State.focus, hcore, hothers]

/-- Idle cores of `s` that run no task are so in `t`. -/
def KeepsIdle (s t : State) : Prop := ∀ j, Rests s j → Rests t j

theorem KeepsIdle.trans (h : KeepsIdle s t) (k : KeepsIdle t u) : KeepsIdle s u := fun j hj => k j (h j hj)

theorem KeepsIdle.of_coreAt (h : ∀ j, coreAt t j = coreAt s j) : KeepsIdle s t := fun j hj => by
  rw [Rests, h j]
  exact hj

/-- A change that leaves the cores alone. -/
theorem KeepsIdle.of_eq (hcore : t.core = s.core := by rfl) (hothers : t.others = s.others := by rfl) : KeepsIdle s t :=
  .of_coreAt (coreAt_congr hcore hothers)

theorem keepsIdle_foldl {α : Type} {f : State → α → State} (hf : ∀ s a, KeepsIdle s (f s a)) (xs : List α) (s : State) :
    KeepsIdle s (xs.foldl f s) := by
  induction xs generalizing s with
  | nil => exact .of_eq
  | cons a r ih => exact (hf s a).trans (ih _)

theorem keepsIdle_onCoreAt (j : Nat) {f : Core → Core} (s : State) (hn : ∀ c, (f c).num = c.num ∧ (f c).ctl = c.ctl)
    (hf : ∀ c, c.st = .idle → c.task.cont = none → (f c).st = .idle ∧ (f c).task.cont = none) : KeepsIdle s (onCoreAt j f s) := by
  have hk := coreKey_kept (s := s) (k := j) hn
  intro i hi
  by_cases hij : i = j
  · subst hij
    rw [Rests, coreAt_onCoreAt_self hk]
    exact hf _ hi.1 hi.2
  · rw [Rests, coreAt_onCoreAt_ne hk hij]
    exact hi

theorem keepsIdle_releaseCore (j : Nat) (s : State) : KeepsIdle s (releaseCore j s) := by
  rw [releaseCore_eq]
  refine (keepsIdle_onCoreAt j s releasedCore_num fun c hst _ => ?_).trans .of_eq
  have hlive : c.st ≠ .dhalt := by rw [hst]; decide
  refine ⟨releasedCore_idle hlive, ?_⟩
  simp only [releasedCore, hlive, if_false]
  rfl

theorem Apart.keepsIdle (h : Apart s t) : KeepsIdle s t := .of_coreAt h.coreAt_eq

theorem keepsIdle_clearIdx (area : Option CapArea) (caps : List (Nat × Nat)) (s : State) : KeepsIdle s (clearIdx area caps s) := by
  obtain ⟨m, hm⟩ := clearIdx_eq area caps s
  rw [hm]
  exact .of_eq

theorem keepsIdle_discardPass (j : Nat) (s : State) : KeepsIdle s (discardPass j s) := by
  unfold discardPass dropPassWins
  exact (apart_onHome _ s).keepsIdle.trans ((keepsIdle_foldl (fun _ _ => keepsIdle_clearIdx _ _ _) _ _).trans (apart_onHome _ _).keepsIdle)

theorem keepsIdle_closeWins (j : Nat) (s : State) : KeepsIdle s (closeWins j s) := by
  unfold closeWins
  exact (keepsIdle_foldl (fun _ _ => keepsIdle_clearIdx _ _ _) (teamWins s j) s).trans (apart_onHome _ _).keepsIdle

theorem keepsIdle_stopColls (j : Nat) (s : State) : KeepsIdle s (stopColls j s) := by
  unfold stopColls
  refine (keepsIdle_foldl (fun s c => ?_) _ s).trans (apart_onNet _ _).keepsIdle
  have hgone := (apart_onHome _ s).keepsIdle.trans (keepsIdle_onCoreAt c.core
    (f := fun x => { x with cm := { x.cm with colOut := x.cm.colOut - 1 } }) (collGone c.id s) (fun _ => ⟨rfl, rfl⟩) fun _ h1 h2 => ⟨h1, h2⟩)
  dsimp only
  split
  · exact hgone
  · exact hgone.trans (apart_foldl (fun s p => apart_tell p _ _ _ s) _ _).keepsIdle

theorem keepsIdle_stopTeam (j : Nat) (s : State) : KeepsIdle s (stopTeam j s) := by
  have harrs : ∀ f (xs : List Arr), Apart (withdrawFar j s) (onHome f (xs.foldl (fun s x => dropArr x s) (withdrawFar j s))) :=
    fun f xs => (apart_foldl (fun s x => apart_dropArr x s) xs _).trans (apart_onHome f _)
  unfold stopTeam
  dsimp only
  refine KeepsIdle.trans ?_ .of_eq
  refine KeepsIdle.trans ?_ (keepsIdle_discardPass j _)
  refine KeepsIdle.trans ?_ (keepsIdle_stopColls j _)
  refine KeepsIdle.trans ?_ (apart_onHome _ _).keepsIdle
  refine KeepsIdle.trans ?_ (apart_onHome _ _).keepsIdle
  refine KeepsIdle.trans ((apart_withdrawFar j s).trans (harrs _ _)).keepsIdle (keepsIdle_foldl (fun s k => ?_) _ _)
  exact (keepsIdle_onCoreAt k (f := fun c => { c with ev := { c.ev with ccreq := none } }) s (fun _ => ⟨rfl, rfl⟩)
    fun _ h1 h2 => ⟨h1, h2⟩).trans (keepsIdle_releaseCore k _)

theorem keepsIdle_notify (h : Word) (bs : List Byte) (asid : Nat) (team : Option Nat) (s : State) : KeepsIdle s (notify h bs asid team s) := by
  have hpush : ∀ w h e, KeepsIdle s (qPush w h e s).2 := fun w h e => by
    unfold qPush
    split
    · exact .of_eq
    · split
      · exact .of_eq
      · split <;> exact .of_eq
  unfold notify pushNotif
  dsimp only
  split
  · exact .of_eq
  · split
    · exact .of_eq
    · split
      · split
        · exact .of_eq
        · exact (apart_sendPkt _ _ s).keepsIdle.trans .of_eq
      · split
        · exact hpush _ _ _
        · split <;> exact .of_eq

theorem keepsIdle_endTeam (j st : Nat) (s : State) : KeepsIdle s (endTeam j st s) := by
  unfold endTeam
  split
  · exact .of_eq
  · refine KeepsIdle.trans ?_ (.of_eq (s := notify _ _ _ _ _))
    refine KeepsIdle.trans ?_ (keepsIdle_notify _ _ _ _ _)
    refine KeepsIdle.trans ?_ (apart_onGrp _ _).keepsIdle
    have hclosed := (keepsIdle_stopTeam j s).trans (keepsIdle_closeWins j _)
    split
    · exact (hclosed.trans (apart_onGrp _ _).keepsIdle).trans (apart_forgetGroup _ _ _ _).keepsIdle
    · exact hclosed.trans (apart_onGrp _ _).keepsIdle

/-- From `s` to `t` the core in focus keeps its number and its state, and the teams stand. -/
structure Works (s t : State) : Prop where
  focus : t.focus = s.focus
  st : t.core.st = s.core.st
  teams : t.dist.teams = s.dist.teams

theorem Works.trans (h : Works s t) (k : Works t u) : Works s u := ⟨k.focus.trans h.focus, k.st.trans h.st, k.teams.trans h.teams⟩

/-- A change of none of those parts. -/
theorem Works.of_eq (focus : t.focus = s.focus := by rfl) (st : t.core.st = s.core.st := by rfl)
    (teams : t.dist.teams = s.dist.teams := by rfl) : Works s t := ⟨focus, st, teams⟩

theorem HomeStands.works (h : HomeStands s t) : Works s t :=
  ⟨by rw [State.focus, h.core, State.focus], by rw [h.core], by rw [h.dist]⟩

theorem PassStand.works (h : PassStand s t) : Works s t := ⟨by rw [State.focus, h.core, State.focus], by rw [h.core], by rw [h.areas.dist]⟩

theorem NetOnly.works (h : NetOnly s t) : Works s t := by
  rw [h]
  exact .of_eq

theorem works_foldl {α : Type} {f : State → α → State} (hf : ∀ s a, Works s (f s a)) (xs : List α) (s : State) : Works s (xs.foldl f s) := by
  induction xs generalizing s with
  | nil => exact .of_eq
  | cons a r ih => exact (hf s a).trans (ih _)

theorem works_onCoreAt (j : Nat) {f : Core → Core} (s : State) (hn : ∀ c, (f c).num = c.num ∧ (f c).ctl = c.ctl) (hst : ∀ c, (f c).st = c.st) :
    Works s (onCoreAt j f s) := by
  refine ⟨focus_onCoreAt (coreKey_kept hn), ?_, by rw [onCoreAt_dist]⟩
  unfold onCoreAt setCoreAt
  split
  case isTrue hj => rw [hj, coreAt_focus]; exact hst _
  case isFalse => rfl

theorem works_restorePass (j : Nat) (s : State) : Works s (restorePass j s).2 := by
  have hwins : ∀ (w : Who) (ws : List (Nat × Win)) u, w.meas = false → PassStand u (ws.foldl (fun u p => restoreWin w j p u) u) := fun w ws u hw =>
    passStand_foldl (fun u p => passStand_restoreWin hw j p u) ws u
  have hflush : ∀ u, Works u (onCm (fun c => { c with tlb := [] }) (rcClear u)) := fun _ => .of_eq
  have hdrop : Works s (dropPassWins j (dropMarked j s)) := .of_eq
  rw [restorePass_eq]
  exact (hdrop.trans (hwins _ _ _ rfl).works).trans (hflush _)

theorem works_releaseObj (a : Agent) (key : Nat) (o : Obj) (s : State) : Works s (releaseObj a key o s) := by
  have hput : ∀ o u, Works u (putObj o u) := fun _ _ => .of_eq
  exact ((homeStands_publish _ _ s).works.trans (works_onCoreAt key (f := rcFilter (fun l => pcsMeet [(l, 64)] o.pcs)) _
    (fun _ => ⟨rfl, rfl⟩) fun _ => rfl)).trans (hput _ _)

/-- What END does before the core is let go, with its task marked. -/
def endHeld (k : Cont) (s : State) : State :=
  let key := s.focus
  let me := agentOf key s.core
  let s := if s.core.pm.open_ then (restorePass k.team s).2 else s
  let s := markTrig k.team k.task s
  let s := dropWaits (fun a => a.same me) s
  let s := (heldObjs s me).foldl (fun s o => releaseObj me key o s) s
  (awayPkgs s s.core s.core.cm.held s.core.cm.regs).foldl
    (fun s p => tell p kWithdraw k.team (leBytes 1 1 ++ agentBytes me) s) s

/-- The core let go by END, the stream entries it hosts kept. -/
def endGone (key : Nat) (k : Cont) (s : State) : State :=
  onCoreAt key (fun c => { c with sb := { c.sb with ent := s.core.sb.ent } })
    (releaseCore key (dropSlot k.ctx (logSched k.team 7 k.prio k.task 0 0 s)))

/-- The team's counts lowered, and the next task of a FIXED slot. -/
def endNext (key : Nat) (k : Cont) (x : Team) (s : State) : State :=
  let s := onTeam k.team (fun x => { x with live := x.live - 1, conts := x.conts - 1 }) s
  match k.slot with
  | some i => if x.card.gang then nextOfGang key k x.card i s else nextOfSlot key k x.card i s
  | none => s

theorem endTask_eq (k : Cont) (x : Team) (s : State) :
    endTask k x s = retireIfDone k.team (endNext s.focus k x (endGone s.focus k (endHeld k s))) := rfl

/-- The cores stand, and of team `n` the live count, the tasks marked and the card. -/
structure CardStands (n : Nat) (s t : State) : Prop where
  cores : ∀ j, coreAt t j = coreAt s j
  team : ∀ x, teamOf s n = some x → ∃ y, teamOf t n = some y ∧ y.live = x.live ∧ y.trig = x.trig ∧ y.card = x.card

theorem CardStands.trans (h : CardStands n s t) (k : CardStands n t u) : CardStands n s u := by
  refine ⟨fun c => (k.cores c).trans (h.cores c), fun x hx => ?_⟩
  obtain ⟨y, hy, hlive, htrig, hcard⟩ := h.team x hx
  obtain ⟨z, hz, hlive', htrig', hcard'⟩ := k.team y hy
  exact ⟨z, hz, hlive'.trans hlive, htrig'.trans htrig, hcard'.trans hcard⟩

/-- A change of the distributor that leaves the teams alone. -/
theorem cardStands_onDist {f : DistSt → DistSt} (h : (f s.dist).teams = s.dist.teams) : CardStands n s (onDist f s) :=
  ⟨fun _ => rfl, fun x hx => ⟨x, (congrArg (mfind? · n) h).trans hx, rfl, rfl, rfl⟩⟩

theorem CardStands.refl (s : State) : CardStands n s s := cardStands_onDist (f := id) rfl

theorem cardStands_onTeam {f : Team → Team} (hf : ∀ x, (f x).live = x.live ∧ (f x).trig = x.trig ∧ (f x).card = x.card) :
    CardStands n s (onTeam n f s) :=
  ⟨coreAt_onTeam f s, fun x hx => ⟨f x, teamOf_onTeam_self hx, hf x⟩⟩

theorem cardStands_foldl {α : Type} {f : State → α → State} (hf : ∀ s a, CardStands n s (f s a)) (xs : List α) (s : State) :
    CardStands n s (xs.foldl f s) := by
  induction xs generalizing s with
  | nil => exact .refl s
  | cons a r ih => exact (hf s a).trans (ih _)

theorem cardStands_place (j : Nat) (c : Cont) (s : State) : CardStands n s (place j c s) := cardStands_onDist rfl
theorem cardStands_keepPool (ctx team : Nat) (s : State) : CardStands n s (keepPool ctx team s) :=
  ⟨fun _ => rfl, fun x hx => ⟨x, hx, rfl, rfl, rfl⟩⟩

theorem cardStands_keptPool (ctx team : Nat) (s : State) : CardStands n s (if ctx = 0 then s else keepPool ctx team s) := by
  split
  · exact .refl s
  · exact cardStands_keepPool ..

theorem cardStands_nextOfSlot (key : Nat) (k : Cont) (c : Card) (i : Nat) (s : State) : CardStands k.team s (nextOfSlot key k c i s) := by
  have hpool := fun ctx => cardStands_keptPool (n := k.team) ctx k.team s
  unfold nextOfSlot
  dsimp only
  split
  · split
    · exact (hpool _).trans (cardStands_onTeam fun _ => ⟨rfl, rfl, rfl⟩)
    · exact ((hpool _).trans (cardStands_place ..)).trans (cardStands_onTeam fun _ => ⟨rfl, rfl, rfl⟩)
  · exact .refl s

theorem cardStands_nextOfGang (key : Nat) (k : Cont) (c : Card) (i : Nat) (s : State) : CardStands k.team s (nextOfGang key k c i s) := by
  have hends : ∀ (es : List (Nat × Option Nat × Nat)) u, CardStands k.team u (onTeam k.team (fun x => { x with gangEnd := es }) u) :=
    fun _ _ => cardStands_onTeam fun _ => ⟨rfl, rfl, rfl⟩
  have hpool := fun ctx => cardStands_keptPool (n := k.team) ctx k.team s
  have hplaces : ∀ (es : List (Nat × Option Nat × Nat)) (f : Nat × Option Nat × Nat → Cont) u,
      CardStands k.team u (es.foldl (fun s e => place (key / 4 * 4 + e.1 % 4) (f e) s) u) := fun es f u =>
    cardStands_foldl (f := fun s (e : Nat × Option Nat × Nat) => place (key / 4 * 4 + e.1 % 4) (f e) s) (fun _ _ => cardStands_place ..) es u
  have hconts : ∀ u, CardStands k.team u (onTeam k.team (fun x => { x with conts := x.conts + 4 }) u) := fun _ =>
    cardStands_onTeam fun _ => ⟨rfl, rfl, rfl⟩
  unfold nextOfGang
  dsimp only
  generalize (if ckKeeps s k.ctx = true then 0 else k.ctx) = ctx
  split
  · exact .refl s
  · by_cases hlast : k.idx / 4 + 1 < (c.slotRange i).2
    · rw [if_pos hlast, if_pos hlast, if_pos hlast]
      refine (hpool ctx).trans ?_
      generalize (if ctx = 0 then s else keepPool ctx k.team s) = u
      split
      · exact hends _ _
      · exact ((hends _ _).trans (hplaces _ _ _)).trans (hconts _)
    · rw [if_neg hlast, if_neg hlast, if_neg hlast]
      split
      · exact hends _ _
      · exact hends _ _

theorem works_onTeam {j : Nat} {f : Team → Team} : (onTeam j f s).focus = s.focus ∧ (onTeam j f s).core.st = s.core.st := by
  rw [State.focus, onTeam_core]
  exact ⟨rfl, rfl⟩

/-- What END does first keeps the core's number and state and the team's live count and card; its task is marked. -/
theorem endHeld_spec (hx : teamOf s k.team = some x) :
    (endHeld k s).focus = s.focus ∧ (endHeld k s).core.st = s.core.st ∧
      ∃ y, teamOf (endHeld k s) k.team = some y ∧ y.live = x.live ∧ k.task ∈ y.trig ∧ y.card = x.card := by
  unfold endHeld
  extract_lets key me pass marked dropped freed
  have hpass : Works s pass := by
    unfold pass
    split
    · exact works_restorePass ..
    · exact .of_eq
  have hfreed : Works marked freed := (Works.of_eq : Works marked dropped).trans (works_foldl (fun s o => works_releaseObj me key o s) _ _)
  have hafter := hfreed.trans (netOnly_foldl (fun s p => netOnly_tell p kWithdraw k.team (leBytes 1 1 ++ agentBytes me) s)
    (awayPkgs freed freed.core freed.core.cm.held freed.core.cm.regs) freed).works
  obtain ⟨hfocus, hst⟩ : marked.focus = pass.focus ∧ marked.core.st = pass.core.st := works_onTeam
  have hteam := teamOf_onTeam_self (f := fun x =>
    let tr := if x.trig.contains k.task then x.trig else x.trig ++ [k.task]
    { x with trig := tr, trigd := x.trigd || decide (x.card.n ≤ tr.length) }) ((congrArg (mfind? · k.team) hpass.teams).trans hx)
  refine ⟨hafter.focus.trans (hfocus.trans hpass.focus), hafter.st.trans (hst.trans hpass.st), _,
    (congrArg (mfind? · k.team) hafter.teams).trans hteam, rfl, ?_, rfl⟩
  dsimp only
  split
  case isTrue h => exact List.contains_iff_mem.mp h
  case isFalse => exact List.mem_append_right _ (List.mem_singleton.mpr rfl)

theorem works_dropSlot_logSched (s : State) : Works s (dropSlot k.ctx (logSched k.team 7 k.prio k.task 0 0 s)) :=
  (homeStands_logWrite ..).works.trans .of_eq

theorem rests_endGone (hst : s.core.st ≠ .dhalt) : Rests (endGone s.focus k s) s.focus := by
  have hworks := works_dropSlot_logSched (k := k) s
  have hrests : Rests (releaseCore s.focus (dropSlot k.ctx (logSched k.team 7 k.prio k.task 0 0 s))) s.focus := by
    refine rests_releaseCore ?_
    rw [← hworks.focus, coreAt_focus, hworks.st]
    exact hst
  exact keepsIdle_onCoreAt s.focus (f := fun c => { c with sb := { c.sb with ent := s.core.sb.ent } }) _ (fun _ => ⟨rfl, rfl⟩)
    (fun _ h1 h2 => ⟨h1, h2⟩) _ hrests

theorem teamOf_endGone (key j : Nat) (s : State) : teamOf (endGone key k s) j = teamOf s j := by
  unfold endGone
  rw [teamOf, onCoreAt_dist, releaseCore_dist, (works_dropSlot_logSched s).teams]
  rfl

theorem teamOf_endTeam_self (j st : Nat) (s : State) : teamOf (endTeam j st s) j = none := by
  cases hx : teamOf s j with
  | none => unfold endTeam; rw [hx]; exact hx
  | some x =>
    obtain ⟨v, -, hv⟩ := endTeam_eq s j st hx
    rw [hv]
    exact mfind?_mdel_self _ _

theorem keepsIdle_retireIfDone (j : Nat) (s : State) : KeepsIdle s (retireIfDone j s) := by
  unfold retireIfDone
  split
  · split
    · exact keepsIdle_endTeam _ _ _
    · exact .of_eq
  · exact .of_eq

theorem cardStands_nextTask (key : Nat) (k : Cont) (x : Team) (s : State) :
    CardStands k.team (onTeam k.team (fun x => { x with live := x.live - 1, conts := x.conts - 1 }) s) (endNext key k x s) := by
  unfold endNext
  dsimp only
  split
  · split
    · exact cardStands_nextOfGang ..
    · exact cardStands_nextOfSlot ..
  · exact .refl _

theorem keepsIdle_endNext (key : Nat) (k : Cont) (x : Team) (s : State) : KeepsIdle s (endNext key k x s) :=
  .of_coreAt fun j => ((cardStands_nextTask key k x s).cores j).trans (coreAt_onTeam _ s j)

theorem teamOf_endNext {key : Nat} {y : Team} (hy : teamOf s k.team = some y) :
    ∃ z, teamOf (endNext key k x s) k.team = some z ∧ z.live = y.live - 1 ∧ z.trig = y.trig ∧ z.card = y.card :=
  (cardStands_nextTask key k x s).team _ (teamOf_onTeam_self (f := fun x => { x with live := x.live - 1, conts := x.conts - 1 }) hy)

/-- The core of a task that ends is let go; the team counts one task less, or retires with the last. -/
theorem endTask_spec (hst : s.core.st = .run) (hx : teamOf s k.team = some x) :
    Rests (endTask k x s) s.focus ∧
      (2 ≤ x.live → ∃ y, teamOf (endTask k x s) k.team = some y ∧ y.live = x.live - 1 ∧ k.task ∈ y.trig ∧ y.card = x.card) ∧
      (x.live = 1 → teamOf (endTask k x s) k.team = none) := by
  obtain ⟨hfocus, hheld, y, hy, hlive, htrig, hcard⟩ := endHeld_spec hx
  have hrests : Rests (endGone s.focus k (endHeld k s)) s.focus := hfocus ▸ rests_endGone (by rw [hheld, hst]; decide)
  obtain ⟨z, hz, hlive', htrig', hcard'⟩ := teamOf_endNext (key := s.focus) (x := x) ((teamOf_endGone s.focus k.team _).trans hy)
  rw [endTask_eq]
  refine ⟨keepsIdle_retireIfDone _ _ _ (keepsIdle_endNext _ _ _ _ _ hrests), fun hmore => ?more, fun hlast => ?last⟩
  case more =>
    refine ⟨z, ?_, hlive'.trans (by rw [hlive]), htrig' ▸ htrig, hcard'.trans hcard⟩
    unfold retireIfDone
    rw [hz]
    exact (congrArg (teamOf · k.team) (if_neg (by omega))).trans hz
  case last =>
    unfold retireIfDone
    rw [hz]
    exact (congrArg (teamOf · k.team) (if_pos (by omega))).trans (teamOf_endTeam_self ..)

end Ends

/-! ### The obligation -/

theorem releaseAll_of_podDone {s : State} (h : recov s = true → podDone s) (f : State → State) : releaseAll f s = f s := by
  unfold releaseAll releaseAt
  split
  case isTrue hrec => exact releaseElse_of_podDone (h hrec) _ _
  case isFalse => rfl

theorem execEndTask_eq {g n : Nat} {s : State} {k : Cont} {x : Team} (hg : guardOk g n s = true) (h : SuspMay k x s) (hquiet : quiet (drain s).core = true)
    (hroom : logRoom (drain s) k.team 2) (hpod : recov (drain s) = true → podDone (drain s)) :
    execEndTask g n s = .next (endTask k x (drain s)) := by
  refine (slotDo_of_guard hg).trans (congrArg _ ?_)
  rw [h.suspOk, h.myTask_eq]
  exact (whenQuiet_of_quiet _ hquiet).trans ((releaseAll_of_podDone hpod _).trans (logNeed_of_room hroom (Nat.le_succ 1) _))

section Obligation
variable {g n d b : Nat} {s : State} {k : Cont} {x : Team} {q : Queue}

theorem yields_of_mayYield (keep : Bool) (hg : guardOk g n s = true) (h : SuspMay k x s) (hquiet : quiet (drain s).core = true)
    (hroom : logRoom (drain s) k.team 2) :
    ∃ t y, yieldDo keep g n s = .next t ∧ Rests t s.focus ∧ teamOf t k.team = some y ∧
      y.ready = x.ready ++ [suspCont keep k (drain s)] ∧ y.live = x.live ∧ (slotAt t k.ctx).st = .ready ∧
      (slotAt t k.ctx).cont = some (suspCont keep k (drain s)) ∧ (slotAt t k.ctx).ctx.isSome = keep := by
  obtain ⟨hst, hfocus, hteam⟩ := h.drained
  have hleaves : Leaves k.team 0 (drain s) (logReserve k.team 1 (logSched k.team 5 k.prio k.task 0 0 (drain s))) :=
    (homeStands_logWrite ..).leaves.trans (leaves_logReserve ..)
  obtain ⟨hrests, ⟨y, hy, hready, hlive⟩, ⟨hslot, hcont, -, hctx⟩, -⟩ :=
    suspend_spec keep .ready (suspCont keep k (drain s)) none hleaves hst hteam
  have hslots : ∀ m f u, slotAt (onTeam m f u) k.ctx = slotAt u k.ctx := fun m f u => by rw [slotAt, slotAt, onTeam_slots]
  refine ⟨_, _, yieldDo_eq keep hg h hquiet hroom, ?rests, teamOf_onTeam_self hy, congrArg (· ++ _) hready, hlive, ?slot, ?cont, ?ctx⟩
  case rests =>
    rw [Rests, ← hfocus, pushReady, coreAt_onTeam]
    exact hrests
  case slot => rw [pushReady, hslots]; exact hslot
  case cont => rw [pushReady, hslots]; exact hcont
  case ctx => rw [pushReady, hslots]; exact hctx

/-- The state after a suspension whose record went to queue `key`. -/
theorem suspended_spec {z : State} (keep : Bool) (c : Cont) (d key prio task : Nat) (q : Queue) (hst : z.core.st = .run)
    (hx : teamOf z n = some x) :
    let t := suspend keep .suspended c (some (d, 0)) (logReserve n 1 (logSched n 4 prio task 0 0 (putQueue key q z)))
    Rests t z.focus ∧ (∃ y, teamOf t n = some y ∧ y.ready = x.ready ∧ y.live = x.live) ∧
      (let p := slotAt t c.ctx
       p.st = .suspended ∧ p.cont = some c ∧ p.ret = some (d, 0)) ∧
      ∃ q', mfind? t.home.queues key = some q' ∧ q'.ents = q.ents := by
  have hleaves : Leaves n key (putQueue key q z) (logReserve n 1 (logSched n 4 prio task 0 0 (putQueue key q z))) :=
    (homeStands_logWrite ..).leaves.trans (leaves_logReserve ..)
  obtain ⟨hrests, hteam, ⟨hslot, hcont, hret, -⟩, hents⟩ := suspend_spec keep .suspended c (some (d, 0)) hleaves hst hx
  exact ⟨hrests, hteam, ⟨hslot, hcont, hret⟩, hents q (mfind?_mput_self z.home.queues key q)⟩

theorem suspends_of_maySuspend (keep : Bool) (hg : guardOk g n s = true) (h : SuspMay k x s) (hquiet : quiet (drain s).core = true)
    (hroom : logRoom (drain s) k.team 2) (hok : (hndOf (rdS s b)).ok = true) (hpkg : (hndOf (rdS s b)).pkg = s.ctl.pkgNum)
    (hq : QueueHere (drain s) (hndOf (rdS s b)) q) (hcap : q.ents.length < q.cap) (hwaits : q.waits = []) :
    ∃ t y, suspDo keep g n d b s = .next t ∧ Rests t s.focus ∧ teamOf t k.team = some y ∧ y.ready = x.ready ∧ y.live = x.live ∧
      (slotAt t k.ctx).st = .suspended ∧ (slotAt t k.ctx).cont = some (suspCont keep k (drain s)) ∧ (slotAt t k.ctx).ret = some (d, 0) ∧
      ∃ q', mfind? t.home.queues (hndOf (rdS s b)).key = some q' ∧ q'.ents = q.ents ++ [recordBytes (suspCont keep k (drain s))] := by
  obtain ⟨hst, hfocus, hteam⟩ := h.drained
  obtain ⟨hrests, ⟨y, hy, hready, hlive⟩, ⟨hslot, hcont, hret⟩, hents⟩ :=
    suspended_spec keep (suspCont keep k (drain s)) d (hndOf (rdS s b)).key k.prio k.task
      { q with ents := q.ents ++ [recordBytes (suspCont keep k (drain s))] } hst hteam
  exact ⟨_, y, suspDo_eq keep hg h hquiet hroom hok hpkg hq hcap hwaits, hfocus ▸ hrests, hy, hready, hlive, hslot, hcont, hret, hents⟩

/-- Settles O35: a suspension lands the issued results and lets the core go with the continuation in its slot (`suspend_spec`); END also
frees what the task holds and counts it (`endTask_spec`). -/
theorem suspensionForms : Obligations.SuspensionForms := by
  unfold Obligations.SuspensionForms
  intro s g n d b k x q hg hctl hpl hrun hloops hcont hteam z hquiet hroom idle cont yields suspends
  have hmay : SuspMay k x s := ⟨hctl, hpl, hrun, hloops, hcont, hteam⟩
  obtain ⟨hst, hfocus, hdrained⟩ := hmay.drained
  refine ⟨yields_of_mayYield false hg hmay hquiet hroom, yields_of_mayYield true hg hmay hquiet hroom, ?susp, fun hpod => ?ends⟩
  case susp =>
    intro h hok hpkg hfound hlive hgen hasid hcap hwaits
    have hq : QueueHere z h q := ⟨hfound, hlive, hgen, .inr hasid⟩
    exact ⟨suspends_of_maySuspend false hg hmay hquiet hroom hok hpkg hq hcap hwaits,
      suspends_of_maySuspend true hg hmay hquiet hroom hok hpkg hq hcap hwaits⟩
  case ends =>
    refine ⟨_, execEndTask_eq hg hmay hquiet hroom hpod, ?_⟩
    have h := endTask_spec hst hdrained
    rw [hfocus] at h
    exact h

end Obligation

end Sys2Proof.Proofs
end

section
/-!
PROOFS. Launching, TRIGGER, RESUME and WFE (16 R279–R284). Reading the argument table changes caches only (`cachesOnly_readArgs`).
-/
namespace Sys2Proof.Proofs
open Sys2Proof.Machine Sys2Proof.Claims Sys2Proof.Laws

section Results
variable {s t : State}

theorem retDev_pend_of_core (d : Nat) (x : Word) (h : t.core = s.core) : (retDev d x t).core.pend = (retDev d x s).core.pend :=
  retDev_pend_congr d x (by rw [h]) (by rw [h]) (by rw [h]) (by rw [h]) (by rw [h])

end Results

/-! ### SPAWN, TRIGGER, RESUME, WFE -/

section Forms
variable {s : State} {g n d a b : Nat} {k : Cont} {x : Team}

theorem taskOk_of (hctl : s.core.ctl = false) (hpl : s.core.x.pl = false) : taskOk s = true := by simp [taskOk, hctl, hpl]

theorem myTask_of (hcont : s.core.task.cont = some k) (hteam : teamOf s k.team = some x) : myTask s = some (k, x) := by
  simp [myTask, hcont, hteam]

/-- The state SPAWN leaves. -/
def spawned (d : Nat) (k c : Cont) (s : State) : State :=
  retStatus d 0 (onTeam k.team (fun x => { x with live := x.live + 1, conts := x.conts + 1, ready := x.ready ++ [c] })
    (logReserve k.team 1 (logSched k.team 3 k.prio k.task 0 0 s)))

theorem execSpawn_eq (hg : guardOk g n s = true) (htask : taskOk s = true) (hmy : myTask s = some (k, x))
    (halign : (rdA s a).toNat % 4 = 0) (hconts : x.conts < 2 ^ 20) (hrsv : rsvFull s = false) (hroom : logRoom s k.team 2) :
    execSpawn g n d a b s = .next (spawned d k { k with
      pc := rdA s a, keep := false, ctx := 0, args := (List.range 6).map (fun i => rdS s (b + i)), slot := none, fresh := true, pre := false } s) := by
  refine (slotDo_of_guard hg).trans (congrArg _ ?_)
  rw [htask, hmy]
  have hfull : ¬(2 ^ 20 ≤ x.conts ∨ rsvFull s = true) := by rw [hrsv, not_or]; exact ⟨Nat.not_le.mpr hconts, Bool.false_ne_true⟩
  exact ((if_neg (Decidable.not_not.mpr halign)).trans (if_neg hfull)).trans (logNeed_of_room hroom (Nat.le_refl 2) _)

theorem teamOf_onTeam_ne {f : Team → Team} {i : Nat} (hi : i ≠ n) : teamOf (onTeam n f s) i = teamOf s i := by
  unfold onTeam
  split
  case h_1 => exact mfind?_mput_ne s.dist.teams _ hi
  case h_2 => rfl

theorem teamOf_logReserve (m : Nat) (hx : teamOf s n = some x) :
    ∃ r, teamOf (logReserve n m s) n = some { x with logRes := r } := by
  unfold logReserve
  split
  · exact ⟨x.logRes + m, teamOf_onTeam_self hx⟩
  · exact ⟨x.logRes, hx⟩

theorem teamOf_logReserve_ne (m : Nat) {i : Nat} (hi : i ≠ n) : teamOf (logReserve n m s) i = teamOf s i := by
  unfold logReserve
  split
  · exact teamOf_onTeam_ne hi
  · rfl

theorem logReserve_core (n m : Nat) (s : State) : (logReserve n m s).core = s.core := by
  unfold logReserve
  split
  · exact onTeam_core ..
  · rfl

theorem spawned_core (d : Nat) (k c : Cont) (s : State) :
    (spawned d k c s).core.pend = (retStatus d 0 s).core.pend ∧ (spawned d k c s).core.sc = s.core.sc ∧
      (spawned d k c s).core.vec = s.core.vec ∧ (spawned d k c s).core.x = s.core.x := by
  have hcore : (onTeam k.team (fun x => { x with live := x.live + 1, conts := x.conts + 1, ready := x.ready ++ [c] })
      (logReserve k.team 1 (logSched k.team 3 k.prio k.task 0 0 s))).core = s.core :=
    ((onTeam_core ..).trans (logReserve_core ..)).trans (logOnly_logSched ..).core
  unfold spawned
  refine ⟨retDev_pend_of_core d _ hcore, ?_, ?_, ?_⟩ <;> simp only [retStatus, retDev_core_sc, retDev_core_vec, retDev_core_x, hcore]

theorem teamOf_spawned (c : Cont) (hx : teamOf s k.team = some x) :
    ∃ y, teamOf (spawned d k c s) k.team = some y ∧ y.live = x.live + 1 ∧ y.conts = x.conts + 1 ∧ y.ready = x.ready ++ [c] ∧ y.card = x.card := by
  have hlog : teamOf (logSched k.team 3 k.prio k.task 0 0 s) k.team = some x := by rw [teamOf, (logOnly_logSched ..).dist]; exact hx
  obtain ⟨r, hr⟩ := teamOf_logReserve 1 hlog
  exact ⟨_, teamOf_onTeam_self hr, rfl, rfl, rfl, rfl⟩

theorem teamOf_spawned_ne (d : Nat) (k c : Cont) (s : State) {i : Nat} (hi : i ≠ k.team) : teamOf (spawned d k c s) i = teamOf s i := by
  have hlog : teamOf (logSched k.team 3 k.prio k.task 0 0 s) i = teamOf s i := by rw [teamOf, (logOnly_logSched ..).dist]; rfl
  exact ((teamOf_onTeam_ne hi).trans (teamOf_logReserve_ne 1 hi)).trans hlog

theorem execTrigger_eq (hg : guardOk g n s = true) (htask : taskOk s = true) (hcont : s.core.task.cont = some k)
    (hpod : recov s = true → podDone s) : execTrigger g n s = .next (markTrig k.team k.task s) := by
  refine (slotDo_of_guard hg).trans (congrArg _ ?_)
  rw [htask, hcont]
  exact releaseAll_of_podDone hpod _

/-- The team with a task marked. -/
def trigged (task : Nat) (x : Team) : Team :=
  let tr := if x.trig.contains task then x.trig else x.trig ++ [task]
  { x with trig := tr, trigd := x.trigd || decide (x.card.n ≤ tr.length) }

theorem markTrig_eq (task : Nat) (hx : teamOf s n = some x) : markTrig n task s = onTeam n (fun _ => trigged task x) s := by
  rw [markTrig, onTeam_of_team s n hx, onTeam_of_team s n hx]
  rfl

theorem trigged_trigd (task : Nat) (x : Team) : (trigged task x).trigd = true ↔ (x.trigd = true ∨ x.card.n ≤ (trigged task x).trig.length) := by
  simp [trigged]

theorem execWfe_eq (hg : guardOk g n s = true) (htask : taskOk s = true) (hexposed : exposed s = false) (hevq : s.core.cp.evq ≠ []) :
    execWfe g n s = .next s := by
  refine (slotDo_of_guard hg).trans (congrArg _ ?_)
  simp [htask, hexposed, hevq]

/-- The state RESUME leaves. -/
def resumed (d slot : Nat) (p : PSlot) (c : Cont) (s : State) : State :=
  retStatus d 0 (pushReady c (putSlot slot { p with st := .ready, cont := some c } (logSched c.team 6 c.prio c.task 0 0 s)))

/-- What RESUME does with a record. -/
def resumeWith (d : Nat) (b : List Byte) (s : State) : State :=
  let slot := leAt b 8 8 / 2 ^ 12 % 2 ^ 12
  let x := slotAt s slot
  match x.cont with
  | some old =>
    let c := recordCont b old
    if (teamOf s c.team).isSome ∧ slot ≠ 0 ∧ x.team = c.team ∧ x.st = .suspended then
      logNeed c.team 1 (fun s =>
        let s := logSched c.team 6 c.prio c.task 0 0 s
        retStatus d 0 (pushReady c (putSlot slot { x with st := .ready, cont := some c } s))) s
    else retStatus d 1 s
  | none => retStatus d 1 s

theorem resumeWith_eq {rec_ : List Byte} {old : Cont} {y : Team} (hold : (slotAt s (leAt rec_ 8 8 / 2 ^ 12 % 2 ^ 12)).cont = some old)
    (hslot : leAt rec_ 8 8 / 2 ^ 12 % 2 ^ 12 ≠ 0) (hst : (slotAt s (leAt rec_ 8 8 / 2 ^ 12 % 2 ^ 12)).st = .suspended)
    (hown : (slotAt s (leAt rec_ 8 8 / 2 ^ 12 % 2 ^ 12)).team = (recordCont rec_ old).team)
    (hteam : teamOf s (recordCont rec_ old).team = some y) (hroom : logRoom s (recordCont rec_ old).team 1) :
    resumeWith d rec_ s =
      resumed d (leAt rec_ 8 8 / 2 ^ 12 % 2 ^ 12) (slotAt s (leAt rec_ 8 8 / 2 ^ 12 % 2 ^ 12)) (recordCont rec_ old) s := by
  unfold resumeWith
  dsimp only
  rw [hold]
  exact (if_pos ⟨by rw [hteam]; rfl, hslot, hown, hst⟩).trans (logNeed_of_room hroom (Nat.le_refl 1) _)

theorem execResume_eq (hg : guardOk g n s = true) (htask : taskOk s = true) (hfree : portsFree s)
    (hline : ownLineFault false (rdA s a) 64 s = none) (hphase : spadFault s 0 false (rdA s a) 64 [(0, 64)] = none) :
    ∃ q, execResume g n d a s = .next (resumeWith d (spadBytes s.core 1 ((rdA s a).toNat % 2 ^ 20) 64) (onIss (tookPort 1 64 q) s)) := by
  obtain ⟨q, hread⟩ := ownLine_reads hfree (by decide) hline hphase (resumeWith d)
  refine ⟨q, (slotDo_of_guard hg).trans (congrArg _ ?_)⟩
  rw [htask]
  exact hread

theorem resumed_spec {slot : Nat} {p : PSlot} {c : Cont} {y : Team} (hy : teamOf s c.team = some y) :
    let z := resumed d slot p c s
    (∃ y', teamOf z c.team = some y' ∧ y'.ready = y.ready ++ [c] ∧ y'.live = y.live) ∧ (slotAt z slot).st = .ready ∧
      (slotAt z slot).ctx = p.ctx ∧ z.core.pend = (retStatus d 0 s).core.pend ∧ z.core.sc = s.core.sc ∧ z.core.vec = s.core.vec := by
  have hlog := logOnly_logSched c.team 6 c.prio c.task 0 0 s
  have hteam : teamOf (putSlot slot { p with st := .ready, cont := some c } (logSched c.team 6 c.prio c.task 0 0 s)) c.team = some y := by
    have hsched : teamOf (logSched c.team 6 c.prio c.task 0 0 s) c.team = some y := by rw [teamOf, hlog.dist]; exact hy
    exact hsched
  have hslot : slotAt (resumed d slot p c s) slot = { p with st := .ready, cont := some c } := by
    have hpush := onTeam_slots (n := c.team) (fun x => { x with ready := x.ready ++ [c] })
      (putSlot slot { p with st := .ready, cont := some c } (logSched c.team 6 c.prio c.task 0 0 s))
    exact (congrArg (fun m => (mfind? m slot).getD PSlot.free) hpush).trans (slotAt_putSlot_self ..)
  have hcore : (pushReady c (putSlot slot { p with st := .ready, cont := some c } (logSched c.team 6 c.prio c.task 0 0 s))).core = s.core :=
    (onTeam_core ..).trans hlog.core
  intro z
  refine ⟨⟨_, teamOf_onTeam_self hteam, rfl, rfl⟩, by rw [hslot], by rw [hslot], retDev_pend_of_core d _ hcore, ?_, ?_⟩ <;>
    simp only [z, resumed, retStatus, retDev_core_sc, retDev_core_vec, hcore]

end Forms

/-! ### Reads leave the core and the distributor -/

section Reads
variable {s t u : State}

theorem cachesOnly_translate (ttb : Word) (user : Bool) (k : Acq) (va : Word) (s : State) :
    CachesOnly s (Machine.translate s.focus ttb false user k va s).2 := by
  have hcount := caches_atFocus (f := fun c => pmAdd 0x2D 1 (pmAdd 0x2C 1 c)) (caches_refl s)
    fun u => caches_trans (caches_count 0x2C 1 u) (caches_count 0x2D 1 _)
  have hiss := iss_onCoreAt (f := fun c => pmAdd 0x2D 1 (pmAdd 0x2C 1 c)) (fun c => (iss_pmAdd _ 1 _).trans (iss_pmAdd _ 1 c)) s.focus s
  unfold Machine.translate
  simp only [Bool.false_eq_true, if_false]
  split
  · exact ⟨rfl, rfl⟩
  · split
    · exact ⟨rfl, rfl⟩
    · exact ⟨caches_freshWalk _ _ _ _ _ hcount, (iss_freshWalk ..).trans hiss⟩

theorem cachesOnly_readArgs {key : Nat} (hkey : s.focus = key) (user : Bool) (ttb : Word) (rem : List Byte) (n va : Nat) :
    CachesOnly s (Machine.readArgs user key ttb rem n va s).2 := by
  induction n generalizing s va rem with
  | zero => exact ⟨rfl, rfl⟩
  | succ n ih =>
    have hone := cachesOnly_translate ttb user .rd (wd va) s
    rw [hkey] at hone
    unfold Machine.readArgs
    split
    case h_1 htr => rwa [htr] at hone
    case h_2 a e s' htr =>
      rw [htr] at hone
      dsimp only
      split
      · exact hone
      · have hrest := ih (s := s') (hone.focus_eq.trans hkey) (rem.drop 16) (va + 16)
        split
        case h_1 hread => rw [hread] at hrest; exact hone.trans hrest
        case h_2 hread => rw [hread] at hrest; exact hone.trans hrest

theorem cachesOnly_l2Touch (w : Who) (a : Nat) (s : State) (hw : w.key = s.focus) : CachesOnly s (l2Touch w false a s) :=
  ⟨caches_l2Touch w false a (caches_refl s) (.inl hw), iss_l2Touch w false a s⟩

theorem cachesOnly_argReads {w : Nat → Who} {key : Nat} (hw : ∀ i, (w i).key = key) (hkey : s.focus = key) (user : Bool) (ttb : Word)
    (n va : Nat) : CachesOnly s (argReads w user key ttb n va s) := by
  unfold argReads
  generalize List.range (cdiv (va % 64 + 16 * n) 64) = is
  induction is generalizing s with
  | nil => exact ⟨rfl, rfl⟩
  | cons i r ih =>
    rw [List.foldl_cons]
    split
    · split
      · have hone := fun w a (h : Who.key w = key) => cachesOnly_l2Touch w a s (h.trans hkey.symm)
        exact (hone _ _ (hw _)).trans (ih ((hone _ _ (hw _)).focus_eq.trans hkey))
      · exact ih hkey
    · exact ih hkey

end Reads

/-! ### LAUNCH -/

section Launch
variable {s u v w : State} {g n d a p e t : Nat} {k : Cont} {x : Team} {rs : List (Word × Nat × Nat)} {b : List Byte}

/-- The new team in place: its record, its number taken, its windows open and its records reserved. -/
def teamMade (asid : Nat) (log : Option Nat) (c : Card) (t : Nat) (s : State) : State :=
  let gen := mget 0 s.dist.gens t
  dealReserve t (launchRes c) (openWins t (onDist (fun d => { d with
    teams := mput d.teams t (newTeam gen asid c log), gens := mset 0 d.gens t ((gen + 1) % 65536), nextTeam := (t + 1) % 4096 }) s))

/-- The card's argument records are legal for its tasks. -/
structure CardOk (b : List Byte) (rs : List (Word × Nat × Nat)) : Prop where
  card : cardBad b = false
  args : ∀ r ∈ rs, r.2.1 ≠ 0 ∧ (cardOf b (rs.map (fun r => (r.1, r.2.1)))).n ≤ r.2.2 ∧ r.2.2 < 2 ^ 24
  tasks : (cardOf b (rs.map (fun r => (r.1, r.2.1)))).n ≠ 0

theorem launch_eq (hok : CardOk b rs) (hrsv : rsvFull s = false) (hfree : freeTeam s = some t) (asid : Nat) (log : Option Nat) :
    launch asid log b (some rs) s =
      (0, t + mget 0 s.dist.gens t * 2 ^ 12, teamMade asid log (cardOf b (rs.map (fun r => (r.1, r.2.1)))) t s) := by
  obtain ⟨hcard, hargs, htasks⟩ := hok
  have hzero : rs.any (fun r => decide (r.2.1 = 0)) = false := by
    rw [List.any_eq_false]
    intro r hr
    simpa using (hargs r hr).1
  have hfit : rs.any (fun r => decide (2 ^ 24 ≤ r.2.2 ∨ r.2.2 < (cardOf b (rs.map (fun r => (r.1, r.2.1)))).n)) = false := by
    rw [List.any_eq_false]
    intro r hr
    obtain ⟨-, hle, hlt⟩ := hargs r hr
    rw [decide_eq_true_iff]
    omega
  unfold launch
  simp only [hcard, Bool.false_eq_true, if_false, Option.getD_some, hzero, hrsv, hfree]
  rw [if_neg (ne_true_of_eq_false hfit), if_neg htasks]
  rfl

/-- A team made among `s`'s, with core, memory and log as there. -/
theorem teamMade_spec (asid : Nat) (log : Option Nat) (c : Card) (t : Nat) (s : State) :
    (∃ r, teamOf (teamMade asid log c t s) t = some { newTeam (mget 0 s.dist.gens t) asid c log with dealRes := r }) ∧
      (∀ i, i ≠ t → teamOf (teamMade asid log c t s) i = teamOf s i) ∧ (teamMade asid log c t s).core = s.core := by
  unfold teamMade dealReserve
  dsimp only
  have hself := mfind?_mput_self s.dist.teams t (newTeam (mget 0 s.dist.gens t) asid c log)
  have hothers : ∀ i, i ≠ t → mfind? (mput s.dist.teams t (newTeam (mget 0 s.dist.gens t) asid c log)) i = mfind? s.dist.teams i :=
    fun i hi => mfind?_mput_ne _ _ hi
  split
  · exact ⟨⟨_, teamOf_onTeam_self hself⟩, fun i hi => (teamOf_onTeam_ne hi).trans (hothers i hi), onTeam_core ..⟩
  · exact ⟨⟨_, hself⟩, hothers, rfl⟩

/-- The state after a launch. -/
def launched (d : Nat) (va : Word) (k : Cont) (x : Team) (c : Card) (t : Nat) (s : State) : State :=
  let h := t + mget 0 s.dist.gens t * 2 ^ 12
  retDev d (wd (h * 2 ^ 32)) (teamMade (fld s.core.x.ttb 63 52) x.log c t (logSched k.team 0 k.prio k.task va.toNat h s))

theorem rsvFull_congr (hdist : v.dist = w.dist) (hctl : v.ctl = w.ctl) : rsvFull v = rsvFull w := by rw [rsvFull, rsvFull, hdist, hctl]
theorem freeTeam_congr (hdist : v.dist = w.dist) : freeTeam v = freeTeam w := by rw [freeTeam, freeTeam, hdist]

theorem logFree_congr (hdist : v.dist = w.dist) (hmem : v.mem = w.mem) (n : Nat) : logFree v n = logFree w n := by
  unfold logFree logD teamOf
  rw [hdist, hmem]

theorem launchFrom_eq (va : Word) (hmy : myTask s = some (k, x)) (hok : CardOk b rs) (hrsv : rsvFull s = false) (hfree : freeTeam s = some t)
    (hroom : logRoom s k.team (1 + launchRes (cardOf b (rs.map (fun r => (r.1, r.2.1)))))) :
    launchFrom d va b (some rs) s = launched d va k x (cardOf b (rs.map (fun r => (r.1, r.2.1)))) t s := by
  have hlog := logOnly_logSched k.team 0 k.prio k.task va.toNat (t + mget 0 s.dist.gens t * 2 ^ 12) s
  have hafter := launch_eq (s := logSched k.team 0 k.prio k.task va.toNat (t + mget 0 s.dist.gens t * 2 ^ 12) s) (t := t) hok
    ((rsvFull_congr hlog.dist hlog.ctl).trans hrsv) ((freeTeam_congr hlog.dist).trans hfree) (fld s.core.x.ttb 63 52) x.log
  rw [hlog.dist] at hafter
  unfold launchFrom
  rw [hmy]
  dsimp only
  rw [launch_eq hok hrsv hfree]
  dsimp only
  rw [if_pos (Nat.zero_le 1)]
  refine (logNeed_of_room (hroom : logRoom s k.team (1 + launchRes (cardOf b []))) (Nat.le_refl _) _).trans ?_
  rw [if_pos (Nat.zero_le 1), if_pos rfl, launch_eq hok hrsv hfree, hafter, Nat.zero_add]
  rfl

theorem launched_spec (d : Nat) (va : Word) (k : Cont) (x : Team) (c : Card) (t : Nat) (s : State) :
    let z := launched d va k x c t s
    let gen := mget 0 s.dist.gens t
    (∃ r, teamOf z t = some { newTeam gen (fld s.core.x.ttb 63 52) c x.log with dealRes := r }) ∧ (∀ i, i ≠ t → teamOf z i = teamOf s i) ∧
      z.core.pend = (retDev d (wd ((t + gen * 2 ^ 12) * 2 ^ 32)) s).core.pend ∧ z.core.sc = s.core.sc ∧ z.core.vec = s.core.vec := by
  have hlog := logOnly_logSched k.team 0 k.prio k.task va.toNat (t + mget 0 s.dist.gens t * 2 ^ 12) s
  have hmade := teamMade_spec (fld s.core.x.ttb 63 52) x.log c t
    (logSched k.team 0 k.prio k.task va.toNat (t + mget 0 s.dist.gens t * 2 ^ 12) s)
  rw [hlog.dist, hlog.core] at hmade
  obtain ⟨hself, hothers, hcore⟩ := hmade
  intro z gen
  refine ⟨hself, fun i hi => (hothers i hi).trans (by rw [teamOf, hlog.dist]; rfl), retDev_pend_of_core d _ hcore, ?_, ?_⟩ <;>
    simp only [z, launched, retDev_core_sc, retDev_core_vec, hcore]

/-- LAUNCH once its card is read: the table is read, then the team made. -/
def tableRead (d : Nat) (va ttb : Word) (read : State → State) (b rem : List Byte) (s : State) : State :=
  let n := leAt b 0x14 4 % 8
  let (args, s) := Machine.readArgs true s.focus ttb rem n (leAt b 8 8) s
  launchFrom d va b args (if args.isSome then argReads (whoCore s.core) true s.focus ttb n (leAt b 8 8) (read s) else read s)

theorem execLaunch_eq (hg : guardOk g n s = true) (htask : taskOk s = true) (hhome : atHome .rd (rdA s a) 64 p e s u)
    (hret : retired u p = false)
    (haway : argsAway true u.focus s.core.x.ttb (leAt (memBytes u.mem p 64) 0x14 4 % 8) (leAt (memBytes u.mem p 64) 8 8) u = none) :
    execLaunch g n d a s = .next (tableRead d (rdA s a) s.core.x.ttb (l2Touch (whoCore u.core (leafCls e)) false p) (memBytes u.mem p 64) [] u) := by
  obtain ⟨halign, htrans, hreg, hown⟩ := hhome
  refine (slotDo_of_guard hg).trans (congrArg _ ?_)
  dsimp only
  rw [htask, htrans, Bool.not_true, if_neg Bool.false_ne_true, if_neg (Decidable.not_not.mpr halign)]
  dsimp only
  rw [hreg, hret, if_neg Bool.false_ne_true, if_neg Bool.false_ne_true, if_neg (Decidable.not_not.mpr hown), haway]
  rfl

theorem execLaunch_launched (hg : guardOk g n s = true) (htask : taskOk s = true) (hmy : myTask s = some (k, x))
    (hhome : atHome .rd (rdA s a) 64 p e s u) (hret : retired u p = false)
    (haway : argsAway true u.focus s.core.x.ttb (leAt (memBytes u.mem p 64) 0x14 4 % 8) (leAt (memBytes u.mem p 64) 8 8) u = none)
    (hread : Machine.readArgs true u.focus s.core.x.ttb [] (leAt (memBytes u.mem p 64) 0x14 4 % 8) (leAt (memBytes u.mem p 64) 8 8) u = (some rs, w))
    (hok : CardOk (memBytes u.mem p 64) rs) (hrsv : rsvFull w = false) (hfree : freeTeam w = some t)
    (hroom : logRoom w k.team (1 + launchRes (cardOf (memBytes u.mem p 64) (rs.map (fun r => (r.1, r.2.1)))))) :
    ∃ v, CachesOnly s v ∧ CachesOnly w v ∧ execLaunch g n d a s =
      .next (launched d (rdA s a) k x (cardOf (memBytes u.mem p 64) (rs.map (fun r => (r.1, r.2.1)))) t v) := by
  have hu := cachesOnly_of_atHome hhome
  have hw : CachesOnly u w := by
    have hcaches := cachesOnly_readArgs (s := u) rfl true s.core.x.ttb [] (leAt (memBytes u.mem p 64) 0x14 4 % 8) (leAt (memBytes u.mem p 64) 8 8)
    rwa [hread] at hcaches
  let touched := l2Touch (whoCore u.core (leafCls e)) false p w
  have htouched : CachesOnly w touched := cachesOnly_l2Touch _ p w hw.focus_eq.symm
  let v := argReads (whoCore w.core) true w.focus s.core.x.ttb (leAt (memBytes u.mem p 64) 0x14 4 % 8) (leAt (memBytes u.mem p 64) 8 8) touched
  have hv : CachesOnly w v := htouched.trans (cachesOnly_argReads (w := whoCore w.core) (key := w.focus) (fun _ => rfl) htouched.focus_eq _ _ _ _)
  have hsv : CachesOnly s v := (hu.trans hw).trans hv
  refine ⟨v, hsv, hv, (execLaunch_eq hg htask hhome hret haway).trans (congrArg _ ?_)⟩
  have hmyv : myTask v = some (k, x) := by rw [← hmy, myTask, myTask, hsv.task_eq]; simp only [teamOf, hsv.dist_eq]
  have hroomv : logRoom v k.team (1 + launchRes (cardOf (memBytes u.mem p 64) (rs.map (fun r => (r.1, r.2.1))))) := by
    intro m hm
    exact hroom m (logFree_congr hv.dist_eq hv.mem_eq _ ▸ hm)
  unfold tableRead
  dsimp only
  rw [hread]
  exact launchFrom_eq (rdA s a) hmyv hok ((rsvFull_congr hv.dist_eq hv.ctl_eq).trans hrsv) ((freeTeam_congr hv.dist_eq).trans hfree) hroomv

end Launch

/-- Settles O34: LAUNCH, SPAWN and RESUME write their record and change one team (`launched_spec`, `teamOf_spawned`, `resumed_spec`). -/
theorem launchingForms : Obligations.LaunchingForms := by
  unfold Obligations.LaunchingForms
  intro s u w g n d a b p e t k x rs hg hctl hpl hcont hteam
  have htask := taskOk_of hctl hpl
  have hmy := myTask_of hcont hteam
  refine ⟨?launch, ?spawn, fun hpod => ?trigger, ?resume, execWfe_eq hg htask⟩
  case launch =>
    intro card c hhome hret hbad haway hread hargs htasks hrsv hfree hroom
    obtain ⟨v, hv, hwv, hexec⟩ := execLaunch_launched (d := d) hg htask hmy hhome hret haway hread ⟨hbad, hargs, htasks⟩ hrsv hfree hroom
    obtain ⟨⟨r, hself⟩, hothers, hpend, hsc, hvec⟩ := launched_spec d (rdA s a) k x c t v
    obtain ⟨hsc', hvec', hx, -⟩ := hv.sameRegs
    refine ⟨_, _, hexec, hself, rfl, congrArg (fun d : DistSt => mget 0 d.gens t) hwv.dist_eq, ?asid, rfl, rfl, rfl, rfl,
      fun i hi _ => ?others, hpend.trans (hv.pend_eq d _), hsc.trans hsc', hvec.trans hvec'⟩
    case asid => simp only [newTeam, hx]
    case others => rw [hothers i hi, teamOf, teamOf, hwv.dist_eq]
  case spawn =>
    intro halign hconts hrsv hroom args c
    obtain ⟨y, hy, hlive, hconts', hready, hcard⟩ := teamOf_spawned (d := d) c hteam
    obtain ⟨hpend, hsc, hvec, hx⟩ := spawned_core d k c s
    exact ⟨_, y, execSpawn_eq hg htask hmy halign hconts hrsv hroom, hy, hlive, hconts', hready, hcard,
      fun i hi => teamOf_spawned_ne d k c s hi, hpend, hsc, hvec, hx⟩
  case trigger =>
    refine ⟨trigged k.task x, ?_, rfl, trigged_trigd ..⟩
    rw [← markTrig_eq _ hteam]
    exact execTrigger_eq hg htask hcont hpod
  case resume =>
    intro hline hphase hfree rec_ slot old y hold hslot hst c hown hy hroom
    obtain ⟨q, hexec⟩ := execResume_eq (d := d) hg htask hfree hline hphase
    have hv := resumeWith_eq (d := d) (s := onIss (tookPort 1 64 q) s) hold hslot hst hown hy hroom
    obtain ⟨⟨y', hy', hready, hlive⟩, hst', hctx, hpend, hsc, hvec⟩ := resumed_spec (s := onIss (tookPort 1 64 q) s) (d := d)
      (slot := slot) (p := slotAt s slot) (c := c) hy
    exact ⟨_, y', hexec.trans (congrArg _ hv), hy', hready, hlive, hst', hctx, hpend.trans (retDev_pend_congr d _ rfl rfl rfl rfl rfl), hsc, hvec⟩

end Sys2Proof.Proofs
end

section
/-!
PROOFS. Meetings (17 R298–R305). An arrival is performed on the meeting as found (`meetArrive`); a close keeps the registers (`CoreKept`)
and leaves the meeting as its result, or the pieces still out, make it (`meetAtNum_closeRound`).
-/
namespace Sys2Proof.Proofs
open Sys2Proof.Machine Sys2Proof.Claims Sys2Proof.Laws

/-! ### Lines and releases -/

section Lines
variable {s u w : State} {g n d h r i t k : Nat} {ea : Word} {m : Meet}

theorem ownNamed_of_none {wr : Bool} {n : Nat} (hline : ownLineFault wr ea n s = none) (acc : Bool) (f : State → State) :
    ownNamed acc wr ea n f s = f s := by rw [ownNamed, hline]

theorem releaseAt_of_podDone {pod : Bool} (h : pod = true → podDone s) (f : State → State) : releaseAt pod f s = f s := by
  unfold releaseAt
  split
  case isTrue hpod => exact releaseElse_of_podDone (h hpod) _ _
  case isFalse => rfl

theorem withMeet_inl (hfind : findMeet s (rdS s h) = .inl m) (f : Meet → State → State) : withMeet d h f s = f m s := by
  rw [withMeet, hfind]

theorem withMeet_inr {st : Nat} (hfind : findMeet s (rdS s h) = .inr st) (f : Meet → State → State) : withMeet d h f s = retStatus d st s := by
  rw [withMeet, hfind]

/-- A meeting that a handle names is found by its own scope and number. -/
theorem meetAtNum_of_findMeet {hnd : Word} (hfind : findMeet s hnd = .inl m) : meetAtNum s m.scope m.inst m.mnum = some m := by
  unfold findMeet at hfind
  dsimp only at hfind
  split at hfind
  · cases hfind
  · split at hfind
    · cases hfind
    · rename_i m' hat
      split at hfind
      · cases hfind
      · split at hfind
        · cases hfind
        · obtain rfl : m' = m := Sum.inl.inj hfind
          have his := List.find?_some hat
          obtain ⟨hscope, hinst, hnum⟩ := of_decide_eq_true his
          rw [hscope, hinst, hnum]
          exact hat

/-- The checks in front of an instruction on a meeting pass. -/
theorem mayMeet (hctl : s.core.ctl = false) (hbad : meetBad (rdS s h) = false) (f g : State) :
    (if (s.core.ctl || meetBad (rdS s h)) = true then f else g) = g := by
  rw [hctl, hbad]
  exact if_neg Bool.false_ne_true

end Lines

/-! ### Links stay up while packets are sent -/

/-- Every link is up or down as before. -/
structure SameLinks (s t : State) : Prop where
  ctl : t.ctl = s.ctl
  st : ∀ i, (linkKept t i).st = (linkKept s i).st

section Links
variable {s t u : State}

theorem SameLinks.refl (s : State) : SameLinks s s := ⟨rfl, fun _ => rfl⟩
theorem SameLinks.trans (h : SameLinks s t) (k : SameLinks t u) : SameLinks s u :=
  ⟨k.ctl.trans h.ctl, fun i => (k.st i).trans (h.st i)⟩

theorem SameLinks.of_links (hctl : t.ctl = s.ctl := by rfl) (h : t.net.links = s.net.links := by rfl) : SameLinks s t :=
  ⟨hctl, fun i => by rw [linkKept, linkKept, h]⟩

theorem sameLinks_putLink {i : Nat} {l : Link} (hl : l.st = (linkKept s i).st) : SameLinks s (putLink i l s) := by
  refine ⟨rfl, fun j => ?_⟩
  by_cases hj : j = i
  · subst hj
    have hkept : linkKept (putLink j l s) j = l := by rw [linkKept, putLink, onNet, mfind?_mput_self, Option.getD_some]
    rw [hkept, hl]
  · have hkept : linkKept (putLink i l s) j = linkKept s j := by rw [linkKept, linkKept, putLink, onNet, mfind?_mput_ne _ _ hj]
    rw [hkept]

theorem sameLinks_countDead (d : Nat) (s : State) : SameLinks s (countDead d s) := by
  have hone : ∀ i u, SameLinks u (countFail i u) := fun i u => sameLinks_putLink rfl
  exact (hone _ s).trans (hone _ _)

theorem sameLinks_chooseLink (src dst : Nat) (s : State) : SameLinks s (chooseLink s src dst).2 := by
  unfold chooseLink
  split
  · exact .refl s
  · split
    · exact .of_links
    · exact .refl s

theorem sameLinks_routeRef (r : PRef) (s : State) : SameLinks s (routeRef r s).2 := by
  have h := sameLinks_chooseLink r.frm r.to_ s
  have hput : ∀ k u, SameLinks u (putPacket k r u) := fun k u => sameLinks_putLink rfl
  unfold routeRef
  split <;> rename_i hc <;> rw [hc] at h
  · exact h.trans (hput ..)
  · dsimp only
    split
    · exact h.trans (sameLinks_countDead ..)
    · exact h

theorem sameLinks_sendPkt (dst : Nat) (r : PktReq) (s : State) : SameLinks s (sendPkt dst r s) := by
  have hnet : ∀ f (u : State), (∀ n : NetSt, (f n).links = n.links) → SameLinks u (onNet f u) := fun f u hf => .of_links rfl (hf _)
  unfold sendPkt routePkt
  exact ((hnet _ s (by exact fun _ => rfl)).trans (sameLinks_routeRef _ _)).trans (hnet _ _ (by exact fun _ => rfl))

theorem SameLinks.deadDir_eq (h : SameLinks s t) (dst : Nat) : deadDir t dst = deadDir s dst := by
  have hroutes : ∀ a b, routeDirs t a b = routeDirs s a b := fun a b => by unfold routeDirs extentOf recov; rw [h.ctl]
  have hlink : ∀ k, (linkAt t k).st = (linkAt s k).st := fun k => by
    have habsent : linkAbsent t k = linkAbsent s k := by unfold linkAbsent extentOf; rw [h.ctl]
    unfold linkAt
    dsimp only
    rw [habsent]
    split
    · rfl
    · exact h.st k
  have hup : (fun k => decide ((linkAt t k).st = 0)) = fun k => decide ((linkAt s k).st = 0) := funext fun k => by rw [hlink]
  unfold deadDir usable recov
  dsimp only
  rw [hup, hroutes, h.ctl]

end Links

/-! ### Pieces asked for and a result put out -/

/-- The core in focus is as it was but for its caches and counters. -/
def CoreKept (s t : State) : Prop := t.core = { s.core with cm := t.core.cm, pm := t.core.pm }

/-- From `s` to `t` the torus, the groups and free values changed, and of meetings the closed rounds still to come out. -/
structure RoundAsked (s t : State) : Prop where
  rest : t = { s with net := t.net, free := t.free, grp := t.grp }
  meets : ∀ sc i n x, meetAtNum s sc i n = some x → ∃ ps, meetAtNum t sc i n = some { x with pend := ps }

section Close
variable {s t u w : State} {m x y : Meet} {sc inst mnum : Nat} {c : MeetClose}

theorem CoreKept.trans (h : CoreKept s t) (k : CoreKept t u) : CoreKept s u := by
  unfold CoreKept at h k ⊢
  rw [k, h]

theorem CoreKept.of_eq (h : t.core = s.core := by rfl) : CoreKept s t := by rw [CoreKept, h]

theorem RoundAsked.trans (h : RoundAsked s t) (k : RoundAsked t u) : RoundAsked s u := by
  obtain ⟨hrest, hmeets⟩ := h
  obtain ⟨krest, kmeets⟩ := k
  refine ⟨by rw [krest, hrest], fun sc i n x hx => ?_⟩
  obtain ⟨ps, hps⟩ := hmeets sc i n x hx
  obtain ⟨ps', hps'⟩ := kmeets sc i n { x with pend := ps } hps
  exact ⟨ps', hps'⟩

theorem RoundAsked.core (h : RoundAsked s t) : t.core = s.core := by rw [h.rest]
theorem RoundAsked.mem (h : RoundAsked s t) : t.mem = s.mem := by rw [h.rest]
theorem RoundAsked.dist (h : RoundAsked s t) : t.dist = s.dist := by rw [h.rest]

theorem NetOnly.grp (h : NetOnly s t) : t.grp = s.grp := by rw [h]

theorem NetOnly.roundAsked (h : NetOnly s t) : RoundAsked s t := by
  unfold NetOnly at h
  refine ⟨by rw [h], fun sc i n x hx => ⟨x.pend, ?_⟩⟩
  rw [h]
  exact hx

theorem meetAtNum_putMeet_self (hkey : meetAtNum s m.scope m.inst m.mnum = some x) : meetAtNum (putMeet m s) m.scope m.inst m.mnum = some m := by
  have hself : Meet.is m.scope m.inst m.mnum m = true := by simp [Meet.is]
  have hcomp : (Meet.is m.scope m.inst m.mnum) ∘ (fun x => if x.is m.scope m.inst m.mnum = true then m else x) =
      Meet.is m.scope m.inst m.mnum := by
    funext x
    by_cases hx : x.is m.scope m.inst m.mnum = true
    · rw [Function.comp_apply, if_pos hx, hself, hx]
    · rw [Function.comp_apply, if_neg hx]
  have his := List.find?_some hkey
  unfold meetAtNum at hkey
  rw [meetAtNum, putMeet, onGrp, List.find?_map, hcomp, hkey, Option.map_some, if_pos his]

theorem meetAtNum_putMeet_ne (hkey : ¬ (m.scope = sc ∧ m.inst = inst ∧ m.mnum = mnum)) :
    meetAtNum (putMeet m s) sc inst mnum = meetAtNum s sc inst mnum := by
  have hother : ∀ x, Meet.is sc inst mnum x = true → x.is m.scope m.inst m.mnum = false := fun x hx => by
    obtain ⟨h1, h2, h3⟩ := of_decide_eq_true hx
    rw [Meet.is, decide_eq_false_iff_not]
    rintro ⟨k1, k2, k3⟩
    exact hkey ⟨k1.symm.trans h1, k2.symm.trans h2, k3.symm.trans h3⟩
  have hcomp : (Meet.is sc inst mnum) ∘ (fun x => if x.is m.scope m.inst m.mnum = true then m else x) = Meet.is sc inst mnum := by
    funext x
    by_cases hx : x.is m.scope m.inst m.mnum = true
    · have hx' : Meet.is sc inst mnum x = false := by
        by_contra h
        rw [hother x (by simpa using h)] at hx
        cases hx
      rw [Function.comp_apply, if_pos hx, hx']
      exact decide_eq_false hkey
    · rw [Function.comp_apply, if_neg hx]
  rw [meetAtNum, putMeet, onGrp, List.find?_map, hcomp]
  cases hfind : s.grp.meets.find? (Meet.is sc inst mnum) with
  | none => exact hfind.symm
  | some x =>
    rw [Option.map_some, if_neg (by rw [hother x (List.find?_some hfind)]; decide)]
    exact hfind.symm

theorem roundAsked_putPend (hkey : meetAtNum s m.scope m.inst m.mnum = some m) (ps : List MeetClose) :
    RoundAsked s (putMeet { m with pend := ps } s) := by
  refine ⟨rfl, fun sc i n x hx => ?_⟩
  by_cases h : m.scope = sc ∧ m.inst = i ∧ m.mnum = n
  · obtain ⟨rfl, rfl, rfl⟩ := h
    obtain rfl : m = x := Option.some.inj (hkey.symm.trans hx)
    exact ⟨ps, meetAtNum_putMeet_self (m := { m with pend := ps }) hkey⟩
  · exact ⟨x.pend, (meetAtNum_putMeet_ne (m := { m with pend := ps }) h).trans hx⟩

theorem meetAtNum_key (h : meetAtNum s sc inst mnum = some x) : meetAtNum s x.scope x.inst x.mnum = some x := by
  obtain ⟨h1, h2, h3⟩ := of_decide_eq_true (List.find?_some (p := Meet.is sc inst mnum) h)
  rw [h1, h2, h3]
  exact h

theorem roundAsked_tileLost (a : Nat) (ask : List Byte) (s : State) : RoundAsked s (tileLost a ask s) := by
  have hdraw : RoundAsked s (draw s).2 := NetOnly.roundAsked rfl
  have hgot : ∀ bs u, RoundAsked u (tileGot a ask bs u) := fun bs u => by
    unfold tileGot
    split
    case h_1 m hm =>
      split
      · exact NetOnly.roundAsked rfl
      · exact roundAsked_putPend (meetAtNum_key hm) _
    case h_2 => exact NetOnly.roundAsked rfl
  exact hdraw.trans (hgot _ _)

theorem roundAsked_askTiles (m : Meet) (c : MeetClose) (s : State) : RoundAsked s (askTiles m c s) := by
  unfold askTiles
  generalize c.missing m = ps
  induction ps generalizing s with
  | nil => exact NetOnly.roundAsked rfl
  | cons p r ih =>
    refine RoundAsked.trans ?_ (ih _)
    dsimp only
    split
    · exact (netOnly_countDead ..).roundAsked.trans (roundAsked_tileLost ..)
    · exact (netOnly_sendPkt ..).roundAsked

/-- With a link up for each package the pieces are asked for and nothing is lost. -/
theorem netOnly_askTiles (h : ∀ p ∈ c.missing m, deadDir s (pkgOf p.1) = none) : NetOnly s (askTiles m c s) := by
  unfold askTiles
  revert h
  generalize c.missing m = ps
  intro h
  induction ps generalizing s with
  | nil => rfl
  | cons p r ih =>
    rw [List.foldl_cons, h p List.mem_cons_self]
    refine (netOnly_sendPkt ..).trans (ih fun q hq => ?_)
    rw [(sameLinks_sendPkt ..).deadDir_eq]
    exact h q (List.mem_cons_of_mem _ hq)

theorem HomeStands.coreKept (h : HomeStands s t) : CoreKept s t := h.core

theorem homeStands_rcDropAll (p : Nat → Bool) (s : State) : HomeStands s (rcDropAll p s) := ⟨⟨rfl, rfl, rfl, rfl⟩, rfl, rfl, rfl⟩

theorem homeStands_ite {p : Prop} [Decidable p] (h : HomeStands s t) : HomeStands s (if p then t else s) := by
  split
  · exact h
  · exact .refl s

theorem homeStands_netPut (w : Who) (ps : List (Nat × Nat × Nat)) (bs : List Byte) (s : State) : HomeStands s (netPut w ps bs s) := by
  induction ps generalizing w bs s with
  | nil => exact .refl s
  | cons p r ih =>
    obtain ⟨a, n, c⟩ := p
    unfold netPut
    dsimp only
    refine HomeStands.trans ((homeStands_rcDropAll ..).trans (homeStands_foldl (fun u i => ?_) _ _)) (ih _ _ _)
    exact homeStands_ite (homeStands_homeWrite ..)

theorem LogOnly.coreKept (h : LogOnly s t) : CoreKept s t := .of_eq h.core

theorem cachesOnly_netReads {w : Who} (hw : 1024 ≤ w.key) (ps : List (Nat × Nat × Nat)) (s : State) : CachesOnly s (netReads w ps s) := by
  have hone : ∀ c a u, CachesOnly u (l2Touch { w with cls := c } false a u) := fun c a u =>
    ⟨caches_l2Touch _ false a (caches_refl u) (.inr hw), iss_l2Touch ..⟩
  have hlines : ∀ c a (is : List Nat) u, CachesOnly u (is.foldl (fun s i => l2Touch { w with cls := c } false (a + 64 * i) s) u) :=
    fun c a is => by
      induction is with
      | nil => exact fun u => ⟨rfl, rfl⟩
      | cons i r ih => exact fun u => (hone ..).trans (ih _)
  unfold netReads
  induction ps generalizing s with
  | nil => exact ⟨rfl, rfl⟩
  | cons p r ih => exact (hlines ..).trans (ih _)

theorem coreKept_publishRound (m : Meet) (c : MeetClose) (s : State) : CoreKept s (publishRound m c s) := by
  have hput : ∀ u, CoreKept u (putMeet (m.close c ((m.asClosed c).combine c.got).1 ((m.asClosed c).combine c.got).2) u) := fun _ => .of_eq
  unfold publishRound
  dsimp only
  refine CoreKept.trans (CoreKept.trans ?_ (logOnly_logWrite ..).coreKept) (hput _)
  split
  · exact (homeStands_netPut ..).coreKept
  · exact .of_eq

theorem logWrite_of_none (h : logD s n k = none) (f : LogD → List Byte) : logWrite n k f s = s := by rw [logWrite, h]

theorem publishRound_mem (htile : m.tile = none) (hlog : logD s m.team 1 = none) (c : MeetClose) : (publishRound m c s).mem = s.mem := by
  unfold publishRound
  rw [htile]
  dsimp only
  rw [logWrite_of_none hlog]
  rfl

/-- One closed round comes out, or none. -/
theorem publishRounds_one (hx : meetAtNum s sc inst mnum = some x) :
    publishRounds 1 sc inst mnum s =
      match x.pend with | [] => s | c :: _ => if (c.missing x).isEmpty then publishRound x c s else s := by
  rw [publishRounds, hx]
  rfl

theorem coreKept_publishRounds (j sc inst mnum : Nat) (s : State) : CoreKept s (publishRounds j sc inst mnum s) := by
  induction j generalizing s with
  | zero => exact .of_eq
  | succ j ih =>
    unfold publishRounds
    split
    · exact .of_eq
    · split
      · exact .of_eq
      · split
        · exact (coreKept_publishRound ..).trans (ih _)
        · exact .of_eq

theorem publishRound_dist (htile : m.tile = none) (hlog : logD s m.team 1 = none) (c : MeetClose) : (publishRound m c s).dist = s.dist := by
  unfold publishRound
  rw [htile]
  dsimp only
  rw [logWrite_of_none hlog]
  rfl

/-- The state of a close in which the round's pieces have been asked for. -/
def roundAsked (m : Meet) (s : State) : State :=
  let c := m.closeOf s
  askTiles (m.shut c) c (putMeet (m.shut c) (netReads (whoNet m.team 0 c.meas) (c.tiles m) s))

theorem closeRound_eq (hpend : m.pend = []) (w : State) :
    closeRound m w = publishRounds 1 m.scope m.inst m.mnum (roundAsked m w) := by
  rw [closeRound, hpend]
  rfl

/-- Before the result comes out memory and distributor stand, and the meeting has its round closed. -/
theorem roundAsked_spec (hfound : meetAtNum w m.scope m.inst m.mnum = some x) :
    (roundAsked m w).mem = w.mem ∧ (roundAsked m w).dist = w.dist ∧
      ∃ ps, meetAtNum (roundAsked m w) m.scope m.inst m.mnum = some { m.shut (m.closeOf w) with pend := ps } := by
  have hreads := cachesOnly_netReads (w := whoNet m.team 0 (m.closeOf w).meas) (by decide : 1024 ≤ 2112) ((m.closeOf w).tiles m) w
  have hasked := roundAsked_askTiles (m.shut (m.closeOf w)) (m.closeOf w)
    (putMeet (m.shut (m.closeOf w)) (netReads (whoNet m.team 0 (m.closeOf w).meas) ((m.closeOf w).tiles m) w))
  have hfound' : meetAtNum (netReads (whoNet m.team 0 (m.closeOf w).meas) ((m.closeOf w).tiles m) w) m.scope m.inst m.mnum = some x := by
    rw [meetAtNum, hreads.grp_eq]
    exact hfound
  have hput := meetAtNum_putMeet_self (m := m.shut (m.closeOf w)) hfound'
  exact ⟨hasked.mem.trans hreads.mem_eq, hasked.dist.trans hreads.dist_eq,
    hasked.meets _ _ _ _ hput⟩

theorem meetAtNum_publishRound (hfound : meetAtNum s m.scope m.inst m.mnum = some x) (c : MeetClose) :
    meetAtNum (publishRound m c s) m.scope m.inst m.mnum =
      some (m.close c ((m.asClosed c).combine c.got).1 ((m.asClosed c).combine c.got).2) := by
  have hput : ∀ u, u.grp = s.grp → meetAtNum (putMeet (m.close c ((m.asClosed c).combine c.got).1 ((m.asClosed c).combine c.got).2) u)
      m.scope m.inst m.mnum = some (m.close c ((m.asClosed c).combine c.got).1 ((m.asClosed c).combine c.got).2) := fun u hu => by
    have hfound' : meetAtNum u m.scope m.inst m.mnum = some x := by rw [meetAtNum, hu]; exact hfound
    exact meetAtNum_putMeet_self (m := m.close c ((m.asClosed c).combine c.got).1 ((m.asClosed c).combine c.got).2) hfound'
  unfold publishRound
  dsimp only
  refine hput _ ((logOnly_logWrite ..).grp.trans ?_)
  split
  · exact (homeStands_netPut ..).grp
  · rfl

theorem logD_congr (hdist : t.dist = s.dist) (hmem : t.mem = s.mem) (n k : Nat) : logD t n k = logD s n k := by
  unfold logD teamOf
  rw [hdist, hmem]

/-- Results that are words, with the team's meeting log off, leave memory. -/
theorem publishRounds_mem {j : Nat} (hx : meetAtNum s sc inst mnum = some x) (htile : x.tile = none) (hlog : logD s x.team 1 = none) :
    (publishRounds j sc inst mnum s).mem = s.mem := by
  induction j generalizing s x with
  | zero => rfl
  | succ j ih =>
    unfold publishRounds
    rw [hx]
    dsimp only
    split
    · rfl
    · rename_i c _ _
      split
      · have hmem := publishRound_mem htile hlog c
        have hdist := publishRound_dist htile hlog c
        have hnext := meetAtNum_publishRound (meetAtNum_key hx) c
        obtain ⟨h1, h2, h3⟩ := of_decide_eq_true (List.find?_some (p := Meet.is sc inst mnum) hx)
        rw [h1, h2, h3] at hnext
        exact (ih hnext htile ((logD_congr hdist hmem _ _).trans hlog)).trans hmem
      · rfl

theorem closeRound_kept (m : Meet) (w : State) : CoreKept w (closeRound m w) := by
  have hreads := cachesOnly_netReads (w := whoNet m.team 0 (m.closeOf w).meas) (by decide : 1024 ≤ 2112) ((m.closeOf w).tiles m) w
  have hasked := roundAsked_askTiles (m.shut (m.closeOf w)) (m.closeOf w)
    (putMeet (m.shut (m.closeOf w)) (netReads (whoNet m.team 0 (m.closeOf w).meas) ((m.closeOf w).tiles m) w))
  exact (hreads.homeStands.coreKept.trans (.of_eq hasked.core)).trans (coreKept_publishRounds ..)

theorem closeRound_mem (hfound : meetAtNum w m.scope m.inst m.mnum = some x) (htile : m.tile = none)
    (hlog : logD w m.team 1 = none) : (closeRound m w).mem = w.mem := by
  obtain ⟨hmem, hdist, ps, hps⟩ := roundAsked_spec hfound
  exact (publishRounds_mem (x := { m.shut (m.closeOf w) with pend := ps }) hps htile ((logD_congr hdist hmem _ _).trans hlog)).trans hmem

/-- A close whose pieces are all in own memory. -/
theorem meetAtNum_closeRound (hpend : m.pend = []) (hfound : meetAtNum w m.scope m.inst m.mnum = some x)
    (hnone : (m.closeOf w).missing m = []) :
    meetAtNum (closeRound m w) m.scope m.inst m.mnum =
      some ((m.shut (m.closeOf w)).close (m.closeOf w) (m.combine (m.closeOf w).got).1 (m.combine (m.closeOf w).got).2) := by
  have hreads := cachesOnly_netReads (w := whoNet m.team 0 (m.closeOf w).meas) (by decide : 1024 ≤ 2112) ((m.closeOf w).tiles m) w
  have hshut : meetAtNum (roundAsked m w) m.scope m.inst m.mnum = some (m.shut (m.closeOf w)) := by
    have hasked : roundAsked m w = putMeet (m.shut (m.closeOf w)) (netReads (whoNet m.team 0 (m.closeOf w).meas) ((m.closeOf w).tiles m) w) := by
      have hfold : ∀ (f : State → Nat × Nat × Nat → State) (u : State), ((m.closeOf w).missing (m.shut (m.closeOf w))).foldl f u = u := fun f u => by
        rw [show (m.closeOf w).missing (m.shut (m.closeOf w)) = [] from hnone]
        rfl
      exact hfold _ _
    rw [hasked]
    exact meetAtNum_putMeet_self (m := m.shut (m.closeOf w)) (by rw [meetAtNum, hreads.grp_eq]; exact hfound)
  have hone : (m.shut (m.closeOf w)).pend = [m.closeOf w] := by rw [Meet.shut, hpend]; rfl
  rw [closeRound_eq hpend, publishRounds_one hshut, hone]
  refine (congrArg (meetAtNum · m.scope m.inst m.mnum) (if_pos ?_)).trans (meetAtNum_publishRound (m := m.shut (m.closeOf w)) hshut _)
  exact List.isEmpty_iff.mpr hnone

/-- A close that waits for pieces of other packages. -/
theorem meetAtNum_closeRound_waits (hpend : m.pend = []) (hfound : meetAtNum w m.scope m.inst m.mnum = some x)
    (hsome : (m.closeOf w).missing m ≠ []) (hup : ∀ p ∈ (m.closeOf w).missing m, deadDir w (pkgOf p.1) = none) :
    meetAtNum (closeRound m w) m.scope m.inst m.mnum = some { m with t := m.t + 1, ontime := [], fold := [], pend := [m.closeOf w] } := by
  have hreads := cachesOnly_netReads (w := whoNet m.team 0 (m.closeOf w).meas) (by decide : 1024 ≤ 2112) ((m.closeOf w).tiles m) w
  have hlinks : SameLinks w (putMeet (m.shut (m.closeOf w)) (netReads (whoNet m.team 0 (m.closeOf w).meas) ((m.closeOf w).tiles m) w)) :=
    .of_links hreads.ctl_eq (congrArg NetSt.links hreads.net_eq)
  have hasked := netOnly_askTiles (c := m.closeOf w) (m := m.shut (m.closeOf w))
    (s := putMeet (m.shut (m.closeOf w)) (netReads (whoNet m.team 0 (m.closeOf w).meas) ((m.closeOf w).tiles m) w))
    fun p hp => (hlinks.deadDir_eq _).trans (hup p hp)
  have hshut : meetAtNum (roundAsked m w) m.scope m.inst m.mnum = some (m.shut (m.closeOf w)) := by
    have hput := meetAtNum_putMeet_self (m := m.shut (m.closeOf w)) (x := x)
      (s := netReads (whoNet m.team 0 (m.closeOf w).meas) ((m.closeOf w).tiles m) w) (by rw [meetAtNum, hreads.grp_eq]; exact hfound)
    have hgrp : (roundAsked m w).grp = _ := hasked.grp
    rw [meetAtNum, hgrp]
    exact hput
  have hone : (m.shut (m.closeOf w)).pend = [m.closeOf w] := by rw [Meet.shut, hpend]; rfl
  rw [closeRound_eq hpend, publishRounds_one hshut, hone]
  refine (congrArg (meetAtNum · m.scope m.inst m.mnum) (if_neg ?_)).trans (hshut.trans ?_)
  · exact fun h => hsome (List.isEmpty_iff.mp h)
  · rw [Meet.shut, hpend]
    rfl

end Close

/-! ### Arrivals -/

section Arrivals
variable {s u v w : State} {g n d h r i t k : Nat} {m m' : Meet} {o : Out}

/-- Meetings of one number, task group and shape, with the same closed rounds. -/
structure SameMeeting (m m' : Meet) : Prop where
  scope : m'.scope = m.scope
  inst : m'.inst = m.inst
  mnum : m'.mnum = m.mnum
  team : m'.team = m.team
  tile : m'.tile = m.tile
  pend : m'.pend = m.pend

theorem sameMeeting_arrive (m : Meet) (k : Nat) (xs : List W32) (tile : List (Nat × Nat × Nat)) : SameMeeting m (m.arrive k xs tile) := by
  have hcases : ∀ y : Meet, SameMeeting m y → ∀ a b, SameMeeting m { y with as_ := a, rs := b } := fun y hy _ _ =>
    ⟨hy.scope, hy.inst, hy.mnum, hy.team, hy.tile, hy.pend⟩
  refine hcases _ ?_ _ _
  split
  · exact ⟨rfl, rfl, rfl, rfl, rfl, rfl⟩
  · exact ⟨rfl, rfl, rfl, rfl, rfl, rfl⟩

theorem CoreKept.regs {s t : State} (h : CoreKept s t) : t.core.sc = s.core.sc ∧ t.core.vec = s.core.vec ∧ t.core.x = s.core.x ∧ t.core.sp = s.core.sp ∧
    t.core.pend = s.core.pend := by
  rw [h]
  exact ⟨rfl, rfl, rfl, rfl, rfl⟩

/-- The close of the round that an arrival completes. -/
theorem closeRound_spec (hsame : SameMeeting m m') (hfound : meetAtNum w m.scope m.inst m.mnum = some m) :
    let c := m'.closeOf w
    let r := m'.combine c.got
    (m.pend = [] →
      (c.missing m' = [] → meetAtNum (closeRound m' w) m.scope m.inst m.mnum = some ((m'.shut c).close c r.1 r.2)) ∧
      (c.missing m' ≠ [] → (∀ p ∈ c.missing m', deadDir w (pkgOf p.1) = none) →
        meetAtNum (closeRound m' w) m.scope m.inst m.mnum = some { m' with t := m'.t + 1, ontime := [], fold := [], pend := [c] })) ∧
    (closeRound m' w).core.sc = w.core.sc ∧ (closeRound m' w).core.vec = w.core.vec ∧ (closeRound m' w).core.x = w.core.x ∧
    (closeRound m' w).core.sp = w.core.sp ∧ (closeRound m' w).core.pend = w.core.pend ∧
    (m.tile = none → logD w m.team 1 = none → (closeRound m' w).mem = w.mem) := by
  obtain ⟨hscope, hinst, hnum, hteam, htile, hpend⟩ := hsame
  rw [← hscope, ← hinst, ← hnum] at hfound ⊢
  rw [← hteam, ← htile, ← hpend]
  intro c r
  obtain ⟨hsc, hvec, hx, hsp, hpnd⟩ := (closeRound_kept m' w).regs
  exact ⟨fun hnone => ⟨meetAtNum_closeRound hnone hfound, meetAtNum_closeRound_waits hnone hfound⟩, hsc, hvec, hx, hsp, hpnd,
    closeRound_mem hfound⟩

/-- What an arrival does at its meeting: it is turned away, joins the round, or closes it. -/
theorem arrives_of {xs : List W32} {tile : List (Nat × Nat × Nat)} (ho : o = .next (meetArrive d m k xs tile w))
    (hfound : meetAtNum w m.scope m.inst m.mnum = some m) :
    let m' := m.arrive k xs tile
    (∀ st, m.refuses k = some st → o = .next (retStatus d st w)) ∧
    (m.refuses k = none → m'.closes = false → o = .next (retStatus d 0 (cntEv 0x22 1 (putMeet m' w)))) ∧
    (m.refuses k = none → m'.closes = true → logFull w m.team 1 (96 * (1 + closesDue w m.team)) = none →
      o = .next (retStatus d 0 (cntEv 0x22 1 (closeRound m' w))) ∧
      (let c := m'.closeOf w
       let r := m'.combine c.got
       m.pend = [] →
       (c.missing m' = [] → meetAtNum (closeRound m' w) m.scope m.inst m.mnum = some ((m'.shut c).close c r.1 r.2)) ∧
       (c.missing m' ≠ [] → (∀ p ∈ c.missing m', deadDir w (pkgOf p.1) = none) →
         meetAtNum (closeRound m' w) m.scope m.inst m.mnum = some { m' with t := m'.t + 1, ontime := [], fold := [], pend := [c] })) ∧
      (closeRound m' w).core.sc = w.core.sc ∧ (closeRound m' w).core.vec = w.core.vec ∧ (closeRound m' w).core.x = w.core.x ∧
      (closeRound m' w).core.sp = w.core.sp ∧ (closeRound m' w).core.pend = w.core.pend ∧
      (m.tile = none → logD w m.team 1 = none → (closeRound m' w).mem = w.mem)) := by
  intro m'
  have hsame : SameMeeting m m' := sameMeeting_arrive ..
  refine ⟨fun st hst => ?refused, fun hin hopen => ?joins, fun hin hcloses hlog => ⟨?closes, closeRound_spec hsame hfound⟩⟩
  case refused => rw [ho, meetArrive, hst]
  case joins =>
    rw [ho, meetArrive, hin]
    exact congrArg _ (if_neg (ne_true_of_eq_false hopen))
  case closes =>
    rw [← hsame.team] at hlog
    rw [ho, meetArrive, hin]
    refine congrArg _ ((if_pos hcloses).trans ?_)
    rw [show logFull w (m.arrive k xs tile).team 1 (96 * (1 + closesDue w (m.arrive k xs tile).team)) = none from hlog]

/-- An arrival whose contribution is a line. -/
def lineArrive (d : Nat) (m : Meet) (k : Nat) (b : List Byte) (s : State) : State :=
  match m.tile with
  | none => meetArrive d m k ((List.range m.cw).map (fun j => BitVec.ofNat 32 (leAt b (4 * j) 4))) [] s
  | some t => if (m.refuses k).isSome then meetArrive d m k [] [] s else tileArrive d m k t.n (wd (leAt b 0 8)) s

/-- An arrival once its handle names a meeting and other packages have what it must release. -/
theorem execMtarr_eq (hg : guardOk g n s = true) (hctl : s.core.ctl = false) (hbad : meetBad (rdS s h) = false)
    (hline : ownLineFault false (rdA s r) 64 s = none) (hfind : findMeet s (rdS s h) = .inl m) (hpod : m.scope = 3 → podDone s) :
    exec (.mtarr g n d h r i) s = .next (if m.op = 0 then meetArrive d m (rdS s i).toNat [] [] s
      else ownLine (rdA s r) 64 (lineArrive d m (rdS s i).toNat) s) := by
  refine (slotDo_of_guard hg).trans (congrArg _ ((mayMeet hctl hbad _ _).trans ?_))
  refine (ownNamed_of_none hline _ _).trans ((withMeet_inl hfind _).trans ?_)
  exact (releaseAt_of_podDone (fun h3 => hpod (of_decide_eq_true h3)) _).trans rfl

theorem cachesOnly_netPieces (k : Acq) (j va len : Nat) (ps : List (Nat × Nat × Nat)) (s : State) :
    CachesOnly s (netPieces k j va len ps s).2 := by
  induction j generalizing va len ps s with
  | zero => exact ⟨rfl, rfl⟩
  | succ j ih =>
    have hpage : CachesOnly s (msPage k (!s.core.x.pl) (wd va) s).2 := by
      have htr := cachesOnly_transCore k (wd va) s
      unfold transCore at htr
      unfold msPage
      split
      case h_1 heq => rw [heq] at htr; exact htr
      case h_2 heq =>
        rw [heq] at htr
        split
        · exact htr
        · split <;> exact htr
    unfold netPieces
    split
    · exact ⟨rfl, rfl⟩
    · split
      case h_1 heq => rw [heq] at hpage; exact hpage
      case h_2 heq =>
        rw [heq] at hpage
        exact hpage.trans (ih _ _ _ _)

theorem meetAtNum_congr (h : v.grp = s.grp) (sc inst mnum : Nat) : meetAtNum v sc inst mnum = meetAtNum s sc inst mnum := by
  rw [meetAtNum, meetAtNum, h]

/-- A contribution of words read from the line. -/
theorem lineArrive_words (htile : m.tile = none) (b : List Byte) (v : State) :
    lineArrive d m k b v = meetArrive d m k ((List.range m.cw).map (fun j => BitVec.ofNat 32 (leAt b (4 * j) 4))) [] v := by
  rw [lineArrive, htile]

theorem lineArrive_refused {z : TileOut} {st : Nat} (htile : m.tile = some z) (href : m.refuses k = some st) (b : List Byte) (v : State) :
    lineArrive d m k b v = retStatus d st v := by
  rw [lineArrive, htile]
  dsimp only
  rw [meetArrive, href]
  rfl

theorem lineArrive_tile {z : TileOut} (htile : m.tile = some z) (href : m.refuses k = none) (b : List Byte) (v : State) :
    lineArrive d m k b v = tileArrive d m k z.n (wd (leAt b 0 8)) v := by
  rw [lineArrive, htile]
  dsimp only
  rw [href]
  rfl

theorem leNat_lt (b : List Byte) : leNat b < 256 ^ b.length := by
  induction b with
  | nil => exact Nat.one_pos
  | cons x r ih =>
    have hx := x.isLt
    rw [leNat, List.length_cons, Nat.pow_succ]
    omega

theorem toNat_wd_leAt (b : List Byte) (j : Nat) : (wd (leAt b j 8)).toNat = leAt b j 8 := by
  have hlt := leNat_lt ((b.drop j).take 8)
  have hlen : 256 ^ ((b.drop j).take 8).length ≤ 256 ^ 8 := Nat.pow_le_pow_right (by decide) (List.length_take_le ..)
  rw [wd, BitVec.toNat_ofNat, leAt]
  exact Nat.mod_eq_of_lt (by omega)

theorem tileArrive_unaligned {j : Nat} {b : List Byte} (h : leAt b 0 8 % 64 ≠ 0) (v : State) :
    tileArrive d m k j (wd (leAt b 0 8)) v = retStatus d 9 v := by
  rw [tileArrive, toNat_wd_leAt]
  exact if_pos h

theorem tileArrive_unpinned {j : Nat} {b : List Byte} (h : leAt b 0 8 % 64 = 0)
    (hpieces : (netPieces .rd (j * 4 / 2 ^ 16 + 2) (leAt b 0 8) (j * 4) [] v).1 = none) :
    tileArrive d m k j (wd (leAt b 0 8)) v = retStatus d 9 (netPieces .rd (j * 4 / 2 ^ 16 + 2) (leAt b 0 8) (j * 4) [] v).2 := by
  rw [tileArrive, toNat_wd_leAt]
  refine (if_neg (Decidable.not_not.mpr h)).trans ?_
  split
  case h_1 heq => rw [heq]; rfl
  case h_2 heq => rw [heq] at hpieces; cases hpieces

theorem tileArrive_pinned {j : Nat} {b : List Byte} {ps : List (Nat × Nat × Nat)} (h : leAt b 0 8 % 64 = 0)
    (hpieces : (netPieces .rd (j * 4 / 2 ^ 16 + 2) (leAt b 0 8) (j * 4) [] v).1 = some ps) :
    tileArrive d m k j (wd (leAt b 0 8)) v =
      meetArrive d m k [] ps (netPieces .rd (j * 4 / 2 ^ 16 + 2) (leAt b 0 8) (j * 4) [] v).2 := by
  rw [tileArrive, toNat_wd_leAt]
  refine (if_neg (Decidable.not_not.mpr h)).trans ?_
  split
  case h_1 heq => rw [heq] at hpieces; cases hpieces
  case h_2 heq =>
    rw [heq] at hpieces ⊢
    obtain rfl := Option.some.inj hpieces
    rfl

end Arrivals

/-! ### MTWAIT -/

section Waits
variable {s : State} {g n d h r t : Nat} {m : Meet} {ea : Word}

theorem meetWait_eq (try_ : Bool) (hg : guardOk g n s = true) (hctl : s.core.ctl = false) (hbad : meetBad (rdS s h) = false)
    (hline : ownLineFault true (rdA s r) 64 s = none) (hfind : findMeet s (rdS s h) = .inl m) :
    meetWait try_ g n d h r t s = .next (if m.met (rdS s t) then meetResult d (rdA s r) m s else if try_ then retStatus d 1 s
      else if exposed s then illop s else holdAs 2 0x36 s) := by
  refine (slotDo_of_guard hg).trans (congrArg _ ((mayMeet hctl hbad _ _).trans ?_))
  exact (ownNamed_of_none hline _ _).trans (withMeet_inl hfind _)

theorem meetWait_met (try_ : Bool) (hg : guardOk g n s = true) (hctl : s.core.ctl = false) (hbad : meetBad (rdS s h) = false)
    (hline : ownLineFault true (rdA s r) 64 s = none) (hfind : findMeet s (rdS s h) = .inl m) (hmet : m.met (rdS s t) = true) :
    meetWait try_ g n d h r t s = .next (meetResult d (rdA s r) m s) :=
  (meetWait_eq try_ hg hctl hbad hline hfind).trans (congrArg _ (if_pos hmet))

/-- A store to the own A-buffer that waits for nothing goes on at once. -/
theorem spadGo_at_once (hline : ownLineFault true ea 64 s = none) (hphase : spadFault s 0 true ea 64 [(0, 64)] = none)
    (hhaz : hazardAt s.core 1 (ea.toNat % 2 ^ 20) (ea.toNat % 2 ^ 20 + 64) = none) (f : SpRef → State → State) :
    spadGo 0 true ea 64 [(0, 64)] none f s = f { ea := ea, key := s.focus, buf := 1, off := ea.toNat % 2 ^ 20, own := true, q := 0 } s := by
  obtain ⟨hbuf, hnamed⟩ := ownLineFault_none hline
  have hpf := phaseFault_of_spadFault hnamed hphase
  rw [spadGo, hpf, spRef_own hbuf]
  simp only [hnamed, Bool.not_true, Bool.or_self, Bool.false_eq_true, if_false, coreAt_focus, List.map_cons, List.map_nil, Nat.add_zero,
    hhaz, leastOpt, List.foldl_cons, List.foldl_nil, spadPort, corePort, portOf, one_ne_zero, OfNat.one_ne_ofNat, if_true, ite_self]

theorem meetResult_count (hcw : m.cw = 0) : meetResult d ea m s = retDev d m.word (rcClear s) := if_pos hcw

theorem meetResult_line (hfree : portsFree s) (hcw : m.cw ≠ 0) (hline : ownLineFault true ea 64 s = none)
    (hphase : spadFault s 0 true ea 64 [(0, 64)] = none)
    (hhaz : hazardAt s.core 1 (ea.toNat % 2 ^ 20) (ea.toNat % 2 ^ 20 + 64) = none) :
    let bs := m.res.flatMap (fun x => leBytes 4 x.toNat)
    meetResult d ea m s = retDev d m.word (rcClear (emit 1 (.st 1 (ea.toNat % 2 ^ 20) 0 (bs ++ List.replicate (64 - bs.length) 0))
      (onIss (tookPort 1 64 0) s))) := by
  refine (if_neg hcw).trans ((spadGo_at_once hline hphase hhaz _).trans ?_)
  refine (takePort_at_once hfree (p := 1) (by decide) (by decide) none _).trans ?_
  dsimp only
  exact congrArg (fun u => retDev d m.word (rcClear u)) (spadStore_own (s := onIss (tookPort 1 64 0) s) rfl hfree.2.1 0 _)

end Waits

/-! ### MTCFG -/

section Create
variable {s v w : State} {g n d r : Nat} {num : Nat} {nums : List Nat}

/-- A state with the meetings, task and numbers of `s`. -/
structure SameGroup (s w : State) : Prop where
  grp : w.grp = s.grp
  num : w.core.num = s.core.num
  task : w.core.task = s.core.task
  pkg : w.ctl.pkgNum = s.ctl.pkgNum

theorem SameGroup.trans {u : State} (h : SameGroup s w) (k : SameGroup w u) : SameGroup s u :=
  ⟨k.grp.trans h.grp, k.num.trans h.num, k.task.trans h.task, k.pkg.trans h.pkg⟩

theorem CachesOnly.sameGroup (h : CachesOnly s w) : SameGroup s w := by
  rw [h.eq]
  exact ⟨rfl, rfl, rfl, rfl⟩

theorem freeMeets_congr (h : w.grp = s.grp) (sc inst : Nat) : freeMeets w sc inst = freeMeets s sc inst := by
  simp only [freeMeets, meetAtNum_congr h, h]

theorem createMeet_full {x : MeetD} (hsame : SameGroup s w) (tile : Option TileOut) (hfull : freeMeets s x.sc (netInst s.core.num x.sc) = []) :
    createMeet d x tile w = retStatus d 2 w := by
  unfold createMeet
  dsimp only
  rw [hsame.num, freeMeets_congr hsame.grp, hfull]
  rfl

theorem createMeet_made {x : MeetD} (hsame : SameGroup s w) (tile : Option TileOut)
    (hfree : freeMeets s x.sc (netInst s.core.num x.sc) = num :: nums) :
    let inst := netInst s.core.num x.sc
    let gen := mget 0 s.grp.mgen (meetKey x.sc inst num) + 1
    createMeet d x tile w = retDev d (wd (meetHandle s.ctl.pkgNum x.sc inst gen num)) (onGrp (fun y =>
      { y with meets := y.meets ++ [newMeet x (teamNum s.core) inst num gen (taskDet s) tile],
               mgen := mset 0 y.mgen (meetKey x.sc inst num) gen }) w) := by
  have hteam : teamNum w.core = teamNum s.core := by rw [teamNum, teamNum, hsame.task]
  have hdet : taskDet w = taskDet s := by rw [taskDet, taskDet, hsame.task]
  unfold createMeet
  dsimp only
  rw [hsame.num, freeMeets_congr hsame.grp, hfree]
  dsimp only
  rw [hsame.grp, hteam, hdet, hsame.pkg]

/-- MTCFG with its line. -/
def cfgLine (d : Nat) (b : List Byte) (s : State) : State :=
  let x := meetD (leAt b 0 8)
  let els := leAt b 8 8 + 1
  if meetMalformed b (taskDet s) then retStatus d mMALFORMED s
  else if !x.tile then createMeet d x none s
  else
    match netPieces .wr (els * 4 / 2 ^ 16 + 2) (leAt b 0x10 8) (els * 4) [] s with
    | (none, s) => retStatus d mNOTPIN s
    | (some ps, s) =>
      if ps.any (fun p => decide (pkgOf p.1 ≠ s.ctl.pkgNum)) then retStatus d mMALFORMED s
      else createMeet d x (some ⟨els, ps⟩) s

theorem execMtcfg_eq (hg : guardOk g n s = true) (hctl : s.core.ctl = false) (hfree : portsFree s)
    (hline : ownLineFault false (rdA s r) 64 s = none) (hphase : spadFault s 0 false (rdA s r) 64 [(0, 64)] = none) :
    ∃ q, exec (.mtcfg g n d r) s = .next (cfgLine d (spadBytes s.core 1 ((rdA s r).toNat % 2 ^ 20) 64) (onIss (tookPort 1 64 q) s)) := by
  obtain ⟨q, hread⟩ := ownLine_reads hfree (by decide) hline hphase (cfgLine d)
  refine ⟨q, (slotDo_of_guard hg).trans (congrArg _ ?_)⟩
  exact (if_neg (ne_true_of_eq_false hctl)).trans hread

variable {b : List Byte} {ps : List (Nat × Nat × Nat)}

theorem cfgLine_malformed (h : meetMalformed b (taskDet v) = true) : cfgLine d b v = retStatus d 7 v := if_pos h

theorem cfgLine_words (h : meetMalformed b (taskDet v) = false) (htile : (meetD (leAt b 0 8)).tile = false) :
    cfgLine d b v = createMeet d (meetD (leAt b 0 8)) none v :=
  (if_neg (ne_true_of_eq_false h)).trans (if_pos (by rw [htile]; rfl))

/-- MTCFG's tile, with the pieces of its range and the state they leave. -/
def cfgTile (d : Nat) (b : List Byte) (p : Option (List (Nat × Nat × Nat)) × State) : State :=
  match p with
  | (none, s) => retStatus d 9 s
  | (some ps, s) =>
    if ps.any (fun p => decide (pkgOf p.1 ≠ s.ctl.pkgNum)) then retStatus d 7 s
    else createMeet d (meetD (leAt b 0 8)) (some ⟨leAt b 8 8 + 1, ps⟩) s

theorem cfgLine_tile (h : meetMalformed b (taskDet v) = false) (htile : (meetD (leAt b 0 8)).tile = true) :
    cfgLine d b v = cfgTile d b (netPieces .wr ((leAt b 8 8 + 1) * 4 / 2 ^ 16 + 2) (leAt b 0x10 8) ((leAt b 8 8 + 1) * 4) [] v) :=
  (if_neg (ne_true_of_eq_false h)).trans ((if_neg (by rw [htile]; decide)).trans rfl)

theorem cfgTile_none {p : Option (List (Nat × Nat × Nat)) × State} (h : p.1 = none) : cfgTile d b p = retStatus d 9 p.2 := by
  obtain ⟨x, w⟩ := p
  obtain rfl : x = none := h
  rfl

theorem cfgTile_some {p : Option (List (Nat × Nat × Nat)) × State} (h : p.1 = some ps) :
    cfgTile d b p = if ps.any (fun q => decide (pkgOf q.1 ≠ p.2.ctl.pkgNum)) then retStatus d 7 p.2
      else createMeet d (meetD (leAt b 0 8)) (some ⟨leAt b 8 8 + 1, ps⟩) p.2 := by
  obtain ⟨x, w⟩ := p
  obtain rfl : x = some ps := h
  rfl

end Create

section Forms
variable {s : State} {g n d r h i t : Nat} {m : Meet}

/-- A meeting is created, or there is no number. -/
theorem made_of {x : MeetD} {tile : Option TileOut} {w : State} {o : Out} (hsame : SameGroup s w) (ho : o = .next (createMeet d x tile w)) :
    let inst := netInst s.core.num x.sc
    (freeMeets s x.sc inst = [] → o = .next (retStatus d 2 w)) ∧
    (∀ num nums, freeMeets s x.sc inst = num :: nums →
      let gen := mget 0 s.grp.mgen (meetKey x.sc inst num) + 1
      o = .next (retDev d (wd (meetHandle s.ctl.pkgNum x.sc inst gen num)) (onGrp (fun y =>
        { y with meets := y.meets ++ [newMeet x (teamNum s.core) inst num gen (taskDet s) tile],
                 mgen := mset 0 y.mgen (meetKey x.sc inst num) gen }) w))) :=
  ⟨fun hfull => ho.trans (congrArg _ (createMeet_full hsame tile hfull)),
    fun _ _ hfree => ho.trans (congrArg _ (createMeet_made hsame tile hfree))⟩

/-- A handle that names no meeting of the team. -/
theorem turnedAway {st : Nat} (hg : guardOk g n s = true) (hctl : s.core.ctl = false) (hbad : meetBad (rdS s h) = false)
    (hfind : findMeet s (rdS s h) = .inr st) :
    (ownLineFault false (rdA s r) 64 s = none → exec (.mtarr g n d h r i) s = .next (retStatus d st s)) ∧
    (ownLineFault true (rdA s r) 64 s = none → exec (.mtwait g n d h r t) s = .next (retStatus d st s) ∧
      exec (.mtwaitT g n d h r t) s = .next (retStatus d st s)) ∧
    exec (.mttag g n d h i) s = .next (retStatus d st s) ∧ exec (.mtdel g n d h) s = .next (retStatus d st s) := by
  have hwait : ∀ try_, ownLineFault true (rdA s r) 64 s = none → meetWait try_ g n d h r t s = .next (retStatus d st s) := fun try_ hline =>
    (slotDo_of_guard hg).trans (congrArg _ ((mayMeet hctl hbad _ _).trans ((ownNamed_of_none hline _ _).trans (withMeet_inr hfind _))))
  exact ⟨fun hline =>
      (slotDo_of_guard hg).trans (congrArg _ ((mayMeet hctl hbad _ _).trans ((ownNamed_of_none hline _ _).trans (withMeet_inr hfind _)))),
    fun hline => ⟨hwait false hline, hwait true hline⟩,
    (slotDo_of_guard hg).trans (congrArg _ ((mayMeet hctl hbad _ _).trans (withMeet_inr hfind _))),
    (slotDo_of_guard hg).trans (congrArg _ ((mayMeet hctl hbad _ _).trans (withMeet_inr hfind _)))⟩

end Forms

/-! ### The obligation -/

/-- Settles O37: an arrival is performed on the meeting found (`arrives_of`), whose close is its result or waits (`closeRound_spec`). -/
theorem meetingForms : Obligations.MeetingForms := by
  unfold Obligations.MeetingForms
  intro s g n d r h i t hg hctl hfree ea line k
  refine ⟨fun hline hphase => ?cfg, fun hbad => ⟨fun st hfind => turnedAway hg hctl hbad hfind, fun m hfind =>
    ⟨fun hline hpod => ?arr, fun hline => ⟨fun hmet => ?busy, fun hmet hcw => ?count, fun hmet hcw hphase hhaz => ?result⟩, fun hk => ?tag,
      fun hk => ?member, ?del⟩⟩⟩
  case cfg =>
    intro x els inst bad
    obtain ⟨q, hexec⟩ := execMtcfg_eq (d := d) hg hctl hfree hline hphase
    have hsame : SameGroup s (onIss (tookPort 1 64 q) s) := ⟨rfl, rfl, rfl, rfl⟩
    refine ⟨onIss (tookPort 1 64 q) s, rfl, fun hbad => hexec.trans (congrArg _ (cfgLine_malformed hbad)),
      fun hbad htile => made_of hsame (hexec.trans (congrArg _ (cfgLine_words hbad htile))), fun hbad htile => ?_⟩
    intro p
    have hp : SameGroup s p.2 := hsame.trans (cachesOnly_netPieces .wr _ _ _ _ _ : CachesOnly (onIss (tookPort 1 64 q) s) p.2).sameGroup
    have htiled := hexec.trans (congrArg _ (cfgLine_tile hbad htile))
    refine ⟨fun hnone => htiled.trans (congrArg _ (cfgTile_none hnone)), fun ps hps => ⟨fun haway => ?_, fun hhere => ?_⟩⟩
    · rw [← hp.pkg] at haway
      exact htiled.trans (congrArg _ ((cfgTile_some hps).trans (if_pos haway)))
    · rw [← hp.pkg] at hhere
      exact made_of hp (htiled.trans (congrArg _ ((cfgTile_some hps).trans (if_neg (ne_true_of_eq_false hhere)))))
  case arr =>
    intro arrives
    have hat := meetAtNum_of_findMeet hfind
    have hexec := execMtarr_eq (d := d) (i := i) hg hctl hbad hline hfind hpod
    refine ⟨fun hop => arrives_of (hexec.trans (congrArg _ (if_pos hop))) hat, fun hop hphase => ?_⟩
    obtain ⟨q, hread⟩ := ownLine_reads hfree (by decide) hline hphase (lineArrive d m k)
    have hline' := hexec.trans (congrArg _ ((if_neg hop).trans hread))
    refine ⟨onIss (tookPort 1 64 q) s, rfl, fun htile => arrives_of (hline'.trans (congrArg _ (lineArrive_words htile _ _))) hat,
      fun z htile => ⟨fun st href => hline'.trans (congrArg _ (lineArrive_refused htile href _ _)), fun href => ?_⟩⟩
    intro p
    have hsame : SameGroup s (onIss (tookPort 1 64 q) s) := ⟨rfl, rfl, rfl, rfl⟩
    have htiled := hline'.trans (congrArg _ (lineArrive_tile htile href _ _))
    have hp : SameGroup s p.2 := hsame.trans (cachesOnly_netPieces .rd _ _ _ _ _ : CachesOnly (onIss (tookPort 1 64 q) s) p.2).sameGroup
    exact ⟨fun hal => htiled.trans (congrArg _ (tileArrive_unaligned hal _)),
      fun hal hnone => htiled.trans (congrArg _ (tileArrive_unpinned hal hnone)),
      fun hal ps hps => arrives_of (htiled.trans (congrArg _ (tileArrive_pinned hal hps))) ((meetAtNum_congr hp.grp ..).trans hat)⟩
  case busy =>
    exact (meetWait_eq true hg hctl hbad hline hfind).trans (congrArg _ (if_neg (ne_true_of_eq_false hmet)))
  case count =>
    have hdone := fun try_ => (meetWait_met try_ hg hctl hbad hline hfind hmet).trans (congrArg _ (meetResult_count (d := d) hcw))
    exact ⟨hdone true, hdone false⟩
  case result =>
    have hdone := fun try_ => (meetWait_met try_ hg hctl hbad hline hfind hmet).trans
      (congrArg _ (meetResult_line (d := d) hfree hcw hline hphase hhaz))
    exact ⟨onIss (tookPort 1 64 0) s, rfl, hdone true, hdone false⟩
  case tag =>
    exact (slotDo_of_guard hg).trans (congrArg _ ((mayMeet hctl hbad _ _).trans ((withMeet_inl hfind _).trans (if_neg (Nat.not_le.mpr hk)))))
  case member =>
    exact (slotDo_of_guard hg).trans (congrArg _ ((mayMeet hctl hbad _ _).trans ((withMeet_inl hfind _).trans (if_pos hk))))
  case del =>
    exact (slotDo_of_guard hg).trans (congrArg _ ((mayMeet hctl hbad _ _).trans (withMeet_inl hfind _)))

end Sys2Proof.Proofs
end

section
/-!
PROOFS. The distributor (16 R277): a dispatch to a key whose record is another core's. The statement asks nothing of the cores' records,
and a dispatch puts a record back under the key of its own number.
-/
namespace Sys2Proof.Proofs
open Sys2Proof.Machine Sys2Proof.Claims

/-- A fresh continuation of team 1 with pool slot 1. -/
def slotOne : Cont := freshCont 1 oneTask none 1 0

/-- After reset, with START given: key 1 holds the record of core 5, and `slotOne` is placed there. -/
def strayCore : State :=
  onCtl (fun c => { c with run := true })
    (onDist (fun d => { d with teams := [(1, newTeam 0 0 oneTask none)], toDo := [(1, slotOne)] })
      { State.reset with others := [(1, .reset 5 false)] })

/-- The state of core 1 after a step. -/
def coreOneAfter : Out → CoreSt
  | .next t => (coreAt t 1).st
  | _ => .run

theorem coreOneAfter_strayCore : coreOneAfter (exec (.dispatch 1) strayCore) = .idle := by decide +kernel

/-- Refutes O50: in `strayCore` the dispatched continuation's core is put back under key 5, and core 1 does not run. -/
theorem not_distributorSteps : ¬ Obligations.DistributorSteps := by
  unfold Obligations.DistributorSteps
  intro h
  obtain ⟨-, hdispatch, -⟩ := h strayCore 1 0 slotOne (newTeam 0 0 oneTask none)
  obtain ⟨t, hexec, hrun, -⟩ := hdispatch (by decide +kernel) (by decide +kernel) (by decide +kernel) (by decide +kernel) (by decide +kernel)
    1 _ (Prod.ext (by decide +kernel) rfl)
  have hidle := coreOneAfter_strayCore
  rw [hexec, coreOneAfter, hrun] at hidle
  exact absurd hidle (by decide)

end Sys2Proof.Proofs
end

section
/-!
PROOFS. The torus (21 R343–R361): flits on a link that is up (`onFlit_good`), packets performed once and acknowledged (`LinksOnly`), and
the steps of a collective (`clOver_posted`).
-/
namespace Sys2Proof.Proofs
open Sys2Proof.Machine Sys2Proof.Claims Sys2Proof.Laws

/-! ### Flits -/

section Flits
variable {s : State} {k ty : Nat} {f : List Byte}

theorem onFlit_good (hup : (linkAt s k).st = 0) (hgood : flitGood f = true) (hty : flitType f = ty) (g : State → State) :
    onFlit ty k f g s = g s := by
  unfold onFlit
  rw [if_neg (Decidable.not_not.mpr hup), hgood, if_pos hty]
  rfl

theorem takeFlit_awaited (h : flitSeq f = (linkKept s k).rx) (g : State → State) :
    takeFlit k f g s = replyFlit k 2 (flitSeq f)
      (g (putLink k { linkKept s k with rx := (flitSeq f + 1) % 4096, pos := (flitSeq f + 1) % 4096, nak := false } s)) := if_pos h

theorem takeFlit_again (h : flitSeq f ≠ (linkKept s k).rx) (hold : 2048 ≤ (flitSeq f + 4096 - (linkKept s k).rx) % 4096)
    (g : State → State) : takeFlit k f g s = replyFlit k 2 (flitSeq f) s := (if_neg h).trans (if_pos hold)

theorem takeFlit_gap (h : flitSeq f ≠ (linkKept s k).rx) (hnew : (flitSeq f + 4096 - (linkKept s k).rx) % 4096 < 2048)
    (hnak : (linkKept s k).nak = false) (g : State → State) :
    takeFlit k f g s = replyFlit k 3 (linkKept s k).rx (putLink k { linkKept s k with pos := (flitSeq f + 1) % 4096, nak := true } s) := by
  refine (if_neg h).trans ((if_neg (Nat.not_le.mpr hnew)).trans (if_neg ?_))
  rw [hnak]
  exact Bool.false_ne_true

theorem takeFlit_behind (h : flitSeq f ≠ (linkKept s k).rx) (hnew : (flitSeq f + 4096 - (linkKept s k).rx) % 4096 < 2048)
    (hnak : (linkKept s k).nak = true) (hpos : (flitSeq f + 4096 - (linkKept s k).pos) % 4096 < 2048) (g : State → State) :
    takeFlit k f g s = putLink k { linkKept s k with pos := (flitSeq f + 1) % 4096 } s := by
  refine (if_neg h).trans ((if_neg (Nat.not_le.mpr hnew)).trans (if_pos ?_))
  rw [hnak, Bool.true_and, decide_eq_true_iff]
  exact hpos

theorem takeMarker_here {pl : List Byte} {a h : Nat} (href : Config.markRef pl = (a, h)) (hhere : h = s.ctl.pkgNum) :
    takeMarker pl s = onNet (fun n => { n with markers := mset 0 n.markers a (mget 0 n.markers a + 1) }) s := by
  rw [takeMarker, href]
  exact if_pos hhere

theorem takeMarker_on {pl : List Byte} {a h j : Nat} {v : State} (href : Config.markRef pl = (a, h)) (haway : h ≠ s.ctl.pkgNum)
    (hlink : chooseLink s a h = (some j, v)) : takeMarker pl s = putFlits j 4 ⟨a, h, 2 ^ 32, false⟩ [pl] v := by
  rw [takeMarker, href]
  refine (if_neg haway).trans ?_
  rw [hlink]
  rfl

theorem execFlitAck_eq (hup : (linkAt s k).st = 0) (hgood : flitGood f = true) (hty : flitType f = 2) {x : Flit} {y : List Flit}
    (hrest : (linkKept s k).unack.dropWhile (fun z => decide (z.seq ≠ flitAns f)) = x :: y) :
    exec (.flitAck k f) s = .next (drained (putLink k { linkKept s k with unack := y } s)) := by
  refine congrArg _ ((onFlit_good hup hgood hty _).trans ?_)
  dsimp only
  rw [hrest]
  rfl

theorem execFlitNak_eq (hup : (linkAt s k).st = 0) (hgood : flitGood f = true) (hty : flitType f = 3) {x : Flit} {y : List Flit}
    (hrest : (linkKept s k).unack.dropWhile (fun z => decide (z.seq ≠ flitAns f)) = x :: y) (hfirst : x.again = false)
    (hcount : (linkKept s k).retry + y.length + 1 < 65536) :
    exec (.flitNak k f) s = .next (putLink k { linkKept s k with
      unack := (linkKept s k).unack.takeWhile (fun z => decide (z.seq ≠ flitAns f)) ++ { x with again := true } :: y
      retry := (linkKept s k).retry + y.length + 1 } s) := by
  have hdrop : (linkKept s k).unack.drop ((linkKept s k).unack.takeWhile (fun z => decide (z.seq ≠ flitAns f))).length = x :: y := by
    rw [← hrest]
    exact (congrArg (List.drop _) List.takeWhile_append_dropWhile.symm).trans (List.drop_left ..)
  refine congrArg _ ((onFlit_good hup hgood hty _).trans ?_)
  dsimp only
  rw [hdrop]
  dsimp only
  rw [hfirst, if_neg Bool.false_ne_true, if_pos hcount]

end Flits

/-! ### Packets -/

/-- `t` is `s` but for the links and free values drawn. -/
def LinksOnly (s t : State) : Prop := t = { s with net := { s.net with links := t.net.links }, free := t.free }

section Packets
variable {s t u : State} {k o n d e line since : Nat} {r : PktReq} {v w : Seen}

theorem LinksOnly.trans (h : LinksOnly s t) (k : LinksOnly t u) : LinksOnly s u := by
  unfold LinksOnly at h k ⊢
  rw [k, h]

theorem linksOnly_putLink (i : Nat) (l : Link) (s : State) : LinksOnly s (putLink i l s) := rfl

theorem linksOnly_chooseLink (src dst : Nat) (s : State) : LinksOnly s (chooseLink s src dst).2 := by
  unfold chooseLink
  split
  · rfl
  · split <;> rfl

theorem linksOnly_routeRef (r : PRef) (s : State) : LinksOnly s (routeRef r s).2 := by
  have h := linksOnly_chooseLink r.frm r.to_ s
  have hdead : ∀ i u, LinksOnly u (countDead i u) := fun _ _ => rfl
  unfold routeRef
  split <;> rename_i hc <;> rw [hc] at h
  · exact h.trans rfl
  · dsimp only
    split
    · exact h.trans (hdead _ _)
    · exact h

/-- What an acknowledgement and the payloads used leave of a state. -/
theorem linksOnly_acked (k o n src e st x : Nat) (s : State) :
    LinksOnly (onNet (fun n => { n with acks := n.acks ++ [(src, e, st, x)] }) s) (usePayloads k o n (sendAck src e st x s)) :=
  (linksOnly_routeRef _ _).trans (linksOnly_putLink _ _ _)

theorem LinksOnly.acks (h : LinksOnly s t) : t.net.acks = s.net.acks := by rw [h]
theorem LinksOnly.seen (h : LinksOnly s t) : t.net.seen = s.net.seen := by rw [h]
theorem LinksOnly.mem (h : LinksOnly s t) : t.mem = s.mem := by rw [h]
theorem LinksOnly.home (h : LinksOnly s t) : t.home = s.home := by rw [h]
theorem LinksOnly.core (h : LinksOnly s t) : t.core = s.core := by rw [h]

theorem eng_close (j : Nat) (v : Seen) : (Seen.close j v).eng = v.eng := by
  induction j generalizing v with
  | zero => rfl
  | succ j ih =>
    unfold Seen.close
    split
    · exact ih _
    · rfl

theorem eng_past (e : Nat) (v : Seen) : (v.past e).eng = v.eng := by
  unfold Seen.past
  split
  · exact eng_close _ _
  · rfl

/-- What a home has seen of a source. -/
def seenOf (s : State) (d : Nat) : Seen := (mfind? s.net.seen d).getD .new

/-- The line a request names, from 1 on. -/
def lineNo (r : PktReq) : Nat := ((reqLine r).map (· + 1)).getD 0

/-- The packet's entry among those that wait. -/
def waitOf (v : Seen) (e : Nat) : Option (Nat × Nat × Nat) := v.wait.find? (fun w => decide (w.1 = e))

/-- Has a packet come before, and not only to wait? -/
def cameTwice (v : Seen) (e : Nat) (r : PktReq) : Bool :=
  if everyCopy r then false else if forEngine r then v.eng.contains e else v.had e && (waitOf v e).isNone

/-- Since when a packet waits. -/
def heldSince (s : State) (v : Seen) (e : Nat) : Nat := ((waitOf v e).map (fun w => w.2.1)).getD s.time

/-- A source's record with a packet performed. -/
def seenDone (line e : Nat) (r : PktReq) (w : Seen) : Seen :=
  { (if line = 0 then w else w.past e) with
    wait := w.wait.filter (fun x => decide (x.1 ≠ e)), eng := if forEngine r then (e :: w.eng).take 4096 else w.eng }

/-- A source's record with a packet held. -/
def seenHeld (line e since : Nat) (w : Seen) : Seen := { w with wait := w.wait.filter (fun x => decide (x.1 ≠ e)) ++ [(e, since, line)] }

theorem takePacket_performed {st x : Nat} (hnew : cameTwice (seenOf s d) e r = false)
    (hturn : ((seenOf s d).put e).behind e (lineNo r) (heldSince s (seenOf s d) e) s.time = false) (hreq : farReq d r s = some (st, x, u)) :
    takePacket d e r s = (true, sendAck d e st x (onNet (fun n => { n with seen := mput n.seen d (seenDone (lineNo r) e r ((seenOf s d).put e)) }) u)) := by
  have hseen : seenDone (lineNo r) e r ((seenOf s d).put e) =
      (let v := { (if lineNo r = 0 then (seenOf s d).put e else ((seenOf s d).put e).past e) with
          wait := ((seenOf s d).put e).wait.filter (fun w => decide (w.1 ≠ e)) }
       if forEngine r then { v with eng := (e :: v.eng).take 4096 } else v) := by
    have heng : (if lineNo r = 0 then (seenOf s d).put e else ((seenOf s d).put e).past e).eng = ((seenOf s d).put e).eng := by
      split
      · rfl
      · exact eng_past e _
    unfold seenDone
    dsimp only
    generalize (if lineNo r = 0 then (seenOf s d).put e else ((seenOf s d).put e).past e) = y at heng
    cases forEngine r with
    | false => simp only [Bool.false_eq_true, if_false, heng]
    | true => simp only [if_true, heng]
  refine (if_neg (ne_true_of_eq_false hnew)).trans ((if_neg (ne_true_of_eq_false hturn)).trans ?_)
  rw [hreq, hseen]
  rfl

theorem takePacket_held (hnew : cameTwice (seenOf s d) e r = false)
    (hbehind : ((seenOf s d).put e).behind e (lineNo r) (heldSince s (seenOf s d) e) s.time = true) :
    takePacket d e r s = (false, onNet (fun n => { n with
      seen := mput n.seen d (seenHeld (lineNo r) e (heldSince s (seenOf s d) e) ((seenOf s d).put e)) }) s) :=
  (if_neg (ne_true_of_eq_false hnew)).trans (if_pos hbehind)

theorem takePacket_twice {x : Nat × Nat × Nat × Nat} (htwice : cameTwice (seenOf s d) e r = true)
    (hack : s.net.acks.find? (fun y => decide (y.1 = d ∧ y.2.1 = e)) = some x) :
    takePacket d e r s = (true, sendAck d e x.2.2.1 x.2.2.2 s) := by
  refine (if_pos htwice).trans ?_
  rw [hack]

/-- A packet taken: its payloads are used up, or what waits at its home goes on. -/
def afterTake (k o n d : Nat) (r : PktReq) (x : Bool × State) : State :=
  match x with
  | (true, s) => usePayloads k o n s
  | (false, s) => match r with | .ask c _ k a data => farWait d c k a data s | _ => s

theorem afterTake_held (hask : ∀ c z k a b, r ≠ .ask c z k a b) (s : State) : afterTake k o n d r (false, s) = s := by
  cases r with
  | ask c z k a b => exact absurd rfl (hask c z k a b)
  | _ => rfl

/-- A packet for this package that has arrived whole is taken. -/
theorem packetArrival_here (hn : 0 < n) (hin : o + n ≤ (linkKept s k).inb.length) :
    exec (.packetArrival ⟨k, o, n⟩ ⟨d, s.ctl.pkgNum, e⟩ r) s = .next (afterTake k o n d r (takePacket d e r s)) := by
  have hwhole : ¬ (n = 0 ∨ (linkKept s k).inb.length < o + n) := by omega
  exact congrArg _ ((if_neg hwhole).trans ((if_neg (Decidable.not_not.mpr rfl)).trans rfl))

theorem packetArrival_away {h : Nat} (hn : 0 < n) (hin : o + n ≤ (linkKept s k).inb.length) (haway : h ≠ s.ctl.pkgNum) :
    exec (.packetArrival ⟨k, o, n⟩ ⟨d, h, e⟩ r) s = .next (routeRef ⟨d, h, e, false⟩ (usePayloads k o n s)).2 := by
  have hwhole : ¬ (n = 0 ∨ (linkKept s k).inb.length < o + n) := by omega
  exact congrArg _ ((if_neg hwhole).trans (if_pos haway))

end Packets

/-! ### Answers -/

section Answers
variable {s : State} {p : Pkt} {d e st v : Nat}

theorem endToEndAck_eq (hp : s.net.pkts.find? (fun x => decide (x.dst = d ∧ x.eseq = e)) = some p) :
    exec (.endToEndAck d e st v) s = .next (tellDone (lastAsk s p) p.req (if st < 2 then st else 2) v (dropPkt d e s)) := by
  obtain ⟨rfl, rfl⟩ := of_decide_eq_true (List.find?_some (p := fun x : Pkt => decide (x.dst = d ∧ x.eseq = e)) hp)
  show execEndToEndAck p.dst p.eseq st v s = _
  unfold execEndToEndAck
  rw [hp]
  rfl

theorem retransmission_eq {i : Nat} (hp : s.net.pkts[i]? = some p) (hagain : p.again < 3) (hold : p.last + 16384 ≤ s.time) :
    exec (.retransmission i) s = .next (resend p (onNet (fun n => { n with pkts := n.pkts.map (fun q =>
      if q = p then { q with again := p.again + 1, last := s.time } else q) }) s)) := by
  show execRetransmission i s = _
  unfold execRetransmission
  rw [hp]
  exact congrArg _ (if_pos ⟨hagain, hold⟩)

theorem packetDeclaredFailed_eq {i : Nat} (hp : s.net.pkts[i]? = some p) (hold : p.first + 131072 ≤ s.time) :
    exec (.packetDeclaredFailed i) s = .next (failPkt p.via.toList p s) := by
  show execPacketDeclaredFailed i s = _
  unfold execPacketDeclaredFailed
  rw [hp]
  exact congrArg _ (if_pos hold)

end Answers

/-! ### Collectives -/

section Collectives
variable {s u z : State} {i : Nat} {c : Coll} {b x : List Byte}

/-- The start of a command on its ring: it is over, or offers itself to its mates. -/
def clOffer (x : Coll) (s : State) : State :=
  let y := { x with at_ := 4 }
  let z := if x.kind < 3 ∧ clRk x.desc = 0 then netReads (whoNet x.team 0 false) (clPcs x.pages (clRlist x.desc) (2 * clP s x.desc)) s else s
  clMatch y ((clOthers z y).foldl (fun z m => sendPkt m (.offer x.id y.sig) z) (putColl y z))

/-- Is a command refused at its start: a bad ring, or a SEND's source that cannot be read? -/
def clRefused (s : State) (x : Coll) : Bool :=
  (decide (x.kind < 3) && ringBad s x.ring) || (decide (x.kind = 3) && (clGone s false (clSource x) || clTorn s (clSource x)))

theorem clRefused_iff : clRefused s c = true ↔ (c.kind < 3 ∧ ringBad s c.ring = true) ∨
    (c.kind = 3 ∧ (clGone s false (clSource c) = true ∨ clTorn s (clSource c) = true)) := by
  simp only [clRefused, Bool.or_eq_true, Bool.and_eq_true, decide_eq_true_iff]

theorem collectiveStart_eq (hc : collAt s i = some c) (hst : c.at_ = 0) (hturn : clBehind s c = false) :
    exec (.collectiveStart i false) s = .next (
      if clRefused s { c with ring := clRing s c } then collOver { c with ring := clRing s c } 3 s
      else
        match (clOthers s { c with ring := clRing s c }).findSome? (deadDir s) with
        | some d => collOver { c with ring := clRing s c } 6 (countDead d s)
        | none => clOffer { c with ring := clRing s c } s) := by
  have hmay : ¬ (c.at_ ≠ 0 ∨ clBehind s c = true) := by
    rw [hturn, hst]
    decide
  show execCollectiveStart i false s = _
  unfold execCollectiveStart
  rw [hc]
  exact congrArg _ ((if_neg Bool.false_ne_true).trans ((if_neg hmay).trans rfl))

theorem collectiveStart_join (hc : collAt s i = some c) (hst : c.at_ = 4) : exec (.collectiveStart i true) s = .next (clMatch c s) := by
  show execCollectiveStart i true s = _
  unfold execCollectiveStart
  rw [hc]
  exact congrArg _ ((if_pos rfl).trans (if_pos hst))

theorem collectiveCompletion_run (hc : collAt s i = some c) (hst : c.at_ = 1) :
    exec (.collectiveCompletion i b) s = .next (clRun c b s) := by
  show execCollectiveCompletion i b s = _
  unfold execCollectiveCompletion
  rw [hc]
  exact congrArg _ (if_pos hst)

theorem collectiveCompletion_over (hc : collAt s i = some c) (hst : c.at_ = 3) (hstatus : c.status ≠ 0) :
    exec (.collectiveCompletion i b) s = .next (clOver { c with notes := [] } s) := by
  have hidle : ¬ c.at_ = 1 := by rw [hst]; decide
  show execCollectiveCompletion i b s = _
  unfold execCollectiveCompletion
  rw [hc]
  exact congrArg _ ((if_neg hidle).trans ((if_pos hst).trans (congrArg (clOver · s) (if_neg hstatus))))

theorem noticePushRetry_coll {y : List (List Byte)} (hc : collAt s i = some c) (hst : c.at_ = 3) (hnotes : c.notes = x :: y) :
    exec (.noticePushRetry (i + 2)) s = .next (clOver c s) := by
  have hsome : c.notes ≠ [] := by rw [hnotes]; exact List.cons_ne_nil _ _
  show execNoticePushRetry (i + 2) s = _
  unfold execNoticePushRetry
  rw [if_neg (by omega), if_neg (by omega), Nat.add_sub_cancel, hc]
  exact congrArg _ (if_pos ⟨hst, hsome⟩)

/-- A command without notices posts its record. -/
theorem clOver_posted (h : c.notes = []) (s : State) : clOver c s = collPosted c s := by
  rw [clOver, h]
  unfold List.length clFinish
  rw [h]
  rfl

/-- A command that is over with status `st`. -/
theorem clFinish_full {j : Nat} {y : List (List Byte)} (hnotes : c.notes = x :: y) (hok : (hndOf (clNq c.desc)).ok = true)
    (hpkg : (hndOf (clNq c.desc)).pkg = s.ctl.pkgNum)
    (hpush : qPush ⟨c.sup, teamAsid s c.team⟩ (hndOf (clNq c.desc)) x s = (qFULL, z)) : clFinish (j + 1) c s = s := by
  unfold clFinish
  rw [hnotes]
  dsimp only
  rw [hok, if_neg (by rw [hpkg]; simp), if_pos rfl, hpush]
  exact if_pos rfl

theorem clFinish_pushed {j : Nat} {y : List (List Byte)} (hnotes : c.notes = x :: y) (hok : (hndOf (clNq c.desc)).ok = true)
    (hpkg : (hndOf (clNq c.desc)).pkg = s.ctl.pkgNum)
    (hpush : qPush ⟨c.sup, teamAsid s c.team⟩ (hndOf (clNq c.desc)) x s = (qOK, z)) :
    clFinish (j + 1) c s = clFinish j { c with notes := y } (putColl { c with notes := y } z) := by
  conv_lhs => unfold clFinish
  rw [hnotes]
  dsimp only
  rw [hok, if_neg (by rw [hpkg]; simp), if_pos rfl, hpush]
  exact (if_neg (show ¬ qOK = qFULL by decide)).trans (if_pos rfl)

/-- What the other members gave a command. -/
def clGot (c : Coll) (b : List Byte) : List Byte := if c.kind = 4 then c.data.getD [] else b

/-- Is a command's packet to the next member still to be answered? -/
def clAsked (s : State) (c : Coll) : Bool := inFlight s (fun q => match q with | .coll k => decide (k = c.id) | _ => false)

theorem clRun_waits (h : clAsked s c = true ∨ (clGot c b).length ≠ clRemote c ∨ c.kind = 3) : clRun c b s = s := by
  refine if_pos ?_
  rw [Bool.or_eq_true, decide_eq_true_iff]
  exact h

/-- A command has what it needs. -/
structure MayRun (s : State) (c : Coll) (b : List Byte) : Prop where
  asked : clAsked s c = false
  given : (clGot c b).length = clRemote c
  kind : c.kind ≠ 3

/-- A command run whose source may be read. -/
def clDelivers (c : Coll) (b : List Byte) (s : State) : State :=
  if clLen c.desc = 0 then clOver { c with at_ := 3, status := 1 } (putColl { c with at_ := 3, status := 1 } s)
  else
    let (ds, fl) := clDeliver s c (clGot c b)
    let s := netReads (whoNet c.team 0 false) (clSourcePcs c) s
    if clDopt c.desc then clRegion c ((ds.map (fun d => d.2.1)).flatten) fl s else clPublish c ds fl s

theorem clRun_eq (h : MayRun s c b) :
    clRun c b s = if clGone s false (clSource c) || clTorn s (clSource c) then collOver c 3 s else clDelivers c b s := by
  refine (if_neg ?_).trans rfl
  rw [Bool.or_eq_true, decide_eq_true_iff]
  rintro (hasked | hlen | hkind)
  · exact absurd (h.asked.symm.trans hasked) Bool.false_ne_true
  · exact hlen h.given
  · exact h.kind hkind

theorem clRun_refused (h : MayRun s c b) (hsrc : clGone s false (clSource c) = true ∨ clTorn s (clSource c) = true) :
    clRun c b s = collOver c 3 s := (clRun_eq h).trans (if_pos (Bool.or_eq_true _ _ ▸ hsrc))

theorem clRun_delivers (h : MayRun s c b) (hgone : clGone s false (clSource c) = false) (htorn : clTorn s (clSource c) = false) :
    clRun c b s = clDelivers c b s := by
  refine (clRun_eq h).trans (if_neg ?_)
  rw [hgone, htorn]
  exact Bool.false_ne_true

theorem clDelivers_empty (hlen : clLen c.desc = 0) (hnotes : c.notes = []) :
    clDelivers c b s = collPosted { c with at_ := 3, status := 1 } (putColl { c with at_ := 3, status := 1 } s) :=
  (if_pos hlen).trans (clOver_posted (c := { c with at_ := 3, status := 1 }) hnotes _)

theorem clDelivers_publish (hlen : clLen c.desc ≠ 0) (hdopt : clDopt c.desc = false) :
    clDelivers c b s = clPublish c (clDeliver s c (clGot c b)).1 (clDeliver s c (clGot c b)).2
      (netReads (whoNet c.team 0 false) (clSourcePcs c) s) :=
  (if_neg hlen).trans (if_neg (ne_true_of_eq_false hdopt))

section Publish
variable {ds : List Deliv} {fl : Flags5}

/-- Pieces a command's deliveries go to. -/
def clDests (c : Coll) (ds : List Deliv) : List (Nat × Nat) :=
  plainPcs (ds.flatMap (fun d => clPcs c.pages (clDst c.desc + d.1) d.2.1.length))

theorem clPublish_refused (h : clGone s true (clDests c ds) = true ∨ (objsOver s (clDests c ds)).any (fun o => !engineIn s none o) = true) :
    clPublish c ds fl s = collOver c 3 s := if_pos (Bool.or_eq_true _ _ ▸ h)

theorem clPublish_waits {go : Bool} (hgone : clGone s true (clDests c ds) = false)
    (hin : (objsOver s (clDests c ds)).any (fun o => !engineIn s none o) = false)
    (hacq : engAcqAll (collHolder c.id) (objsOver s (clDests c ds)) s = (go, u))
    (hwait : go = false ∨ netWaits u (collHolder c.id) (clDests c ds) = true) : clPublish c ds fl s = u := by
  refine (if_neg (by rw [Bool.or_eq_true]; exact not_or.mpr ⟨ne_true_of_eq_false hgone, ne_true_of_eq_false hin⟩)).trans ?_
  dsimp only
  rw [show engAcqAll (collHolder c.id) (objsOver s (plainPcs (ds.flatMap (fun d => clPcs c.pages (clDst c.desc + d.1) d.2.1.length)))) s = (go, u)
    from hacq]
  cases go with
  | false => rfl
  | true => exact if_pos (hwait.resolve_left (by decide))

theorem clPublish_written (hgone : clGone s true (clDests c ds) = false)
    (hin : (objsOver s (clDests c ds)).any (fun o => !engineIn s none o) = false)
    (hacq : engAcqAll (collHolder c.id) (objsOver s (clDests c ds)) s = (true, u))
    (hroom : netWaits u (collHolder c.id) (clDests c ds) = false) (hnq : clNq c.desc = 0) :
    let x := { c with at_ := 3, status := 0, flags := fl, bytes := (ds.map (fun d => d.2.1.length)).sum, notes := [] }
    clPublish c ds fl s = collPosted x (putColl x (clWrite c ds ((objsOver s (clDests c ds)).map (fun o => (objAt u o.line).getD o)) u)) := by
  have hnotes : clNotes c ds = [] := if_pos hnq
  refine (if_neg (by rw [Bool.or_eq_true]; exact not_or.mpr ⟨ne_true_of_eq_false hgone, ne_true_of_eq_false hin⟩)).trans ?_
  dsimp only
  rw [show engAcqAll (collHolder c.id) (objsOver s (plainPcs (ds.flatMap (fun d => clPcs c.pages (clDst c.desc + d.1) d.2.1.length)))) s = (true, u)
    from hacq, hnotes]
  exact (if_neg (ne_true_of_eq_false hroom)).trans (clOver_posted rfl _)

end Publish

/-- Offers a command's mates have made that it meets. -/
def clMet (s : State) (c : Coll) : List (Nat × List Nat) := (clOthers s c).filterMap (fun m => (offerOf s c m).map (fun o => (m, o)))

theorem clMatch_waits (h : (clMet s c).length < (clOthers s c).length) : clMatch c s = s := if_pos h

theorem clMatch_differs (h : (clOthers s c).length ≤ (clMet s c).length) (hfit : (clMet s c).all (fun o => offerFits c o.2) = false) :
    clMatch c s = collOver c 5 (onNet (fun n => { n with offers := (clMet s c).foldl (fun xs o => xs.erase o) n.offers }) s) :=
  (if_neg (Nat.not_lt.mpr h)).trans (if_neg (ne_true_of_eq_false hfit))

theorem clMatch_sends (h : (clOthers s c).length ≤ (clMet s c).length) (hfit : (clMet s c).all (fun o => offerFits c o.2) = true) :
    clMatch c s = clSend c (onNet (fun n => { n with offers := (clMet s c).foldl (fun xs o => xs.erase o) n.offers }) s) :=
  (if_neg (Nat.not_lt.mpr h)).trans (if_pos hfit)

end Collectives

/-! ### The obligation -/

section Obligation
variable {s : State} {k i n o : Nat} {f : List Byte} {p : Pkt} {c : Coll} {b : List Byte} {d e : Nat} {r : PktReq}

/-- Settles O51: each step is its definition's branch once its checks pass. -/
theorem torusSteps : Obligations.TorusSteps := by
  unfold Obligations.TorusSteps
  intro s k i n o f p c b d e r
  refine ⟨fun hup hgood => ?flits, fun hst => ?trained, fun hn hin => ?arrival, fun hp st v => ?acked, fun hp => ?resent, fun hc => ?coll⟩
  case flits =>
    intro l q z pl
    refine ⟨fun hq => ⟨fun hty => ?_, fun hty a h href => ⟨fun hhere => ?_, fun j v haway hlink => ?_⟩⟩, fun hq hty => ⟨fun hold => ?_, fun hnew hnak => ?_,
      fun hnew hnak hpos => ?_⟩, fun x y hrest => ⟨fun hty => ?_, fun hty hfirst hcount => ?_⟩⟩
    · exact congrArg _ ((onFlit_good hup hgood hty _).trans (takeFlit_awaited hq _))
    · exact congrArg _ ((onFlit_good hup hgood hty _).trans ((takeFlit_awaited hq _).trans (congrArg _ (takeMarker_here href hhere))))
    · exact congrArg _ ((onFlit_good hup hgood hty _).trans ((takeFlit_awaited hq _).trans (congrArg _ (takeMarker_on href haway hlink))))
    · exact congrArg _ ((onFlit_good hup hgood hty _).trans (takeFlit_again hq hold _))
    · exact congrArg _ ((onFlit_good hup hgood hty _).trans (takeFlit_gap hq hnew hnak _))
    · exact congrArg _ ((onFlit_good hup hgood hty _).trans (takeFlit_behind hq hnew hnak hpos _))
    · exact execFlitAck_eq hup hgood hty hrest
    · exact execFlitNak_eq hup hgood hty hrest hfirst hcount
  case trained => exact congrArg _ (if_pos hst)
  case arrival =>
    intro line v held twice since w rest here
    have hcome := packetArrival_here (d := d) (e := e) (r := r) hn hin
    refine ⟨fun h haway => packetArrival_away hn hin haway, fun htwice hturn st x u hreq => ?_, fun htwice hbehind hask => ?_, fun htwice x hx => ?_⟩
    · have hleft := linksOnly_acked k o n d e st x (onNet (fun n => { n with seen := mput n.seen d (seenDone (lineNo r) e r ((seenOf s d).put e)) }) u)
      refine ⟨_, hcome.trans (congrArg _ (congrArg (afterTake k o n d r) (takePacket_performed htwice hturn hreq))), hleft.acks, hleft.mem, hleft.home,
        hleft.core, ?_⟩
      exact (congrArg (mfind? · d) hleft.seen).trans (mfind?_mput_self u.net.seen d _)
    · exact hcome.trans (congrArg _ ((congrArg (afterTake k o n d r) (takePacket_held htwice hbehind)).trans (afterTake_held hask _)))
    · have hleft := linksOnly_acked k o n d e x.2.2.1 x.2.2.2 s
      obtain ⟨hd, he⟩ := of_decide_eq_true (List.find?_some (p := fun y : Nat × Nat × Nat × Nat => decide (y.1 = d ∧ y.2.1 = e)) hx)
      refine ⟨_, hcome.trans (congrArg _ (congrArg (afterTake k o n d r) (takePacket_twice htwice hx))), hleft.acks.trans ?_, hleft.mem, hleft.home,
        hleft.core, hleft.seen⟩
      rw [← hd, ← he]
      rfl
  case acked =>
    refine ⟨fun c z a bs y hreq hst => ?_, fun c z a bs pc va hreq hst => ?_, fun c z a bs y hreq hlast => ?_⟩
    · rw [endToEndAck_eq hp, hreq, hst]
      rfl
    · rw [endToEndAck_eq hp, hreq, if_neg (Nat.not_lt.mpr hst)]
      rfl
    · have hzero : ((if st < 2 then st else 2) = 0) = (st = 0) := by
        split
        case isTrue => rfl
        case isFalse hbig => exact propext ⟨fun h => absurd h (by decide), fun h => absurd (h ▸ by decide) hbig⟩
      rw [endToEndAck_eq hp, hreq, hlast]
      simp only [tellDone, if_true, hzero]
  case resent => exact ⟨fun hagain hold => retransmission_eq hp hagain hold, fun hold => packetDeclaredFailed_eq hp hold⟩
  case coll =>
    intro ended
    refine ⟨fun hst hturn => ?start, fun hst => ?join, fun hst => ?run, fun hst hstatus => ?posted, fun x y hst hnotes => ?notice⟩
    case start =>
      intro x
      have hstart := collectiveStart_eq hc hst hturn
      refine ⟨fun hbad => hstart.trans (congrArg _ (if_pos (clRefused_iff.mpr hbad))), fun hring hsrc hup => ?_⟩
      have hgood : ¬ clRefused s x = true := fun hbad => (clRefused_iff.mp hbad).elim
        (fun h => absurd ((hring h.1).symm.trans h.2) Bool.false_ne_true)
        (fun h => h.2.elim (fun hg => absurd ((hsrc h.1).1.symm.trans hg) Bool.false_ne_true)
          (fun ht => absurd ((hsrc h.1).2.symm.trans ht) Bool.false_ne_true))
      refine hstart.trans (congrArg _ ((if_neg hgood).trans ?_))
      rw [show (clOthers s { c with ring := clRing s c }).findSome? (deadDir s) = none from hup]
      rfl
    case join =>
      intro ms os z
      have hjoin := collectiveStart_join hc hst
      exact ⟨fun h => hjoin.trans (congrArg _ (clMatch_waits h)), fun h hfit => hjoin.trans (congrArg _ (clMatch_differs h hfit)),
        fun h hfit => hjoin.trans (congrArg _ (clMatch_sends h hfit))⟩
    case run =>
      intro got asked src
      have hrun := collectiveCompletion_run (b := b) hc hst
      refine ⟨fun hwait => hrun.trans (congrArg _ (clRun_waits hwait)), fun hasked hgiven hkind => ?_⟩
      have hmay : MayRun s c b := ⟨hasked, hgiven, hkind⟩
      refine ⟨fun hsrc => hrun.trans (congrArg _ (clRun_refused hmay hsrc)), fun hgone htorn => ⟨fun hlen hnotes => ?_, fun hlen hdopt hnq => ?_⟩⟩
      · exact hrun.trans (congrArg _ ((clRun_delivers hmay hgone htorn).trans (clDelivers_empty hlen hnotes)))
      · have hdeliv := hrun.trans (congrArg _ ((clRun_delivers hmay hgone htorn).trans (clDelivers_publish hlen hdopt)))
        intro ds z ps os x
        refine ⟨fun hbad => hdeliv.trans (congrArg _ (clPublish_refused hbad)), fun hfree hin go u hacq =>
          ⟨fun hwait => hdeliv.trans (congrArg _ (clPublish_waits hfree hin hacq hwait)), fun hgo hroom => ?_⟩⟩
        subst hgo
        exact hdeliv.trans (congrArg _ (clPublish_written hfree hin hacq hroom hnq))
    case posted => exact (collectiveCompletion_over hc hst hstatus).trans (congrArg _ (clOver_posted rfl s))
    case notice =>
      intro h hok hpkg st z hpush
      have hretry := noticePushRetry_coll hc hst hnotes
      refine ⟨fun hfull => ?_, fun hfine hlast => ?_⟩
      · subst hfull
        exact hretry.trans (congrArg _ (clFinish_full hnotes hok hpkg hpush))
      · subst hfine
        subst hlast
        refine hretry.trans (congrArg _ ((clFinish_pushed hnotes hok hpkg hpush).trans ?_))
        have hcount : c.notes.length = 1 := by rw [hnotes]; rfl
        rw [hcount]
        exact clOver_posted (c := { c with notes := [] }) rfl _

end Obligation

end Sys2Proof.Proofs
end
